-- ==== Sys2Proof/Word.lean ====
section
/-! DEFINITION. The machine's word types (R6, R8, R220, R283) and the finite table that every
sparse collection of State uses. -/

namespace Sys2Proof

/-- One byte, the smallest addressable unit of every memory (R8, R190). -/
abbrev Byte := BitVec 8

/-- One lane of a vector register: 32 bits (R283). -/
abbrev Word32 := BitVec 32

/-- A scalar register, a system register or a device-level register: 64 bits (R457, R468, R76). -/
abbrev Word64 := BitVec 64

/-- A team's lane mask: bit l is lane l; a team has at most 1,024 lanes (R220). -/
abbrev Mask := BitVec 1024

/-- A finite table from numbers to values. A number that is not listed has the default value that
the reader names. -/
abbrev Tab (α : Type) := List (Nat × α)

end Sys2Proof
end

