-- ==== Sys2Proof/Machine/Tab.lean ====
section
/-! DEFINITION. Reading and writing a finite table, and byte strings in little-endian order. -/

namespace Sys2Proof.Machine

open Sys2Proof

/-- The entry of a number, if the table lists it. -/
def Tab.find {α : Type} : Tab α → Nat → Option α
  | [], _ => none
  | (k, v) :: t, n => if k = n then some v else Tab.find t n

/-- The value of a number, or the default. -/
def Tab.get {α : Type} (t : Tab α) (n : Nat) (d : α) : α := (Tab.find t n).getD d

/-- The table with one number's value replaced. -/
def Tab.set {α : Type} : Tab α → Nat → α → Tab α
  | [], n, v => [(n, v)]
  | (k, w) :: t, n, v => if k = n then (k, v) :: t else (k, w) :: Tab.set t n v

/-- The table without one number. -/
def Tab.erase {α : Type} (t : Tab α) (n : Nat) : Tab α := t.filter (fun e => e.1 != n)

def Tab.keys {α : Type} (t : Tab α) : List Nat := t.map Prod.fst

/-- The table after a list of writes, the last one winning. -/
def Tab.setAll {α : Type} (t : Tab α) (l : List (Nat × α)) : Tab α :=
  l.foldl (fun t e => Tab.set t e.1 e.2) t

/-- The value of a little-endian byte string (R58, R107, R307). -/
def leNat : List Byte → Nat
  | [] => 0
  | b :: bs => b.toNat + 256 * leNat bs

/-- The n bytes of a number, low byte first. -/
def leBytes : Nat → Nat → List Byte
  | 0, _ => []
  | n + 1, v => BitVec.ofNat 8 v :: leBytes n (v / 256)

/-- Bits [lo + n - 1 : lo] of a number (R6). -/
def fld (w lo n : Nat) : Nat := w / 2 ^ lo % 2 ^ n

/-- Bit lo of a number. -/
def bitAt (w lo : Nat) : Bool := Nat.testBit w lo

/-- The lesser of two's complement readings: the signed value of the low n bits. -/
def signed (n w : Nat) : Int :=
  if 2 ^ (n - 1) ≤ w % 2 ^ n then (w % 2 ^ n : Int) - (2 ^ n : Nat) else (w % 2 ^ n : Int)

/-- The low n bits of an integer. -/
def wrapBits (n : Nat) (x : Int) : Nat := (x % (2 ^ n : Nat)).toNat

/-- Quotient rounded up (R110, R152). -/
def ceilDiv (a b : Nat) : Nat := (a + b - 1) / b

end Sys2Proof.Machine
end

