-- ==== Sys2Proof/Syntax.lean ====
section
/-! DEFINITION. The instruction type: one constructor for every row of the opcode table. A slot
instruction carries the fields of its slot (R312, R314, R317, R318); a step of another agent of the
device carries what selects it and what comes from outside the device. -/

namespace Sys2Proof

/-- The 16 format codes, the same in tags, slots, descriptors and ring images (R283). -/
inductive Fmt where
  | none | fp32 | bf16 | fp16 | e4m3 | e5m2 | int32 | uint32
  | int16 | int8 | uint8 | int4 | i4x | e2m1 | scale | int64
  deriving DecidableEq, Repr

/-- The rounding modes of the RND field, in code order (R296). -/
inductive Rnd where
  | rne | rz | rup | rdn
  deriving DecidableEq, Repr

/-- The fields of the vector slot beside OPC (R312). D, A, B and C are operand codes (R319). -/
structure VFields where
  d : BitVec 11
  a : BitVec 11
  b : BitVec 11
  c : BitVec 11
  fmt : Fmt
  rnd : Rnd
  fzi : Bool
  fzo : Bool
  sat : Bool
  keep : BitVec 2
  lat : Bool
  mod : BitVec 4
  aux : BitVec 8
  deriving DecidableEq, Repr

/-- The fields of the memory slot beside OPC (R314). -/
structure MFields where
  ds : BitVec 11
  a : BitVec 11
  tid : BitVec 8
  off : BitVec 8
  fmt : Fmt
  cnt : BitVec 3
  cache : BitVec 3
  scope : BitVec 3
  flag : BitVec 4
  fe : Bool
  deriving DecidableEq, Repr

/-- The fields of the X slot in the command layout beside OPC (R317). -/
structure XFields where
  sd : BitVec 7
  flag : BitVec 4
  fe : Bool
  ha : BitVec 4
  hb : BitVec 4
  acc : BitVec 10
  shape : BitVec 3
  acq : Bool
  rel : Bool
  scope : BitVec 3
  atom : Bool
  follow : Bool
  deriving DecidableEq, Repr

/-- The fields of the X slot in the lining layout beside OPC (R441). -/
structure LFields where
  d : BitVec 10
  a : BitVec 10
  b : BitVec 10
  c : BitVec 10
  cls : BitVec 2
  deriving DecidableEq, Repr

/-- The header of a bundle (R308): GAP, the marks, and each slot's guard with its negate bit and
presence bit. -/
structure Header where
  gap : BitVec 5
  yld : Bool
  bkb : Bool
  lng : Bool
  gv : BitVec 4
  nv : Bool
  gm : BitVec 4
  nm : Bool
  gx : BitVec 4
  nx : Bool
  gc : BitVec 4
  nc : Bool
  sv : Bool
  sm : Bool
  sx : Bool
  sc : Bool
  deriving DecidableEq, Repr

/-- The instructions of the bundle's slots, and the indivisible steps of the device's other agents. -/
inductive Instr where

  -- vector slot (R323)
  /-- VADD (R344). Integer add per element, wrapping or saturating. -/
  | vadd (f : VFields)
  /-- VSUB (R344). Integer subtract per element. -/
  | vsub (f : VFields)
  /-- VMUL (R344). Integer multiply per element, low bits. -/
  | vmul (f : VFields)
  /-- VMULH (R344). Upper w bits of the integer product. -/
  | vmulh (f : VFields)
  /-- VMAD (R344). Exact integer multiply-add. -/
  | vmad (f : VFields)
  /-- VADDC (R345). 32-bit add with carry in and carry out through predicates. -/
  | vaddc (f : VFields)
  /-- VSUBB (R345). 32-bit subtract with borrow through predicates. -/
  | vsubb (f : VFields)
  /-- VMIN (R344). Integer minimum per element. -/
  | vmin (f : VFields)
  /-- VMAX (R344). Integer maximum per element. -/
  | vmax (f : VFields)
  /-- VABSD (R344). Absolute integer difference per element. -/
  | vabsd (f : VFields)
  /-- VDOT4 (R346). 4-element 8-bit integer dot product into INT32. -/
  | vdot4 (f : VFields)
  /-- VAND (R347). Bitwise AND. -/
  | vand (f : VFields)
  /-- VOR (R347). Bitwise OR. -/
  | vor (f : VFields)
  /-- VXOR (R347). Bitwise XOR. -/
  | vxor (f : VFields)
  /-- VANDN (R347). Bitwise a AND NOT b. -/
  | vandn (f : VFields)
  /-- VNOT (R347). Bitwise NOT. -/
  | vnot (f : VFields)
  /-- VSHL (R348). Shift left per element. -/
  | vshl (f : VFields)
  /-- VSHR (R348). Logical shift right per element. -/
  | vshr (f : VFields)
  /-- VSAR (R348). Arithmetic shift right per element. -/
  | vsar (f : VFields)
  /-- VROT (R348). Rotate left per element. -/
  | vrot (f : VFields)
  /-- VBFX (R349). Bit-field extract. -/
  | vbfx (f : VFields)
  /-- VBFI (R349). Bit-field insert. -/
  | vbfi (f : VFields)
  /-- VPOPC (R350). Population count per element. -/
  | vpopc (f : VFields)
  /-- VCLZ (R350). Count of leading zeros per element. -/
  | vclz (f : VFields)
  /-- VBREV (R350). Bit reversal per element. -/
  | vbrev (f : VFields)
  /-- VLOP3 (R351). Arbitrary three-input bitwise function given by a truth table. -/
  | vlop3 (f : VFields)
  /-- VCMP (R352). Integer compare writing an element mask and a lane predicate. -/
  | vcmp (f : VFields)
  /-- VSEL (R353). Selects A or B per lane by a predicate. -/
  | vsel (f : VFields)
  /-- VFCLASS (R356). Classifies floating-point elements. -/
  | vfclass (f : VFields)
  /-- VMOV (R354). Copies A to D. -/
  | vmov (f : VFields)
  /-- VMOVP (R355). Moves between a predicate and a register. -/
  | vmovp (f : VFields)
  /-- VFADD (R359). Floating-point add with one rounding. -/
  | vfadd (f : VFields)
  /-- VFSUB (R359). Floating-point subtract. -/
  | vfsub (f : VFields)
  /-- VFMUL (R359). Floating-point multiply. -/
  | vfmul (f : VFields)
  /-- VFMA (R359). Fused multiply-add with one rounding. -/
  | vfma (f : VFields)
  /-- VFMIN (R359). Floating-point minimum. -/
  | vfmin (f : VFields)
  /-- VFMAX (R359). Floating-point maximum. -/
  | vfmax (f : VFields)
  /-- VFCMP (R360). Floating-point compare writing a mask and a predicate. -/
  | vfcmp (f : VFields)
  /-- VFDOT2 (R361). 2-element 16-bit float dot product into FP32 with one rounding. -/
  | vfdot2 (f : VFields)
  /-- VFDOT4 (R361). 4-element 8-bit float dot product into FP32. -/
  | vfdot4 (f : VFields)
  /-- VRCP (R363). Reciprocal. -/
  | vrcp (f : VFields)
  /-- VRSQ (R363). Reciprocal square root. -/
  | vrsq (f : VFields)
  /-- VSQRT (R363). Square root. -/
  | vsqrt (f : VFields)
  /-- VEXP2 (R363). Base-2 exponential. -/
  | vexp2 (f : VFields)
  /-- VLOG2 (R363). Base-2 logarithm. -/
  | vlog2 (f : VFields)
  /-- VSINP (R363). sin(πx). -/
  | vsinp (f : VFields)
  /-- VCOSP (R363). cos(πx). -/
  | vcosp (f : VFields)
  /-- VTANH (R363). Hyperbolic tangent. -/
  | vtanh (f : VFields)
  /-- VCVT (R367). Converts elements between formats of equal count. -/
  | vcvt (f : VFields)
  /-- VPACK (R367). Converts two sources into part of a narrower packed destination. -/
  | vpack (f : VFields)
  /-- VUNPK (R367). Converts part of a packed source into wider elements. -/
  | vunpk (f : VFields)
  /-- VQUANT (R370). Scales and quantises source elements into a narrow format. -/
  | vquant (f : VFields)
  /-- VDEQ (R369). Dequantises narrow elements with a multiplier. -/
  | vdeq (f : VFields)
  /-- VSCALE (R368). Turns a block scale into an FP32 multiplier. -/
  | vscale (f : VFields)
  /-- VSHUF (R375). Pulls lane values by index, up, down or xor within a segment. -/
  | vshuf (f : VFields)
  /-- VPERM (R376). Pushes lane values to target lanes. -/
  | vperm (f : VFields)
  /-- VBCAST (R377). Broadcasts one lane of each segment. -/
  | vbcast (f : VFields)
  /-- VRED (R378). Tree reduction over a segment. -/
  | vred (f : VFields)
  /-- VSCAN (R378). Inclusive or exclusive prefix scan over a segment. -/
  | vscan (f : VFields)
  /-- VVOTE (R379). Ballot, any, all or count vote on a predicate. -/
  | vvote (f : VFields)
  /-- VGETI (R380). Reads a register of a window by per-lane index. -/
  | vgeti (f : VFields)
  /-- VSETI (R380). Writes a register of a window by per-lane index. -/
  | vseti (f : VFields)
  /-- PLOGIC (R381). Computes a predicate from three by a truth table. -/
  | plogic (f : VFields)
  /-- PSETL (R382). Sets a predicate from the lane number. -/
  | psetl (f : VFields)

  -- memory slot (R324)
  /-- TLD (R392). Tensor load into registers under a completion flag. -/
  | tld (f : MFields)
  /-- TST (R392). Tensor store from registers. -/
  | tst (f : MFields)
  /-- TRED (R393). Atomic reduction of elements into a tensor. -/
  | tred (f : MFields)
  /-- ROLD (R394). Tensor load through the read-only L1. -/
  | rold (f : MFields)
  /-- SLD (R400). Shared-memory load. -/
  | sld (f : MFields)
  /-- SST (R400). Shared-memory store. -/
  | sst (f : MFields)
  /-- AADD (R396). Global atomic integer add. -/
  | aadd (f : MFields)
  /-- AFADD (R396). Global atomic float add. -/
  | afadd (f : MFields)
  /-- AMIN (R396). Global atomic minimum. -/
  | amin (f : MFields)
  /-- AMAX (R396). Global atomic maximum. -/
  | amax (f : MFields)
  /-- AAND (R396). Global atomic AND. -/
  | aand (f : MFields)
  /-- AOR (R396). Global atomic OR. -/
  | aor (f : MFields)
  /-- AXOR (R396). Global atomic XOR. -/
  | axor (f : MFields)
  /-- AXCHG (R396). Global atomic exchange. -/
  | axchg (f : MFields)
  /-- ACAS (R396). Global atomic compare-and-swap. -/
  | acas (f : MFields)
  /-- SAADD (R401). Shared atomic integer add. -/
  | saadd (f : MFields)
  /-- SAFADD (R401). Shared atomic float add. -/
  | safadd (f : MFields)
  /-- SAMIN (R401). Shared atomic minimum. -/
  | samin (f : MFields)
  /-- SAMAX (R401). Shared atomic maximum. -/
  | samax (f : MFields)
  /-- SAAND (R401). Shared atomic AND. -/
  | saand (f : MFields)
  /-- SAOR (R401). Shared atomic OR. -/
  | saor (f : MFields)
  /-- SAXOR (R401). Shared atomic XOR. -/
  | saxor (f : MFields)
  /-- SAXCHG (R401). Shared atomic exchange. -/
  | saxchg (f : MFields)
  /-- SACAS (R401). Shared atomic compare-and-swap. -/
  | sacas (f : MFields)
  /-- ACCLD (R402). Loads FP32 values from the accumulator window. -/
  | accld (f : MFields)
  /-- ACCST (R402). Stores values into the accumulator window. -/
  | accst (f : MFields)
  /-- RADV (R405). Advances a ring's producer or consumer count. -/
  | radv (f : MFields)
  /-- RSTAT (R406). Reads a ring's producer and consumer counts. -/
  | rstat (f : MFields)
  /-- GCFG (R407). Configures a stream port. -/
  | gcfg (f : MFields)
  /-- GSKIP (R408). Advances a stream port's position. -/
  | gskip (f : MFields)
  /-- ACQ (R201). Acquires a sync object's regions in wait or observe form. -/
  | acq (f : MFields)
  /-- REL (R200). Releases a sync object's regions. -/
  | rel (f : MFields)
  /-- FENCE (R194). Holds the path until its earlier accesses are performed at a scope. -/
  | fence (f : MFields)
  /-- INVRO (R410). Invalidates the core's read-only L1. -/
  | invro (f : MFields)

  -- X slot, command layout (R325)
  /-- COPY (R419). Copies a box on a channel, with an optional follow-on MMA. -/
  | copy (f : XFields)
  /-- COPYG (R423). Gathers rows by an index list into shared memory. -/
  | copyg (f : XFields)
  /-- COPYS (R424). Scatters rows with accumulation into global memory. -/
  | copys (f : XFields)
  /-- FILL (R425). Fills shared or global memory with a pattern. -/
  | fill (f : XFields)
  /-- MMA (R433). Queues a matrix multiply-accumulate step. -/
  | mma (f : XFields)
  /-- MMAS (R433). Queues a block-scaled matrix step. -/
  | mmas (f : XFields)
  /-- ACCZ (R434). Zeroes accumulator window rows. -/
  | accz (f : XFields)
  /-- ACCOUT (R435). Converts accumulator rows into shared memory. -/
  | accout (f : XFields)
  /-- COLL (R438). Starts a collective across a group of accelerators. -/
  | coll (f : XFields)
  /-- LVREQ (R444). Requests an engine's leave ahead of a burst. -/
  | lvreq (f : XFields)

  -- X slot, lining layout (R441)
  /-- LFMA (R442). Lining duplicate of VFMA on shadow registers. -/
  | lfma (f : LFields)
  /-- LADD (R442). Lining duplicate of VFADD. -/
  | ladd (f : LFields)
  /-- LMUL (R442). Lining duplicate of VFMUL. -/
  | lmul (f : LFields)
  /-- LIADD (R442). Lining duplicate of VADD. -/
  | liadd (f : LFields)
  /-- LIMUL (R442). Lining duplicate of VMUL. -/
  | limul (f : LFields)
  /-- LLOGIC (R442). Lining duplicate of a logic operation. -/
  | llogic (f : LFields)

  -- control slot (R326)
  /-- BR (R449). Unconditional relative branch. -/
  | br (off : BitVec 20)
  /-- BRP (R449). Branches if the predicate holds in an active lane. -/
  | brp (k : BitVec 4) (off : BitVec 20)
  /-- BRS (R449). Branches if a scalar register is nonzero. -/
  | brs (k : BitVec 4) (off : BitVec 20)
  /-- BRF (R449). Branches if a flag is set, observing it. -/
  | brf (k : BitVec 4) (off : BitVec 20)
  /-- BRM (R449). Branches if the current mask is empty. -/
  | brm (off : BitVec 20)
  /-- CALL (R451). Writes the return address to a link register and branches. -/
  | call (k : BitVec 4) (off : BitVec 20)
  /-- RET (R451). Branches to the address in a scalar register. -/
  | ret (a : BitVec 7)
  /-- JMPI (R451). Indirect branch to Sa + 32 × Sb. -/
  | jmpi (a b : BitVec 7)
  /-- LOOP (R450). Decrements a counter and branches while it was above 1. -/
  | loop (k : BitVec 4) (off : BitVec 20)
  /-- PUSHM (R452). Pushes the current mask ANDed with a predicate. -/
  | pushm (p : BitVec 4) (neg : Bool)
  /-- INVM (R452). Inverts the top mask against its parent. -/
  | invm
  /-- POPM (R452). Pops the mask stack, a reconvergence mark. -/
  | popm
  /-- SETM (R452). Sets the top mask to the parent ANDed with a predicate. -/
  | setm (p : BitVec 4) (neg : Bool)
  /-- SPLIT (R453). Moves predicated lanes into a new split path. -/
  | split (k : BitVec 4) (off : BitVec 20)
  /-- JOIN (R454). Waits for child paths and merges their lanes. -/
  | join
  /-- REGROUP (R456). Compacts the active lanes and listed registers to the low lanes. -/
  | regroup (d a : BitVec 7)
  /-- SADD (R457). Scalar add. -/
  | sadd (d a b : BitVec 7)
  /-- SSUB (R457). Scalar subtract. -/
  | ssub (d a b : BitVec 7)
  /-- SMUL (R457). Scalar multiply, low 64 bits. -/
  | smul (d a b : BitVec 7)
  /-- SAND (R457). Scalar AND. -/
  | sand (d a b : BitVec 7)
  /-- SOR (R457). Scalar OR. -/
  | sor (d a b : BitVec 7)
  /-- SXOR (R457). Scalar XOR. -/
  | sxor (d a b : BitVec 7)
  /-- SSHL (R457). Scalar shift left. -/
  | sshl (d a b : BitVec 7)
  /-- SSHR (R457). Scalar logical shift right. -/
  | sshr (d a b : BitVec 7)
  /-- SSAR (R457). Scalar arithmetic shift right. -/
  | ssar (d a b : BitVec 7)
  /-- SSEL (R457). Scalar select on the old destination value. -/
  | ssel (d a b : BitVec 7)
  /-- SMULH (R457). Scalar multiply, high 64 bits. -/
  | smulh (d a b : BitVec 7) (sgn : Bool)
  /-- SMIN (R457). Scalar minimum. -/
  | smin (d a b : BitVec 7) (sgn : Bool)
  /-- SMAX (R457). Scalar maximum. -/
  | smax (d a b : BitVec 7) (sgn : Bool)
  /-- SCMP (R457). Scalar compare giving 1 or 0. -/
  | scmp (d a b : BitVec 7) (cond : BitVec 3)
  /-- SMOV (R457). Scalar move. -/
  | smov (d a : BitVec 7)
  /-- SDIVU (R457). Unsigned scalar divide or remainder. -/
  | sdivu (d a b : BitVec 7) (rem : Bool)
  /-- SADDI (R458). Scalar add immediate. -/
  | saddi (d a : BitVec 7) (imm : BitVec 10)
  /-- SANDI (R458). Scalar AND immediate. -/
  | sandi (d a : BitVec 7) (imm : BitVec 10)
  /-- SORI (R458). Scalar OR immediate. -/
  | sori (d a : BitVec 7) (imm : BitVec 10)
  /-- SSHLI (R458). Scalar shift left by immediate. -/
  | sshli (d a : BitVec 7) (imm : BitVec 10)
  /-- SSHRI (R458). Scalar shift right by immediate. -/
  | sshri (d a : BitVec 7) (imm : BitVec 10)
  /-- SLI (R459). Loads a sign-extended 16-bit immediate. -/
  | sli (d : BitVec 7) (imm : BitVec 16)
  /-- SLIH (R459). Loads bits 31:16 of a scalar. -/
  | slih (d : BitVec 7) (imm : BitVec 16)
  /-- SLIX (R459). Loads bits 47:32 of a scalar. -/
  | slix (d : BitVec 7) (imm : BitVec 16)
  /-- SLIY (R459). Loads bits 63:48 of a scalar. -/
  | sliy (d : BitVec 7) (imm : BitVec 16)
  /-- RDSR (R468). Reads a system register into a scalar. -/
  | rdsr (d : BitVec 7) (imm : BitVec 16)
  /-- WRSR (R468). Writes a scalar to a system register. -/
  | wrsr (d : BitVec 7) (imm : BitVec 16)
  /-- WAITF (R460). Waits until all, or any, of the named flags are set. -/
  | waitf (m : BitVec 16) (any : Bool)
  /-- CLRF (R460). Clears the named flags that have no pending count. -/
  | clrf (m : BitVec 16)
  /-- BAR (R462). Arrives at a named barrier of the crew and waits for completion. -/
  | bar (b : BitVec 4) (count : BitVec 5)
  /-- SASHT (R463). Waits until the team holds the sash. -/
  | sasht
  /-- SASHP (R463). Passes the sash to a named or the next team. -/
  | sashp (t : BitVec 4) (named : Bool)
  /-- WAITC (R461). Waits until a channel's CWP reaches a scalar value. -/
  | waitc (n : BitVec 4) (k : BitVec 7)
  /-- SPAWN (R464). Requests creation of a child task from a template. -/
  | spawn (k : BitVec 4) (a b : BitVec 7)
  /-- EXIT (R455). Ends the path and its lanes, retiring the team on its last path. -/
  | exit
  /-- TRAP (R467). Raises SOFTWARE_TRAP with a code. -/
  | trap (n : BitVec 8)
  /-- BKPT (R267). Stops the path after its bundle when breakpoints are enabled. -/
  | bkpt
  /-- RDSYS (R470). Privileged read of a device-level register. -/
  | rdsys (d a : BitVec 7)
  /-- WRSYS (R470). Privileged write of a device-level register. -/
  | wrsys (a b : BitVec 7)
  /-- LCMP (R261). Compares a register with its lining shadow. -/
  | lcmp (v : BitVec 11)
  /-- WAITHEM (R465). Waits until HEMLINE reaches a value. -/
  | waithem (a : BitVec 7)
  /-- SIGNAL (R466). Irrevocably adds a value to a token word. -/
  | signal (a b : BitVec 7)
  /-- DBGSPLIT (R472). Privileged form of debug command 4. -/
  | dbgsplit (d a b : BitVec 7)
  /-- STEP (R472). Privileged form of debug command 3. -/
  | step (d a b : BitVec 7)
  /-- DBGRES (R472). Privileged form of debug command 2. -/
  | dbgres (d a b : BitVec 7)

  -- steps that the machine takes by itself (they stand here for the compiler's sake)
  /-- BREAKPOINT_HIT (R267). A path becoming ready at an armed breakpoint or BKB bundle stops before issue and writes a stop record. -/
  | breakpointHit (team path : Nat)
  /-- STEP_COMPLETE (R273). After the stepped bundle's passes and gap, the target is held with SINGLE_STEP and the other paths are released. -/
  | stepComplete (team path : Nat)
  /-- MATRIX_OPERANDS_DONE (R428). At s+8 the command's consumer advances are applied and its pins are released. -/
  | matrixOperandsDone (core : Nat)
  /-- MATRIX_ROWS_WRITTEN (R428). At s+24 the rows are written, ownership ends and the flag count is decremented. -/
  | matrixRowsWritten (core : Nat)
  /-- DRAIN_START (R92). At DRAIN µs before a non-silent edge, dispatching, walking and admission stop and dirty common lines are written back. -/
  | drainStart (part : Nat)
  /-- SLOT_EDGE (R92). At a slot edge issue stops, cohorts commit or abort, tasks are force-saved, residue is flushed and the next VF is restored. -/
  | slotEdge (part : Nat)
  /-- DEBIT_HOLD_END (R94). After the held debit time elapses, the dispatcher opens for the new running VF. -/
  | debitHoldEnd (part : Nat)
  /-- EMPTY_DELAY_BUNDLE (R309). A bundle with no slots is nullified, and its gap elapses. -/
  | emptyDelayBundle (hdr : BitVec 32)
  /-- SAMPLE (R279). Every 2^K cycles each core samples one path of one resident team into the sample ring. -/
  | sample (core : Nat)

  -- steps of the other agents, and whole bundles
  /-- DEVICE_RESET (R41). At reset the boot ROM checks the steward firmware signature before running it, and logical core numbers are assigned. -/
  | deviceReset
  /-- LINK_TRAIN (R21). The CXL link trains; below x16 at 64 GT/s the steward sets LINKDEG and the link keeps running. -/
  | linkTrain (full : Bool)
  /-- LINK_CRC_ERROR (R23). A UALink link-layer CRC error makes the S7 resend the flit. -/
  | linkCrcError (port failedResends : Nat)
  /-- PORT_DOWN (R24). A port goes down and remote operations not yet complete raise LINK_ERROR in their tasks. -/
  | portDown (port : Nat) (ops : List Nat)
  /-- SENSOR_SAMPLE (R32). Every 10 µs a core temperature sample is taken and updates CSENSE, HOT state and leave withholding. -/
  | sensorSample (core : Nat) (temp : BitVec 11)
  /-- DROOP_EVENT (R32). The core supply stays more than 5% below nominal for 20 ns, setting DROOP and counting DROOPCNT. -/
  | droopEvent (core : Nat)
  /-- HBM_CORRECTABLE_ERROR (R35). A correctable HBM error is re-read, and a lasting error remaps the row through the row-remap table. -/
  | hbmCorrectableError (chan : Nat) (again : Bool)
  /-- PSEUDO_CHANNEL_RETIRE (R37). The steward copies a failing pseudo-channel into the repair reserve line by line, then swaps it into the interleave. -/
  | pseudoChannelRetire (chan : Nat)
  /-- L2_WAY_RETIRE (R38). An L2 way with a correctable error on re-read is written back and retired from its set. -/
  | l2WayRetire (slice way : Nat) (again : Bool)
  /-- CORE_RETIREMENT (R36). The steward force-saves a failing core's contexts, marks it retired, and restores onto the spare or reports a vacancy. -/
  | coreRetirement (core : Nat)
  /-- LEAVE_GRANT (R27). The request at the head of a die's leave queue is granted once it fits under CEIL and RAMP. -/
  | leaveGrant (die : Nat)
  /-- LEAVE_RELEASE (R26). 2 µs after an engine's last leave-bound command completes, the engine releases its leave in full. -/
  | leaveRelease (die engine : Nat)
  /-- LVREQ_LAPSE (R29). A reservation made by LVREQ lapses 2 µs after its grant if no leave-bound command of the engine has started. -/
  | lvreqLapse (die engine : Nat)
  /-- STCMD_SWAP_IMAGE (R42). Steward command 1 checks the staged firmware image and swaps to it, or refuses it. -/
  | stcmdSwapImage
  /-- STCMD_READ (R47). Steward command 2 reads the device-level register at STADDR into STDATA, as RDSYS would. -/
  | stcmdRead
  /-- STCMD_WRITE (R47). Steward command 3 writes STDATA to the device-level register at STADDR, as WRSYS would. -/
  | stcmdWrite
  /-- MAILBOX_SEND (R51). A VF posts a mailbox request, setting BUSY and its pending bit, or has an unknown device code answered with STATUS 2. -/
  | mailboxSend (vf : Nat)
  /-- MAILBOX_REPLY (R51). The PF writes STATUS with REPLY, clearing BUSY and the pending bit, setting MBDONE and raising vector 0. -/
  | mailboxReply (vf : Nat) (status : Byte)
  /-- PROFILING_LEASE_END (R102). A profiling lease ends after its last granted frame. -/
  | profilingLeaseEnd (vf : Nat)
  /-- SEAL (R66). SEALCMD 1 checks an image, copies it into the code area, returns a handle and extends MCODE. -/
  | sealStart (fn : Nat)
  /-- SEAL_RELEASE (R70). SEALCMD 2 starts releasing a handle, so that records naming it stop their queue with code 0x01. -/
  | sealRelease (fn : Nat)
  /-- SEAL_RELEASE_DONE (R70). When every task of the released object has retired, the area is freed, the generation increments and BUSY clears. -/
  | sealReleaseDone (fn : Nat)
  /-- ATTGO (R74). Writing 1 to ATTGO makes the device write a signed attestation report at ATTADDR and set ATTDONE. -/
  | attgo (fn : Nat)
  /-- QUEUE_ENABLE (R54). QCTL.EN going to 1 clears the queue counters and checks LOGSZ and the ring, tail and head addresses. -/
  | queueEnable (fn q : Nat) (val : Word64)
  /-- QUEUE_DISABLE (R140). QCTL.EN going to 0 discards the queue's Waiting tasks, including those on the restart list. -/
  | queueDisable (fn q : Nat) (val : Word64)
  /-- DISPATCH_RECORD (R60). The dispatcher selects a queue, reads its head record once, checks it and creates a task in Waiting. -/
  | dispatchRecord (part : Nat)
  /-- TASK_TOKENS_HOLD (R63). Once every wait-token word reaches its value, the task leaves Waiting and starts admitting crews. -/
  | taskTokensHold (task : Nat)
  /-- CREW_PLACEMENT (R135). A crew is placed whole on a chosen core, with each team starting one path at its entry bundle. -/
  | crewPlacement (part : Nat)
  /-- PLACEMENT_TIMEOUT (R134). A frontier crew still unplaced after 100 µs makes the S7 abort the youngest speculative resident task. -/
  | placementTimeout (part : Nat)
  /-- CREW_RETIRE (R137). When a crew's last team has retired and its copy channels have drained, its shared memory, rows, rings and barriers are freed. -/
  | crewRetire (crew : Nat)
  /-- YIELD_EXCHANGE (R153). At a yield with standby teams queued, the yielding team is exchanged with the head of the standby queue. -/
  | yieldExchange (team : Nat)
  /-- MIGRATION (R157). At a synchronous yield the crew's whole state moves to a cooler core, and copies are redirected. -/
  | migration (crew : Nat)
  /-- WATCHDOG (R162). YCOUNT reaching LIMIT stops the task with WATCHDOG, or aborts its cohort if it is speculative. -/
  | watchdog (team : Nat)
  /-- COHORT_COMMIT (R174). A cohort whose tasks are all Finished commits its bytes, makes its signal adds and advances HEMLINE. -/
  | cohortCommit (fn : Nat)
  /-- CAPACITY_TIMEOUT (R182). A speculation-entry wait of 50 µs aborts the youngest non-frontier cohort holding an entry in the set. -/
  | capacityTimeout (acc : Nat)
  /-- SPAWN_SLOT_TIMEOUT (R178). A frontier SPAWN that has waited 50 µs for a slot aborts the youngest speculative cohort. -/
  | spawnSlotTimeout (part : Nat)
  /-- DEFERRED_FAULT_REPLAY (R180). When a Suspended task reaches the unpredicted frontier, its teams replay the recorded faulting slot. -/
  | deferredFaultReplay (task : Nat)
  /-- IRREVOCABLE_START (R181). A waiting irrevocable operation starts once its task is frontier and unpredicted, putting its cohort into write-through. -/
  | irrevocableStart (op : Nat)
  /-- PARKED_TASK_SAVE (R241). A task that has made no progress for 20 µs with parked paths is saved whole and its cores are freed. -/
  | parkedTaskSave (task : Nat)
  /-- PARKED_TASK_RESTORE (R241). A saved parked task is restored once every page request parking its paths has completed. -/
  | parkedTaskRestore (task : Nat)
  /-- FLI_CAPTURE (R245). A stopped team's frozen latch image is taken at the first cycle with 16 or fewer pending results. -/
  | fliCapture (team : Nat)
  /-- RESULT_LANDING (R224). A fixed-latency result lands in its destination and latch L cycles after its pass. -/
  | resultLanding (team : Nat)
  /-- GLOBAL_ACCESS_COMPLETE (R233). A flagged load, atomic or store completes in every lane, landing values and decrementing its flag count. -/
  | globalAccessComplete (acc : Nat) (units bad : List Nat)
  /-- WALK_COMPLETE (R117). A tile-table walk returns its entry, or fails the comparator and stops the task with a walk-fault record. -/
  | walkComplete (walk : Nat) (bad : List Nat)
  /-- WALK_FAULT_RESOLVE (R129). A write to WQRES resumes the walk or raises TENSOR_INVALID in the task. -/
  | walkFaultResolve (index : Nat) (invalid : Bool)
  /-- PAGE_REQUEST_COMPLETE (R128). Writing i to PRCPL reads record i's CPL, frees the pool entry and replays or faults the parked paths. -/
  | pageRequestComplete (fn index : Nat)
  /-- PRCTL_ENABLE (R126). Setting PRCTL.EN resets the ring counters and writes every pending request afresh from index 0. -/
  | prctlEnable (fn : Nat) (val : Word64)
  /-- PRHEAD_WRITE (R126). Raising PRHEAD makes ring room for pending request records, which are then written. -/
  | prheadWrite (fn : Nat) (val : Word64)
  /-- TILE_INVALIDATE (R119). TINVCTL.GO removes matching entries from every tile translation buffer of the partition and restarts walks in flight. -/
  | tileInvalidate (fn : Nat)
  /-- TILE_INVALIDATE_DONE (R119). BUSY clears once discarded walks have restarted and accesses using old words have completed. -/
  | tileInvalidateDone (fn : Nat)
  /-- PBAYS_WRITE (R81). A write to PBAYS sets the partition's bays and clears every PCLEAN bit. -/
  | pbaysWrite (part : Nat) (val : Word64)
  /-- PARTITION_ENABLE (R81). Setting PCTL.EN checks the bays, clean granules and shadow slots, and makes the shadow set live. -/
  | partitionEnable (part : Nat) (val : Word64)
  /-- PARTITION_DISABLE (R81). Clearing PCTL.EN, refused while a VF is bound, leaves every granule of the partition unclean. -/
  | partitionDisable (part : Nat) (val : Word64)
  /-- PCTL_COMMIT (R89). Writing COMMIT checks the shadow slots and schedules them to become live. -/
  | pctlCommit (part : Nat) (val : Word64)
  /-- SCRUB (R85). PSCRUB.GO starts zeroing a granule and invalidating every cached copy of it. -/
  | scrub (part : Nat) (val : Word64)
  /-- SCRUB_COMPLETE (R85). A scrub ends, setting the granule's clean bit and clearing BUSY. -/
  | scrubComplete (part : Nat)
  /-- VF_ENABLE (R83). Setting VFCTL.EN checks the segment, areas and ways, binds the granules and clears MCODE, OVRCNT and VFDEBIT. -/
  | vfEnable (vf : Nat) (val : Word64)
  /-- VF_DISABLE (R83). Clearing VFCTL.EN while paused unbinds the granules and writes back the VF's private ways. -/
  | vfDisable (vf : Nat) (val : Word64)
  /-- VF_PAUSE (R99). Setting PAUSE pauses the VF at once, or at its next non-silent edge or hand-over, and saves GTIME into VFGTIME. -/
  | vfPause (vf : Nat) (val : Word64)
  /-- VF_UNPAUSE (R100). Clearing PAUSE clears PAUSED and sets VFGTOFF so that GTIME continues. -/
  | vfUnpause (vf : Nat) (val : Word64)
  /-- VFGTIME_WRITE (R100). A PF write to VFGTIME of a paused VF is taken unless it is lower than the value held. -/
  | vfgtimeWrite (vf : Nat) (val : Word64)
  /-- VFSEG_GROW (R84). A write raising COUNT of an enabled VF adds clean unbound granules above the code area. -/
  | vfsegGrow (vf : Nat) (val : Word64)
  /-- VFWAYS_CLEAR (R87). Clearing WAYS bits of an enabled VF writes back and invalidates those ways, which become common. -/
  | vfwaysClear (vf : Nat) (val : Word64)
  /-- LPCTL_COMMIT (R103). Writing LPCTL.COMMIT makes the LPAT values live on every port at its next entry 0. -/
  | lpctlCommit (val : Word64)
  /-- DONATION_HANDOVER (R97). An idle donating owner's slot is handed over to its donee through the edge sequence with no drain. -/
  | donationHandover (part : Nat)
  /-- LAUNCH_NODE (R146). The walker reads a template, stamps it with TSNEXT, checks it and creates a task. -/
  | launchNode (part : Nat)
  /-- SPAWNSET_NODE (R146). The walker creates K tasks of one cohort from a template. -/
  | spawnsetNode (part : Nat)
  /-- COND_NODE (R146). The walker branches on a condition word, or follows a prediction. -/
  | condNode (part : Nat)
  /-- WHILE_NODE (R146). The walker branches on a condition word with an iteration cap. -/
  | whileNode (part : Nat)
  /-- COND_RESOLVE (R147). When HEMLINE reaches the node's TSNEXT, a predicted branch resolves, and a wrong prediction aborts and rewinds. -/
  | condResolve (part : Nat)
  /-- WAITTOK_NODE (R146). The walker waits until a token word reaches its value, then goes on. -/
  | waittokNode (part : Nat)
  /-- SIGTOK_NODE (R146). The walker passes a SIGTOK node and schedules its add. -/
  | sigtokNode (part : Nat)
  /-- SIGTOK_ADD (R146). Once HEMLINE passes every earlier timestamp of the walk, the walker adds 1 to the SADDR word. -/
  | sigtokAdd (part : Nat)
  /-- END_NODE (R146). The walker reaches END and creates nothing more. -/
  | endNode (part : Nat)
  /-- WALK_END_COMPLETE (R146). When every task of the walk has committed, SIGA is incremented, QDONE rises and the walker is freed. -/
  | walkEndComplete (part : Nat)
  /-- SPAWN_CHILD_CREATE (R464). A SPAWN gets a task slot, reads and checks the template, creates the child and sets its flag. -/
  | spawnChildCreate (op : Nat)
  /-- COPY_START (R420). A channel starts its next copy command once its leave and ring slots are available. -/
  | copyStart (crew chan : Nat)
  /-- COPY_UNIT_LAND (R414). A 64-byte copy unit lands, raising CWP, and the last unit completes the command and its ring advance. -/
  | copyUnitLand (crew chan : Nat) (bad : List Nat)
  /-- MATRIX_STEP_START (R428). A queued matrix command starts once its leave, ring data, pins and ordering allow. -/
  | matrixStepStart (core : Nat)
  /-- COLL_COMPLETE (R438). A collective completes when the destination is written and the source is sent and acknowledged. -/
  | collComplete (op : Nat) (peers : List (List Byte))
  /-- ACQ_COMPLETE (R201). An ACQ completes when its SOB reaches the value or is read, setting its flag. -/
  | acqComplete (op : Nat)
  /-- REL_COMPLETE (R200). Once its bound writes are performed, REL adds 1 to the SOB and sets its flag. -/
  | relComplete (op : Nat)
  /-- DBG_HALT (R271). Debug command 1 holds a path, or every path, at its next bundle boundary. -/
  | dbgHalt (fn : Nat)
  /-- DBG_RESUME (R271). Debug command 2 releases a held path, or every held path. -/
  | dbgResume (fn : Nat)
  /-- DBG_STEP (R273). Debug command 3 lets a held path issue one bundle. -/
  | dbgStep (fn : Nat)
  /-- DBG_SPLIT (R272). Debug command 4 takes one lane of a held path into a new held debug path. -/
  | dbgSplit (fn : Nat)
  /-- DBG_SNAPTEAM (R274). Debug command 5 writes the team's context area at DBGARG without stopping it. -/
  | dbgSnapteam (fn : Nat)
  /-- DBG_SNAPCREW (R274). Debug command 6 writes the crew area at DBGARG. -/
  | dbgSnapcrew (fn : Nat)
  /-- DBG_POKE (R275). Debug command 7 writes a register in a lane of a held path. -/
  | dbgPoke (fn : Nat)
  /-- REGISTER_WRITE (R9). A write to a register that has no row of its own takes effect under its access codes. -/
  | registerWrite (fn bar off : Nat) (val : Word64)
  /-- TAIL_WORD_CHANGE (R55). The dispatcher sees a change of a queue's tail word, written by the host or device software, within 2 µs, and a decreasing or overrunning tail stops the queue with 0x0C or 0x0D. -/
  | tailWordChange (fn q : Nat) (val : Word64)
  /-- PEER_WRITE (R142). A UALink read, write, atomic or collective message from a peer accelerator arrives and is performed, removing any signal-table entry of the word and possibly ending ACQ waits or detecting a collective mismatch. -/
  | peerWrite (space addr : Nat) (bytes : List Byte)
  /-- ILLEGAL_OP (R309). A path reaches a bundle that is all zero, carries an unlisted opcode, or lies outside its sealed object, and raises ILLEGAL_OP as a decode fault. -/
  | illegalOp
  /-- CHANNEL_COPY_DONE (R37). The line-by-line copy of a retiring pseudo-channel into the repair reserve finishes and the reserve takes the channel's place in the interleave. -/
  | channelCopyDone (chan : Nat)
  /-- ACCOUT_LAST_BYTE_WRITTEN (R435). An ACCOUT's last converted byte is written into shared memory or ring slots, no earlier than s + 32, and its flag is set. -/
  | accoutLastByteWritten (core : Nat)
  deriving DecidableEq, Repr

end Sys2Proof
end

