-- ==== Sys2Proof/Machine/Formats.lean ====
section
/-! DEFINITION. Number formats (R283-R289), exact arithmetic on dyadic numbers, and rounding into a
format (R296-R302). Every value is computed exactly and rounded once. -/

namespace Sys2Proof

/-- The format code (R283). -/
def Fmt.code : Fmt → Nat
  | .none => 0 | .fp32 => 1 | .bf16 => 2 | .fp16 => 3 | .e4m3 => 4 | .e5m2 => 5 | .int32 => 6
  | .uint32 => 7 | .int16 => 8 | .int8 => 9 | .uint8 => 10 | .int4 => 11 | .i4x => 12
  | .e2m1 => 13 | .scale => 14 | .int64 => 15

def Fmt.ofCode (n : Nat) : Fmt :=
  match n % 16 with
  | 0 => .none | 1 => .fp32 | 2 => .bf16 | 3 => .fp16 | 4 => .e4m3 | 5 => .e5m2 | 6 => .int32
  | 7 => .uint32 | 8 => .int16 | 9 => .int8 | 10 => .uint8 | 11 => .int4 | 12 => .i4x
  | 13 => .e2m1 | 14 => .scale | _ => .int64

def Rnd.code : Rnd → Nat
  | .rne => 0 | .rz => 1 | .rup => 2 | .rdn => 3

def Rnd.ofCode (n : Nat) : Rnd :=
  match n % 4 with
  | 0 => .rne | 1 => .rz | 2 => .rup | _ => .rdn

/-- Width of an element in a register (R283). -/
def Fmt.width : Fmt → Nat
  | .none | .fp32 | .int32 | .uint32 => 32
  | .bf16 | .fp16 | .int16 => 16
  | .e4m3 | .e5m2 | .int8 | .uint8 | .scale => 8
  | .int4 | .i4x | .e2m1 => 4
  | .int64 => 64

/-- Elements in a register, or in a register pair for INT64 (R283, R365). -/
def Fmt.elems : Fmt → Nat
  | .int64 => 1
  | f => 32 / f.width

/-- Width of an element in memory (R108). -/
def Fmt.memBits : Fmt → Nat
  | .none => 8
  | f => f.width

def Fmt.isFloat : Fmt → Bool
  | .fp32 | .bf16 | .fp16 | .e4m3 | .e5m2 | .e2m1 | .scale => true
  | _ => false

/-- The integer formats (R285). -/
def Fmt.isInt : Fmt → Bool
  | .int32 | .uint32 | .int16 | .int8 | .uint8 | .int4 | .int64 => true
  | _ => false

def Fmt.isSigned : Fmt → Bool
  | .uint32 | .uint8 => false
  | _ => true

/-- Iall of R343. -/
def Fmt.isIall (f : Fmt) : Bool := f.isInt

/-- The least and the greatest value of an integer format (R285). -/
def Fmt.intMin (f : Fmt) : Int :=
  if f == .i4x then -7 else if f.isSigned then -(2 ^ (f.width - 1) : Nat) else 0

def Fmt.intMax (f : Fmt) : Int :=
  if f == .i4x then 7
  else if f.isSigned then (2 ^ (f.width - 1) : Nat) - 1 else (2 ^ f.width : Nat) - 1

/-- Exponent width, mantissa width, bias, and whether the format has a sign (R284). -/
structure FLayout where
  eb : Nat
  mb : Nat
  bias : Nat
  hasSign : Bool := true

def Fmt.layout : Fmt → FLayout
  | .bf16 => ⟨8, 7, 127, true⟩
  | .fp16 => ⟨5, 10, 15, true⟩
  | .e4m3 => ⟨4, 3, 7, true⟩
  | .e5m2 => ⟨5, 2, 15, true⟩
  | .e2m1 => ⟨2, 1, 1, true⟩
  | .scale => ⟨5, 3, 15, false⟩
  | _ => ⟨8, 23, 127, true⟩

/-- FP32, BF16, FP16 and E5M2 have infinities (R284). -/
def Fmt.hasInf : Fmt → Bool
  | .fp32 | .bf16 | .fp16 | .e5m2 => true
  | _ => false

/-- Encoding of the largest finite magnitude (R284). -/
def Fmt.maxFinite : Fmt → Nat
  | .bf16 => 0x7F7F | .fp16 => 0x7BFF | .e4m3 => 0x7E | .e5m2 => 0x7B | .e2m1 => 0x7
  | .scale => 0xFE | _ => 0x7F7FFFFF

/-- The canonical NaN (R284); E2M1 has none, and R301 gives +0 in its place. -/
def Fmt.canonNaN : Fmt → Nat
  | .bf16 => 0x7FC0 | .fp16 => 0x7E00 | .e4m3 => 0x7F | .e5m2 => 0x7E | .e2m1 => 0
  | .scale => 0xFF | _ => 0x7FC00000

/-- Encoding of +infinity, for the formats that have one. -/
def Fmt.infBits (f : Fmt) : Nat := (2 ^ f.layout.eb - 1) * 2 ^ f.layout.mb

def Fmt.signBit (f : Fmt) : Nat := if f.layout.hasSign then 2 ^ (f.layout.eb + f.layout.mb) else 0

end Sys2Proof

namespace Sys2Proof.Machine

open Sys2Proof

/-- STATUS bits [5:0] in the order NV, DZ, OF, UF, NX, SATD (R248). -/
abbrev Flags := BitVec 6

def flNV : Flags := 1#6
def flDZ : Flags := 2#6
def flOF : Flags := 4#6
def flUF : Flags := 8#6
def flNX : Flags := 16#6
def flSATD : Flags := 32#6

/-- Element i of a value, as raw bits (R283). -/
def elemAt (f : Fmt) (x i : Nat) : Nat := fld x (f.width * i) f.width

/-- A value from its elements, element 0 in the low bits (R283). -/
def packElems (w : Nat) : List Nat → Nat
  | [] => 0
  | e :: es => e % 2 ^ w + 2 ^ w * packElems w es

/-- The exact integer value of an element (R339). -/
def intVal (f : Fmt) (e : Nat) : Int :=
  if f.isSigned then signed f.width e else (e % 2 ^ f.width : Nat)

/-! ### Floating-point layouts -/

/-- A decoded value: a NaN (signalling or not), an infinity, or ± m × 2^e exactly. -/
inductive FVal where
  | nan (signalling : Bool)
  | inf (neg : Bool)
  | fin (neg : Bool) (m : Nat) (e : Int)
  deriving DecidableEq, Repr

/-- The value of an encoding (R284). -/
def decodeF (f : Fmt) (x : Nat) : FVal :=
  let l := f.layout
  let s := l.hasSign && bitAt x (l.eb + l.mb)
  let ex := fld x l.mb l.eb
  let m := fld x 0 l.mb
  let top := 2 ^ l.eb - 1
  if f.hasInf && ex == top then
    if m == 0 then .inf s else .nan (!bitAt m (l.mb - 1))
  else if f == .e4m3 && ex == top && m == 7 then .nan false
  else if f == .scale && ex == top && m == 7 then .nan false
  else if ex == 0 then .fin s m (1 - (l.bias : Int) - l.mb)
  else .fin s (2 ^ l.mb + m) ((ex : Int) - l.bias - l.mb)

/-- The four elements of an I4X quad (R287). -/
def decodeQuad (n0 n1 n2 n3 : Nat) : List FVal :=
  let int4 (n : Nat) : FVal :=
    if n == 8 then .fin false 0 0
    else let v := signed 4 n; .fin (v < 0) v.natAbs 0
  let zero : FVal := .fin false 0 0
  if n0 == 8 then [decodeF .e4m3 (n2 * 16 + n1), zero, zero, int4 n3]
  else if n3 == 8 then [int4 n0, zero, zero, decodeF .e4m3 (n2 * 16 + n1)]
  else [int4 n0, int4 n1, int4 n2, int4 n3]

/-- Every element of a register in any format, decoded (R339, R367). -/
def decodeElem (f : Fmt) (x i : Nat) : FVal :=
  if f == .i4x then
    let q := i / 4
    let n (j : Nat) := fld x (16 * q + 4 * j) 4
    (decodeQuad (n 0) (n 1) (n 2) (n 3)).getD (i % 4) (.fin false 0 0)
  else if f.isInt then
    let v := intVal f (elemAt f x i)
    .fin (v < 0) v.natAbs 0
  else decodeF f (elemAt f x i)

/-! ### Exact dyadic numbers -/

/-- m × 2^e. -/
structure Dy where
  m : Int
  e : Int
  deriving DecidableEq, Repr

def Dy.zero : Dy := ⟨0, 0⟩

def Dy.mul (a b : Dy) : Dy := ⟨a.m * b.m, a.e + b.e⟩

/-- The mantissa of a number at a lower exponent. -/
def Dy.at_ (a : Dy) (e : Int) : Int := a.m * (2 ^ (a.e - e).toNat : Nat)

def Dy.add (a b : Dy) : Dy :=
  let e := min a.e b.e
  ⟨a.at_ e + b.at_ e, e⟩

def Dy.neg (a : Dy) : Dy := ⟨-a.m, a.e⟩

def Dy.sum (l : List Dy) : Dy := l.foldl Dy.add Dy.zero

/-- Exact comparison: the sign of a - b. -/
def Dy.lt (a b : Dy) : Bool := (a.add b.neg).m < 0

def FVal.dy : FVal → Dy
  | .fin s m e => ⟨if s then -(m : Int) else m, e⟩
  | _ => Dy.zero

def FVal.isNaN : FVal → Bool
  | .nan _ => true
  | _ => false

def FVal.isSNaN : FVal → Bool
  | .nan s => s
  | _ => false

def FVal.isInf : FVal → Bool
  | .inf _ => true
  | _ => false

def FVal.isZero : FVal → Bool
  | .fin _ m _ => m == 0
  | _ => false

def FVal.sign : FVal → Bool
  | .nan _ => false
  | .inf s => s
  | .fin s _ _ => s

def FVal.neg : FVal → FVal
  | .nan s => .nan s
  | .inf s => .inf (!s)
  | .fin s m e => .fin (!s) m e

def FVal.abs : FVal → FVal
  | .nan s => .nan s
  | .inf _ => .inf false
  | .fin _ m e => .fin false m e

/-- floor(log2 |x|) of a nonzero number. -/
def Dy.exponent (a : Dy) : Int := (Nat.log2 a.m.natAbs : Int) + a.e

/-- A subnormal input of a format (R298). -/
def FVal.isSubnormal (f : Fmt) (v : FVal) : Bool :=
  match v with
  | .fin _ m _ => m != 0 && v.dy.exponent < 1 - (f.layout.bias : Int)
  | _ => false

/-- FZI: a subnormal floating-point input becomes the zero of its sign (R298). -/
def flushIn (fzi : Bool) (f : Fmt) (v : FVal) : FVal :=
  if fzi && v.isSubnormal f then .fin v.sign 0 0 else v

/-! ### Rounding -/

/-- One more unit in the last place? `half` compares the remainder with one half: 0 below, 1 equal,
2 above (R296). -/
def roundUp (rnd : Rnd) (neg : Bool) (odd : Bool) (inexact : Bool) (half : Nat) : Bool :=
  match rnd with
  | .rne => half == 2 || (half == 1 && odd)
  | .rz => false
  | .rup => inexact && !neg
  | .rdn => inexact && neg

/-- m × 2^e (and a little more when `sticky`) as a multiple of 2^q, with whether it is inexact. -/
def roundAt (rnd : Rnd) (neg : Bool) (m : Nat) (e q : Int) (sticky : Bool) : Nat × Bool :=
  if q ≤ e then
    let k := m * 2 ^ (e - q).toNat
    (k + (if roundUp rnd neg (k % 2 == 1) sticky 0 then 1 else 0), sticky)
  else
    let sh := (q - e).toNat
    let k := m / 2 ^ sh
    let r := m % 2 ^ sh
    let h := 2 ^ (sh - 1)
    let inexact := r != 0 || sticky
    let half := if r < h then 0 else if r == h && !sticky then 1 else 2
    (k + (if roundUp rnd neg (k % 2 == 1) inexact half then 1 else 0), inexact)

/-- The value rounded to the format's precision with an unbounded exponent: mantissa and quantum
exponent (R297, R301). -/
def roundFree (f : Fmt) (rnd : Rnd) (neg : Bool) (m : Nat) (e : Int) (sticky : Bool) : Nat × Int :=
  let q := (Nat.log2 m : Int) + e - f.layout.mb
  ((roundAt rnd neg m e q sticky).1, q)

/-- A finite nonzero exact value into a floating-point format (R297, R298, R301). -/
def encodeFin (f : Fmt) (rnd : Rnd) (fzo sat : Bool) (neg : Bool) (m : Nat) (e : Int)
    (sticky : Bool := false) : Nat × Flags :=
  let l := f.layout
  let free := roundFree f rnd neg m e sticky
  let freeDy : Dy := ⟨free.1, free.2⟩
  let maxDy := (decodeF f f.maxFinite).dy
  let emin : Int := 1 - (l.bias : Int)
  let sb := if neg then f.signBit else 0
  if f == .scale && neg then
    if sat then (0, flSATD) else (f.canonNaN, flNV)
  else if Dy.lt maxDy freeDy then
    if f == .e2m1 then (f.maxFinite + sb, flOF ||| flNX)
    else if sat then (f.maxFinite + sb, flSATD)
    else
      let toMax := match rnd with
        | .rne => false
        | .rz => true
        | .rup => neg
        | .rdn => !neg
      if toMax then (f.maxFinite + sb, flOF ||| flNX)
      else if f.hasInf then (f.infBits + sb, flOF ||| flNX)
      else (f.canonNaN, flOF ||| flNX)
  else if freeDy.exponent < emin then
    if fzo then (sb, flUF ||| flNX)
    else
      let r := roundAt rnd neg m e (emin - l.mb) sticky
      (r.1 + sb, if r.2 then flUF ||| flNX else 0#6)
  else
    let ex := freeDy.exponent
    let r := roundAt rnd neg m e free.2 sticky
    -- a carry out of the mantissa has moved the exponent up by one
    let mant := if r.1 == 2 ^ (l.mb + 1) then 2 ^ l.mb else r.1
    ((ex + l.bias).toNat * 2 ^ l.mb + (mant - 2 ^ l.mb) + sb, if r.2 then flNX else 0#6)

/-- Conversion into a floating-point format, in the order of the table of R301. -/
def encodeF (f : Fmt) (rnd : Rnd) (fzo sat : Bool) (v : FVal) : Nat × Flags :=
  match v with
  | .nan _ => if f == .e2m1 then (0, flNV) else (f.canonNaN, 0#6)
  | .inf s =>
    let sb := if s then f.signBit else 0
    if f.hasInf then (f.infBits + sb, 0#6)
    else if f == .e2m1 then (f.maxFinite + sb, flOF)
    else if f == .scale && s then (if sat then (0, flSATD) else (f.canonNaN, flNV))
    else if sat then (f.maxFinite + sb, flSATD) else (f.canonNaN, 0#6)
  | .fin s m e =>
    if m == 0 then (if s then f.signBit else 0, 0#6)
    else encodeFin f rnd fzo sat s m e

/-- Conversion into an integer format (R301): never wraps. -/
def encodeInt (f : Fmt) (rnd : Rnd) (v : FVal) : Nat × Flags :=
  let w := f.width
  match v with
  | .nan _ => (0, flNV)
  | .inf s => (wrapBits w (if s then f.intMin else f.intMax), flNV)
  | .fin s m e =>
    let r := roundAt rnd s m e 0 false
    let x : Int := if s then -(r.1 : Int) else r.1
    if x < f.intMin then (wrapBits w f.intMin, flNV)
    else if f.intMax < x then (wrapBits w f.intMax, flNV)
    else (wrapBits w x, if r.2 then flNX else 0#6)

/-- Integer into integer: wraps without SAT, clamps with it (R302). -/
def intInto (f : Fmt) (sat : Bool) (x : Int) : Nat × Flags :=
  if sat && (x < f.intMin || f.intMax < x) then
    (wrapBits f.width (if x < f.intMin then f.intMin else f.intMax), flSATD)
  else (wrapBits f.width x, 0#6)

/-- Round(fmt, x, rnd) of R12 for a decoded value. -/
def roundTo (f : Fmt) (rnd : Rnd) (fzo sat : Bool) (v : FVal) : Nat × Flags :=
  if f.isFloat then encodeF f rnd fzo sat v else encodeInt f rnd v

/-- The encoding of a dyadic number in a format when it is exact (R294, R295). -/
def exactIn (f : Fmt) (x : Dy) (negZero : Bool := false) : Option Nat :=
  if f == .i4x then
    if x.e < 0 && x.m % (2 ^ (-x.e).toNat : Nat) != 0 then none
    else
      let v : Int := x.at_ (min x.e 0) / (2 ^ (-(min x.e 0)).toNat : Nat)
      if -7 ≤ v && v ≤ 7 then some (wrapBits 4 v) else none
  else if f.isInt then
    let r := roundAt .rz (x.m < 0) x.m.natAbs x.e 0 false
    let v : Int := if x.m < 0 then -(r.1 : Int) else r.1
    if r.2 then none
    else if f.intMin ≤ v && v ≤ f.intMax then some (wrapBits f.width v) else none
  else
    let g := if f == .none then .fp32 else f
    if x.m == 0 then
      some (if negZero then g.signBit else 0)
    else
      let r := encodeFin g .rne false false (x.m < 0) x.m.natAbs x.e
      if r.2 == 0#6 then some r.1 else none

end Sys2Proof.Machine
end

