-- ==== Sys2Proof/Machine/Arith.lean ====
section
/-! DEFINITION. Exact arithmetic on decoded values, with the invalid operations (R300, R358-R361),
and the matrix engine's summation (R305, R306). -/

namespace Sys2Proof.Machine

open Sys2Proof

def Dy.val (d : Dy) : FVal := .fin (d.m < 0) d.m.natAbs d.e

def zeroV (neg : Bool) : FVal := .fin neg 0 0

/-- The exact product, and whether it is the invalid 0 × ∞ (R300, R359). -/
def mulV (a b : FVal) : FVal × Bool :=
  match a, b with
  | .nan _, _ => (.nan false, false)
  | _, .nan _ => (.nan false, false)
  | .inf s, .inf t => (.inf (s != t), false)
  | .inf s, .fin t m _ => if m == 0 then (.nan false, true) else (.inf (s != t), false)
  | .fin s m _, .inf t => if m == 0 then (.nan false, true) else (.inf (s != t), false)
  | .fin s m e, .fin t n f => (.fin (s != t) (m * n) (e + f), false)

/-- The exact sum, and whether it is the invalid ∞ - ∞. An exact zero sum of operands of opposite
sign is -0 under RDN and +0 otherwise (R359). -/
def addV (rnd : Rnd) (a b : FVal) : FVal × Bool :=
  match a, b with
  | .nan _, _ => (.nan false, false)
  | _, .nan _ => (.nan false, false)
  | .inf s, .inf t => if s == t then (.inf s, false) else (.nan false, true)
  | .inf s, .fin _ _ _ => (.inf s, false)
  | .fin _ _ _, .inf t => (.inf t, false)
  | .fin s m e, .fin t n f =>
    let d := (FVal.fin s m e).dy.add (FVal.fin t n f).dy
    if d.m == 0 then (zeroV (if s == t then s else rnd == .rdn), false) else (d.val, false)

/-- The exact product-sum of an FMA (R359): 0 × ∞ is invalid even when the addend is a NaN. -/
def fmaV (rnd : Rnd) (a b c : FVal) : FVal × Bool :=
  let p := mulV a b
  if p.2 then p
  else
    match addV rnd p.1 c with
    | (v, inv) => (v, inv)

/-- A total order on values that are not NaN, with -0 below +0 (R359). -/
def ltV (a b : FVal) : Bool :=
  match a, b with
  | .inf s, .inf t => s && !t
  | .inf s, _ => s
  | _, .inf t => !t
  | .fin s m e, .fin t n f =>
    if m == 0 && n == 0 then s && !t
    else Dy.lt (FVal.fin s m e).dy (FVal.fin t n f).dy
  | _, _ => false

/-- Equality of values, with -0 equal to +0 (R360). -/
def eqV (a b : FVal) : Bool :=
  match a, b with
  | .inf s, .inf t => s == t
  | .fin s m e, .fin t n f => ((FVal.fin s m e).dy.add (FVal.fin t n f).dy.neg).m == 0
  | _, _ => false

/-- The lesser of two inputs; the other one when exactly one is a NaN (R359). -/
def minV (a b : FVal) : FVal :=
  if a.isNaN then b else if b.isNaN then a else if ltV b a then b else a

def maxV (a b : FVal) : FVal :=
  if a.isNaN then b else if b.isNaN then a else if ltV a b then b else a

/-! ### The matrix engine -/

/-- A number truncated toward zero to a multiple of 2^q (R305). -/
def truncAt (d : Dy) (q : Int) : Dy :=
  if q ≤ d.e then d
  else
    let k : Int := (d.m.natAbs / 2 ^ (q - d.e).toNat : Nat)
    ⟨if d.m < 0 then -k else k, q⟩

/-- The exact sum of a group of products, each kept down to 2^(E - 34) (R305). -/
def groupSum (ps : List Dy) : Dy :=
  let nz := ps.filter (fun d => d.m != 0)
  match nz with
  | [] => Dy.zero
  | p :: r =>
    let e := r.foldl (fun m d => max m d.exponent) p.exponent
    Dy.sum (nz.map (fun d => truncAt d (e - 34)))

/-- G of one group: the FP32 encoding of sum × TA × TB, with the special values of R306. -/
def groupG (ps : List FVal) (ta tb : FVal) : Nat :=
  let t := mulV ta tb
  let tOk := match t.1 with | .fin s m _ => !s && m != 0 | _ => false
  let pos := ps.any (fun p => p == .inf false)
  let neg := ps.any (fun p => p == .inf true)
  if ps.any FVal.isNaN || (pos && neg) || !tOk then Fmt.fp32.canonNaN
  else if pos then Fmt.fp32.infBits
  else if neg then Fmt.fp32.infBits + Fmt.fp32.signBit
  else
    let d := (groupSum (ps.map FVal.dy)).mul t.1.dy
    if d.m == 0 then 0 else (encodeF .fp32 .rne false false d.val).1

/-- Binary32 addition under RNE (R305, R306). -/
def fp32Add (x y : Nat) : Nat :=
  (encodeF .fp32 .rne false false (addV .rne (decodeF .fp32 x) (decodeF .fp32 y)).1).1

/-- One output element: the groups of 16 products in ascending k (R305). -/
def mxElem (acc : Nat) (ps : List FVal) (ta tb : FVal) : Nat → Nat
  | 0 => acc
  | g + 1 => mxElem (fp32Add acc (groupG (ps.take 16) ta tb)) (ps.drop 16) ta tb g

/-- K of a step: 16, 32 or 64 by the width of the format (R429). -/
def mxK (f : Fmt) : Nat := 256 / f.width

/-- M and N of a SHAPE (R429). -/
def mxShape (shape : Nat) : Nat × Nat :=
  match shape with
  | 0 => (64, 64) | 1 => (64, 32) | 2 => (32, 64) | 3 => (32, 32) | 4 => (64, 16) | 5 => (16, 64)
  | _ => (16, 16)

/-- The K values of one row of A or column of B: 32 bytes, element k at its place (R432), each with
its block scale when the step is scaled (R288). -/
def mxRow (f : Fmt) (row : Nat) (scales : List Nat) : List FVal :=
  (List.range (mxK f)).map (fun k =>
    let v := decodeElem f row k
    match scales with
    | [] => v
    | _ => (mulV v (decodeF .scale (scales.getD (k / 32) 0))).1)

end Sys2Proof.Machine
end

