-- ==== Sys2Proof/Config.lean ====
section
/-! DEFINITION. What the spec leaves to the device: each is a constant without a body, so that
nothing can be proved of its value. Log entries 5 to 7 name them. -/

namespace Sys2Proof.Config

open Sys2Proof

/-- Which of two allowed values is taken: old or new (R224, R207, R233), by a fresh counter, a
register number and a lane. -/
opaque pick : Nat → Nat → Nat → Bool

/-- A 32-bit value the spec leaves undefined (R242), by a fresh counter, a register and a lane. -/
opaque freeWord : Nat → Nat → Nat → Word32

/-- A number the spec leaves open: a moment, an amount of traffic, a place. -/
opaque freeNat : Nat → Nat

/-- Which of several allowed values is taken, or how many events a unit counts, by a fresh counter and a place
(R207, R282, R408). -/
opaque choose : Nat → Nat → Nat

/-- How far, in values of the format, a special function's result lies from the internal value, by
operation, format, rounding mode, FZI, FZO and input (R363). -/
opaque specialPick : Nat → Fmt → Rnd → Bool → Bool → Word32 → Nat

/-- The set of speculation ways in which a 128-byte line is tracked, and the set of a tile translation
buffer in which an entry is held: the machine takes each modulo the number of sets (R116, R173). -/
opaque homeSet : Nat → Nat
opaque ttbSet : Nat → Nat → Nat

/-- The device stamp of every S7 (R72), and the stamp of the S5. -/
opaque stampS7 : BitVec 128
opaque stampS5 : BitVec 128

/-- SHA-512 of a byte string (R67, R72, R74, R75). -/
opaque sha512 : List Byte → BitVec 512

/-- The Ed25519 signature made with the device identity key (R43, R74). -/
opaque sign : List Byte → BitVec 512

/-- The public half of the device identity key (R43, R48). -/
opaque idKey : BitVec 256

/-- The keyed 24-bit code over bits [103:0] of a handle (R68). -/
opaque handleCheck : BitVec 104 → BitVec 24

/-- The steward image with which the device comes, and the security version that its fuses record (R41, R42). -/
opaque bootImage : List Byte
opaque fwSvn : Word64

/-- Does the check of R41 pass for an image: the signature over its SHA-512, by a key that the root key of the fuses
certifies? -/
opaque imageOk : List Byte → Bool

/-- The security version that an image carries (R42, R48). -/
opaque imageSvn : List Byte → Word64

/-- Herwen's certificate over the identity key (R45). -/
opaque certificate : List Byte

/-- Does a peer refuse an access to an address of its window (R113), by a fresh counter? -/
opaque peerRefuses : Nat → Nat → Bool

/-- The accelerator id of this device in its pod (R437). -/
opaque ownId : BitVec 10

end Sys2Proof.Config
end

