-- ==== Sys2Proof/Machine/Mem.lean ====
section
/-! DEFINITION. Memory as a sorted list of the bytes that are not zero: an unlisted byte reads 0
(log 2). All address spaces of the module lie in one list, each at its own flat base (R78, R113). -/

namespace Sys2Proof.Machine

open Sys2Proof

abbrev Memory := List Host.Cell

/-- The canonical form: addresses strictly rise, and no listed byte is 0. -/
abbrev Memory.wf (m : Memory) : Prop :=
  m.Pairwise (fun a b => a.1 < b.1) ∧ ∀ c ∈ m, c.2 ≠ 0#8

/-- One byte. -/
def Memory.read : Memory → Nat → Byte
  | [], _ => 0#8
  | (k, v) :: m, a => if k = a then v else if a < k then 0#8 else Memory.read m a

/-- The cells of a byte string that starts at an address. -/
def Memory.cells : Nat → List Byte → Memory
  | _, [] => []
  | a, b :: bs => if b = 0#8 then Memory.cells (a + 1) bs else (a, b) :: Memory.cells (a + 1) bs

/-- Memory after a byte string has been written. -/
def Memory.write (m : Memory) (a : Nat) (bs : List Byte) : Memory :=
  m.filter (fun c => c.1 < a) ++ Memory.cells a bs ++ m.filter (fun c => a + bs.length ≤ c.1)

/-- The n bytes from an address. -/
def Memory.bytes (m : Memory) (a : Nat) : Nat → List Byte
  | 0 => []
  | n + 1 => Memory.read m a :: Memory.bytes m (a + 1) n

/-- Every byte of a range set to 0 (R85, R95). -/
def Memory.zero (m : Memory) (a n : Nat) : Memory :=
  m.filter (fun c => c.1 < a ∨ a + n ≤ c.1)

/-- Every byte of a set of addresses set to 0. -/
def Memory.without (m : Memory) (gone : Nat → Bool) : Memory := m.filter (fun c => !gone c.1)

/-- The flat base of an address space: 0 to 31 the partitions, 32 host memory, 33 onward the
windows of peer accelerators (R78, R113, R485). -/
def spaceBase (space : Nat) : Nat := space * 2 ^ 64

def hostSpace : Nat := 32

/-- The window of a peer as an address space (R113). -/
def peerSpace (peer window : Nat) : Nat := 33 + (peer % 1024) * 65536 + window % 65536

def spaceOf (flat : Nat) : Nat := flat / 2 ^ 64

/-- The space in which HBM that no enabled partition maps keeps its bytes: by bay, pseudo-channel, and 4 KiB page of the
channel (R16, R78). -/
def bareSpace : Nat := 2 ^ 27

end Sys2Proof.Machine
end

