-- ==== Sys2Proof/Machine/State.lean ====
section
/-! DEFINITION. The state of one S7 module: every register, memory and queue that the spec names, as
plain data. Tables are sparse: a number that a table does not list holds the default of its reader,
which is the reset value (Machine/Ops.lean gives the readers). -/

namespace Sys2Proof.Machine

open Sys2Proof

/-- The fault codes of R251. -/
inductive FaultCode where
  | illegalOp | illegalOperand | reservedField | privileged | featureMasked | formatMismatch
  | regBounds | accWindow | mstackOvf | mstackUnf | pathFull | softwareTrap | breakpoint
  | watchpoint | singleStep | tileNotPresent | tileProtection | tensorBounds | tensorInvalid
  | segmentBound | walkSegment | align | memUncorrectable | sharedBounds | ringMisuse
  | liningMismatch | slotOverrun | watchdog | restoreCapacity | linkError | sashViolation
  deriving DecidableEq, Repr

/-- Why a step stops the model itself. -/
inductive Fault where
  /-- Raised by every slot meaning when `State.issue` names no live path: no bundle is issuing, so no
  step of the device executes the slot. The step function sets `issue` first, so no run meets it.
  Safe. -/
  | noIssuingPath
  deriving DecidableEq, Repr

/-- Why the model gives an instruction no meaning. -/
inductive Refusal where
  /-- Raised by an arm of `exec` whose instruction has no meaning yet. Safe: nothing can be proved of
  such a step. -/
  | notModelled (mnemonic : String)
  deriving DecidableEq, Repr

/-- The slots of a bundle, in the order of R327; `none` is the header or no slot (R249). -/
inductive Slot where
  | v | m | x | c | none
  deriving DecidableEq, Repr

/-- What a fault record says (R249), before it is written. -/
structure FaultInfo where
  code : FaultCode
  slot : Slot := .none
  addr : Nat := 0
  tensor : Nat := 0
  lane : Nat := 0
  coords : List Word32 := []
  /-- lanes that take the fault when it is TILE_NOT_PRESENT in some lanes only (R122, R239) -/
  lanes : Mask := 0#1024
  /-- entry addresses to request, in the order of R122, each with whether it is a host address -/
  pages : List (Nat × Bool) := []
  /-- the first faulting access was a write (R128) -/
  isWrite : Bool := false
  deferred : Bool := false
  parkFail : Bool := false
  /-- every lane that a parked path replays has faulted again (R240) -/
  again : Bool := false
  deriving DecidableEq, Repr

/-- A fault that an element of a lane has: the step of R121 that it fails, and what R123 reports. -/
structure LaneBad where
  lane : Nat
  step : Nat
  code : FaultCode
  addr : Nat := 0
  host : Bool := false
  coords : List Int := []
  deriving DecidableEq, Repr

/-! ### Teams and paths -/

inductive PathKind where
  | root | split | parked | debug | detached
  deriving DecidableEq, Repr

/-- One entry of a team's path table (R236). -/
structure Path where
  kind : PathKind := .root
  parent : Nat := 0
  pc : Nat := 0
  base : Mask := 0#1024
  /-- mask stack, top first (R235) -/
  stack : List Mask := []
  /-- first cycle at which the next bundle may issue (R223) -/
  readyAt : Nat := 0
  /-- the slot to replay for the path's lanes (R180, R239) -/
  replay : Option Slot := Option.none
  /-- the lanes a replay acts for, and the bundle that follows it: the other slots of the replayed
  bundle have completed (R180, R239) -/
  rmask : Mask := 0#1024
  after : Nat := 0
  /-- the slot to replay after that one, at the same bundle -/
  replayNext : Option Slot := Option.none
  /-- the replay is that of a deferred fault (R180) -/
  deferReplay : Bool := false
  /-- parked and waiting for its page requests (R239) -/
  parked : Bool := false
  /-- recorded merge point: bundle address and stack depth (R239) -/
  mergeAt : Option (Nat × Nat) := Option.none
  /-- a child waiting at its merge point, or arrived at a JOIN (R239, R454) -/
  arrived : Bool := false
  /-- held by the debugger (R269) -/
  held : Bool := false
  /-- released for one bundle by STEP (R273) -/
  stepping : Bool := false
  /-- that bundle has issued (R273) -/
  stepped : Bool := false
  /-- stopped only until a STEP of another path completes (R273) -/
  stepHeld : Bool := false
  /-- the bundle at `pc` was already hit by the breakpoint that stopped the path, and so was the one that issued last
  (R267) -/
  hitDone : Bool := false
  hitWas : Bool := false
  /-- the team whose STEP the path's privileged form awaits (R472) -/
  waitStep : Option Nat := Option.none
  /-- last stall reason (R277) -/
  stall : Nat := 1
  /-- V registers kept in the operand buffer for the next bundle, each with the set of its words (R229) -/
  keep : List (Nat × Nat) := []
  /-- the value of Sk read when a WAITC first became ready (R461) -/
  waitVal : Option Word64 := Option.none
  /-- accesses in flight that precede the path's next one in program order (R187) -/
  mine : List Nat := []
  /-- accesses that a FENCE still waits for (R194) -/
  fence : List Nat := []
  /-- an operation that holds the path: SIGNAL, RDSYS and the debug forms (R466, R470, R472) -/
  heldBy : Option Nat := Option.none
  /-- waits at a BAR bundle (R238, R462) -/
  atBar : Bool := false
  /-- its barrier has completed: the BAR bundle may issue (R462) -/
  barPass : Bool := false
  /-- first cycles of the passes of the last bundle, the last cycle of its register-bank stretches, the
  cycle at which its gap ends, and what samples show in the gap (R221, R227, R228, R277, R280) -/
  passes : List Nat := []
  stretchTo : Nat := 0
  gapTo : Nat := 0
  gapReason : Nat := 1
  /-- the bundle that issued last carried YLD (R153) -/
  yld : Bool := false
  /-- stops that await the end of the bundle: their codes and indices (R267, R268) -/
  stopAfter : List (Nat × Nat) := []
  deriving DecidableEq, Repr

/-- Where a result lands. -/
inductive Dest where
  | vreg (r : Nat) | vpair (r : Nat) | sreg (n : Nat) | pred (p : Nat) | latchOnly | nothing
  deriving DecidableEq, Repr

/-- The bypass latches (R231). -/
inductive LatchId where
  | bv | bm | bx
  deriving DecidableEq, Repr

/-- A fixed-latency result that has been issued and has not landed (R224, R246). -/
structure PendRes where
  due : Nat
  /-- the cycle of the pass that issued it: the write is pending from then on (R224) -/
  from_ : Nat := 0
  dest : Dest
  word : Nat := 0
  /-- value of each lane that is written; a scalar result has one entry -/
  vals : List (Nat × Word64) := []
  tag : Option Fmt := Option.none
  latch : Option LatchId := Option.none
  /-- STATUS bits the result sets when it lands (R304) -/
  flags : BitVec 6 := 0#6
  slot : Slot := .v
  /-- the result of a flagged operation: it lands when this flag is observed set, and until then the
  destination is old or new (R233) -/
  flag : Option Nat := Option.none
  /-- another write of the register was pending: the register holds one of the two values (R224) -/
  clash : Bool := false
  deriving DecidableEq, Repr

structure Latch where
  vals : Tab Word32 := []
  fmtTag : Fmt := .none
  deriving DecidableEq, Repr

/-- A stream port (R407, R408). -/
structure Port where
  cfg : List Word64 := []
  pos : Nat := 0
  configured : Bool := false
  /-- shared memory as it stood at the GCFG, and how many writes the crew had noted by then: a later
  write of the range is seen or not (R408) -/
  snap : List Host.Cell := []
  mark : Nat := 0
  deriving DecidableEq, Repr

/-- Where a team lies when it makes an access: the instances of the scopes that hold it (R192). -/
structure Place where
  team : Nat := 0
  crew : Nat := 0
  core : Nat := 0
  fn : Nat := 0
  deriving DecidableEq, Repr

/-- What an ACQ has acquired: the SOB word, the sequence it observed, its scope and where the team lay then, for
accesses numbered from then on (R201). -/
structure Acquired where
  soba : Nat
  seq : Nat
  scope : Nat
  upto : Nat
  by_ : Place := {}
  deriving DecidableEq, Repr

/-- Where a team's registers are (R151, R153, R254). -/
inductive Residence where
  | active (ctx : Nat) | standby | exchanging (until_ : Nat) (into_ : Option Nat) | saved
  deriving DecidableEq, Repr

structure Team where
  task : Nat := 0
  crew : Nat := 0
  tix : Nat := 0
  /-- W / 32, a power of two from 1 to 32 (R58) -/
  words : Nat := 1
  /-- N, registers of a lane (R58) -/
  nregs : Nat := 16
  paths : Tab Path := []
  lastPath : Nat := 7
  vregs : Tab (Tab Word32) := []
  tags : Tab Fmt := []
  preds : Tab Mask := []
  sregs : Tab Word64 := []
  flagSet : BitVec 16 := 0#16
  flagCount : Tab Nat := []
  bv : Latch := {}
  bm : Latch := {}
  bx : Latch := {}
  status : Word64 := 0#64
  /-- STATUS bits that results raised in a cycle, and that cycle: a clear in it loses (R304) -/
  raised : BitVec 6 := 0#6
  raisedAt : Nat := 0
  wdogLimit : BitVec 16 := 0xFFFF#16
  /-- cycles counted towards YCOUNT (R161) -/
  ycycles : Nat := 0
  accBase : Nat := 0
  accLim : Nat := 0
  lineBase : Nat := 0
  /-- WID of each lane position; REGROUP moves them (R131, R242) -/
  wids : Tab Word64 := []
  /-- WID of lane 0 as created (R249) -/
  wid0 : Word64 := 0#64
  ports : Tab Port := []
  pending : List PendRes := []
  /-- frozen latch image, with REMAIN in place of due (R245, R246) -/
  fli : List PendRes := []
  fliTaken : Bool := false
  deferred : Option FaultInfo := Option.none
  deferredAt : Option (Nat × Nat) := Option.none
  /-- where its registers are (R151, R153, R254) -/
  residence : Residence := .standby
  /-- which of its core's 64 team places it holds (R135, R279) -/
  place : Nat := 0
  /-- task, edge or migration stops the team at its next bundle boundary (R244, R245) -/
  stopped : Bool := false
  /-- the first bundle has not issued yet (R101) -/
  fresh : Bool := true
  /-- cycle of the last INVRO, or of the task's start (R209) -/
  invroAt : Nat := 0
  acquired : List Acquired := []
  retired : Bool := false
  /-- at a yield (R153) -/
  atYield : Bool := false
  /-- accumulator rows of the crew's allocation are shared; this team's in-flight commands own these -/
  owned : List Nat := []
  /-- path sampled last (R279) -/
  sampled : Nat := 7
  deriving DecidableEq, Repr

/-! ### Crews and engines -/

structure Ring where
  base : Nat := 0
  slotsz : Nat := 1
  slots : Nat := 1
  fmt : Fmt := .none
  producer : Word32 := 0#32
  consumer : Word32 := 0#32
  /-- slots reserved by copies that have not advanced: owner tag and count, oldest first (R420) -/
  reserved : List (Nat × Nat) := []
  /-- owners that have landed and whose advance waits for earlier reservations -/
  landed : List Nat := []
  deriving DecidableEq, Repr

structure Barrier where
  arrived : List Nat := []
  /-- COUNT fixed by the first arrival; 0 means every live team (R462) -/
  target : Nat := 0
  deriving DecidableEq, Repr

/-- A copy command in a channel (R415): kind is the opcode, 1 to 4. -/
structure CopyCmd where
  id : Nat := 0
  kind : Nat := 1
  desc : List Word64 := []
  flag : Option Nat := Option.none
  team : Nat := 0
  path : Nat := 0
  pc : Nat := 0
  acq : Bool := false
  rel : Bool := false
  scope : Nat := 0
  atom : Bool := false
  /-- the follow-on: the fields HA, HB, ACC and SHAPE; its descriptor is words 8 to 11 (R422) -/
  follow : Option XFields := Option.none
  /-- accumulator rows that the follow-on owns (R428), and elements that an ACCST wrote late (R403) -/
  rows : List Nat := []
  accOld : Tab Word32 := []
  /-- accesses that ACQ waits for (R206) -/
  waits : List Nat := []
  started : Bool := false
  /-- tile words that its walks have read for the unit under way, and the entries it waits for (R117) -/
  words : Tab Word64 := []
  wants : List Nat := []
  /-- bytes of the stream that have landed (R414, R417) -/
  done : Nat := 0
  /-- index list entries read so far, by row (R423) -/
  rowIdx : Tab Word32 := []
  /-- shared memory when the command issued, or started under ACQ, and how many writes the crew had
  noted by then: a later write of a source byte is seen or not (R206, R207) -/
  snap : List Host.Cell := []
  mark : Nat := 0
  /-- bytes that the team had replaced and that the command may still read: it has no ACQ (R206) -/
  older : List Host.Cell := []
  /-- bytes of shared memory that the command itself has written, with their place in the crew's notes (R419) -/
  wrote : Tab Nat := []
  /-- the elements of a versioned read, padded ones without a value (R213), and how many tiles of an atomic write are claimed and
  released (R212) -/
  buf : Option (List (Option Nat)) := Option.none
  tries : Nat := 0
  holds : List Nat := []
  versions : List Nat := []
  claimed : Nat := 0
  released : Nat := 0
  /-- its ring advance has been made, or waits for earlier reservations (R420) -/
  advanced : Bool := false
  /-- an engine fault holds the command (R180, R412) -/
  fault : Option FaultInfo := Option.none
  deriving DecidableEq, Repr

structure Channel where
  cwp : Word64 := 0#64
  queue : List CopyCmd := []
  deriving DecidableEq, Repr

/-- A command of the matrix engine (R427): kind is the opcode, 8 to 11. -/
structure MxCmd where
  id : Nat := 0
  kind : Nat := 8
  x : XFields
  desc : List Word64 := []
  team : Nat := 0
  path : Nat := 0
  crew : Nat := 0
  flag : Option Nat := Option.none
  pc : Nat := 0
  rows : List Nat := []
  queuedAt : Nat := 0
  /-- start cycle s of the step (R428) -/
  start : Option Nat := Option.none
  consDone : Bool := false
  rowsDone : Bool := false
  /-- operand elements read over s to s+7, as the values decoded at s (R428, R432) -/
  opA : List (List Word32) := []
  opB : List (List Word32) := []
  scA : List Byte := []
  scB : List Byte := []
  /-- accumulator elements that an ACCST wrote less than 10 cycles before the command issued, with
  their old values (R403) -/
  accOld : Tab Word32 := []
  ta : Word32 := 0x3F800000#32
  tb : Word32 := 0x3F800000#32
  /-- bytes an ACCOUT has converted at s + 24 and not yet written (R435) -/
  out : List Byte := []
  waits : List Nat := []
  /-- tile words that its walks have read, and the entries it waits for (R117) -/
  words : Tab Word64 := []
  wants : List Nat := []
  /-- the L2 lines that the tile fetch unit holds pinned for it, until s + 8 (R428, R432) -/
  pins : List Nat := []
  fault : Option FaultInfo := Option.none
  /-- a COPY carried it (R422) -/
  follow : Bool := false
  deriving DecidableEq, Repr

/-- A byte of shared memory that an SST has replaced: until the store is released, other teams may still read
the old value (R203, R204, R400), but for those that have read a later one (R188). -/
structure LateStore where
  team : Nat
  addr : Nat
  old : Byte
  seen : List Nat := []
  deriving DecidableEq, Repr

/-- A migration: the target core, the cycle at which its transfer ends, and the ranges that it holds there (R157). -/
structure Moving where
  core : Nat
  until_ : Nat
  shmAt : Nat
  accAt : Nat
  deriving DecidableEq, Repr

structure Crew where
  task : Nat := 0
  number : Nat := 0
  /-- physical core (R157) and the LCORE of first placement (R158) -/
  core : Nat := 0
  lcore : Nat := 0
  teams : List Nat := []
  shmBytes : Nat := 0
  /-- where its shared memory and its accumulator rows lie in the core's (R135) -/
  shmAt : Nat := 0
  accAt : Nat := 0
  shm : List Host.Cell := []
  /-- bytes written since the first GCFG of the crew, oldest first (R408) -/
  wlog : List Host.Cell := []
  logging : Bool := false
  /-- the stores that are not released yet, oldest first -/
  late : List LateStore := []
  /-- the move that is under way (R157) -/
  moving : Option Moving := Option.none
  /-- scope of the acquire that its admission made (R141) -/
  acqScope : Nat := 0
  accRows : Nat := 0
  /-- accumulator values by row * 64 + column -/
  acc : Tab Word32 := []
  /-- what an ACCST of the last 10 cycles replaced: its cycle, the element and the old value (R403) -/
  accOld : List (Nat × Nat × Word32) := []
  rings : Tab Ring := []
  nrings : Nat := 0
  bars : Tab Barrier := []
  sash : Nat := 0
  /-- first cycle at which a SASHT of the new holder may pass (R463) -/
  sashFrom : Nat := 0
  chans : Tab Channel := []
  accw : Tab Word64 := []
  migrate : Bool := false
  /-- commands for the matrix engine that a save found not started (R253) -/
  waiting : List MxCmd := []
  /-- a synchronous yield has been reached (R156), and the teams still to issue its bundle -/
  syncing : Bool := false
  syncLeft : List Nat := []
  saved : Bool := false
  deriving DecidableEq, Repr

/-! ### Tasks, cohorts, tokens -/

/-- The 128 bytes of a launch record, by field (R58). -/
structure LaunchRec where
  codeh : BitVec 128 := 0#128
  ctl : Word64 := 0#64
  widw : Word64 := 0#64
  counts : Word64 := 0#64
  counts2 : Word32 := 0#32
  arglen : Word32 := 0#32
  ttbase : Word64 := 0#64
  argbase : Word64 := 0#64
  tstamp : Word64 := 0#64
  waita : List Word64 := []
  siga : Word64 := 0#64
  waitv : List Word32 := []
  deriving DecidableEq, Repr

/-- Scheduling states (R133). -/
inductive Phase where
  | waiting | admitting | running | finished
  deriving DecidableEq, Repr

/-- A fault that stops a task: its team's WID, path and PC (R249, R252). -/
structure Stopping where
  wid0 : Word64
  path : Nat
  pc : Nat
  info : FaultInfo
  deriving DecidableEq, Repr

structure Task where
  fn : Nat := 0
  part : Nat := 0
  slot : Nat := 0
  taskid : Nat := 0
  queue : Nat := 0
  creator : Option Nat := Option.none
  /-- TASKID of the creator (R255) -/
  creatorId : Nat := 0
  /-- launched by the graph walker, or descended from such a task (R174, R176) -/
  walked : Bool := false
  launchedByWalker : Bool := false
  /-- walker node that launched the task (R148) -/
  node : Nat := 0
  /-- the highest timestamp that the walk had assigned before it (R146, R148) -/
  walkPrev : Option Word64 := Option.none
  /-- unresolved predictions it was launched under (R168) -/
  predicted : List Nat := []
  lrec : LaunchRec := {}
  /-- argument word 15 given by a SPAWNSET (R146) -/
  arg15 : Option Word64 := Option.none
  header : Word64 := 0#64
  codeSlot : Nat := 0
  codeBase : Nat := 0
  codeLen : Nat := 0
  entryPc : Nat := 0
  args : List Word64 := []
  ts : Word64 := 0#64
  phase : Phase := .waiting
  nextCrew : Nat := 0
  crewsRetired : Nat := 0
  descs : Tab (List Byte) := []
  regions : List (List Byte) := []
  ringImgs : List (List Byte) := []
  /-- NOSPEC of the record, a masked feature, or a restart after WATCHDOG (R58, R101, R163) -/
  noSpec : Bool := false
  suspended : Bool := false
  /-- a DEBUG-flagged task honours BKB marks and breakpoints (R58) -/
  debug : Bool := false
  faulted : Bool := false
  saved : Bool := false
  /-- saved because it made no progress (R241) -/
  parkSaved : Bool := false
  /-- stopped for a walk fault (R129) -/
  walkStop : Bool := false
  /-- on the restart list, without a slot (R178) -/
  restart : Bool := false
  /-- it found the restart list full: it kept its slot, and restarts in it (R178; log 68) -/
  keeps : Bool := false
  /-- an address in HBM that the device read for the task and that holds an error which the ECC cannot correct: in its
  arguments, its ring images or its saved block, and in its region table (R39) -/
  badArgs : Option Nat := Option.none
  badTable : Option Nat := Option.none
  /-- it was Waiting when it was aborted (R140, R255) -/
  wasWaiting : Bool := false
  /-- cores on which its crews ran (R141, R142) -/
  ranOn : List Nat := []
  ovrlim : Nat := 0
  ovrs : Nat := 0
  /-- core of the last LINING_MISMATCH (R262) -/
  lastMiss : Option Nat := Option.none
  avoid : List Nat := []
  moved : Bool := false
  frec : List Byte := []
  /-- cycle since which the task's next crew has fitted nowhere (R134) -/
  unplacedSince : Option Nat := Option.none
  /-- cycle since which no path could progress (R241) -/
  stuckSince : Option Nat := Option.none
  startAt : Nat := 0
  /-- byte offset of its saved block in the context-save area (R254) -/
  block : Nat := 0
  blockLen : Nat := 0
  /-- the bytes of that block as the device wrote them: a restore takes what has changed since from memory (R253) -/
  image : List Byte := []
  /-- the fault that stops it, while what its teams have issued is still being performed (R218, R252, R422) -/
  stopping : Option Stopping := Option.none
  deriving DecidableEq, Repr

/-- The speculative version and tracking of one cohort (R170, R171, R173). -/
structure Cohort where
  fn : Nat := 0
  ts : Word64 := 0#64
  bytes : List Host.Cell := []
  reads : List Nat := []
  writes : List Nat := []
  /-- 128-byte lines for which the cohort holds an entry -/
  lines : List Nat := []
  writeThrough : Bool := false
  deriving DecidableEq, Repr

/-- An entry of the signal table (R142). -/
structure SigEntry where
  addr : Nat
  cores : List Nat := []
  deriving DecidableEq, Repr

/-! ### Pending accesses and operations -/

/-- What an access does to each of its units. -/
inductive AccessKind where
  | load | store | combine (op : Nat) | atomic (op : Nat)
  | sharedAtomic (op : Nat) | versioned | readOnly
  deriving DecidableEq, Repr

/-- One element (or one atomic unit) of one lane of an access. -/
structure MUnit where
  lane : Nat
  /-- value index i and element position in the value (R389) -/
  idx : Nat := 0
  elem : Nat := 0
  /-- flat address of the first byte, none when the element is padded or dropped (R111) -/
  addr : Option Nat := Option.none
  bits : Nat := 32
  /-- high nibble of the byte, for 4-bit elements (R110) -/
  hi : Bool := false
  val : Word64 := 0#64
  val2 : Word64 := 0#64
  /-- the tile-table entry that placed it, and its offset in the tile, when the entry's walk is still to
  be made (R117) -/
  entry : Option Nat := Option.none
  off : Nat := 0
  /-- the SOBs to whose regions a written element is bound (R198) -/
  sobs : List Nat := []
  deriving DecidableEq, Repr

/-- A point of order after which an access in flight counts as performed for some parties, though others may
still find it undone (R193, R194): a FENCE, BAR or command at a scope, or a REL with its word and sequence, and
where the team that made it lay. It binds accesses numbered from then on. -/
structure Released where
  scope : Nat
  by_ : Place := {}
  sob : Option (Nat × Nat) := Option.none
  upto : Nat := 0
  deriving DecidableEq, Repr

/-- A global (or shared atomic) access that has issued and is not complete (R233, R386). -/
structure Access where
  team : Nat := 0
  path : Nat := 0
  kind : AccessKind := .load
  /-- address of the bundle that issued it -/
  pc : Nat := 0
  flag : Option Nat := Option.none
  dest : Option (Nat × Bool) := Option.none
  fmt : Fmt := .none
  cnt : Nat := 1
  todo : List MUnit := []
  got : List MUnit := []
  tracked : Bool := true
  irrevocable : Bool := false
  /-- no value is performed before this cycle (R401) -/
  earliest : Nat := 0
  /-- accesses in flight that precede it in program order (R187, R188) -/
  order : List Nat := []
  /-- accesses that must be complete before any of it is performed: an atomic's implied fence (R398) -/
  after : List Nat := []
  /-- walks that it waits for (R117) -/
  walks : List Nat := []
  tensor : Nat := 0
  /-- version words to check, as flat addresses; how often they were not all even, and those on which the
  read has a hold after 16 such attempts (R213) -/
  versions : List Nat := []
  tries : Nat := 0
  holds : List Nat := []
  /-- entry addresses whose words it used (R119) -/
  entries : List Nat := []
  /-- cycle since which a unit waits for a speculation entry (R182) -/
  fullSince : Option Nat := Option.none
  fullLine : Nat := 0
  /-- the points of order that have passed it by -/
  released : List Released := []
  /-- an engine command's write: the command and its channel (R206, R208) -/
  engine : Option (Nat × Nat) := Option.none
  /-- HOST and REMOTE: every byte is performed by itself (R190) -/
  bytewise : Bool := false
  /-- a byte of it lies in a word with an uncorrectable error (R39) -/
  bad : Option Nat := Option.none
  /-- faults of its elements, which are taken when its last walk has ended (R117, R121) -/
  bads : List LaneBad := []
  /-- it was issued by a parked path's replay (R240) -/
  replays : Bool := false
  deriving DecidableEq, Repr

/-- A value that a byte held until a cycle, in memory or, where `own` names one, in a cohort's version (R209). -/
structure Past where
  until_ : Nat
  addr : Nat
  old : Byte
  own : Option (Nat × Word64) := Option.none
  deriving DecidableEq, Repr

/-- A walk of a tile table, for a path or an engine command of a team (R117, R129). -/
structure TileWalk where
  task : Nat := 0
  team : Nat := 0
  path : Nat := 0
  tensor : Nat := 0
  entry : Nat := 0
  /-- the cycle of the miss; one of its core's 8 and its die's 64 walks in flight (R117) -/
  at_ : Nat := 0
  flying : Bool := false
  /-- an invalidation has discarded it, and it has not restarted (R119) -/
  again : Bool := false
  /-- its entry address failed the comparator, and the record of that (R129) -/
  stopped : Bool := false
  record : Option Nat := Option.none
  deriving DecidableEq, Repr

/-- Other operations in flight. -/
inductive PendOp where
  | acq (team path rgn : Nat) (soba : Nat) (dest : Option Nat) (value : Option Word64) (flag scope : Nat)
  | rel (team path rgn : Nat) (soba : Nat) (dest : Option Nat) (flag : Option Nat) (scope : Nat) (waits : List Nat)
  | signal (team path : Nat) (addr : Word64) (value : Word64) (waits : List Nat) (started : Bool)
  | spawn (team path : Nat) (templ ts : Word64) (flag : Nat) (pc : Nat) (since : Nat) (fault : Option FaultInfo)
  | coll (team path : Nat) (desc : List Word64) (flag : Option Nat) (pc : Nat) (waits : List Nat) (src : Option (List Byte)) (fault : Option FaultInfo)
  | walk (w : TileWalk)
  | lvreq (team engine : Nat) (flag cost : Nat)
  /-- a RADV whose count waits for the shared atomics that it must follow (R204, R405) -/
  | radv (team ring amount : Nat) (producer : Bool) (waits : List Nat)
  deriving DecidableEq, Repr

/-- An entry of the page-request pool, or a request that waits for one (R124). -/
structure PageReq where
  fn : Nat
  entry : Nat
  host : Bool := false
  tensor : Nat := 0
  task : Nat := 0
  write : Bool := false
  /-- number of the pool entry, none while the request waits (R124) -/
  pool : Option Nat := Option.none
  shared : Bool := false
  /-- index of its written record (R126) -/
  record : Option Nat := Option.none
  /-- parked paths: team and path -/
  parked : List (Nat × Nat) := []
  /-- engine commands that wait for it (R412) -/
  engines : List Nat := []
  deriving DecidableEq, Repr

/-! ### Cores, dies, links -/

structure TtbEntry where
  fn : Nat
  entry : Nat
  word : Word64
  deriving DecidableEq, Repr

/-- A line as a task of a cohort read it, and when (R209). -/
structure RoLine where
  line : Nat
  fn : Nat
  ts : Word64
  filled : Nat
  bytes : List Byte
  deriving DecidableEq, Repr

/-- One physical core (R34, R155, R219). -/
structure Core where
  temp : BitVec 11 := 0#11
  /-- the cycle of the last temperature sample (R32) -/
  senseAt : Option Nat := Option.none
  hot : Bool := false
  droop : Bool := false
  noLeave : Bool := false
  cstate : BitVec 2 := 0#2
  droopCnt : BitVec 16 := 0#16
  hotRun : Nat := 0
  coolRun : Nat := 0
  droopTimes : List Nat := []
  /-- module logical number it bears, if any (R15) -/
  logical : Option Nat := Option.none
  /-- marked for retirement after a move that succeeded, by a task of a function (R262, R263) -/
  failing : Bool := false
  blame : Option Nat := Option.none
  lastCtx : Nat := 7
  busyUntil : Nat := 0
  standby : List Nat := []
  ttb : List TtbEntry := []
  ro : List RoLine := []
  matrix : List MxCmd := []
  /-- the copy engine: its rotating pointer over crews' channels, and the bytes moved in a cycle (R413) -/
  copyPtr : Nat := 0
  copyAt : Nat := 0
  copyBytes : Nat := 0
  /-- (crew, channel) of the units that have come and that the copy engine has not yet taken (R413) -/
  copyTurns : List (Nat × Nat) := []
  lastStart : Option Nat := Option.none
  /-- team place sampled last, and the first cycle at which the next sample may be taken (R279) -/
  lastPlace : Nat := 63
  nextSample : Nat := 0
  deriving DecidableEq, Repr

/-- A leave request or a granted leave of one engine (R26). Costs are in tenths of a watt. -/
structure Leave where
  engine : Nat
  core : Nat
  cost : Nat
  /-- operation that asked, for LVREQ's flag -/
  op : Option Nat := Option.none
  reservation : Bool := false
  at_ : Nat := 0
  /-- the engine is idle since this cycle (R26) -/
  idleSince : Option Nat := Option.none
  deriving DecidableEq, Repr

structure Die where
  ceil : BitVec 12 := 0x140#12
  ramp : BitVec 8 := 0x18#8
  queue : List Leave := []
  granted : List Leave := []
  /-- cycle and granted total at each change, newest first (R27) -/
  history : List (Nat × Nat) := []
  pointer : Nat := 0
  /-- rotating pointer of the walks of one cycle (R117) -/
  walkPtr : Nat := 0
  stopped : Bool := false
  deriving DecidableEq, Repr

/-- A part that needs repair (R35): a core, a row of a pseudo-channel, the channel itself, a way of an L2 slice, or a
lane of a port. -/
inductive Repair where
  | core (core : Nat) | row (chan : Nat) | channel (chan : Nat) | way (slice way : Nat) | lane (port : Nat)
  deriving DecidableEq, Repr

structure LinkPort where
  badLanes : Nat := 0
  down : Bool := false
  deriving DecidableEq, Repr

structure Lpat where
  part : BitVec 5 := 0#5
  isOpen : Bool := true
  share : Bool := false
  deriving DecidableEq, Repr

/-! ### Partitions -/

structure PSlot where
  owner : Byte := 0xFF#8
  len : BitVec 14 := 0#14
  drain : BitVec 10 := 0#10
  donee : Byte := 0xFF#8
  deriving DecidableEq, Repr

/-- How far an edge or a hand-over has come (R92): issue has stopped; the latch images are taken; the tasks are being
saved; the flush. -/
inductive EdgeStep where
  | none | stopping | frozen | saving | flushing
  deriving DecidableEq, Repr

/-- An unresolved prediction of the walker (R147). -/
structure Predict where
  id : Nat
  node : Nat
  tsnext : Word64
  taken : Bool
  /-- the WHILE counts when the node was reached -/
  counts : Tab Nat := []
  /-- the highest timestamp that the walk had assigned when the node was reached -/
  assigned : Option Word64 := Option.none
  deriving DecidableEq, Repr

/-- An add that a SIGTOK node has left to make (R146). -/
structure SigTok where
  addr : Nat
  /-- TSNEXT at the node -/
  tsnext : Word64 := 0#64
  /-- the highest timestamp that the walk assigned before the node, which HEMLINE must exceed -/
  above : Option Word64 := Option.none
  /-- predictions under which the node was passed and which stand -/
  under : List Nat := []
  deriving DecidableEq, Repr

/-- A walk of the graph walker (R143-R148). -/
structure Walk where
  lrec : LaunchRec := {}
  fn : Nat := 0
  queue : Nat := 0
  slot : Nat := 0
  first : Nat := 0
  nnode : Nat := 0
  pos : Nat := 1
  tsnext : Word64 := 0#64
  outcomes : Tab Nat := []
  counts : Tab Nat := []
  predicts : List Predict := []
  /-- the highest timestamp that the walk has assigned (R146) -/
  assigned : Option Word64 := Option.none
  sigtoks : List SigTok := []
  /-- tasks of the SPAWNSET at `pos` that have been created -/
  spawned : Nat := 0
  ended : Bool := false
  deriving DecidableEq, Repr

structure Part where
  bays : BitVec 32 := 0#32
  en : Bool := false
  /-- module logical numbers of its cores in relative order, fixed at the enable (R79) -/
  lcores : List Nat := []
  specWays : BitVec 4 := 0#4
  otb : BitVec 10 := 0#10
  nslotm1 : BitVec 4 := 0#4
  cfgErr : Bool := false
  curSlot : Nat := 0
  runVf : Option Nat := Option.none
  draining : Bool := false
  donated : Bool := false
  frames : Word32 := 0#32
  pstart : Word64 := 0#64
  scrubGran : BitVec 9 := 0#9
  scrubBusy : Bool := false
  scrubErr : Bool := false
  clean : BitVec 384 := 0#384
  shadow : Tab PSlot := []
  live : List PSlot := []
  nextLive : Option (List PSlot) := Option.none
  /-- device time of the current frame's start and of the current slot's edge, in ns (R90) -/
  frameAt : Nat := 0
  slotAt : Nat := 0
  started : Bool := false
  /-- the function whose work an edge stopped, and the one that runs after its flush (R92) -/
  edgeX : Option Nat := Option.none
  edgeY : Option Nat := Option.none
  /-- an edge or a hand-over is under way, and the cycle of its next step (R92) -/
  edgeStep : EdgeStep := .none
  edgeAt : Nat := 0
  /-- the cycle of c+64, from which S counts, and the least cycle at which the flush may end (R92) -/
  edgeFrom : Nat := 0
  edgeLast : Nat := 0
  /-- tasks still to be saved, how many tasks are charged, and the cycle at which each core's saves end (R92, R93) -/
  toSave : List Nat := []
  charged : Nat := 0
  saveEnd : Tab Nat := []
  flushTo : Nat := 0
  /-- the dispatcher is closed until this cycle, and opened by DEBIT_HOLD_END (R94) -/
  openAt : Nat := 0
  isOpen : Bool := false
  dispPtr : Tab Nat := []
  nextDispatch : Nat := 0
  /-- common ways that stand in for retired speculation ways, by bay (R38) -/
  swaps : List (Nat × Nat) := []
  placePtr : Nat := 0
  signals : List SigEntry := []
  /-- leased frames: first frame and count (R102) -/
  leases : List (Nat × Nat × Nat) := []
  deriving DecidableEq, Repr

/-! ### Functions -/

structure Queue where
  qbase : Word64 := 0#64
  en : Bool := false
  logsz : BitVec 4 := 0#4
  irq : Bool := false
  qtaila : Word64 := 0#64
  qheada : Word64 := 0#64
  qhead : Word64 := 0#64
  qtailv : Word64 := 0#64
  qerr : Word64 := 0#64
  qdone : Word64 := 0#64
  /-- the cycle since which the tail word has differed from QTAILV (R55) -/
  tailAt : Option Nat := Option.none
  deriving DecidableEq, Repr

structure SealedSlot where
  live : Bool := false
  releasing : Bool := false
  gen : BitVec 16 := 0#16
  base : Nat := 0
  len : Nat := 0
  /-- kernel header word and first bundle index of each entry (R65) -/
  entries : List (Word64 × Nat) := []
  /-- the bundles as the seal copied them (R492) -/
  body : List Byte := []
  deriving DecidableEq, Repr

/-- The saved block of a FAULTED task that has committed: it stays until its queue is enabled (R252). -/
structure FaultBlock where
  queue : Nat
  slot : Nat
  taskid : Nat
  off : Nat
  len : Nat
  deriving DecidableEq, Repr

/-- A VF, or the PF as function 192 (R44, R82). -/
structure Func where
  -- VF block (R82)
  en : Bool := false
  pause : Bool := false
  paused : Bool := false
  cfgErr : Bool := false
  part : BitVec 5 := 0#5
  donateOut : Bool := false
  donateIn : Bool := false
  hidePause : Bool := false
  scopeCap : Bool := false
  segBase : BitVec 9 := 0#9
  segCount : BitVec 9 := 0#9
  ways : BitVec 24 := 0#24
  qmax : BitVec 7 := 0#7
  sealMax : BitVec 9 := 0#9
  codeMb : BitVec 12 := 0#12
  feat : BitVec 14 := 0#14
  ctxb : Word64 := 0#64
  gtoff : Word64 := 0#64
  gtime : Word64 := 0#64
  owed : Nat := 0
  last : Nat := 0
  savedTasks : Nat := 0
  /-- COUNT when EN went to 1, which places the code area (R67) -/
  countAtEnable : Nat := 0
  pausedAt : Nat := 0
  -- VFSTAT (R49)
  mbDone : Bool := false
  qStop : Bool := false
  prq : Bool := false
  overrun : Bool := false
  tsClamp : Bool := false
  attDone : Bool := false
  dbgLease : Bool := false
  profLease : Bool := false
  ovrCnt : BitVec 16 := 0#16
  -- mailbox (R50)
  msg : Tab Word64 := []
  /-- the request as posted, with its code and its first argument (R51, R52) -/
  posted : Tab Word64 := []
  mbCode : Nat := 0
  mbArg : Nat := 0
  mbBusy : Bool := false
  mbStatus : Byte := 0#8
  /-- the request waits for the end of a firmware swap (R42) -/
  mbHeld : Bool := false
  -- queues (R53)
  queues : Tab Queue := []
  -- sealing (R66)
  sealSrc : Word64 := 0#64
  sealLen : Word64 := 0#64
  sealH : BitVec 128 := 0#128
  sealBusy : Bool := false
  sealResult : Byte := 0#8
  slots : Tab SealedSlot := []
  mcode : List Byte := []
  -- attestation (R74)
  nonce : Tab Word64 := []
  attAddr : Word64 := 0#64
  -- page requests (R126)
  prBase : Word64 := 0#64
  prEn : Bool := false
  prLogsz : BitVec 4 := 0#4
  prErr : Bool := false
  prTail : Word64 := 0#64
  prHead : Word64 := 0#64
  tinva : Word64 := 0#64
  tinvn : Word64 := 0#64
  tinvBusy : Bool := false
  /-- the entries under invalidation, as the GO found them; accesses numbered below the mark were there
  when it started (R119) -/
  tinvFrom : Nat := 0
  tinvLen : Nat := 0
  tinvMark : Nat := 0
  prWin : BitVec 4 := 0#4
  /-- records completed, so that a second PRCPL is ignored (R128) -/
  prDone : List Nat := []
  -- counters (R185, R263)
  spCommit : Word64 := 0#64
  spAbortC : Word64 := 0#64
  spAbortD : Word64 := 0#64
  spAbortK : Word64 := 0#64
  spAbortP : Word64 := 0#64
  spAbortE : Word64 := 0#64
  spDefer : Word64 := 0#64
  spWthru : Word64 := 0#64
  lnAbort : Word64 := 0#64
  lnMove : Word64 := 0#64
  lnStop : Word64 := 0#64
  lnRetire : Word64 := 0#64
  -- debug window (R265)
  dbgCtl : BitVec 4 := 0#4
  dbgSel : Word64 := 0#64
  dbgResult : BitVec 4 := 0#4
  dbgOvf : Bool := false
  dbgArg : Word64 := 0#64
  dbgCrew : Word64 := 0#64
  dbgArg2 : Word64 := 0#64
  /-- the team of the STEP that was given last through this window: BUSY while it runs (R265, R271) -/
  dbgStep : Option Nat := Option.none
  bkpt : Tab Word64 := []
  wpt : Tab Word64 := []
  stopEv : Tab (BitVec 128) := []
  stopTail : Word64 := 0#64
  stopHead : Word64 := 0#64
  -- sampling and trace (R278, R281, R282)
  smpBase : Word64 := 0#64
  smpCtl : Word64 := 0#64
  smpTail : Word64 := 0#64
  smpHead : Word64 := 0#64
  smpDrop : Word64 := 0#64
  trcBase : Word64 := 0#64
  trcCtl : Word64 := 0#64
  trcTail : Word64 := 0#64
  trcHead : Word64 := 0#64
  trcDrop : Word64 := 0#64
  pmSel : Tab Word64 := []
  pmCnt : Tab Word64 := []
  -- order of tasks (R167, R468)
  hemline : Word64 := 0#64
  /-- the cycle at which the commit of the frontier cohort began (R166, R174) -/
  sealedAt : Option Nat := Option.none
  highest : Option Word64 := Option.none
  nextTaskid : Nat := 0
  /-- the walk of the partition's walker, kept with the queue state at an edge (R143, R255) -/
  walk : Option Walk := Option.none
  /-- its state block as the last edge wrote it, since it was enabled (R255) -/
  spilled : List Byte := []
  faultBlocks : List FaultBlock := []
  deriving DecidableEq, Repr

/-- The bundle that is issuing: who issues it, and what its header gives the slots. Model's own. -/
structure Issue where
  team : Nat := 0
  path : Nat := 0
  /-- the bundle's address -/
  pc : Nat := 0
  /-- the extra cycles of each pass (R228) -/
  extra : List Nat := []
  hdr : Header := ⟨0#5, false, false, false, 0#4, false, 0#4, false, 0#4, false, 0#4, false, false, false, false, false⟩
  /-- only this slot executes: the replay of a parked or deferred slot (R180, R239) -/
  only : Option Slot := Option.none
  /-- the lanes it executes for -/
  lanes : Option Mask := Option.none
  /-- results in flight before the bundle: what its slots write is not read by its slots (R225) -/
  seen : Option Nat := Option.none
  /-- several slots run: a fault is noted, and taken when all have run (R244, R328) -/
  collect : Bool := false
  faults : List FaultInfo := []
  /-- several slots fault: a slot that faults takes no effect in any lane (R328) -/
  alone : Bool := false
  deriving DecidableEq, Repr

/-- A stop of this cycle, whose record is written when the cycle ends (R270). -/
structure Stop where
  team : Nat
  path : Nat
  fn : Nat
  slot : Nat
  tix : Nat
  code : Nat
  idx : Nat
  crew : Nat
  lcore : Nat
  taskid : Nat
  pc : Nat
  deriving DecidableEq, Repr

/-- The whole module. -/
structure State where
  now : Nat := 0
  free : Nat := 0
  agenda : List (Nat × Instr) := []
  issue : Option Issue := Option.none
  nextId : Nat := 1
  mem : List Host.Cell := []
  hostBad : List Nat := []
  /-- 32-byte words of HBM, by flat address / 32, that hold an error which the ECC detects and cannot
  correct (R18, R39) -/
  eccBad : List Nat := []
  teams : Tab Team := []
  crews : Tab Crew := []
  tasks : Tab Task := []
  cohorts : List Cohort := []
  accesses : Tab Access := []
  ops : Tab PendOp := []
  /-- what precedes a pending operation in its path's program order: accesses and operations (R187, R188) -/
  opOrder : Tab (List Nat) := []
  /-- ACQ, REL and SCOPE of the COLLs in flight (R206, R436) -/
  collX : Tab XFields := []
  /-- what bytes of memory held while the tasks run that there are: reads through the read-only L1 may return it
  (R209) -/
  past : List Past := []
  /-- engine commands that wait for a speculation entry: since when, and its line (R182) -/
  fulls : Tab (Nat × Nat) := []
  pages : List PageReq := []
  pagePtr : Nat := 0
  cores : Tab Core := []
  dies : Tab Die := []
  ports : Tab LinkPort := []
  lpat : Tab Lpat := []
  lpatLive : Tab Lpat := []
  lpLenM1 : BitVec 6 := 0#6
  lpLenLive : BitVec 6 := 0#6
  parts : Tab Part := []
  funcs : Tab Func := []
  -- management page (R47)
  linkDeg : Bool := false
  recovery : Bool := false
  thermal : Bool := false
  repair : Bool := false
  reduced : Bool := false
  stSrc : Word64 := 0#64
  stLen : Word64 := 0#64
  stAddr : Word64 := 0#64
  stData : Word64 := 0#64
  stCmd : Option Nat := Option.none
  stResult : Byte := 0#8
  /-- the steward image that has been swapped in; none is the one with which the device came (R41, R42) -/
  fwImage : Option (List Byte) := Option.none
  -- walk-fault queue (R129), PF areas (R488, R492)
  wqBase : Word64 := 0#64
  wqEn : Bool := false
  wqLogsz : BitVec 4 := 0#4
  wqTail : Word64 := 0#64
  wqHead : Word64 := 0#64
  pfCtxb : Word64 := 0#64
  pfCodeb : Word64 := 0#64
  -- repairs (R35-R40)
  /-- repairs that have been detected and not carried out, in that order (R40) -/
  repairs : List Repair := []
  /-- the stops of this cycle (R270) -/
  stops : List Stop := []
  /-- transient events: the cycle, and the part whose retry was clean (R35, R262) -/
  transients : List (Nat × Repair) := []
  rowsUsed : Tab Nat := []
  chanCopy : List Nat := []
  /-- copies whose end a profiling lease holds up (R102) -/
  chanHeld : List Nat := []
  chanRetired : List Nat := []
  reserveUsed : Tab Nat := []
  releaseAsked : Tab Bool := []
  waysRetired : List (Nat × Nat) := []
  vacant : List Nat := []
  /-- MSI-X vectors raised: function * 8 + vector, with how often (R45, R49) -/
  irqs : Tab Nat := []
  /-- messages that left for a peer: flat address and bytes, newest first (R113) -/
  sent : List (Nat × List Byte) := []
  deriving DecidableEq, Repr

/-- The module right after device reset: every register at the value its map states; what the maps
leave open is named in log entry 4, memory in log entry 2. -/
def State.reset : State := {}

end Sys2Proof.Machine
end

