-- ==== Sys2Proof/Machine/Base.lean ====
section
/-! DEFINITION. Reading and updating the parts of State by number, masks and passes, address spaces,
and the facts about tasks that many rules use. -/

namespace Sys2Proof.Machine

open Sys2Proof

/-- The PF as a function number (R44). -/
def pfFn : Nat := 192

/-- The free bays as a partition number (R485). -/
def freePart : Nat := 32

/-! ### Parts of the state -/

def State.team (s : State) (t : Nat) : Team := Tab.get s.teams t {}
def State.crew (s : State) (c : Nat) : Crew := Tab.get s.crews c {}
def State.task (s : State) (k : Nat) : Task := Tab.get s.tasks k {}

/-- A core as device reset leaves it: position 12 of a bay is the spare (R13, R15, R34). -/
def coreReset (c : Nat) : Core :=
  if c % 13 == 12 then { cstate := 1#2 } else { logical := some (c / 13 * 12 + c % 13) }

def State.core (s : State) (c : Nat) : Core := Tab.get s.cores c (coreReset c)

def State.die (s : State) (d : Nat) : Die := Tab.get s.dies d {}
def State.part (s : State) (p : Nat) : Part := Tab.get s.parts p {}
def State.func (s : State) (f : Nat) : Func := Tab.get s.funcs f {}

def State.setTeam (s : State) (t : Nat) (x : Team) : State := { s with teams := Tab.set s.teams t x }
def State.setCrew (s : State) (c : Nat) (x : Crew) : State := { s with crews := Tab.set s.crews c x }
def State.setTask (s : State) (k : Nat) (x : Task) : State := { s with tasks := Tab.set s.tasks k x }
def State.setCore (s : State) (c : Nat) (x : Core) : State := { s with cores := Tab.set s.cores c x }
def State.setDie (s : State) (d : Nat) (x : Die) : State := { s with dies := Tab.set s.dies d x }
def State.setPart (s : State) (p : Nat) (x : Part) : State := { s with parts := Tab.set s.parts p x }
def State.setFunc (s : State) (f : Nat) (x : Func) : State := { s with funcs := Tab.set s.funcs f x }

def State.modTeam (s : State) (t : Nat) (g : Team → Team) : State := s.setTeam t (g (s.team t))
def State.modCrew (s : State) (c : Nat) (g : Crew → Crew) : State := s.setCrew c (g (s.crew c))
def State.modTask (s : State) (k : Nat) (g : Task → Task) : State := s.setTask k (g (s.task k))
def State.modCore (s : State) (c : Nat) (g : Core → Core) : State := s.setCore c (g (s.core c))
def State.modDie (s : State) (d : Nat) (g : Die → Die) : State := s.setDie d (g (s.die d))
def State.modPart (s : State) (p : Nat) (g : Part → Part) : State := s.setPart p (g (s.part p))
def State.modFunc (s : State) (f : Nat) (g : Func → Func) : State := s.setFunc f (g (s.func f))

def Team.path (tm : Team) (p : Nat) : Path := Tab.get tm.paths p {}
def Team.setPath (tm : Team) (p : Nat) (x : Path) : Team := { tm with paths := Tab.set tm.paths p x }
def Team.modPath (tm : Team) (p : Nat) (g : Path → Path) : Team := tm.setPath p (g (tm.path p))

def State.modPath (s : State) (t p : Nat) (g : Path → Path) : State :=
  s.modTeam t (fun tm => tm.modPath p g)

/-- Raise a vector of a function (R45, R49). -/
def State.irq (s : State) (fn vec : Nat) : State :=
  { s with irqs := Tab.set s.irqs (fn * 8 + vec) (Tab.get s.irqs (fn * 8 + vec) 0 + 1) }

/-- A fresh number. -/
def State.newId (s : State) : Nat × State := (s.nextId, { s with nextId := s.nextId + 1 })

/-- One more free value has been used. -/
def State.bump (s : State) : State := { s with free := s.free + 1 }

/-- Bit positions of a number below n. -/
def bitsBelow (n : Nat) (x : Nat) : List Nat := (List.range n).filter (fun i => Nat.testBit x i)

/-- The event comes again a cycle later. -/
def State.later (s : State) (i : Instr) : State := { s with agenda := s.agenda ++ [(s.now + 1, i)] }

/-! ### Masks and passes (R220, R221) -/

/-- Word w of a mask. -/
def maskWord (m : Mask) (w : Nat) : Nat := fld m.toNat (32 * w) 32

/-- The lanes 0 to n - 1. -/
def maskUpTo (n : Nat) : Mask := BitVec.ofNat 1024 (2 ^ n - 1)

def maskHas (m : Mask) (l : Nat) : Bool := Nat.testBit m.toNat l

/-- The lanes of a mask, ascending. -/
def maskLanes (m : Mask) : List Nat := bitsBelow 1024 m.toNat

def maskOf (ls : List Nat) : Mask := BitVec.ofNat 1024 (ls.foldl (fun a l => a ||| 2 ^ l) 0)

/-- The current mask: the top of the stack, or the base mask (R220). -/
def Path.active (pa : Path) : Mask := pa.stack.headD pa.base

/-- The non-empty words of a mask below a count, ascending (R221). -/
def maskWords (n : Nat) (m : Mask) : List Nat := (List.range n).filter (fun w => maskWord m w != 0)

/-- The lowest lane of a mask. -/
def lowestLane (m : Mask) : Option Nat :=
  (maskWords 32 m).head?.bind (fun w =>
    ((List.range 32).find? (fun j => Nat.testBit (maskWord m w) j)).map (32 * w + ·))

/-- Lanes of one word of a mask. -/
def wordLanes (m : Mask) (w : Nat) : List Nat :=
  ((List.range 32).filter (fun j => Nat.testBit (maskWord m w) j)).map (32 * w + ·)

/-! ### Address spaces -/

/-- The flat address of a function's guest-physical address: in its segment for a VF, host memory
for the PF (R78, R113, R120, R485). -/
def flatOf (s : State) (fn a : Nat) : Nat :=
  if fn == pfFn then spaceBase hostSpace + a
  else spaceBase (s.func fn).part.toNat + (s.func fn).segBase.toNat * 2 ^ 30 + a

/-- The flat address of a host I/O virtual address. -/
def hostFlat (a : Nat) : Nat := spaceBase hostSpace + a

/-- Two ranges do not meet. -/
def apart (a n b m : Nat) : Bool := decide (a + n ≤ b) || decide (b + m ≤ a) || n == 0 || m == 0

/-- A host range that address translation services can translate: no page of it is listed as
failing (R54, R63, R121; log 3). -/
def hostOk (s : State) (a n : Nat) : Bool :=
  !s.hostBad.any (fun pg => !apart a n (pg * 4096) 4096) && decide (a + n ≤ 2 ^ 64)

/-- The context-save area of a function: base and bytes (R82, R488). -/
def ctxArea (s : State) (fn : Nat) : Nat × Nat :=
  let r := if fn == pfFn then s.pfCtxb.toNat else (s.func fn).ctxb.toNat
  (fld r 12 36 * 4096, fld r 48 16 * 2 ^ 20)

/-- The code area of a function: base and bytes (R67, R492). -/
def codeArea (s : State) (fn : Nat) : Nat × Nat :=
  if fn == pfFn then (fld s.pfCodeb.toNat 12 36 * 4096, fld s.pfCodeb.toNat 48 16 * 2 ^ 20)
  else
    let f := s.func fn
    (f.countAtEnable * 2 ^ 30 - f.codeMb.toNat * 2 ^ 20, f.codeMb.toNat * 2 ^ 20)

/-- Every byte of a range passes the segment comparator (R120); the PF's addresses are host
addresses (R485). -/
def inSeg (s : State) (fn a n : Nat) : Bool :=
  if fn == pfFn then hostOk s a n
  else
    let code := codeArea s fn
    let ctx := ctxArea s fn
    decide (a + n ≤ (s.func fn).segCount.toNat * 2 ^ 30) && apart a n code.1 code.2
      && apart a n ctx.1 ctx.2

/-- Committed bytes of a function's memory. -/
def gBytes (s : State) (fn a n : Nat) : List Byte := Memory.bytes s.mem (flatOf s fn a) n

def gNat (s : State) (fn a n : Nat) : Nat := leNat (gBytes s fn a n)

/-- Signal-table entries of a written word are removed (R142). -/
def dropSignals (s : State) (flat n : Nat) : State :=
  { s with parts := s.parts.map (fun e =>
      (e.1, { e.2 with signals := e.2.signals.filter (fun g => apart g.addr 8 flat n) })) }

/-! ### Errors that the ECC cannot correct (R18, R39) -/

/-- The 32-byte words of HBM that show an error from now on: each is named by its flat address / 32. -/
def noteErrors (s : State) (ws : List Nat) : State :=
  { s with eccBad := s.eccBad ++ (ws.eraseDups).filter (fun w =>
      !s.eccBad.contains w && decide (32 * w < spaceBase hostSpace)) }

/-- The first byte of a range that lies in such a word. -/
def eccHit (s : State) (flat n : Nat) : Option Nat :=
  (s.eccBad.find? (fun w => !apart (32 * w) 32 flat n)).map (fun w => max flat (32 * w))

/-- A word of which every byte is written anew holds no error any more (log 57). -/
def healWords (l : List Nat) (covers : Nat → Bool) : List Nat :=
  l.filter (fun w => !(List.range 32).all (fun i => covers (32 * w + i)))

/-- Some bytes are about to be replaced: what they hold is noted while there are tasks (R209). -/
def notePast (s : State) (own : Option (Nat × Word64)) (cells : List Host.Cell) : List Past :=
  if s.tasks.isEmpty then []
  else cells.map (fun b => { until_ := s.now, addr := b.1, old := b.2, own := own }) ++ s.past

/-- The bytes of a range of memory with their addresses. -/
def cellsAt (s : State) (flat n : Nat) : List Host.Cell :=
  (List.range n).map (fun i => (flat + i, Memory.read s.mem (flat + i)))

/-- A write of memory; one to a peer's window leaves as a message too (R113). -/
def memWrite (s : State) (flat : Nat) (bs : List Byte) : State :=
  { dropSignals s flat bs.length with
           past := notePast s none (cellsAt s flat bs.length)
           mem := Memory.write s.mem flat bs
           eccBad := healWords s.eccBad (fun a => decide (flat ≤ a) && decide (a < flat + bs.length))
           sent := if hostSpace < spaceOf flat then (flat, bs) :: s.sent else s.sent }

/-- An address word of a queue or token: bit 0 is HOST, the rest the address (R53, R58). -/
def tokenFlat (s : State) (fn w : Nat) : Nat :=
  let a := w / 8 * 8
  if w % 2 == 1 then hostFlat a else flatOf s fn a

/-- Can the bytes at a token address be reached (R54, R63)? -/
def tokenOk (s : State) (fn w n : Nat) : Bool :=
  let a := w / 8 * 8
  if w % 2 == 1 then hostOk s a n else inSeg s fn a n

/-! ### Shared memory of a crew -/

def shmBytes (cr : Crew) (off n : Nat) : List Byte := Memory.bytes cr.shm off n

/-- Bytes are written to shared memory; while a stream port of the crew is configured, they are noted
(R408). -/
def shmWrite (cr : Crew) (off : Nat) (bs : List Byte) : Crew :=
  let noted := if cr.logging then
      (List.range bs.length).map (fun i => (off + i, bs.getD i 0#8)) else []
  { cr with shm := Memory.write cr.shm off bs, wlog := cr.wlog ++ noted }

/-- A team is about to write some bytes: other teams may read what they hold now (R400). -/
def Crew.noteLate (cr : Crew) (t : Nat) (addrs : List Nat) : Crew :=
  { cr with late := cr.late ++ addrs.eraseDups.map (fun a => { team := t, addr := a, old := Memory.read cr.shm a }) }

/-- An engine writes bytes of shared memory: nobody reads what stood there before (R204, R205). -/
def engineWrite (cr : Crew) (off : Nat) (bs : List Byte) : Crew :=
  let cr := if cr.late.isEmpty then cr
    else { cr with late := cr.late.filter (fun e => decide (e.addr < off) || decide (off + bs.length ≤ e.addr)) }
  shmWrite cr off bs

/-- What follows the last entry of a team. -/
def afterLast (t : Nat) (l : List LateStore) : List LateStore :=
  l.foldl (fun k e => if e.team == t then [] else k ++ [e]) []

/-- Any of the values that a byte may have: which, the spec leaves open. -/
def anyOf (fr a : Nat) : List Byte → Byte
  | [] => 0#8
  | [v] => v
  | vals => vals.getD (Config.choose fr a % vals.length) 0#8

/-- What other teams' stores have replaced of a byte, oldest first, and a team may still read: it has neither
stored there since nor read a later value (R188). -/
def openLate (cr : Crew) (t a : Nat) : List LateStore :=
  (afterLast t (cr.late.filter (fun e => e.addr == a))).filter (fun e => !e.seen.contains t)

/-- A byte of shared memory as a team reads it: the value now, or one that another team's store has replaced and
that is not released (R203, R204, R400). -/
def shmSeen (cr : Crew) (fr t a : Nat) : Byte :=
  anyOf fr a (Memory.read cr.shm a :: (openLate cr t a).map LateStore.old)

/-- What a team has passed by a read of a byte: everything older than the value it read (R188). -/
def passedLate (cr : Crew) (fr t a : Nat) : List LateStore :=
  let olds := openLate cr t a
  match Config.choose fr a % (olds.length + 1) with
  | 0 => olds
  | n + 1 => olds.take n

/-- A team has read some bytes. -/
def Crew.noteSeen (cr : Crew) (fr t : Nat) (addrs : List Nat) : Crew :=
  if cr.late.isEmpty then cr
  else
    let passed := addrs.eraseDups.flatMap (passedLate cr fr t)
    { cr with late := cr.late.map (fun e => if passed.contains e then { e with seen := t :: e.seen } else e) }

/-- The shared-memory stores of a team are released at CREW scope (R194, R203, R204): nobody reads what stood
before them. -/
def Crew.releaseLate (cr : Crew) (t : Nat) : Crew :=
  if cr.late.any (fun e => e.team == t) then
    let addrs := (cr.late.map LateStore.addr).eraseDups
    { cr with late := addrs.flatMap (fun a => afterLast t (cr.late.filter (fun e => e.addr == a))) }
  else cr

/-! ### Time -/

/-- DTIME in nanoseconds (R19, R77). -/
def dtime (s : State) : Nat := s.now * 10 / 19

/-- Cycles of n microseconds. -/
def us (n : Nat) : Nat := 1900 * n

/-- GTIME of a VF (R100); under HIDEPAUSE it stands still while the VF is paused (R82). -/
def gtime (s : State) (fn : Nat) : Nat :=
  let f := s.func fn
  if f.paused && f.hidePause then f.gtime.toNat else (dtime s + f.gtoff.toNat) % 2 ^ 64

/-! ### Tasks -/

/-- HEMLINE of a function (R167). -/
def hem (s : State) (fn : Nat) : Word64 := (s.func fn).hemline

/-- The tasks of a function that have not committed (R167). -/
def tasksOf (s : State) (fn : Nat) : List (Nat × Task) := s.tasks.filter (fun e => e.2.fn == fn)

/-- HEMLINE evaluated again; it never decreases (R167). -/
def updateHem (s : State) (fn : Nat) : State :=
  let f := s.func fn
  let ts := (tasksOf s fn).map (fun e => e.2.ts.toNat)
  let v : Nat := match ts with
    | [] => match f.highest with
      | none => 0
      | some h => min (h.toNat + 1) (2 ^ 64 - 1)
    | t :: r => r.foldl min t
  if f.hemline.toNat < v then s.setFunc fn { f with hemline := BitVec.ofNat 64 v } else s

/-- In the frontier cohort (R168). -/
def isFrontier (s : State) (k : Task) : Bool := k.ts == hem s k.fn

/-- A task is speculative unless it is in the frontier cohort and not predicted (R168). -/
def isSpeculative (s : State) (k : Task) : Bool := !(isFrontier s k && k.predicted.isEmpty)

/-- A feature of R101 is masked for a function. -/
def masked (s : State) (fn bit : Nat) : Bool := (s.func fn).feat.getLsbD bit

/-- Kernel header bits of a task (R64). -/
def Task.cg16 (k : Task) : Bool := k.header.getLsbD 8
def Task.lining (k : Task) : Bool := k.header.getLsbD 9
def Task.migratable (k : Task) : Bool := k.header.getLsbD 10
def Task.priv (k : Task) : Bool := k.header.getLsbD 11

/-- Fields of a launch record's CTL (R58). -/
def Task.ctlField (k : Task) (lo n : Nat) : Nat := fld k.lrec.ctl.toNat lo n
def Task.teamsPerCrew (k : Task) : Nat := k.ctlField 31 4 + 1
def Task.ringCount (k : Task) : Nat := k.ctlField 57 5
def Task.regionCount (k : Task) : Nat := fld k.lrec.counts2.toNat 16 7

/-- The crews a task has: NCREW × L3 × L4 × L5 (R59). -/
def Task.crewTotal (k : Task) : Nat :=
  fld k.lrec.counts.toNat 0 32 * fld k.lrec.counts.toNat 32 16 * fld k.lrec.counts.toNat 48 16
    * fld k.lrec.counts2.toNat 0 16

/-- The teams of a task that are in the machine. -/
def teamsOfTask (s : State) (k : Nat) : List Nat :=
  (s.teams.filter (fun e => e.2.task == k && !e.2.retired)).map Prod.fst

def crewsOfTask (s : State) (k : Nat) : List Nat :=
  (s.crews.filter (fun e => e.2.task == k)).map Prod.fst

/-- Every team of a task stops at its next bundle boundary (R180, R244, R252). -/
def stopTeams (s : State) (k : Nat) : State :=
  { s with teams := s.teams.map (fun e =>
      (e.1, if e.2.task == k then { e.2 with stopped := true } else e.2)) }

/-- They go on, unless a fault is stopping the task. -/
def resumeTeams (s : State) (k : Nat) : State :=
  { s with teams := s.teams.map (fun e =>
      (e.1, if e.2.task == k && (s.task k).stopping.isNone then { e.2 with stopped := false } else e.2)) }

/-- A queue stops with a code (R56): EN clears, QERR records the code and the head, QSTOP is set,
and vector 1 is raised if IRQ is 1. A queue that is stopped already stops again: the model's choice (log 73). -/
def stopQueue (s : State) (fn q code : Nat) : State :=
  let f := s.func fn
  let qu := Tab.get f.queues q {}
  let err := BitVec.ofNat 64 (code + fld qu.qhead.toNat 0 32 * 2 ^ 32)
  let s := s.setFunc fn { f with qStop := true
                                 queues := Tab.set f.queues q { qu with en := false, qerr := err } }
  if qu.irq then s.irq fn 1 else s

/-- The completion of an operation that names a flag (R233): its count falls by 1, and the flag is
set when the count reaches 0. -/
def flagDone (s : State) (t : Nat) (flag : Option Nat) : State :=
  match flag with
  | none => s
  | some k =>
    s.modTeam t (fun tm =>
      let n := Tab.get tm.flagCount k 0 - 1
      { tm with flagCount := Tab.set tm.flagCount k n
                flagSet := if n == 0 then tm.flagSet ||| BitVec.ofNat 16 (2 ^ k) else tm.flagSet })

/-- An issue that names a flag clears it and adds 1 to its count (R233). -/
def flagIssue (s : State) (t : Nat) (flag : Option Nat) : State :=
  match flag with
  | none => s
  | some k =>
    s.modTeam t (fun tm =>
      { tm with flagCount := Tab.set tm.flagCount k (Tab.get tm.flagCount k 0 + 1)
                flagSet := tm.flagSet &&& ~~~(BitVec.ofNat 16 (2 ^ k)) })

end Sys2Proof.Machine
end

