-- ==== Sys2Proof/Machine/Trace.lean ====
section
/-! DEFINITION. Trace records (R281) and the counters of a VF (R282). -/

namespace Sys2Proof.Machine

open Sys2Proof

/-- Kinds of trace record (R281). -/
inductive TraceKind where
  | created | placed | retired | commit | abort | stop | pathCreated | pathMerged | migration
  | save | restore
  deriving DecidableEq, Repr

def TraceKind.code : TraceKind → Nat
  | .created => 1 | .placed => 2 | .retired => 3 | .commit => 4 | .abort => 5 | .stop => 6
  | .pathCreated => 7 | .pathMerged => 8 | .migration => 9 | .save => 10 | .restore => 11

/-- What a record says of where an event happened. -/
structure TraceAt where
  taskid : Nat := 0
  lcore : Nat := 0
  tix : Nat := 0
  path : Nat := 0
  crew : Nat := 0
  /-- PC, or the timestamp for commits and aborts -/
  pc : Nat := 0

/-- The 32 bytes of a record. -/
def traceBytes (s : State) (fn : Nat) (k : TraceKind) (detail : Nat) (a : TraceAt) : List Byte :=
  leBytes 8 (gtime s fn) ++ leBytes 8 a.taskid
    ++ leBytes 4 (k.code + 2 ^ 8 * (detail % 256) + 2 ^ 16 * (a.lcore % 1024) + 2 ^ 26 * (a.tix % 16))
    ++ leBytes 4 (a.path % 8 + 8 * (a.crew % 2 ^ 29)) ++ leBytes 8 a.pc

/-- An event is recorded when the trace is on and its kind is chosen; a full ring loses it (R281). -/
def traceEvent (s : State) (fn : Nat) (k : TraceKind) (detail : Nat) (a : TraceAt) : State :=
  let f := s.func fn
  let ctl := f.trcCtl.toNat
  let size := 2 ^ (fld ctl 1 4 + 10)
  if !bitAt ctl 0 || !bitAt ctl (16 + k.code) then s
  else
    let addr := f.trcBase.toNat / 4096 * 4096 + 32 * (f.trcTail.toNat % size)
    if size ≤ f.trcTail.toNat - f.trcHead.toNat || !inSeg s fn addr 32 then
      s.setFunc fn { f with trcDrop := f.trcDrop + 1#64 }
    else
      memWrite (s.setFunc fn { f with trcTail := f.trcTail + 1#64 }) (flatOf s fn addr)
        (traceBytes s fn k detail a)

/-- A record about a task. -/
def traceTask (s : State) (k : Task) (kind : TraceKind) (detail : Nat) : State :=
  let pc := match kind with | .commit | .abort => k.ts.toNat | _ => k.entryPc
  traceEvent s k.fn kind detail { taskid := k.taskid, pc := pc }

/-- A record about a path. -/
def tracePath (s : State) (t p : Nat) (kind : TraceKind) (detail : Nat) : State :=
  let tm := s.team t
  let cr := s.crew tm.crew
  traceEvent s (s.task tm.task).fn kind detail
    { taskid := (s.task tm.task).taskid, lcore := cr.lcore, tix := tm.tix, path := p, crew := cr.number
      pc := (tm.path p).pc }

/-- A record about a crew. -/
def traceCrew (s : State) (c : Nat) (kind : TraceKind) : State :=
  let cr := s.crew c
  traceEvent s (s.task cr.task).fn kind 0
    { taskid := (s.task cr.task).taskid, lcore := cr.lcore, crew := cr.number
      pc := (s.task cr.task).entryPc }

/-- n more of an event that counters select (R282). -/
def pmCount (s : State) (fn event n : Nat) : State :=
  let f := s.func fn
  let hit (i : Nat) : Bool := fld (Tab.get f.pmSel i 0#64).toNat 0 8 == event
  let is := (List.range 8).filter hit
  if is.isEmpty then s
  else s.setFunc fn { f with pmCnt := is.foldl (fun (t : Tab Word64) i =>
    Tab.set t i (Tab.get t i 0#64 + BitVec.ofNat 64 n)) f.pmCnt }

end Sys2Proof.Machine
end

