-- ==== Sys2Proof/Machine/Cohort.lean ====
section
/-! DEFINITION. Speculative versions of memory, tracking, conflicts, aborts and the cascade
(R164-R182). -/

namespace Sys2Proof.Machine

open Sys2Proof

/-! ### Cohorts -/

def isCohort (fn : Nat) (ts : Word64) (c : Cohort) : Bool := c.fn == fn && c.ts == ts

/-- The cohort of a function and a timestamp; an empty one when it has accessed nothing (R164). -/
def cohortAt (s : State) (fn : Nat) (ts : Word64) : Cohort :=
  (s.cohorts.find? (isCohort fn ts)).getD { fn := fn, ts := ts }

def setCohort (s : State) (c : Cohort) : State :=
  { s with cohorts := c :: s.cohorts.filter (fun d => !isCohort c.fn c.ts d) }

def dropCohort (s : State) (fn : Nat) (ts : Word64) : State :=
  { s with cohorts := s.cohorts.filter (fun d => !isCohort fn ts d) }

/-- Entries a set can hold in the partition of a function (R173). -/
def specWaysOf (s : State) (fn : Nat) : Nat :=
  if fn == pfFn then 0 else (s.part (s.func fn).part.toNat).specWays.toNat

/-- The ways of a slice that have been retired (R38). -/
def retiredWays (s : State) (bay : Nat) : List Nat := (s.waysRetired.filter (fun e => e.1 == bay)).map Prod.snd

/-- The speculation ways of a partition in a slice: a retired one is gone, a common way may stand in for it (R38, R86). -/
def specSet (s : State) (p bay : Nat) : List Nat :=
  let x := s.part p
  (List.range x.specWays.toNat ++ (x.swaps.filter (fun e => e.1 == bay)).map Prod.snd).filter
    (fun w => !(retiredWays s bay).contains w)

/-- Are the writes of this cohort buffered? Not without speculation ways, not for the PF, and not in
write-through mode (R173, R181, R485). -/
def buffered (s : State) (fn : Nat) (ts : Word64) : Bool :=
  decide (0 < specWaysOf s fn) && !(cohortAt s fn ts).writeThrough

/-! ### Aborts (R175-R177) -/

/-- Why an abort started: the counter it is counted under (R185, R263). -/
inductive AbortCause where
  | conflict | capacity | prediction | edge | lining | watchdog
  deriving DecidableEq, Repr

/-- The abort set closed under spawning and cohorts (R176). -/
def growAbort (s : State) : Nat → List Nat → List Nat
  | 0, set => set
  | fuel + 1, set =>
    let inSet (k : Nat) : Bool := set.contains k
    let grown := (s.tasks.filter (fun e =>
      inSet e.1 || (match e.2.creator with | some c => inSet c | none => false)
        || s.tasks.any (fun d => inSet d.1 && d.2.fn == e.2.fn && d.2.ts == e.2.ts))).map Prod.fst
    if grown.length == set.length then set else growAbort s fuel grown

def abortSet (s : State) (ks : List Nat) : List Nat := growAbort s (s.tasks.length + 1) ks

/-- The crews, teams, accesses and operations of a task leave the machine (R177). -/
def dropTaskWork (s : State) (k : Nat) : State :=
  let teams := (s.teams.filter (fun e => e.2.task == k)).map Prod.fst
  let gone (t : Nat) : Bool := teams.contains t
  { s with
    teams := s.teams.filter (fun e => !gone e.1)
    crews := s.crews.filter (fun e => e.2.task != k)
    accesses := s.accesses.filter (fun e => !gone e.2.team)
    ops := s.ops.filter (fun e => match e.2 with
      | .acq t _ _ _ _ _ _ _ => !gone t
      | .rel t _ _ _ _ _ _ _ => !gone t
      | .signal t _ _ _ _ _ => !gone t
      | .spawn t _ _ _ _ _ _ _ => !gone t
      | .coll t _ _ _ _ _ _ _ => !gone t
      | .walk w => w.task != k
      | .lvreq t _ _ _ => !gone t
      | .radv t _ _ _ _ => !gone t)
    pages := s.pages.map (fun p => { p with parked := p.parked.filter (fun q => !gone q.1) })
    cores := s.cores.map (fun e => (e.1, { e.2 with
      standby := e.2.standby.filter (fun t => !gone t)
      matrix := e.2.matrix.filter (fun c => !gone c.team) })) }

/-- Tasks of a function that stand on its restart list, without a slot. -/
def listed (s : State) (fn : Nat) : List (Nat × Task) :=
  s.tasks.filter (fun e => e.2.fn == fn && e.2.restart && !e.2.keeps)

/-- A task as it waits on the restart list, or in the slot that it keeps while the list is full, to run again from its
entry (R178; log 68). -/
def Task.again (k : Task) (noSpec full : Bool) : Task :=
  { k with phase := .waiting, restart := true, keeps := if k.restart then k.keeps else full, badTable := none, nextCrew := 0, crewsRetired := 0, descs := []
           regions := [], suspended := false, saved := false, faulted := false, frec := []
           block := 0, blockLen := 0, image := [], stopping := none, ranOn := [], parkSaved := false, walkStop := false
           noSpec := k.noSpec || noSpec
           wasWaiting := if k.restart then k.wasWaiting else k.phase == .waiting, unplacedSince := none, stuckSince := none }

/-- The detail of an abort's trace record: the causes in the order of R175. -/
def AbortCause.code : AbortCause → Nat
  | .conflict => 0 | .capacity => 2 | .prediction => 3 | .edge => 4 | .lining => 5 | .watchdog => 6

/-- Count aborted tasks under a cause (R185, R263): those outside the cohorts that the cause named
were aborted by the cascade. -/
def countAborts (f : Func) (c : AbortCause) (direct cascade defers : Nat) : Func :=
  let add (w : Word64) (n : Nat) : Word64 := w + BitVec.ofNat 64 n
  let f := { f with spDefer := add f.spDefer defers }
  match c with
  | .conflict => { f with spAbortC := add f.spAbortC direct, spAbortD := add f.spAbortD cascade }
  | .capacity => { f with spAbortK := add f.spAbortK direct, spAbortD := add f.spAbortD cascade }
  | .prediction => { f with spAbortP := add f.spAbortP direct, spAbortD := add f.spAbortD cascade }
  | .edge => { f with spAbortE := add f.spAbortE (direct + cascade) }
  | .lining => { f with lnAbort := add f.lnAbort direct, spAbortD := add f.spAbortD cascade }
  | .watchdog => { f with spAbortD := add f.spAbortD cascade }

/-- Engine commands and SPAWNs of some tasks that a deferred fault holds (R180). -/
def heldFaults (s : State) (set : List Nat) : Nat :=
  let mine (t : Nat) : Bool :=
    let k := (s.team t).task
    set.contains k && (s.task k).suspended
  let inChans := (s.crews.flatMap (fun c => c.2.chans.flatMap (fun ch => ch.2.queue))).filter (fun q =>
    q.fault.isSome && mine q.team)
  let queued := s.cores.flatMap (fun c => c.2.matrix) ++ s.crews.flatMap (fun c => c.2.waiting)
  let inMx := queued.filter (fun m => m.fault.isSome && mine m.team)
  let inOps := s.ops.filter (fun o => match o.2 with
    | .coll t _ _ _ _ _ _ (some _) => mine t
    | .spawn t _ _ _ _ _ _ (some _) => mine t
    | _ => false)
  inChans.length + inMx.length + inOps.length

/-- Abort the cohorts of the given tasks with their cascade, in one step (R176, R177). `wrong` are
the tasks launched on a wrongly predicted side; `noSpec` restarts only at the frontier (R163). -/
def abortTasks (s : State) (fn : Nat) (cause : AbortCause) (ks wrong noSpec : List Nat) : State :=
  let set := abortSet s ks
  let named := (s.tasks.filter (fun e => ks.contains e.1)).map (fun e => e.2.ts)
  let aborted := s.tasks.filter (fun e => set.contains e.1)
  let counted := aborted.filter (fun e => !e.2.restart)
  let direct := (counted.filter (fun e => named.contains e.2.ts)).length
  let defers := (s.teams.filter (fun e => set.contains e.2.task && e.2.deferred.isSome)).length + heldFaults s set
  let s := s.modFunc fn (fun f => countAborts f cause direct (counted.length - direct) defers)
  let s := aborted.foldl (fun s e =>
    let k := e.2
    let s := if k.restart then s else traceTask s k .abort (if named.contains k.ts then cause.code else 1)
    let s := dropCohort (dropTaskWork s e.1) k.fn k.ts
    let discard := (match k.creator with | some c => set.contains c | none => false)
      || wrong.contains e.1 || (cause == .edge && k.launchedByWalker)
    if discard then { s with tasks := Tab.erase s.tasks e.1 }
    else s.setTask e.1 (k.again (noSpec.contains e.1) (decide (64 ≤ (listed s k.fn).length)))) s
  updateHem s fn

/-- The tasks of one cohort. -/
def cohortTasks (s : State) (fn : Nat) (ts : Word64) : List Nat :=
  (s.tasks.filter (fun e => e.2.fn == fn && e.2.ts == ts)).map Prod.fst

/-- Abort one cohort. -/
def abortCohort (s : State) (fn : Nat) (ts : Word64) (cause : AbortCause) : State :=
  abortTasks s fn cause (cohortTasks s fn ts) [] []

/-- The youngest of some cohorts. -/
def youngest (l : List Cohort) : Option Cohort :=
  l.foldl (fun b c => match b with
    | none => some c
    | some d => if d.ts.toNat < c.ts.toNat then some c else some d) none

/-- The bytes of a version are written to memory: the signal-table entries of their words go (R142), and
words written whole hold no error any more (log 57). -/
def writeCells (s : State) (cells : List Host.Cell) : State :=
  let hit (a n : Nat) : Bool := cells.any (fun b => decide (a ≤ b.1) && decide (b.1 < a + n))
  { s with
    past := notePast s none (cells.map (fun b => (b.1, Memory.read s.mem b.1)))
    mem := cells.foldl (fun m b => Memory.write m b.1 [b.2]) s.mem
    eccBad := healWords s.eccBad (fun a => hit a 1)
    parts := s.parts.map (fun e => (e.1, { e.2 with signals := e.2.signals.filter (fun g => !hit g.addr 8) })) }

/-- The cohort enters write-through mode: its bytes are written to memory (R181). -/
def enterWriteThrough (s : State) (fn : Nat) (ts : Word64) : State :=
  let c := cohortAt s fn ts
  if c.writeThrough then s
  else
    let s := setCohort (writeCells s c.bytes) { c with writeThrough := true, bytes := [] }
    s.modFunc fn (fun f => { f with spWthru := f.spWthru + 1#64 })

/-! ### Tracking (R171-R173, R182) -/

/-- May an access be performed now? `stall` waits on an older cohort (R172), `full` for an entry of
a line's set (R182). -/
inductive Track where
  | ok (s : State) | stall | full (line : Nat)

/-- The 64-byte granules, or 128-byte lines, that a range touches. -/
def unitsOf (size flat n : Nat) : List Nat :=
  if n == 0 then []
  else (List.range ((flat + n - 1) / size - flat / size + 1)).map (fun i => flat / size + i)

/-- The sets of a function's partition: each bay has one slice, and a slice of 12 MiB with 24 ways of
128-byte lines has 4,096 sets (R1, R173). -/
def homeSets (s : State) (fn : Nat) : Nat :=
  4096 * max 1 (bitsBelow 32 (s.part (s.func fn).part.toNat).bays.toNat).length

/-- The set in which a line is tracked (R173). -/
def homeSetOf (s : State) (fn line : Nat) : Nat := Config.homeSet line % homeSets s fn

/-- The cohorts that hold an entry in the set of a line, once per entry (R173). -/
def setHolders (s : State) (fn line : Nat) : List Cohort :=
  s.cohorts.flatMap (fun c =>
    if c.fn == fn then
      (c.lines.filter (fun l => homeSetOf s fn l == homeSetOf s fn line)).map (fun _ => c)
    else [])

/-- The bay of a partition in whose slice a line is tracked. -/
def sliceOf (s : State) (fn line : Nat) : Nat :=
  (bitsBelow 32 (s.part (s.func fn).part.toNat).bays.toNat).getD (homeSetOf s fn line / 4096) 0

/-- Entries that the set of a line can hold (R38, R173). -/
def setWays (s : State) (fn line : Nat) : Nat :=
  if fn == pfFn then 0 else (specSet s (s.func fn).part.toNat (sliceOf s fn line)).length

/-- A task of the cohort is predicted: the cohort does not enter write-through mode (R168, R181; log 45). -/
def cohortPredicted (s : State) (fn : Nat) (ts : Word64) : Bool :=
  s.tasks.any (fun e => e.2.fn == fn && e.2.ts == ts && !e.2.predicted.isEmpty)

/-- An irrevocable operation of a task waits no longer (R181). -/
def mayIrrevocable (s : State) (k : Task) : Bool := !isSpeculative s k && !cohortPredicted s k.fn k.ts

/-- A cohort takes an entry for a line (R173, R182). A frontier cohort that holds the whole set goes on without
one, and the line is not tracked. -/
def enterLine (s : State) (fn : Nat) (ts : Word64) (line : Nat) : Track :=
  let c := cohortAt s fn ts
  let holders := setHolders s fn line
  let others := holders.filter (fun d => d.ts != ts)
  if c.lines.contains line then .ok s
  else if holders.length < setWays s fn line then .ok (setCohort s { c with lines := line :: c.lines })
  else if ts == hem s fn then
    match youngest others with
    | some y =>
      let s := abortCohort s fn y.ts .capacity
      let c := cohortAt s fn ts
      .ok (setCohort s { c with lines := line :: c.lines })
    | none => if cohortPredicted s fn ts then .full line else .ok (enterWriteThrough s fn ts)
  else .full line

def enterLines (s : State) (fn : Nat) (ts : Word64) : List Nat → Track
  | [] => .ok s
  | l :: ls =>
    match enterLine s fn ts l with
    | .ok s => enterLines s fn ts ls
    | r => r

/-- An older cohort has written one of the granules and has not committed (R172). -/
def olderWrote (s : State) (fn : Nat) (ts : Word64) (gs : List Nat) : Bool :=
  s.cohorts.any (fun c => c.fn == fn && decide (c.ts.toNat < ts.toNat)
    && c.writes.any (fun g => gs.contains g))

/-- The granules of a list whose lines the cohort holds entries for (R181, R182). -/
def Cohort.granules (c : Cohort) (gs : List Nat) : List Nat := gs.filter (fun g => c.lines.contains (g / 2))

/-- A tracked read (R171, R172). -/
def trackRead (s : State) (fn : Nat) (ts : Word64) (flat n : Nat) : Track :=
  if specWaysOf s fn == 0 then .ok s
  else
    let gs := unitsOf 64 flat n
    if olderWrote s fn ts gs then .stall
    else
      match enterLines s fn ts (unitsOf 128 flat n) with
      | .ok s =>
        let c := cohortAt s fn ts
        .ok (setCohort s { c with reads := (c.granules gs).filter (fun g => !c.reads.contains g) ++ c.reads })
      | r => r

/-- A tracked write: every younger cohort that has read a granule aborts (R172). Without speculation
ways, and for the PF, the cohort is in write-through mode from its first write (R173, R485). -/
def trackWrite (s : State) (fn : Nat) (ts : Word64) (flat n : Nat) : Track :=
  if fn == pfFn then .ok (enterWriteThrough s fn ts)
  else if specWaysOf s fn == 0 then
    if cohortPredicted s fn ts then .full (flat / 128) else .ok (enterWriteThrough s fn ts)
  else
    let gs := unitsOf 64 flat n
    match enterLines s fn ts (unitsOf 128 flat n) with
    | .ok s =>
      let victims := s.cohorts.filter (fun c => c.fn == fn && decide (ts.toNat < c.ts.toNat)
        && c.reads.any (fun g => gs.contains g))
      let ks := victims.flatMap (fun c => cohortTasks s fn c.ts)
      let s := if ks.isEmpty then s else abortTasks s fn .conflict ks [] []
      let c := cohortAt s fn ts
      .ok (setCohort s { c with writes := (c.granules gs).filter (fun g => !c.writes.contains g) ++ c.writes })
    | r => r

/-! ### Bytes (R170) -/

/-- What a task of the cohort reads: its version where it has written, committed memory elsewhere. -/
def cohortBytes (s : State) (fn : Nat) (ts : Word64) (flat n : Nat) : List Byte :=
  let c := cohortAt s fn ts
  (List.range n).map (fun i =>
    match Tab.find c.bytes (flat + i) with
    | some b => b
    | none => Memory.read s.mem (flat + i))

/-- A write of the cohort: into its version, or into memory (R170, R181). -/
def cohortWrite (s : State) (fn : Nat) (ts : Word64) (flat : Nat) (bs : List Byte) : State :=
  if buffered s fn ts then
    let c := cohortAt s fn ts
    let held := (List.range bs.length).zip (cohortBytes s fn ts flat bs.length)
    let s := { s with past := notePast s (some (fn, ts)) (held.map (fun b => (flat + b.1, b.2))) }
    setCohort s { c with bytes := Tab.setAll c.bytes
                           ((List.range bs.length).map (fun i => (flat + i, bs.getD i 0#8))) }
  else memWrite s flat bs

end Sys2Proof.Machine
end

