-- ==== Sys2Proof/Machine/Translate.lean ====
section
/-! DEFINITION. Tensor descriptors, layout units, tile tables, and the checks of one element in the
order of R121. -/

namespace Sys2Proof.Machine

open Sys2Proof

/-- A descriptor (R107), or one of the flat tensors (R115). -/
structure Desc where
  flat : Bool := false
  rank : Nat := 1
  fmt : Fmt := .none
  order : Nat := 0
  logtile : Nat := 12
  ro : Bool := false
  versioned : Bool := false
  remote : Bool := false
  host : Bool := false
  boundsFault : Bool := false
  sizes : List Int := []
  padv : Nat := 0
  tsh : List Nat := []
  ttable : Nat := 0
  peer : Nat := 0
  window : Nat := 0
  /-- FP32 encoding of the tensor scale: 1.0 without one (R107, R289) -/
  tscale : Nat := 0x3F800000
  deriving DecidableEq, Repr

/-- A field of a byte string. -/
def fieldAt (bs : List Byte) (off n : Nat) : Nat := leNat ((bs.drop off).take n)

/-- The fields of the 128 bytes (R107). -/
def parseDesc (b : List Byte) : Desc :=
  let ctl := fieldAt b 0 8
  let peer := fieldAt b 0x30 8
  { rank := fld ctl 3 3, fmt := Fmt.ofCode (fld ctl 6 4), order := fld ctl 10 3
    logtile := fld ctl 13 5, ro := bitAt ctl 18, versioned := bitAt ctl 19, remote := bitAt ctl 20
    host := bitAt ctl 21, boundsFault := fld ctl 22 2 == 1
    sizes := (List.range 5).map (fun d => signed 32 (fieldAt b (8 + 4 * d) 4))
    padv := fieldAt b 0x1C 4, tsh := (List.range 5).map (fun d => fieldAt b (0x20 + d) 1)
    ttable := fieldAt b 0x28 8, peer := fld peer 0 10, window := fld peer 16 16
    tscale := if bitAt ctl 24 then fieldAt b 0x38 4 else 0x3F800000 }

/-- log2 of the bits of an element. -/
def log2Bits (f : Fmt) : Nat := Nat.log2 f.memBits

/-- A tiled descriptor is valid (R109). -/
def validDesc (b : List Byte) : Bool :=
  let d := parseDesc b
  let ctl := fieldAt b 0 8
  let peer := fieldAt b 0x30 8
  let beyond (f : Nat → Bool) : Bool := (List.range 5).all (fun i => i < d.rank || f i)
  fld ctl 0 3 == 1 && decide (1 ≤ d.rank) && decide (d.rank ≤ 5) && decide (d.order ≤ 3)
    && decide (fld ctl 22 2 ≤ 1) && fld ctl 25 39 == 0
    && fieldAt b 0x25 3 == 0 && fld peer 10 6 == 0 && fld peer 32 32 == 0 && fieldAt b 0x3C 68 == 0
    && (List.range 5).all (fun i => decide (d.rank ≤ i) || decide (0 ≤ d.sizes.getD i 0))
    && beyond (fun i => d.sizes.getD i 0 == 0 && d.tsh.getD i 0 == 0)
    && decide (12 ≤ d.logtile) && decide (d.logtile ≤ 21)
    && d.tsh.foldl (· + ·) 0 + log2Bits d.fmt == d.logtile + 3
    && !(d.remote && d.host) && d.ttable % 16 == 0
    && (d.fmt.memBits != 4 || decide (1 ≤ d.tsh.getD 0 0))
    && (d.fmt != .i4x || decide (2 ≤ d.tsh.getD 0 0))
    && (d.order != 3 || (d.fmt.memBits == 4 && d.fmt != .i4x && decide (2 ≤ d.rank)
          && decide (1 ≤ d.tsh.getD 1 0)))

/-- Where a task's descriptor i lies (R106). -/
def descAddr (k : Task) (i : Nat) : Nat := k.lrec.ttbase.toNat + 128 * i

/-- The length of tensor 1 in bytes (R61). -/
def argTensorLen (k : Task) : Nat := k.lrec.arglen.toNat - 128

/-- The flat tensors (R115). -/
def flatDesc (k : Task) (i : Nat) : Desc :=
  if i == 0 then { flat := true } else { flat := true, ro := true, sizes := [argTensorLen k] }

/-- A byte of a range as a task of a cohort reads it lies in a word with an uncorrectable error: the
cohort's own version does not hold it (R39, R170). -/
def readBad (s : State) (fn : Nat) (ts : Word64) (flat n : Nat) : Option Nat :=
  if s.eccBad.isEmpty then none
  else
    let own := (cohortAt s fn ts).bytes
    (List.range n).findSome? (fun i => if (Tab.find own (flat + i)).isSome then none else eccHit s (flat + i) 1)

/-- The bytes of a descriptor: those read at the first use (R106), or memory now, where it can be read. -/
def descBytes (s : State) (tk i : Nat) : Option (List Byte) :=
  let k := s.task tk
  let flat := flatOf s k.fn (descAddr k i)
  match Tab.find k.descs i with
  | some b => some b
  | none =>
    if inSeg s k.fn (descAddr k i) 128 && (readBad s k.fn k.ts flat 128).isNone then
      some (cohortBytes s k.fn k.ts flat 128)
    else none

/-- A usable descriptor, or none for TENSOR_INVALID (R109, R121 step 1). -/
def descOf (s : State) (tk i : Nat) : Option Desc :=
  if i ≤ 1 then some (flatDesc (s.task tk) i)
  else
    match descBytes s tk i with
    | some b => if validDesc b then some (parseDesc b) else none
    | none => none

/-- The state after a task has used a tensor: it keeps the descriptor (R106). -/
def keepDesc (s : State) (tk i : Nat) : State :=
  if i ≤ 1 then s
  else
    match descBytes s tk i with
    | some b => s.modTask tk (fun k => { k with descs := Tab.set k.descs i b })
    | none => s

/-! ### Layout units (R110) -/

def coord (xs : List Int) (d : Nat) : Int := xs.getD d 0

/-- In bounds (R111). -/
def inBounds (d : Desc) (xs : List Int) : Bool :=
  (List.range 5).all (fun i =>
    if i < d.rank then decide (0 ≤ coord xs i) && decide (coord xs i < d.sizes.getD i 0)
    else coord xs i == 0)

/-- The tile number of in-bounds coordinates. -/
def tileNumber (d : Desc) (xs : List Int) : Nat :=
  ((List.range d.rank).foldl (fun (acc : Nat × Nat) i =>
    let e := 2 ^ d.tsh.getD i 0
    (acc.1 + (coord xs i).toNat / e * acc.2, acc.2 * ceilDiv (d.sizes.getD i 0).toNat e)) (0, 1)).1

/-- The tile-table entry address (R110). -/
def entryAddr (d : Desc) (xs : List Int) : Nat := d.ttable + 16 * tileNumber d xs

/-- The mixed-radix index of in-tile coordinates, first dimension fastest. -/
def mixIndex : List (Nat × Nat) → Nat
  | [] => 0
  | (i, ext) :: r => i + ext * mixIndex r

/-- In-tile byte offset, and whether a 4-bit element is the high nibble (R110). -/
def tileOffset (d : Desc) (xs : List Int) : Nat × Bool :=
  let bits := d.fmt.memBits
  let ij := (List.range d.rank).map (fun i =>
    let e := 2 ^ d.tsh.getD i 0
    ((coord xs i).toNat % e, e))
  let fromIndex (e : Nat) : Nat × Bool := (e * bits / 8, bits == 4 && e % 2 == 1)
  match d.order, ij with
  | 1, a :: b :: r => fromIndex (mixIndex (b :: a :: r))
  | 2, _ =>
    let o := fromIndex (mixIndex ij)
    (o.1 ^^^ (fld o.1 7 3 * 16), o.2)
  | 3, a :: (i1, e1) :: r => (mixIndex (a :: (i1 / 2, e1 / 2) :: r), i1 % 2 == 1)
  | _, _ => fromIndex (mixIndex ij)

/-- The element that padding gives: PADV's low bits, sign-extended for 64 bits (R107, R111). -/
def padElem (d : Desc) (bits : Nat) : Nat :=
  if bits == 64 then wrapBits 64 (signed 32 d.padv) else d.padv % 2 ^ bits

/-! ### Checks of one element (R121) -/

/-- What an access needs of the elements it names. -/
structure Req where
  write : Bool := false
  versioned : Bool := false
  deriving DecidableEq, Repr

/-- The outcome of the checks of one element. -/
inductive Elem where
  | pad
  | at_ (flat : Nat) (hi : Bool) (entry : Option Nat) (miss : Bool)
  | fault (step : Nat) (code : FaultCode) (addr : Nat) (isHost : Bool)
  deriving DecidableEq, Repr

/-- Word 0 of a tile-table entry as an access may use it without a walk: one that a walk of its own has
read, or a buffered one, in whose place a newer one in memory may be used (R116-R118). -/
def entryWord (s : State) (core fn entry lane : Nat) (got : Tab Word64) : Option Nat :=
  match Tab.find got entry with
  | some w => some w.toNat
  | none =>
    ((s.core core).ttb.find? (fun e => e.fn == fn && e.entry == entry)).map (fun e =>
      if Config.pick s.free entry lane then e.word.toNat else gNat s fn entry 8)

/-- Step 8: the element address (R113, R120). -/
def placeElem (s : State) (fn : Nat) (d : Desc) (a n entry : Nat) (hi miss : Bool) : Elem :=
  if d.remote then
    let flat := spaceBase (peerSpace d.peer d.window) + a
    if Config.peerRefuses s.free flat then .fault 8 .tileProtection a false
    else .at_ flat hi (some entry) miss
  else if d.host || fn == pfFn then
    if hostOk s a n then .at_ (hostFlat a) hi (some entry) miss
    else .fault 8 .tileNotPresent a true
  else if inSeg s fn a n then .at_ (flatOf s fn a) hi (some entry) miss
  else .fault 8 .segmentBound a false

/-- Steps 6 to 8 for an element at an offset of the tile whose entry's word is w (R112, R121). -/
def tilePlace (s : State) (fn : Nat) (d : Desc) (req : Req) (w entry : Nat) (o : Nat × Bool) (miss : Bool) : Elem :=
  if !bitAt w 0 then .fault 6 .tileNotPresent entry false
  else if fld w 3 9 != 0 || fld w 48 16 != 0 || fld w 12 36 * 4096 % 2 ^ d.logtile != 0 then
    .fault 6 .tensorInvalid entry false
  else if (req.write && !bitAt w 1) || (req.versioned && !bitAt w 2) then
    .fault 7 .tileProtection entry false
  else placeElem s fn d (fld w 12 36 * 4096 + o.1) (max 1 (d.fmt.memBits / 8)) entry o.2 miss

/-- The entry that an element needs a walk for: its coordinates and the entry's address pass, and no word of
it is at hand (R117). -/
def entryMiss (s : State) (tk core : Nat) (d : Desc) (req : Req) (xs : List Int) (lane : Nat) (got : Tab Word64) :
    Option Nat :=
  let entry := entryAddr d xs
  if inBounds d xs && !(req.write && d.ro) && !(req.versioned && !d.versioned) && inSeg s (s.task tk).fn entry 16
      && (entryWord s core (s.task tk).fn entry lane got).isNone then some entry
  else none

/-- The checks of one element of a tiled tensor, steps 3 to 8 (R121), with the word in memory where the entry is not at
hand: of such an element the walk decides (R117; log 43). -/
def checkTiled (s : State) (tk core : Nat) (d : Desc) (req : Req) (xs : List Int) (lane : Nat)
    (got : Tab Word64 := []) : Elem :=
  let k := s.task tk
  if !inBounds d xs then (if d.boundsFault then .fault 3 .tensorBounds 0 false else .pad)
  else
    let entry := entryAddr d xs
    if (req.write && d.ro) || (req.versioned && !d.versioned) then .fault 4 .tileProtection entry false
    else if !inSeg s k.fn entry 16 then
      if k.fn == pfFn then .fault 5 .tileNotPresent entry true else .fault 5 .walkSegment entry false
    else
      match entryWord s core k.fn entry lane got with
      | some w => tilePlace s k.fn d req w entry (tileOffset d xs) false
      | none =>
        if (eccHit s (flatOf s k.fn entry) 8).isSome then .fault 5 .memUncorrectable entry false
        else tilePlace s k.fn d req (gNat s k.fn entry 8) entry (tileOffset d xs) true

/-- The checks of one unit of a flat tensor (R115): n bytes at the address or coordinate. -/
def checkFlat (s : State) (tk : Nat) (tid : Nat) (req : Req) (x : Int) (n : Nat) : Elem :=
  let k := s.task tk
  if tid == 0 then
    let a := (x % (2 ^ 64 : Nat)).toNat
    if req.versioned then .fault 4 .tileProtection a false
    else if !inSeg s k.fn a n then
      if k.fn == pfFn then .fault 8 .tileNotPresent a true else .fault 8 .segmentBound a false
    else if a % n != 0 then .fault 9 .align a false
    else .at_ (flatOf s k.fn a) false none false
  else
    let a := k.lrec.argbase.toNat + 128 + x.toNat
    if x < 0 || (argTensorLen k : Int) ≤ x then .pad
    else if req.write || req.versioned then .fault 4 .tileProtection a false
    else if !inSeg s k.fn a n then
      if k.fn == pfFn then .fault 8 .tileNotPresent a true else .fault 8 .segmentBound a false
    else if a % n != 0 then .fault 9 .align a false
    else .at_ (flatOf s k.fn a) false none false

/-! ### The fault of an access (R121, R122) -/

/-- The fault of lowest step, the first of several. -/
def lowestBad (l : List LaneBad) : Option LaneBad :=
  l.foldl (fun b x => match b with
    | none => some x
    | some y => if x.step < y.step then some x else some y) none

/-- The whole access's fault of R122 among those of its elements: of the faults that its lanes have, one other than
TILE_NOT_PRESENT of lowest step and lowest lane; or the lanes to park and the requests to make. -/
def faultOf (tid : Nat) (write : Bool) (bads : List LaneBad) : Option FaultInfo :=
  if bads.isEmpty then none
  else
    let of (l : Nat) : List LaneBad := bads.filter (fun b => b.lane == l)
    let firsts := ((List.range 1024).filter (fun l => bads.any (fun b => b.lane == l))).filterMap (fun l => lowestBad (of l))
    let coords (b : LaneBad) : List Word32 :=
      if b.code == .tensorBounds then b.coords.map (fun x => BitVec.ofInt 32 x) else []
    match lowestBad (firsts.filter (fun b => b.code != .tileNotPresent)) with
    | some b => some { code := b.code, addr := b.addr, tensor := tid, lane := b.lane, coords := coords b, isWrite := write }
    | none =>
      match firsts with
      | [] => none
      | b :: _ =>
        let pages := firsts.flatMap (fun q => (of q.lane).filterMap (fun x =>
          if x.code == .tileNotPresent then some (x.addr, x.host) else none))
        some { code := .tileNotPresent, addr := b.addr, tensor := tid, lane := b.lane
               lanes := maskOf (firsts.map LaneBad.lane), pages := pages.eraseDups, isWrite := write }

/-! ### Tile translation buffers (R116): 256 sets of 8 ways, listed with the last used first -/

/-- The set of an entry. -/
def TtbEntry.set (t : TtbEntry) : Nat := Config.ttbSet t.fn t.entry % 256

/-- A read entry enters a buffer as the last used; one without PRESENT is not held. -/
def ttbInsert (l : List TtbEntry) (t : TtbEntry) : List TtbEntry :=
  let old := l.filter (fun u => !(u.fn == t.fn && u.entry == t.entry))
  if !t.word.getLsbD 0 then old
  else
    let set := old.filter (fun u => u.set == t.set)
    t :: (if set.length < 8 then old else old.filter (fun u => u.set != t.set || (set.take 7).contains u))

/-- An access has used an entry of a buffer. -/
def ttbUse (l : List TtbEntry) (fn entry : Nat) : List TtbEntry :=
  l.filter (fun u => u.fn == fn && u.entry == entry) ++ l.filter (fun u => !(u.fn == fn && u.entry == entry))

def touchTtb (s : State) (core fn : Nat) (entries : List Nat) : State :=
  if entries.isEmpty then s
  else s.modCore core (fun co => { co with ttb := entries.foldl (fun l e => ttbUse l fn e) co.ttb })

/-- Walks have brought entries into a tile translation buffer (R116, R117). -/
def fillTtb (s : State) (core fn : Nat) (entries : List Nat) : State :=
  if entries.isEmpty then s
  else s.modCore core (fun co =>
    { co with ttb := entries.foldl (fun l e => ttbInsert l ⟨fn, e, BitVec.ofNat 64 (gNat s fn e 8)⟩) co.ttb })

/-! ### Walks (R117, R119) -/

/-- The physical core whose buffer missed. -/
def TileWalk.core (s : State) (w : TileWalk) : Nat := (s.crew (s.team w.team).crew).core

/-- The walks of the memory system that have not ended, by number. -/
def tileWalks (s : State) : List (Nat × TileWalk) :=
  s.ops.filterMap (fun o => match o.2 with | .walk w => if w.stopped then none else some (o.1, w) | _ => none)

/-- The walk of an entry that this core has in flight or in its miss queue. -/
def walkOf (s : State) (core fn entry : Nat) : Option Nat :=
  ((tileWalks s).find? (fun o => o.2.entry == entry && (s.task o.2.task).fn == fn && o.2.core s == core)).map Prod.fst

/-- The walks that missing entries need: they join the core's miss queue, or merge with one that is there
(R117). -/
def startWalks (s : State) (tk t path tid : Nat) (entries : List Nat) : State × List Nat :=
  let core := (s.crew (s.team t).crew).core
  entries.foldl (fun (acc : State × List Nat) e =>
    let s := acc.1
    match walkOf s core (s.task tk).fn e with
    | some w => (s, acc.2 ++ [w])
    | none =>
      let w := s.nextId
      let x : TileWalk := { task := tk, team := t, path := path, tensor := tid, entry := e, at_ := s.now }
      ({ s with nextId := w + 1, ops := Tab.set s.ops w (.walk x) }, acc.2 ++ [w])) (s, [])

/-- The number under which a walk of an engine command stands in place of a path (R129). -/
def enginePath (id : Nat) : Nat := 8 + id

/-- The walk that a die starts next: it and its core have room, it is the first of its core's miss queue, the
earliest to arrive, and of one cycle the first from the rotating pointer onward (R117). It arrives in the cycle of
the miss, and of different cycles the earlier goes first: the model's choice (log 103). -/
def nextWalk (s : State) (die : Nat) : Option (Nat × TileWalk) :=
  let mine := (tileWalks s).filter (fun o => o.2.core s / 104 == die)
  let flying := mine.filter (fun o => o.2.flying)
  let turn (o : Nat × TileWalk) : Nat := (o.2.core s % 104 + 104 - (s.die die).walkPtr) % 104
  let heads := mine.filter (fun o => !o.2.flying
    && decide ((flying.filter (fun p => p.2.core s == o.2.core s)).length < 8)
    && mine.all (fun p => p.2.flying || p.2.core s != o.2.core s || decide (o.1 ≤ p.1)))
  let before (a b : Nat × TileWalk) : Bool := decide (a.2.at_ < b.2.at_ ∨ (a.2.at_ = b.2.at_ ∧ turn a < turn b))
  if 64 ≤ flying.length then none
  else heads.foldl (fun b x => match b with
    | none => some x
    | some y => if before x y then some x else some y) none

/-- A die starts the walks it has room for; one that an invalidation discarded has then restarted (R117,
R119). -/
def flyWalks (s : State) (die : Nat) : Nat → State
  | 0 => s
  | fuel + 1 =>
    match nextWalk s die with
    | none => s
    | some (id, w) =>
      let s := { s with ops := Tab.set s.ops id (.walk { w with flying := true, again := false }) }
      flyWalks (s.modDie die (fun d => { d with walkPtr := (w.core s % 104 + 1) % 104 })) die fuel

/-- Every die starts the walks it has room for. -/
def launchWalks (s : State) : State :=
  if (tileWalks s).all (fun o => o.2.flying) then s
  else (List.range 4).foldl (fun s d => flyWalks s d s.ops.length) s

/-- Is the tensor masked for the function (R101, step 2 of R121)? -/
def tensorMasked (s : State) (fn : Nat) (d : Desc) : Bool :=
  (d.remote && masked s fn 2) || (d.host && masked s fn 3)

/-- The guest-physical address of a flat one, or the offset in its own space. -/
def guestOf (s : State) (fn flat : Nat) : Nat :=
  if fn != pfFn && spaceOf flat == (s.func fn).part.toNat then flat - flatOf s fn 0 else flat % 2 ^ 64

/-- Accesses that R171 does not track: RO tensors, tensor 1, HOST and REMOTE tensors. -/
def untracked (d : Desc) : Bool := d.ro || d.host || d.remote

end Sys2Proof.Machine
end

