-- ==== Sys2Proof/Machine/Access.lean ====
section
/-! DEFINITION. Performing the accesses that have been issued (R188-R191, R209, R213, R233, R392,
R393, R397, R401): value by value, in the order that the agenda chooses. -/

namespace Sys2Proof.Machine

open Sys2Proof

/-! ### Combining (R393, R396, R424) -/

/-- Numbers of the combining operations. -/
def opAdd : Nat := 0
def opMin : Nat := 1
def opMax : Nat := 2
def opAnd : Nat := 3
def opOr : Nat := 4
def opXor : Nat := 5
def opXchg : Nat := 6
def opCas : Nat := 7

/-- One element combined: floating-point sums round RNE and keep subnormals, NaN results are
canonical (R393, R396). -/
def combineFloat (op : Nat) (f : Fmt) (old v : Nat) : Nat :=
  let a := decodeF f old
  let b := decodeF f v
  if op == opAdd then (encodeF f .rne false false (addV .rne a b).1).1
  else if op == opMin then (encodeF f .rne false false (minV a b)).1
  else (encodeF f .rne false false (maxV a b)).1

def combineInt (op : Nat) (f : Fmt) (w old v v2 : Nat) : Nat :=
  let lt : Bool := if f.isSigned then decide (signed w old < signed w v) else decide (old < v)
  if op == opAdd then (old + v) % 2 ^ w
  else if op == opMin then (if lt then old else v)
  else if op == opMax then (if lt then v else old)
  else if op == opAnd then old &&& v
  else if op == opOr then old ||| v
  else if op == opXor then old ^^^ v
  else if op == opXchg then v
  else if old == v then v2 else old

/-- The new value of an element of w bits. -/
def combineElem (op : Nat) (f : Fmt) (w old v v2 : Nat) : Nat :=
  if f.isFloat && decide (op ≤ opMax) then combineFloat op f old v else combineInt op f w old v v2

/-- The new value of 32 bits, 64 under INT64, element by element of FMT. -/
def combineValue (op : Nat) (f : Fmt) (old v v2 : Nat) : Nat :=
  let w := f.width
  packElems w ((List.range f.elems).map (fun e =>
    combineElem op f w (fld old (w * e) w) (fld v (w * e) w) (fld v2 (w * e) w)))

/-! ### One element -/

def MUnit.bytes (u : MUnit) : Nat := if u.bits < 8 then 1 else u.bits / 8

/-- The element in its bytes: the named nibble for a 4-bit element (R110). -/
def elemOf (u : MUnit) (bs : List Byte) : Nat :=
  let n := leNat bs
  if u.bits < 8 then (if u.hi then n / 16 else n % 16) else n

/-- The bytes with the element replaced; the other nibble of the byte is kept. -/
def withElem (u : MUnit) (bs : List Byte) (v : Nat) : List Byte :=
  if u.bits < 8 then
    let n := leNat bs
    leBytes 1 (if u.hi then v % 16 * 16 + n % 16 else n / 16 * 16 + v % 16)
  else leBytes u.bytes v

/-- Two units touch a byte in common. -/
def MUnit.meets (u v : MUnit) : Bool :=
  match u.addr, v.addr with
  | some a, some b => !apart a u.bytes b v.bytes
  | _, _ => false

/-- What became of a value's elements. -/
inductive Perf where
  | done (s : State) (us : List MUnit) | wait | full (line : Nat)
  /-- a byte that is read lies in a word with an uncorrectable error (R39) -/
  | bad (flat : Nat)

/-- Which way an access is tracked (R171). -/
def AccessKind.reads : AccessKind → Bool
  | .store => false
  | _ => true

def AccessKind.writes : AccessKind → Bool
  | .store | .combine _ | .atomic _ | .sharedAtomic _ => true
  | _ => false

/-- The byte for which a read of an element meets an uncorrectable error (R39, R121). -/
def unitBad (s : State) (k : Task) (kind : AccessKind) (a n : Nat) : Option Nat :=
  if kind.reads then readBad s k.fn k.ts a n else none

/-- Track one element (R171-R173). -/
def trackUnit (s : State) (k : Task) (acc : Access) (a n : Nat) : Track :=
  if !acc.tracked then .ok s
  else
    let r : Track := if acc.kind.reads then trackRead s k.fn k.ts a n else .ok s
    match r with
    | .ok s => if acc.kind.writes then trackWrite s k.fn k.ts a n else .ok s
    | r => r

/-- The line of an address that a read through the read-only L1 may be served from: one that the task's
cohort has read since the task started and since the team's last INVRO (R209). -/
def roLine (s : State) (tm : Team) (k : Task) (core flat : Nat) : Option RoLine :=
  (s.core core).ro.find? (fun r => r.line == flat / 128 && r.fn == k.fn && r.ts == k.ts
    && decide (max k.startAt tm.invroAt ≤ r.filled))

/-- The values that a byte has held for a task since it started and since the team's last INVRO (R209). -/
def heldSince (s : State) (tm : Team) (k : Task) (flat : Nat) : List Byte :=
  (s.past.filter (fun e => e.addr == flat && decide (max k.startAt tm.invroAt ≤ e.until_)
    && (match e.own with | none => true | some o => o == (k.fn, k.ts)))).map Past.old

/-- A byte as a read through the read-only L1 returns it: memory now, or any value it has held in that time, which a
line that is there may hold (R209). Which, is a free choice for each byte and lane. -/
def roByte (s : State) (tm : Team) (k : Task) (core flat lane : Nat) : Byte :=
  let line := match roLine s tm k core flat with | some r => [r.bytes.getD (flat % 128) 0#8] | none => []
  anyOf (s.free + lane) flat (cohortBytes s k.fn k.ts flat 1 ++ line ++ heldSince s tm k flat)

/-- A byte range so read. -/
def roBytes (s : State) (tm : Team) (k : Task) (core flat n lane : Nat) : List Byte :=
  (List.range n).map (fun i => roByte s tm k core (flat + i) lane)

/-- The read-only L1 with the line of an address filled as the task reads it now (R394): 512 lines. -/
def fillRo (s : State) (k : Task) (core flat : Nat) : State :=
  let line := flat / 128
  let same (r : RoLine) : Bool := r.line == line && r.fn == k.fn && r.ts == k.ts
  s.modCore core (fun c => { c with
    ro := ⟨line, k.fn, k.ts, s.now, cohortBytes s k.fn k.ts (line * 128) 128⟩ :: (c.ro.filter (fun r => !same r)).take 511 })

/-- The byte of a 4-bit element as it stands when its store is issued (R214). -/
def byteNow (s : State) (k : Task) (u : MUnit) : MUnit :=
  match u.addr with
  | some a => if u.bits < 8 then { u with val2 := BitVec.ofNat 64 (leNat (cohortBytes s k.fn k.ts a 1)) } else u
  | none => u

/-- The nibble of a byte that a plain store leaves alone: another instruction's nibble may be lost to the
value that the byte had when the store was issued (`val2`), a nibble that the same instruction writes never
is (R214). -/
def storeBytes (s : State) (acc : Access) (u : MUnit) (a : Nat) (bs : List Byte) : List Byte :=
  let own := (acc.todo ++ acc.got).any (fun v => v.addr == some a && v.hi != u.hi)
  let base := if decide (u.bits < 8) && !own && Config.pick s.free a u.lane then leBytes 1 u.val2.toNat else bs
  withElem u base u.val.toNat

/-- One element of a load or a store is performed. -/
def performUnit (s : State) (acc : Access) (u : MUnit) : Perf :=
  let tm := s.team acc.team
  let k := s.task tm.task
  match u.addr with
  | none => .done s [u]
  | some a =>
    match trackUnit s k acc a u.bytes with
    | .stall => .wait
    | .full l => .full l
    | .ok s =>
      match unitBad s k acc.kind a u.bytes with
      | some b => .bad b
      | none =>
      let core := (s.crew tm.crew).core
      let bs := if acc.kind == .readOnly then roBytes s tm k core a u.bytes u.lane
        else cohortBytes s k.fn k.ts a u.bytes
      let got := { u with val := BitVec.ofNat 64 (elemOf u bs) }
      match acc.kind with
      | .readOnly => .done (if (roLine s tm k core a).isSome then s else fillRo s k core a) [got]
      | .store => .done (cohortWrite s k.fn k.ts a (storeBytes s acc u a bs)) [u]
      | _ => .done s [got]

/-- The elements of one loaded or stored value, together. -/
def performUnits (s : State) (acc : Access) : List MUnit → Perf
  | [] => .done s []
  | u :: us =>
    match performUnit s acc u with
    | .done s vs =>
      match performUnits s acc us with
      | .done s ws => .done s (vs ++ ws)
      | r => r
    | r => r

/-- The bits of elements at their places in their value. -/
def gather (us : List MUnit) (g : MUnit → Word64) : Nat :=
  us.foldl (fun n u => n + (g u).toNat * 2 ^ (u.bits * u.elem)) 0

/-- Every element of FMT that a memory element belongs to is complete in the list: TRED drops the
others (R393). -/
def wholeElem (f : Fmt) (us : List MUnit) (u : MUnit) : Bool :=
  let per := f.width / u.bits
  (List.range per).all (fun i => us.any (fun v => v.elem == u.elem / per * per + i))

/-- Track the elements of one value. -/
def trackAll (s : State) (k : Task) (acc : Access) : List MUnit → Track
  | [] => .ok s
  | u :: us =>
    match u.addr with
    | none => trackAll s k acc us
    | some a =>
      match trackUnit s k acc a u.bytes with
      | .ok s => trackAll s k acc us
      | r => r

/-- One value of an atomic or a TRED, as one indivisible read and write (R191, R393, R397, R401). -/
def performRmw (s : State) (acc : Access) (op : Nat) (shared : Bool) (us : List MUnit) : Perf :=
  let tm := s.team acc.team
  let k := s.task tm.task
  if us.any (fun u => u.addr.isNone) then .done s us
  else
    let hit := if shared then none else us.findSome? (fun u => unitBad s k acc.kind (u.addr.getD 0) u.bytes)
    match hit, if shared then Track.ok s else trackAll s k acc us with
    | some b, _ => .bad b
    | none, .stall => .wait
    | none, .full l => .full l
    | none, .ok s =>
      let at_ (u : MUnit) : Nat := u.addr.getD 0
      let bytesAt (s : State) (u : MUnit) : List Byte :=
        if shared then shmBytes (s.crew tm.crew) (at_ u) u.bytes
        else cohortBytes s k.fn k.ts (at_ u) u.bytes
      let olds := us.map (fun u => { u with val := BitVec.ofNat 64 (elemOf u (bytesAt s u)) })
      let new := combineValue op acc.fmt (gather olds MUnit.val) (gather us MUnit.val)
        (gather us MUnit.val2)
      let put (s : State) (u : MUnit) : State :=
        let bs := withElem u (bytesAt s u) (fld new (u.bits * u.elem) u.bits)
        if !wholeElem acc.fmt us u then s
        else if shared then
          s.setCrew tm.crew (shmWrite ((s.crew tm.crew).noteLate acc.team ((List.range u.bytes).map (at_ u + ·))) (at_ u) bs)
        else cohortWrite s k.fn k.ts (at_ u) bs
      .done (us.foldl put s) olds

/-- One value of an access is performed. -/
def performOne (s : State) (acc : Access) (us : List MUnit) : Perf :=
  match acc.kind with
  | .combine op | .atomic op => performRmw s acc op false us
  | .sharedAtomic op => performRmw s acc op true us
  | _ => performUnits s acc us

/-- Accesses that precede a path's next one and are not complete (R187). -/
def pathAccesses (s : State) (t p : Nat) : List Nat :=
  ((s.team t).path p).mine.filter (fun i => (Tab.find s.accesses i).isSome)

/-- The same with its operations: ACQ, REL, SIGNAL and SPAWN. -/
def pathInFlight (s : State) (t p : Nat) : List Nat :=
  ((s.team t).path p).mine.filter (fun i => (Tab.find s.accesses i).isSome || (Tab.find s.ops i).isSome)

/-- What precedes an operation in program order (R187). -/
def State.orderOf (s : State) (op : Nat) : List Nat := Tab.get s.opOrder op []

/-- An operation of a path goes out: it follows what the path has in flight, and what the path does next follows
it (R187). -/
def issueOp (s : State) (t p : Nat) (op : PendOp) : State :=
  let id := s.nextId
  let order := pathInFlight s t p
  let open_ := s.opOrder.filter (fun e => (Tab.find s.ops e.1).isSome)
  { s with nextId := id + 1, ops := Tab.set s.ops id op
           opOrder := if order.isEmpty then open_ else Tab.set open_ id order }.modPath t p (fun pa =>
    { pa with mine := order ++ [id] })

/-! ### Who must wait for whom (R188, R193, R194, R201, R203) -/

/-- Where a team lies now (R192). -/
def placeOf (s : State) (t : Nat) : Place :=
  let tm := s.team t
  { team := t, crew := tm.crew, core := (s.crew tm.crew).core, fn := (s.task tm.task).fn }

/-- Two places lie in one instance of a scope (R192). -/
def Place.within (a : Place) (scope : Nat) (b : Place) : Bool :=
  a.team == b.team || (match scope with
    | 0 => false
    | 1 => a.crew == b.crew
    | 2 => a.fn == b.fn && a.core == b.core
    | 3 => a.fn == b.fn && a.core / 104 == b.core / 104
    | _ => a.fn == b.fn)

/-- A team has acquired the sequence of a REL, at a scope that holds the party that made it (R201). -/
def Released.acquired (s : State) (r : Released) (t id : Nat) : Bool :=
  r.sob.any (fun w => (s.team t).acquired.any (fun q =>
    q.soba == w.1 && decide (w.2 ≤ q.seq) && decide (q.upto ≤ id) && q.by_.within q.scope r.by_))

/-- An element in flight counts as performed for a team's access of some number: a point of order has passed it
by whose scope holds the party that made it and this team, and of a REL to whose SOB the element is bound, the team
has acquired the sequence (R193, R194, R198, R201). -/
def Access.binds (s : State) (e : Access) (v : MUnit) (t id : Nat) : Bool :=
  e.released.any (fun r =>
    decide (r.upto ≤ id) && r.by_.within r.scope (placeOf s t)
      && (r.sob.all (fun w => v.sobs.contains w.1) && (r.sob.isNone || r.acquired s t id)))

/-- Bytes that are read or written for a team must wait for accesses that count as performed for it. -/
def held (s : State) (t id : Nat) (writes : Bool) (us : List MUnit) : Bool :=
  s.accesses.any (fun e => decide (e.1 < id) && (writes || e.2.kind.writes) && e.2.kind != .readOnly
    && e.2.todo.any (fun v => us.any (fun u => u.meets v) && e.2.binds s v t id))

/-- A write of the access that is not performed is bound to a SOB (R198). -/
def Access.boundTo (e : Access) (soba : Nat) : Bool := e.todo.any (fun v => v.sobs.contains soba)

/-- The path's accesses that a FENCE orders: not its reads through the read-only L1 (R195). -/
def fencedBy (s : State) (t p : Nat) : List Nat :=
  (pathAccesses s t p).filter (fun i => (Tab.find s.accesses i).any (fun a => a.kind != .readOnly))

/-- The word that an ACQ, a REL or a SIGNAL reads or writes. -/
def opWord (s : State) : PendOp → Option Nat
  | .acq t _ _ soba _ _ _ _ => some (flatOf s (s.task (s.team t).task).fn soba)
  | .rel t _ _ soba _ _ _ _ => some (flatOf s (s.task (s.team t).task).fn soba)
  | .signal t _ addr _ _ _ => some (tokenFlat s (s.task (s.team t).task).fn addr.toNat)
  | _ => none

/-- The unit of a 64-bit word. -/
def wordUnit (flat : Nat) : MUnit := { lane := 0, addr := some flat, bits := 64 }

/-- Of what precedes an access of some bytes in its path's program order, an operation of one of them is pending
(R188). -/
def opAhead (s : State) (order : List Nat) (us : List MUnit) : Bool :=
  s.ops.any (fun o => order.contains o.1 && (opWord s o.2).any (fun a => us.any (fun u => u.meets (wordUnit a))))

/-- The same for an engine command: with ACQ it sees what its team has released and acquired (R206), and always
what earlier commands of its channel wrote (R208). -/
def engineHeld (s : State) (t id : Nat) (acq : Bool) (chan : Option Nat) (writes : Bool) (us : List MUnit) : Bool :=
  (acq && held s t id writes us)
    || s.accesses.any (fun e => (match e.2.engine with | some g => some g.2 == chan && g.1 != id | none => false)
        && e.2.todo.any (fun v => us.any (fun u => u.meets v)))

/-- Writes of an engine command itself that are still in flight come before what it does with their bytes (R419). -/
def commandHeld (s : State) (id : Nat) (us : List MUnit) : Bool :=
  s.accesses.any (fun e => e.2.engine.any (fun g => g.1 == id) && e.2.todo.any (fun v => us.any (fun u => u.meets v)))

/-- A word that an ACQ, a REL or a SIGNAL of a path reads or writes: what the path did with it before comes first
(R187, R188). -/
def wordHeld (s : State) (t _p id flat : Nat) (writes : Bool) : Bool :=
  let u := wordUnit flat
  held s t id writes [u] || opAhead s (s.orderOf id) [u]
    || s.accesses.any (fun e => (s.orderOf id).contains e.1 && e.2.kind != .readOnly && e.2.todo.any (fun v => u.meets v))

/-- A store may stay undone for parties outside a scope: no fault can meet it any more (R193). -/
def mayLinger (scope : Nat) (a : Access) : Bool :=
  decide (scope ≤ 4) && a.kind == .store && a.walks.isEmpty && !a.irrevocable && a.bad.isNone && a.bads.isEmpty

/-- A point of order of a team at a scope passes some accesses: which of the stores stay undone for other parties is a free
choice, and the rest are to be waited for. -/
def releaseAt (s : State) (t scope : Nat) (sob : Option (Nat × Nat)) (ids : List Nat) : State × List Nat :=
  let mark : Released := { scope := scope, by_ := placeOf s t, sob := sob, upto := if sob.isNone then s.nextId else 0 }
  let lazy_ (i : Nat) : Bool := (Tab.find s.accesses i).any (fun a => mayLinger scope a) && Config.pick s.free scope i
  ({ s with accesses := s.accesses.map (fun e =>
      (e.1, if ids.contains e.1 && lazy_ e.1 then { e.2 with released := mark :: e.2.released } else e.2)) },
    ids.filter (fun i => (Tab.find s.accesses i).isSome && !lazy_ i))

/-- A fence of a path at a scope (R194), or the one that an atomic implies (R398): its accesses in flight count as
performed or are to be waited for, and its team's shared-memory stores are seen by the crew. -/
def fenceAt (s : State) (t p scope : Nat) : State × List Nat :=
  let r := releaseAt s t scope none (fencedBy s t p)
  (if scope == 0 then r.1 else r.1.modCrew (s.team t).crew (fun cr => cr.releaseLate t), r.2)

/-! ### One access -/

/-- An element that must be performed first: an earlier one of the path to the same byte (R188), or
one of an earlier lane of the same access (R189, R393). -/
def blocked (s : State) (id : Nat) (acc : Access) (us : List MUnit) : Bool :=
  let first := us.headD { lane := 0 }
  (acc.kind != .readOnly && acc.engine.isNone && held s acc.team id acc.kind.writes us)
  || (acc.engine.any (fun g => engineHeld s acc.team g.1 false (some g.2) true us))
  || (acc.kind != .readOnly && s.accesses.any (fun e =>
    e.1 != id && acc.order.contains e.1 && e.2.kind != .readOnly
      && (match e.2.kind, acc.kind with
          | .sharedAtomic _, .sharedAtomic _ => true
          | .sharedAtomic _, _ | _, .sharedAtomic _ => false
          | _, _ => true)
      && e.2.todo.any (fun v => us.any (fun u => u.meets v))))
  || (acc.kind != .readOnly && opAhead s acc.order us)
  || acc.todo.any (fun v =>
    decide (v.lane < first.lane ∨ (v.lane = first.lane ∧ v.idx < first.idx))
    && us.any (fun u => u.meets v))

/-- Nothing of an access is left to be performed: it may still wait for its least time (R401). -/
def performed (s : State) (id : Nat) : Bool :=
  match Tab.find s.accesses id with
  | none => true
  | some a => a.todo.isEmpty

/-- May the access be performed at all now: its walks have ended, the accesses that its implied
fence waits for are performed (R398), it is not an irrevocable operation that waits (R181), and no
fault of its elements is to be taken (R39, R121)? -/
def ready (s : State) (acc : Access) : Bool :=
  acc.walks.all (fun w => (Tab.find s.ops w).isNone)
    && acc.after.all (performed s) && !acc.irrevocable && acc.bad.isNone && acc.bads.isEmpty

/-- The version words of a versioned read are even (R213). -/
def versionsEven (s : State) (acc : Access) : Bool :=
  let k := s.task (s.team acc.team).task
  acc.versions.all (fun a => leNat (cohortBytes s k.fn k.ts a 8) % 2 == 0)

/-- The results of one performed value, which land when the flag is observed (R233); a lane that a REGROUP has dropped
takes none. -/
def valueResult (acc : Access) (us : List MUnit) : Option PendRes :=
  match acc.dest, us with
  | some (r, isS), u :: _ =>
    if !isS && 1024 ≤ u.lane then none else
    let v := packElems u.bits (us.map (fun x => x.val.toNat))
    let pair := acc.fmt == .int64
    let vals := [(if isS then 0 else u.lane, BitVec.ofNat 64 v)]
    some { due := 0
           dest := if isS then .sreg r else if pair then .vpair (r + 2 * u.idx) else .vreg (r + u.idx)
           word := u.lane / 32, vals := vals, tag := if isS then none else some acc.fmt
           flag := acc.flag, slot := .m }
  | _, _ => none

/-- What is performed together with a unit: all elements of its lane and index, or one byte where only the
byte is single-copy atomic (R190). -/
def together (acc : Access) (u v : MUnit) : Bool :=
  v.lane == u.lane && v.idx == u.idx && (!acc.bytewise || v.elem * u.bits / 8 == u.elem * u.bits / 8)

/-- The units performed together at a position of an access's list. -/
def valueAt (acc : Access) (i : Nat) : List MUnit :=
  match acc.todo[i]? with
  | none => []
  | some u => acc.todo.filter (together acc u)

/-- Units in the order of their places in their value. -/
def byPlace (us : List MUnit) : List MUnit :=
  us.foldl (fun l u => l.filter (fun v => v.elem < u.elem) ++ u :: l.filter (fun v => u.elem < v.elem)) []

/-- An access is complete: its flag's count falls (R233, R386). -/
def completeAccess (s : State) (id : Nat) (acc : Access) : State :=
  flagDone { s with accesses := Tab.erase s.accesses id } acc.team acc.flag

/-- After a value has been performed: its results, and the access without it. When nothing is left
the access is complete and its flag's count falls (R233, R386). -/
def finishValue (s : State) (id : Nat) (acc : Access) (us : List MUnit) (lowest : Bool) : State :=
  let first := us.headD { lane := 0 }
  let mine (v : MUnit) : Bool := v.lane == first.lane && v.idx == first.idx
  let rest := acc.todo.filter (fun v => !together acc first v)
  let whole := if acc.bytewise then byPlace (acc.got.filter mine ++ us) else us
  let res := if rest.any mine then none else match acc.dest with
    | some (_, true) => if lowest then valueResult acc whole else none
    | _ => valueResult acc whole
  let s : State := match res with
    | some r => s.modTeam acc.team (fun tm => { tm with pending := tm.pending ++ [r] })
    | none => s
  let acc : Access := { acc with todo := rest, got := acc.got ++ us, fullSince := none }
  if rest.isEmpty && decide (acc.earliest ≤ s.now) then completeAccess s id acc
  else { s with accesses := Tab.set s.accesses id acc }

/-- The lowest lane of an access (R320). -/
def accessLowest (acc : Access) : Nat :=
  (acc.todo ++ acc.got).foldl (fun m u => min m u.lane) 1024

/-- The lowest qualifying lane is not among the padded ones only: it is the lowest of all units. -/
def performValue (s : State) (id i : Nat) : State :=
  match Tab.find s.accesses id with
  | none => s
  | some acc =>
    let us := valueAt acc i
    if us.isEmpty || !ready s acc || blocked s id acc us then s
    else
      let low := (us.headD { lane := 0 }).lane == accessLowest acc
      match performOne s acc us with
      | .done s' ps => finishValue s' id acc ps low
      | .wait => s
      | .bad b => { s with accesses := Tab.set s.accesses id { acc with bad := some b } }
      | .full l =>
        if acc.fullSince.isSome then s
        else { s with accesses := Tab.set s.accesses id
                        { acc with fullSince := some s.now, fullLine := l } }

/-- All that is left of an access is performed, as far as it can be. -/
def performAll (s : State) (id : Nat) : Nat → State
  | 0 => s
  | n + 1 => performAll (performValue s id 0) id n

/-- The version words of a versioned read are read, as tracked reads (R171). -/
def trackWords (s : State) (k : Task) : List Nat → Track
  | [] => .ok s
  | a :: as =>
    match trackRead s k.fn k.ts a 8 with
    | .ok s => trackWords s k as
    | r => r

/-- Numbers in ascending order, each once. -/
def ascending (l : List Nat) : List Nat :=
  l.foldl (fun r x => if r.contains x then r else r.filter (· < x) ++ x :: r.filter (x < ·)) []

/-- The tiles that a versioned read holds: none before its 16th failed attempt, then each as soon as it is even.
They are taken in the order in which an atomic write claims them, so that no write that has claimed one waits for
another (R212, R213; log 50). -/
def holdTiles (s : State) (k : Task) (tries : Nat) (old versions : List Nat) : List Nat :=
  if tries < 16 then []
  else (ascending versions).takeWhile (fun a =>
    old.contains a || leNat (cohortBytes s k.fn k.ts a 8) % 2 == 0)

/-- A failed attempt of a versioned read (R213). -/
def versionedAgain (s : State) (id : Nat) (acc : Access) : State :=
  let k := s.task (s.team acc.team).task
  let holds := holdTiles s k acc.tries acc.holds acc.versions
  { s with accesses := Tab.set s.accesses id { acc with tries := acc.tries + 1, holds := holds } }

/-- A versioned read returns all of its data at one moment at which every version word is even, or nothing. Every
attempt reads the version words, as tracked reads (R171, R213). -/
def performVersioned (s : State) (id : Nat) (acc : Access) : State :=
  match trackWords s (s.task (s.team acc.team).task) acc.versions with
  | .stall => s
  | .full l =>
    if acc.fullSince.isSome then s
    else { s with accesses := Tab.set s.accesses id { acc with fullSince := some s.now, fullLine := l } }
  | .ok s1 =>
    if !versionsEven s1 acc then versionedAgain s1 id acc
    else
      let s2 := performAll s1 id (acc.todo.length + 1)
      match Tab.find s2.accesses id with
      | none => s2
      | some a =>
        if a.todo.isEmpty then s2
        else { s with accesses := Tab.set s.accesses id { acc with bad := a.bad, fullSince := a.fullSince, fullLine := a.fullLine } }

/-- An access of which nothing is left to perform is complete, a shared atomic not before its least
time (R401). -/
def settleAccess (s : State) (id : Nat) (anyTime : Bool) : State :=
  match Tab.find s.accesses id with
  | none => s
  | some acc =>
    if acc.todo.isEmpty && (anyTime || decide (acc.earliest ≤ s.now)) then completeAccess s id acc else s

/-- GLOBAL_ACCESS_COMPLETE: the chosen values of an access are performed (R233). Positions count in
the list of what is left. -/
def performChosen (s : State) (id : Nat) (units : List Nat) : State :=
  match Tab.find s.accesses id with
  | none => s
  | some acc =>
    if acc.kind == .versioned then (if ready s acc then performVersioned s id acc else s)
    else settleAccess (units.foldl (fun s i => performValue s id i) s) id false

/-- Some accesses are performed as far as they can be, in issue order. -/
def performIds (s : State) (ids : List Nat) : State :=
  ids.foldl (fun s id =>
    match Tab.find s.accesses id with
    | none => s
    | some acc =>
      if acc.kind == .versioned then (if ready s acc then performVersioned s id acc else s)
      else performAll s id (acc.todo.length + 1)) s

/-- Everything that the given teams have issued is performed as far as it can be (R218). -/
def performTeams (s : State) (teams : List Nat) : State :=
  let ids := (s.accesses.filter (fun e => teams.contains e.2.team)).map Prod.fst
  (ids ++ ids).foldl (fun s id => settleAccess (performIds s [id]) id true) s

/-- The shared atomics in flight that a shared-memory access of a team must follow: those of the path that
makes it, or of every path for a ring advance, and those that are released to it; of an access of some bytes only
those of one of them (R188, R203, R204). -/
def openAtomics (s : State) (t : Nat) (p : Option Nat) (only : Option (List Nat) := none) : List Nat :=
  let meets (u : MUnit) : Bool :=
    only.all (fun l => u.addr.any (fun a => l.any (fun x => decide (a ≤ x) && decide (x < a + u.bytes))))
  let mine : List Nat := match p with
    | some p => ((s.team t).path p).mine
    | none => (s.accesses.filter (fun e => e.2.team == t)).map Prod.fst
  (s.accesses.filter (fun e => e.2.todo.any meets && (match e.2.kind with | .sharedAtomic _ => true | _ => false)
    && (mine.contains e.1 || e.2.todo.any (fun v => e.2.binds s v t s.nextId)))).map Prod.fst

/-- These are performed, with what their implied fences wait for: a shared-memory access that must follow
them is about to be made. -/
def settleAtomics (s : State) (t : Nat) (p : Option Nat) (only : Option (List Nat) := none) : State :=
  let ids := openAtomics s t p only
  if ids.isEmpty then s
  else
    let first := ids.flatMap (fun i => match Tab.find s.accesses i with | some a => a.after | none => [])
    performIds s ((Tab.keys s.accesses).filter (fun i => ids.contains i || first.contains i))

/-- Such an atomic cannot be performed yet: what its implied fence waits for is not performed. -/
def atomicsWait (s : State) (t p : Nat) (only : Option (List Nat) := none) : Bool :=
  !(openAtomics s t (some p) only).isEmpty && !(openAtomics (settleAtomics s t (some p) only) t (some p) only).isEmpty

end Sys2Proof.Machine
end

