-- ==== Sys2Proof/Machine/EngineMx.lean ====
section
/-! DEFINITION. Rings (R404, R420) and the effects of matrix commands: reading the operands, the
consumer advances, the rows, and ACCOUT's bytes (R427-R435). -/

namespace Sys2Proof.Machine

open Sys2Proof

/-! ### Rings -/

def Crew.ring (cr : Crew) (h : Nat) : Ring := Tab.get cr.rings h {}
def Crew.setRing (cr : Crew) (h : Nat) (r : Ring) : Crew := { cr with rings := Tab.set cr.rings h r }

/-- Slot size in bytes (R404). -/
def Ring.sz (r : Ring) : Nat := r.slotsz * 16

/-- Filled slots: producer - consumer modulo 2^32 (R404). -/
def Ring.filled (r : Ring) : Nat := (r.producer - r.consumer).toNat

/-- Byte offset of the slot that a count names. -/
def Ring.slotAt (r : Ring) (count : Nat) : Nat := r.base + count % 2 ^ 32 % r.slots * r.sz

def Ring.reservedSlots (r : Ring) : Nat := r.reserved.foldl (fun n e => n + e.2) 0

/-- A command reserves k slots (R420). -/
def Ring.reserve (r : Ring) (owner k : Nat) : Ring := { r with reserved := r.reserved ++ [(owner, k)] }

/-- The count at which a command's reserved slots begin. -/
def Ring.reservedAt (r : Ring) (owner : Nat) : Nat :=
  r.producer.toNat + (r.reserved.takeWhile (fun e => e.1 != owner)).foldl (fun n e => n + e.2) 0

/-- The advances at the head of the reservation order are made (R420). -/
def advanceHeads (landed : List Nat) (p : Word32) : List (Nat × Nat) → Word32 × List (Nat × Nat)
  | [] => (p, [])
  | (o, k) :: r => if landed.contains o then advanceHeads landed (p + BitVec.ofNat 32 k) r else (p, (o, k) :: r)

/-- A command that reserved slots completes: its advance waits for those of earlier reservations
(R420). -/
def Ring.release (r : Ring) (owner : Nat) : Ring :=
  let landed := owner :: r.landed
  let h := advanceHeads landed r.producer r.reserved
  { r with producer := h.1, reserved := h.2, landed := landed.filter (fun o => h.2.any (fun e => e.1 == o)) }

/-- The advance of a command that reserved slots has been made. -/
def Ring.advancedFor (r : Ring) (owner : Nat) : Bool := !r.reserved.any (fun e => e.1 == owner)

/-- A consumer advance (R405, R428). -/
def Ring.consume (r : Ring) (k : Nat) : Ring := { r with consumer := r.consumer + BitVec.ofNat 32 k }

/-- Advances of a ring that wait for shared atomics (R405). -/
def radvPending (s : State) (crew h : Nat) (producer : Bool) : Nat :=
  s.ops.foldl (fun n o => match o.2 with
    | .radv t h' a q _ => if (s.team t).crew == crew && h' == h && q == producer then n + a else n
    | _ => n) 0

/-- A ring's count rises (R405); a producer advance releases the team's stores (R204). -/
def radvApply (s : State) (t h a : Nat) (producer : Bool) : State :=
  s.modCrew (s.team t).crew (fun cr =>
    let r := cr.ring h
    if producer then (cr.releaseLate t).setRing h { r with producer := r.producer + BitVec.ofNat 32 a }
    else cr.setRing h (r.consume a))

/-- An advance whose atomics are performed, with none of its ring before it (R405). -/
def radvDue (s : State) : Option (Nat × PendOp) :=
  s.ops.find? (fun o => match o.2 with
    | .radv t h _ q waits => waits.all (performed s) && !s.ops.any (fun x => decide (x.1 < o.1) && (match x.2 with
        | .radv t' h' _ q' _ => (s.team t').crew == (s.team t).crew && h' == h && q' == q
        | _ => false))
    | _ => false)

/-- It is made. -/
def radvMake (s : State) (o : Nat × PendOp) : State :=
  match o.2 with
  | .radv t h a q _ => radvApply { s with ops := Tab.erase s.ops o.1 } t h a q
  | _ => s

/-- The advances of some teams that wait are made: what they wait for is performed (R218). -/
def finishRadvs (s : State) (teams : List Nat) : Nat → State
  | 0 => s
  | n + 1 =>
    match radvDue s with
    | some (i, .radv t h a q w) => if teams.contains t then finishRadvs (radvMake s (i, .radv t h a q w)) teams n else s
    | _ => s

/-! ### The fields of an MMA descriptor (R430) -/

def MxCmd.e (c : MxCmd) (w lo n : Nat) : Nat := fld (c.desc.getD w 0#64).toNat lo n
def MxCmd.fmtA (c : MxCmd) : Fmt := Fmt.ofCode (c.e 0 1 4)
def MxCmd.fmtB (c : MxCmd) : Fmt := Fmt.ofCode (c.e 0 5 4)
def MxCmd.srcA (c : MxCmd) : Bool := c.e 0 9 1 == 1
def MxCmd.srcB (c : MxCmd) : Bool := c.e 0 10 1 == 1
def MxCmd.scaled (c : MxCmd) : Bool := c.e 0 0 1 == 1
def MxCmd.m (c : MxCmd) : Nat := (mxShape c.x.shape.toNat).1
def MxCmd.n (c : MxCmd) : Nat := (mxShape c.x.shape.toNat).2
def MxCmd.isMma (c : MxCmd) : Bool := decide (c.kind ≤ 9)

/-- The tensors that an MMA or MMAS names (R430). -/
def MxCmd.tensors (c : MxCmd) : List Nat := [c.e 0 13 8, c.e 0 21 8]

/-! ### Reading the operands (R432) -/

def toWords (n : Nat) : List Word32 := (List.range 8).map (fun i => BitVec.ofNat 32 (n / 2 ^ (32 * i)))
def ofWords (l : List Word32) : Nat := packElems 32 (l.map BitVec.toNat)

/-- Rows of 32 bytes in a ring slot. -/
def ringRows (cr : Crew) (h rows : Nat) : List (List Word32) :=
  let r := cr.ring h
  let a := r.slotAt r.consumer.toNat
  (List.range rows).map (fun i => toWords (leNat (shmBytes cr (a + 32 * i) 32)))

/-- Bytes of scales in a ring slot. -/
def ringScales (cr : Crew) (h n : Nat) : List Byte :=
  let r := cr.ring h
  shmBytes cr (r.slotAt r.consumer.toNat) n

/-- One row of an operand read by the tile fetch unit: K elements along dimension 0, or the fault of
one of them (R121, R432). -/
def tfuRow (s : State) (c : MxCmd) (core tid : Nat) (d : Desc) (x0 x1 x2 : Int) (k : Nat) :
    Except FaultInfo Nat :=
  let tk := (s.team c.team).task
  let t := s.task tk
  let w := d.fmt.memBits
  let one (i : Nat) : Except FaultInfo Nat :=
    match checkTiled s tk core d {} [x0 + (i : Nat), x1, x2] 0 c.words with
    | .pad => .ok (padElem d w)
    | .at_ flat hi _ _ =>
      let u : MUnit := { lane := 0, addr := some flat, bits := w, hi := hi }
      match readBad s t.fn t.ts flat u.bytes with
      | some b => .error { code := .memUncorrectable, slot := .x, addr := guestOf s t.fn b, tensor := tid }
      | none => .ok (elemOf u (cohortBytes s t.fn t.ts flat u.bytes))
    | .fault _ code a host => .error
        { code := code, slot := .x, addr := a, tensor := tid, pages := [(a, host)]
          coords := if code == .tensorBounds then [x0 + (i : Nat), x1, x2].map (BitVec.ofInt 32) else [] }
  (List.range k).foldr (fun i acc =>
    match one i, acc with
    | .ok e, .ok v => .ok (e + 2 ^ w * v)
    | .error f, _ => .error f
    | _, .error f => .error f) (.ok 0)

/-- The rows of an operand from the tile fetch unit. -/
def tfuRows (s : State) (c : MxCmd) (core tid : Nat) (x0 x1 x2 : Int) (rows k : Nat) :
    Except FaultInfo (List (List Word32)) :=
  match descOf s (s.team c.team).task tid with
  | none => .error { code := .tensorInvalid, slot := .x, tensor := tid
                     addr := descAddr (s.task (s.team c.team).task) tid }
  | some d =>
    (List.range rows).foldr (fun (i : Nat) acc =>
      match tfuRow s c core tid d x0 (x1 + (i : Nat)) x2 k, acc with
      | .ok v, .ok l => .ok (toWords v :: l)
      | .error f, _ => .error f
      | _, .error f => .error f) (.ok [])

/-- What the tile fetch unit reads for an operand: the flat 64-byte granules that are tracked, the entries that place
them, and the L2 lines that it pins (R117, R171, R432). -/
structure TfuReads where
  granules : List Nat := []
  entries : List Nat := []
  lines : List Nat := []
  deriving DecidableEq, Repr

def TfuReads.join (a b : TfuReads) : TfuReads :=
  { granules := a.granules ++ b.granules, entries := a.entries ++ b.entries, lines := (a.lines ++ b.lines).eraseDups }

def tfuTouches (s : State) (c : MxCmd) (core tid : Nat) (x0 x1 x2 : Int) (rows k : Nat) : TfuReads :=
  match descOf s (s.team c.team).task tid with
  | none => {}
  | some d =>
    let els : List Elem := (List.range rows).flatMap (fun (i : Nat) => (List.range k).map (fun (j : Nat) =>
      checkTiled s (s.team c.team).task core d {} [x0 + (j : Int), x1 + (i : Int), x2] 0 c.words))
    let flats := (els.filterMap (fun e => match e with | .at_ f _ _ _ => some (f / 64) | _ => none)).eraseDups
    let used := els.filterMap (fun e => match e with | .at_ _ _ (some en) _ => some en | _ => none)
    { granules := if untracked d then [] else flats, entries := used.eraseDups, lines := (flats.map (· / 2)).eraseDups }

/-- The entries of an operand that need a walk first (R117). -/
def tfuMisses (s : State) (c : MxCmd) (core tid : Nat) (x0 x1 x2 : Int) (rows k : Nat) : List Nat :=
  match descOf s (s.team c.team).task tid with
  | none => []
  | some d =>
    if d.flat then []
    else ((List.range rows).flatMap (fun (i : Nat) => (List.range k).filterMap (fun (j : Nat) =>
      entryMiss s (s.team c.team).task core d {} [x0 + (j : Int), x1 + (i : Int), x2] 0 c.words))).eraseDups

/-- TSCALE of a tensor named by the descriptor; tensors 0 and 1 have none (R109, R289, R430). -/
def tscaleOf (s : State) (c : MxCmd) (tid : Nat) : Except FaultInfo Word32 :=
  match descOf s (s.team c.team).task tid with
  | some d => .ok (BitVec.ofNat 32 d.tscale)
  | none => .error { code := .tensorInvalid, slot := .x, tensor := tid
                     addr := descAddr (s.task (s.team c.team).task) tid }

/-- The command with its operands as read over s to s + 7 (R428, R432). -/
def mxReadOperands (s : State) (core : Nat) (c : MxCmd) : Except FaultInfo MxCmd :=
  if !c.isMma then .ok c
  else
    let cr := s.crew c.crew
    let k := mxK c.fmtA
    let sx (w lo : Nat) : Int := signed 32 (c.e w lo 32)
    let tidA := c.e 0 13 8
    let tidB := c.e 0 21 8
    let ra : Except FaultInfo (List (List Word32)) :=
      if c.srcA then tfuRows s c core tidA (sx 1 0) (sx 1 32) (sx 3 0) c.m k
      else .ok (ringRows cr c.x.ha.toNat c.m)
    let rb : Except FaultInfo (List (List Word32)) :=
      if c.srcB then tfuRows s c core tidB (sx 2 0) (sx 2 32) (sx 3 32) c.n k
      else .ok (ringRows cr c.x.hb.toNat c.n)
    match tscaleOf s c tidA, tscaleOf s c tidB, ra, rb with
    | .ok ta, .ok tb, .ok a, .ok b =>
      .ok { c with opA := a, opB := b, ta := ta, tb := tb
                   scA := if c.scaled then ringScales cr (c.e 0 29 4) (c.m * (k / 32)) else []
                   scB := if c.scaled then ringScales cr (c.e 0 33 4) (c.n * (k / 32)) else [] }
    | .error f, _, _, _ => .error f
    | _, .error f, _, _ => .error f
    | _, _, .error f, _ => .error f
    | _, _, _, .error f => .error f

/-! ### Consumer advances and rows -/

/-- At s + 8: the consumer advances that the command names (R428, R430). -/
def mxConsume (s : State) (c : MxCmd) : State :=
  if !c.isMma || c.consDone then s
  else
    let adv (cr : Crew) (on : Bool) (h : Nat) : Crew :=
      if on then cr.setRing h ((cr.ring h).consume 1) else cr
    s.modCrew c.crew (fun cr =>
      let cr := adv cr (c.e 0 11 1 == 1) c.x.ha.toNat
      let cr := adv cr (c.e 0 12 1 == 1) c.x.hb.toNat
      let cr := adv cr (c.scaled && c.e 0 37 1 == 1) (c.e 0 29 4)
      adv cr (c.scaled && c.e 0 38 1 == 1) (c.e 0 33 4))

def accAt (cr : Crew) (row col : Nat) : Nat := (Tab.get cr.acc (row * 64 + col) 0#32).toNat

/-- An element as a command reads it: old or new where an ACCST came too late before it (R403). -/
def mxAccRead (fr : Nat) (cr : Crew) (c : MxCmd) (row col : Nat) : Nat :=
  match Tab.find c.accOld (row * 64 + col) with
  | some v => if Config.pick fr row col then v.toNat else accAt cr row col
  | none => accAt cr row col

/-- Set accumulator elements, given as row, column and bits. -/
def accSet (cr : Crew) (l : List (Nat × Nat × Nat)) : Crew :=
  { cr with acc := Tab.setAll cr.acc (l.map (fun q => (q.1 * 64 + q.2.1, BitVec.ofNat 32 q.2.2))) }

/-- The output elements of an MMA or MMAS step (R305, R433). -/
def mxOutputs (fr : Nat) (cr : Crew) (c : MxCmd) : List (Nat × Nat × Nat) :=
  let k := mxK c.fmtA
  let per := k / 32
  let scs (l : List Byte) (i : Nat) : List Nat :=
    if c.scaled then (List.range per).map (fun g => (l.getD (i * per + g) 0#8).toNat) else []
  let rowsA := (List.range c.m).map (fun i => mxRow c.fmtA (ofWords (c.opA.getD i [])) (scs c.scA i))
  let colsB := (List.range c.n).map (fun j => mxRow c.fmtB (ofWords (c.opB.getD j [])) (scs c.scB j))
  let ta := decodeF .fp32 c.ta.toNat
  let tb := decodeF .fp32 c.tb.toNat
  (List.range c.m).flatMap (fun i =>
    let row := c.rows.getD i 0
    (List.range c.n).map (fun j =>
      let ps := List.zipWith (fun a b => (mulV a b).1) (rowsA.getD i []) (colsB.getD j [])
      (row, j, mxElem (mxAccRead fr cr c row j) ps ta tb (k / 16))))

/-- The bytes that an ACCOUT converts: row by row, densely (R435). -/
def accoutBytes (fr : Nat) (cr : Crew) (c : MxCmd) : List Byte :=
  let of := Fmt.ofCode (c.e 0 0 4)
  let rnd := Rnd.ofCode (c.e 0 4 2)
  let sat := c.e 0 6 1 == 1
  let mul := decodeF .fp32 (c.e 1 0 32)
  let w := of.width
  let elems := c.rows.flatMap (fun r => (List.range c.n).map (fun j =>
    (roundTo of rnd false sat (mulV (decodeF .fp32 (mxAccRead fr cr c r j)) mul).1).1))
  leBytes (elems.length * w / 8) (packElems w elems)

/-- At s + 24: the rows are written, or read and converted by an ACCOUT, and ownership ends (R428,
R434, R435). -/
def mxRowsWrite (s : State) (c : MxCmd) : State × MxCmd :=
  let cr := s.crew c.crew
  let zero := c.rows.flatMap (fun r => (List.range 64).map (fun j => (r, j, 0)))
  let free (s : State) : State := s.modTeam c.team (fun tm =>
    { tm with owned := c.rows.foldl (fun o r => o.erase r) tm.owned })
  if c.isMma then
    (flagDone (free (s.setCrew c.crew (accSet cr (mxOutputs s.free cr c)))) c.team c.flag,
      { c with rowsDone := true })
  else if c.kind == 10 then
    (flagDone (free (s.setCrew c.crew (accSet cr zero))) c.team c.flag, { c with rowsDone := true })
  else
    let out := accoutBytes s.free cr c
    let ozero := c.e 0 7 1 == 1
    let cr := if ozero then
        accSet cr (c.rows.flatMap (fun r => (List.range c.n).map (fun j => (r, j, 0)))) else cr
    (free (s.setCrew c.crew cr), { c with rowsDone := true, out := out })

/-- Bytes laid into reserved ring slots from a count onward, wrapping over the ring's slots. -/
def ringFill (cr : Crew) (h : Nat) (count : Nat) : Nat → List Byte → Crew
  | 0, _ => cr
  | n + 1, bs =>
    let r := cr.ring h
    ringFill (engineWrite cr (r.slotAt count) (bs.take r.sz)) h (count + 1) n (bs.drop r.sz)

/-- ACCOUT's last byte is written: into shared memory or its ring slots, and its flag is set (R435). -/
def accoutFinish (s : State) (c : MxCmd) : State :=
  let cr := s.crew c.crew
  let ring := c.e 0 8 1 == 1
  let h := c.e 0 9 4
  let r := cr.ring h
  let cr := if ring then
      let cr := ringFill cr h (r.reservedAt c.id) (c.out.length / r.sz) c.out
      cr.setRing h ((cr.ring h).release c.id)
    else engineWrite cr (c.e 0 32 32) c.out
  flagDone (s.setCrew c.crew cr) c.team c.flag

/-- A started command runs to its end at once: before a save (R253). -/
def mxFinish (s : State) (c : MxCmd) : State :=
  let s := mxConsume s c
  let r := if c.rowsDone then (s, c) else mxRowsWrite s c
  if c.kind == 11 then accoutFinish r.1 r.2 else r.1

/-- In-flight matrix commands of some teams complete (R253); those not started stay queued. -/
def mxFinishTeams (s : State) (teams : List Nat) : State :=
  s.cores.foldl (fun s e =>
    let mine := e.2.matrix.filter (fun c => teams.contains c.team && c.start.isSome)
    let s := mine.foldl mxFinish s
    s.modCore e.1 (fun c =>
      let left := c.matrix.filter (fun m => !(teams.contains m.team && m.start.isSome))
      { c with matrix := left })) s

end Sys2Proof.Machine
end

