-- ==== Sys2Proof/Machine/EngineCopy.lean ====
section
/-! DEFINITION. How a copy channel performs its commands, unit by unit (R412-R425), and how it hands a
follow-on to the matrix engine (R422). -/

namespace Sys2Proof.Machine

open Sys2Proof

/-! ### The descriptor (R415-R417) -/

def CopyCmd.d (c : CopyCmd) (w lo n : Nat) : Nat := fld (c.desc.getD w 0#64).toNat lo n
def CopyCmd.dir (c : CopyCmd) : Nat := c.d 0 4 2
def CopyCmd.tids (c : CopyCmd) : Nat := c.d 0 6 8
def CopyCmd.tidd (c : CopyCmd) : Nat := c.d 0 14 8
def CopyCmd.ring (c : CopyCmd) : Nat := c.d 0 22 4
def CopyCmd.rmode (c : CopyCmd) : Nat := c.d 0 26 2
def CopyCmd.cop (c : CopyCmd) : Nat := c.d 0 28 3
def CopyCmd.soff (c : CopyCmd) : Nat := c.d 0 32 32
def CopyCmd.soff2 (c : CopyCmd) : Nat := c.d 3 32 32
def CopyCmd.auxw (c : CopyCmd) : Nat := c.d 5 32 32
def CopyCmd.x (c : CopyCmd) (i : Nat) : Int := signed 32 (c.d (1 + i / 2) (32 * (i % 2)) 32)
def CopyCmd.ext (c : CopyCmd) (i : Nat) : Nat := c.d (4 + i / 4) (16 * (i % 4)) 16

/-- COPYG and COPYS move rows by an index list (R423, R424). -/
def CopyCmd.byRows (c : CopyCmd) : Bool := c.kind == 2 || c.kind == 3
def CopyCmd.isFill (c : CopyCmd) : Bool := c.kind == 4
def CopyCmd.dstGlobal (c : CopyCmd) : Bool := c.dir == 1 || c.dir == 2
def CopyCmd.srcGlobal (c : CopyCmd) : Bool := !c.isFill && (c.dir == 0 || c.dir == 2)
/-- It sees what its path did before: with ACQ (R206), and COPYS, whose combinations are ordered like global atomics
(R424). -/
def CopyCmd.ordered (c : CopyCmd) : Bool := c.acq || c.kind == 3
def CopyCmd.srcShared (c : CopyCmd) : Bool := !c.isFill && (c.dir == 1 || c.dir == 3)

/-- Elements of the box. -/
def CopyCmd.count (c : CopyCmd) : Nat := c.ext 0 * c.ext 1 * c.ext 2 * c.ext 3 * c.ext 4

/-- The tensor whose elements the stream is made of, if there is one. -/
def CopyCmd.boxTid (c : CopyCmd) : Option Nat :=
  if c.dstGlobal then some c.tidd else if c.srcGlobal then some c.tids else none

/-- The element width of the stream (R108, R416). -/
def copyBits (s : State) (c : CopyCmd) : Nat :=
  match c.boxTid with
  | none => 8
  | some i =>
    match descOf s (s.team c.team).task i with
    | some d => d.fmt.memBits
    | none => 8

/-- The length of the stream in bytes (R417). -/
def copyLen (s : State) (c : CopyCmd) : Nat := c.count * copyBits s c / 8

/-- The coordinates of element e, with the row's index where there is one (R416, R423). -/
def CopyCmd.coords (c : CopyCmd) (e : Nat) : List Int :=
  let n (i : Nat) : Nat := c.ext i
  let j := e / n 0
  if c.byRows then
    let k : Int := signed 32 (Tab.get c.rowIdx j 0#32).toNat
    [c.x 0 + ((e % n 0 : Nat) : Int), c.x 1 + k, c.x 2, c.x 3, c.x 4]
  else
    let at_ (i k : Nat) : Int := c.x i + ((k % n i : Nat) : Int)
    [at_ 0 e, at_ 1 j, at_ 2 (j / n 1), at_ 3 (j / n 1 / n 2), at_ 4 (j / n 1 / n 2 / n 3)]

/-! ### Elements on the global side (R121) -/

/-- One element of a box, checked. -/
def copyElem (s : State) (c : CopyCmd) (core tid : Nat) (d : Desc) (req : Req) (e : Nat) : Elem :=
  let tk := (s.team c.team).task
  let xs := c.coords e
  if d.flat then
    if (xs.drop 1).any (· != 0) then (if tid == 0 then .fault 8 .segmentBound 0 false else .pad)
    else checkFlat s tk tid req (coord xs 0) 1
  else checkTiled s tk core d req xs e c.words

/-- The engine fault of the first element that has one (R412). -/
def copyElemFault (s : State) (c : CopyCmd) (core tid : Nat) (d : Desc) (req : Req) (es : List Nat) :
    Option FaultInfo :=
  es.findSome? (fun e =>
    match copyElem s c core tid d req e with
    | .fault _ code a host => some
        { code := code, slot := .x, addr := a, tensor := tid, pages := [(a, host)], isWrite := req.write
          coords := if code == .tensorBounds then (c.coords e).map (fun x => BitVec.ofInt 32 x) else [] }
    | _ => none)

/-- The units of some elements: padded ones have no address. -/
def copyUnits (s : State) (c : CopyCmd) (core tid : Nat) (d : Desc) (req : Req) (es vals : List Nat) :
    List MUnit :=
  (List.range es.length).map (fun i =>
    let e := es.getD i 0
    let u : MUnit := { lane := 0, idx := e, bits := d.fmt.memBits, val := BitVec.ofNat 64 (vals.getD i 0) }
    match copyElem s c core tid d req e with
    | .at_ flat hi _ _ => { u with addr := some flat, hi := hi }
    | _ => u)

/-- The entries of the tiles that a box touches, ascending. -/
def copyTiles (s : State) (c : CopyCmd) (core tid : Nat) (d : Desc) (req : Req) : List Nat :=
  let ens := (List.range c.count).filterMap (fun e =>
    match copyElem s c core tid d req e with
    | .at_ _ _ en _ => en
    | _ => none)
  let insert (l : List Nat) (x : Nat) : List Nat :=
    if l.contains x then l else l.filter (· < x) ++ x :: l.filter (x < ·)
  ens.foldl insert []

/-- Entries of some elements that need a walk first (R117). -/
def copyMisses (s : State) (c : CopyCmd) (core tid : Nat) (req : Req) (es : List Nat) : List Nat :=
  let tk := (s.team c.team).task
  match descOf s tk tid with
  | none => []
  | some d => if d.flat then [] else (es.filterMap (fun e => entryMiss s tk core d req (c.coords e) e c.words)).eraseDups

/-- The entries that some elements use. -/
def copyEntries (s : State) (c : CopyCmd) (core tid : Nat) (d : Desc) (req : Req) (es : List Nat) : List Nat :=
  (es.filterMap (fun e => match copyElem s c core tid d req e with
    | .at_ _ _ (some en) _ => some en
    | _ => none)).eraseDups

/-- What an engine's step came to: `walk` has started the walks that the command now waits for. -/
inductive Landed where
  | ok (s : State) (c : CopyCmd) | wait | full (line : Nat) | fault (f : FaultInfo) | walk (s : State) (c : CopyCmd)

/-- The walks of some entries start, and the command waits for them (R117, R282). -/
def copyWalk (s : State) (c : CopyCmd) (tid : Nat) (entries : List Nat) : Landed :=
  let tk := (s.team c.team).task
  .walk (startWalks (pmCount s (s.task tk).fn 0x16 entries.length) tk c.team (enginePath c.id) tid entries).1
    { c with wants := (c.wants ++ entries).eraseDups }

/-- The access by which an engine performs elements. -/
def engineAccess (team : Nat) (kind : AccessKind) (d : Desc) : Access :=
  { team := team, kind := kind, fmt := d.fmt, tracked := !untracked d }

/-- The number of a crew's channel. -/
def CopyCmd.chanNo (c : CopyCmd) (crew : Nat) : Nat := 16 * crew + c.d 0 0 4

/-- Elements combined or stored one after another (R419, R424). -/
def performEach (s : State) (acc : Access) : List MUnit → Perf
  | [] => .done s []
  | u :: us =>
    match performOne s { acc with got := us ++ acc.got } [u] with
    | .done s vs =>
      match performEach s { acc with got := u :: acc.got } us with
      | .done s ws => .done s (vs ++ ws)
      | r => r
    | r => r

/-! ### Shared memory -/

/-- The offset of byte b of the stream on the shared side that is the destination (R420). -/
def copyDstAt (cr : Crew) (c : CopyCmd) (b : Nat) : Nat :=
  if c.rmode == 1 then
    let r := cr.ring c.ring
    r.slotAt (r.reservedAt c.id + b / r.sz) + b % r.sz
  else (if c.dir == 3 then c.soff2 else c.soff) + b

/-- The offset of byte b of the stream on the shared side that is the source. -/
def copySrcAt (cr : Crew) (c : CopyCmd) (b : Nat) : Nat :=
  if c.rmode == 2 then
    let r := cr.ring c.ring
    r.slotAt (r.consumer.toNat + b / r.sz) + b % r.sz
  else c.soff + b

/-- A byte of shared memory as the engine reads it: any value it had since the command started (R207), what the
team's stores before it replaced when it has no ACQ (R206), or from what the command itself wrote on (R419). -/
def copyByte (cr : Crew) (c : CopyCmd) (fr a : Nat) : Byte :=
  let noted (n : Nat) : List Byte := ((cr.wlog.drop n).filter (fun e => e.1 == a)).map Prod.snd
  let vals := match Tab.find c.wrote a with
    | some n => noted n
    | none => Memory.read c.snap a :: (c.older.filter (fun e : Nat × Byte => e.1 == a)).map Prod.snd ++ noted c.mark
  anyOf fr a vals

/-- The index list entries of the rows that begin in some elements are read (R423). -/
def readRows (cr : Crew) (c : CopyCmd) (fr : Nat) (es : List Nat) : CopyCmd :=
  if !c.byRows then c
  else
    let rows := ((es.map (fun e => e / c.ext 0)).eraseDups).filter (fun j => (Tab.find c.rowIdx j).isNone)
    let val (j : Nat) : Word32 := BitVec.ofNat 32
      (leNat ((List.range 4).map (fun i => copyByte cr c fr (c.auxw + 4 * j + i))))
    { c with rowIdx := Tab.setAll c.rowIdx (rows.map (fun j => (j, val j))) }

/-- Element e of a dense shared side or of the pattern. -/
def sharedElem (cr : Crew) (c : CopyCmd) (fr w e : Nat) : Nat :=
  let byte (b : Nat) : Nat :=
    if c.isFill then fld c.auxw (8 * (b % 4)) 8 else (copyByte cr c fr (copySrcAt cr c b)).toNat
  if c.isFill && c.dstGlobal then c.auxw % 2 ^ w
  else if w == 4 then fld (byte (e / 2)) (4 * (e % 2)) 4
  else leNat ((List.range (w / 8)).map (fun i => BitVec.ofNat 8 (byte (e * w / 8 + i))))

/-! ### One unit -/

/-- The elements of the next unit: 64 bytes of the stream, or what is left (R414). -/
def unitElems (c : CopyCmd) (len w : Nat) : List Nat :=
  let n := min 64 (len - c.done)
  (List.range (n * 8 / w)).map (fun i => c.done * 8 / w + i)

/-- Bytes laid at the shared destination of the stream, from its byte b0 on. The command notes where it wrote: what it
reads there later is what it wrote (R419, R423). -/
def writeStream (cr : Crew) (c : CopyCmd) (b0 : Nat) (bs : List Byte) : Crew × CopyCmd :=
  (List.range bs.length).foldl (fun q i =>
    let a := copyDstAt cr c (b0 + i)
    let c' : CopyCmd := if c.byRows then { q.2 with wrote := Tab.set q.2.wrote a q.1.wlog.length } else q.2
    (engineWrite q.1 a [bs.getD i 0#8], c')) (cr, c)

/-- A unit moved within shared memory, byte after byte in stream order: a byte that the command has written is
read as it wrote it (R419). -/
def moveStream (cr : Crew) (c : CopyCmd) (fr : Nat) : List Nat → Crew × CopyCmd
  | [] => (cr, c)
  | b :: bs =>
    let v := copyByte cr c fr (copySrcAt cr c b)
    let a := copyDstAt cr c b
    let cr' := engineWrite cr a [v]
    moveStream cr' { c with wrote := Tab.set c.wrote a cr.wlog.length } fr bs

/-- The fault of a byte that cannot be corrected (R39). -/
def errorFault (s : State) (team tid flat : Nat) (write : Bool) : FaultInfo :=
  { code := .memUncorrectable, slot := .x, addr := guestOf s (s.task (s.team team).task).fn flat, tensor := tid
    isWrite := write }

/-- PADV's element of the source tensor. -/
def padOf (s : State) (c : CopyCmd) : Nat :=
  match descOf s (s.team c.team).task c.tids with
  | some d => padElem d d.fmt.memBits
  | none => 0

/-- The source elements as they are read now; those of a global source that are padded have no address. -/
def readSource (s : State) (crew core : Nat) (c : CopyCmd) (w : Nat) (es : List Nat) :
    Except FaultInfo Perf :=
  let cr := s.crew crew
  match c.buf with
  | some l => .ok (.done s (es.map (fun e =>
      let v := l.getD e none
      { lane := 0, idx := e, addr := v.map (fun _ => 0), val := BitVec.ofNat 64 (v.getD (padOf s c)) })))
  | none =>
    if c.srcGlobal then
      match descOf s (s.team c.team).task c.tids with
      | none => .error { code := .tensorInvalid, slot := .x, tensor := c.tids }
      | some d =>
        let req : Req := { versioned := c.atom }
        match copyElemFault s c core c.tids d req es with
        | some f => .error f
        | none =>
          let pads := es.map (fun _ => padElem d d.fmt.memBits)
          let fn := (s.task (s.team c.team).task).fn
          let us := copyUnits s c core c.tids d req es pads
          if engineHeld s c.team c.id c.ordered (some (c.chanNo crew)) false us || commandHeld s c.id us then .ok .wait
          else
            let s := touchTtb s core fn (copyEntries s c core c.tids d req es)
            match performUnits s (engineAccess c.team .load d) us with
            | .bad b => .error (errorFault s c.team c.tids b false)
            | r => .ok r
    else .ok (.done s (es.map (fun e =>
      { lane := 0, idx := e, val := BitVec.ofNat 64 (sharedElem cr c s.free w e) })))

/-- The combining operation of COPYS (R424). -/
def CopyCmd.kindOf (c : CopyCmd) : AccessKind :=
  if c.kind == 3 then .combine (if c.cop == 1 then opMin else if c.cop == 2 then opMax else opAdd)
  else .store

/-- The write of a unit may stay undone for parties that nothing orders after it: without REL for all but the
team once it observes the flag, with REL for those outside its scope (R206). Which writes do is a free choice. An
atomic write is released at PART scope (R212), and nibbles of one byte that the command writes in different rows are
written together (R214). -/
def unitLingers (s : State) (crew : Nat) (c : CopyCmd) (d : Desc) : Bool :=
  !c.atom && !d.host && !d.remote && !(d.fmt.memBits == 4 && d.order == 3) && (!c.rel || decide (c.scope ≤ 4))
    && Config.pick s.free (c.chanNo crew) c.done

/-- Such a write as an access in flight, behind those that the command has in flight already (R419, R424). -/
def lingerUnits (s : State) (crew : Nat) (c : CopyCmd) (d : Desc) (entries : List Nat) (us : List MUnit) : State :=
  let id := s.nextId
  let acc : Access :=
    { engineAccess c.team c.kindOf d with
      path := enginePath c.id, pc := c.pc, todo := us.filter (fun u => u.addr.isSome), tensor := c.tidd
      entries := entries, engine := some (c.id, c.chanNo crew)
      order := (s.accesses.filter (fun e => e.2.engine.any (fun g => g.1 == c.id))).map Prod.fst
      released := if c.rel then [{ scope := c.scope, by_ := placeOf s c.team, upto := id + 1 }] else [] }
  if acc.todo.isEmpty then s else { s with nextId := id + 1, accesses := Tab.set s.accesses id acc }

/-- Elements are written to a global destination: one after another, by this step or later. -/
def writeUnits (s : State) (crew core : Nat) (c : CopyCmd) (es vals : List Nat) : Landed :=
  match descOf s (s.team c.team).task c.tidd with
  | none => .fault { code := .tensorInvalid, slot := .x, tensor := c.tidd }
  | some d =>
    let req : Req := { write := true, versioned := c.atom }
    match copyElemFault s c core c.tidd d req es with
    | some f => .fault f
    | none =>
      let fn := (s.task (s.team c.team).task).fn
      let us := copyUnits s c core c.tidd d req es vals
      let us := if c.kindOf == .store then us.map (byteNow s (s.task (s.team c.team).task)) else us
      let entries := copyEntries s c core c.tidd d req es
      let s := touchTtb s core fn entries
      if engineHeld s c.team c.id c.ordered (some (c.chanNo crew)) true us then .wait
      else if unitLingers s crew c d then .ok (lingerUnits s crew c d entries us) c
      else if commandHeld s c.id us then .wait
      else
        match performEach s (engineAccess c.team c.kindOf d) us with
        | .done s _ => .ok s c
        | .wait => .wait
        | .full l => .full l
        | .bad b => .fault (errorFault s c.team c.tidd b true)

/-- Elements move from one global box to the other, one after another (R419). Padding is not written (R111). -/
def moveUnits (s : State) (crew core : Nat) (c : CopyCmd) (w : Nat) : List Nat → Landed
  | [] => .ok s c
  | e :: es =>
    match readSource s crew core c w [e] with
    | .error f => .fault f
    | .ok .wait => .wait
    | .ok (.full l) => .full l
    | .ok (.bad b) => .fault (errorFault s c.team c.tids b false)
    | .ok (.done s us) =>
      if us.any (fun u => u.addr.isNone) then moveUnits s crew core c w es
      else
        match writeUnits s crew core c [e] (us.map (fun u => u.val.toNat)) with
        | .ok s c => moveUnits s crew core c w es
        | r => r

/-- The elements of a unit are moved. -/
def unitMoves (s : State) (crew core : Nat) (c : CopyCmd) (n w : Nat) (es : List Nat) : Landed :=
  if c.dir == 2 then moveUnits s crew core c w es
  else if c.dir == 3 then
    let m := moveStream (s.crew crew) c s.free ((List.range n).map (c.done + ·))
    .ok (s.setCrew crew m.1) m.2
  else
    match readSource s crew core c w es with
    | .error f => .fault f
    | .ok .wait => .wait
    | .ok (.full l) => .full l
    | .ok (.bad b) => .fault (errorFault s c.team c.tids b false)
    | .ok (.done s us) =>
      let vals := us.map (fun u => u.val.toNat)
      if c.dstGlobal then writeUnits s crew core c es vals
      else
        let m := writeStream (s.crew crew) c (es.headD 0 * w / 8) (leBytes n (packElems w vals))
        .ok (s.setCrew crew m.1) m.2

/-- The walks that some elements of a command need, on either side: the tensor and the entries (R117). -/
def unitMisses (s : State) (core : Nat) (c : CopyCmd) (es : List Nat) : Option (Nat × List Nat) :=
  let src := if c.srcGlobal && c.buf.isNone then copyMisses s c core c.tids { versioned := c.atom } es else []
  let dst := if c.dstGlobal then copyMisses s c core c.tidd { write := true, versioned := c.atom } es else []
  if !src.isEmpty then some (c.tids, src) else if !dst.isEmpty then some (c.tidd, dst) else none

/-- Elements of one row, or of any box, land: its index is read first, and walks come before the data (R117, R423). -/
def landElems (s : State) (crew core : Nat) (c : CopyCmd) (w : Nat) (es : List Nat) : Landed :=
  let c := readRows (s.crew crew) c s.free es
  match unitMisses s core c es with
  | some (tid, l) => copyWalk s c tid l
  | none => unitMoves s crew core c (es.length * w / 8) w es

/-- The rows of a unit land one after another: each index is read when its row starts (R423). -/
def landRows (s : State) (crew core : Nat) (c : CopyCmd) (w : Nat) (es : List Nat) : Nat → Landed
  | 0 => .ok s c
  | fuel + 1 =>
    match es with
    | [] => .ok s c
    | e :: _ =>
      let row := es.takeWhile (fun x => x / c.ext 0 == e / c.ext 0)
      match landElems s crew core c w row with
      | .ok s c => landRows s crew core c w (es.drop row.length) fuel
      | r => r

/-- The next unit lands, and CWP counts it (R414, R419). -/
def landUnit (s : State) (crew core : Nat) (c : CopyCmd) (len w : Nat) : Landed :=
  let es := unitElems c len w
  let n := min 64 (len - c.done)
  match if c.byRows then landRows s crew core c w es es.length else landElems s crew core c w es with
    | .ok s c =>
      .ok (s.modCrew crew (fun cr =>
        let ch := Tab.get cr.chans (c.d 0 0 4) {}
        { cr with chans := Tab.set cr.chans (c.d 0 0 4) { ch with cwp := ch.cwp + BitVec.ofNat 64 n } })).bump
        { c with done := c.done + n, words := [] }
    | r => r

/-! ### ATOM (R212, R213, R421) -/

/-- The version word of a tile. -/
def versionFlat (s : State) (fn entry : Nat) : Nat := flatOf s fn (entry + 8)

def versionEven (s : State) (k : Task) (entry : Nat) : Bool :=
  leNat (cohortBytes s k.fn k.ts (versionFlat s k.fn entry) 8) % 2 == 0

/-- 1 is added to a version word as one atomic (R212). -/
def bumpVersion (s : State) (c : CopyCmd) (entry : Nat) (next : CopyCmd) : Landed :=
  let fn := (s.task (s.team c.team).task).fn
  let acc : Access := { team := c.team, kind := .atomic opAdd, fmt := .int64 }
  let u : MUnit := { lane := 0, addr := some (versionFlat s fn entry), bits := 64, val := 1#64 }
  match performOne s acc [u] with
  | .done s _ => .ok s next
  | .wait => .wait
  | .full l => .full l
  | .bad b => .fault (errorFault s c.team c.tidd b true)

/-- The version words of tiles that versioned reads hold: atomic writes wait to claim them. After 16 failed attempts
a read holds a tile as soon as it is even (R213). -/
def heldTiles (s : State) : List Nat :=
  let of (t : Nat) : Task := s.task (s.team t).task
  s.accesses.flatMap (fun e => holdTiles s (of e.2.team) e.2.tries e.2.holds e.2.versions)
    ++ s.crews.flatMap (fun c => c.2.chans.flatMap (fun ch => ch.2.queue.flatMap (fun q =>
        holdTiles s (of q.team) q.tries q.holds q.versions)))

/-- The version words of a versioned read are read, as tracked reads (R171, R213). -/
def trackVersions (s : State) (k : Task) : List Nat → Track
  | [] => .ok s
  | e :: es =>
    match trackRead s k.fn k.ts (versionFlat s k.fn e) 8 with
    | .ok s => trackVersions s k es
    | r => r

/-- The whole source is read at one moment at which every version word is even; after a failed attempt the
command tries again (R213). -/
def atomRead (s : State) (crew core : Nat) (c : CopyCmd) (w : Nat) : Landed :=
  let k := s.task (s.team c.team).task
  let es := List.range c.count
  let c := readRows (s.crew crew) c s.free es
  match descOf s (s.team c.team).task c.tids with
  | none => .fault { code := .tensorInvalid, slot := .x, tensor := c.tids }
  | some d =>
    let tiles := copyTiles s c core c.tids d { versioned := true }
    match unitMisses s core c es, readSource s crew core c w es with
    | some (tid, l), _ => copyWalk s c tid l
    | none, .error f => .fault f
    | none, .ok .wait => .wait
    | none, .ok (.full l) => .full l
    | none, .ok (.bad b) => .fault (errorFault s c.team c.tids b false)
    | none, .ok (.done _ _) =>
      match trackVersions s k tiles with
      | .stall => .wait
      | .full l => .full l
      | .ok s =>
        let versions := tiles.map (versionFlat s k.fn)
        if !tiles.all (versionEven s k) then
          .ok s { c with tries := c.tries + 1, versions := versions, holds := holdTiles s k c.tries c.holds versions }
        else
          match readSource s crew core c w es with
          | .ok (.done s us) =>
            let val (u : MUnit) : Option Nat := u.addr.map (fun _ => u.val.toNat)
            .ok s { c with buf := some (us.map val), tries := 0, versions := [], holds := [], words := [] }
          | .error f => .fault f
          | .ok (.full l) => .full l
          | .ok (.bad b) => .fault (errorFault s c.team c.tids b false)
          | .ok .wait => .wait

/-- The tiles of an atomic write. -/
def atomTiles (s : State) (core : Nat) (c : CopyCmd) : List Nat :=
  if c.atom && c.dstGlobal then
    match descOf s (s.team c.team).task c.tidd with
    | some d => copyTiles s c core c.tidd d { write := true, versioned := true }
    | none => []
  else []

/-- The fault of some element of an atomic write's box: nothing is claimed before all have passed. -/
def atomFault (s : State) (core : Nat) (c : CopyCmd) : Option FaultInfo :=
  match descOf s (s.team c.team).task c.tidd with
  | some d => copyElemFault s c core c.tidd d { write := true, versioned := true } (List.range c.count)
  | none => some { code := .tensorInvalid, slot := .x, tensor := c.tidd }

/-- The next thing that a started command does: the versioned read, a claim of a tile, a unit, or a
release of a tile. -/
def copyAdvance (s : State) (crew core : Nat) (c : CopyCmd) : Landed :=
  let w := copyBits s c
  let len := copyLen s c
  let k := s.task (s.team c.team).task
  let tiles := atomTiles s core c
  if !c.wants.isEmpty then .wait
  else if c.atom && c.srcGlobal && c.buf.isNone then atomRead s crew core c w
  else if c.claimed < tiles.length then
    match unitMisses s core c (List.range c.count), atomFault s core c with
    | some (tid, l), _ => copyWalk s c tid l
    | none, some f => .fault f
    | none, none =>
      let en := tiles.getD c.claimed 0
      if versionEven s k en && !(heldTiles s).contains (versionFlat s k.fn en) then
        bumpVersion s c en { c with claimed := c.claimed + 1 }
      else .wait
  else if c.done < len then landUnit s crew core c len w
  else if c.released < tiles.length then
    bumpVersion s c (tiles.getD c.released 0) { c with released := c.released + 1 }
  else .ok s c

/-- Nothing is left to land or to release. -/
def copyLanded (s : State) (core : Nat) (c : CopyCmd) : Bool :=
  decide (copyLen s c ≤ c.done) && decide ((atomTiles s core c).length ≤ c.released)

/-! ### Start and end -/

def Crew.chanOf (cr : Crew) (n : Nat) : Channel := Tab.get cr.chans n {}
def Crew.setChan (cr : Crew) (n : Nat) (ch : Channel) : Crew := { cr with chans := Tab.set cr.chans n ch }

/-- The head of a channel is replaced. -/
def setHead (s : State) (crew n : Nat) (c : CopyCmd) : State :=
  s.modCrew crew (fun cr =>
    let ch := cr.chanOf n
    cr.setChan n { ch with queue := c :: ch.queue.drop 1 })

/-- Slots of a ring that a stream of some length takes. -/
def ringSlots (r : Ring) (len : Nat) : Nat := len / r.sz

/-- Room or data in the ring, as the channel waits for it (R420). -/
def copyRoom (cr : Crew) (c : CopyCmd) (len : Nat) : Bool :=
  let r := cr.ring c.ring
  let k := ringSlots r len
  if c.rmode == 1 then decide (r.filled + r.reservedSlots + k ≤ r.slots)
  else if c.rmode == 2 then decide (k ≤ r.filled)
  else true

/-- The head command starts: it reserves its slots, and the crew notes its writes from now on. Without ACQ it may
miss what the team stored before and has not released; slots of a ring are released (R204, R206). -/
def copyBegin (s : State) (crew n : Nat) (c : CopyCmd) : State :=
  let len := copyLen s c
  let s := s.modCrew crew (fun cr =>
    let cr := if c.rmode == 1 then
        cr.setRing c.ring ((cr.ring c.ring).reserve c.id (ringSlots (cr.ring c.ring) len)) else cr
    { cr with logging := true })
  let cr := s.crew crew
  let missed := if c.acq || c.rmode == 2 then []
    else (cr.late.filter (fun e => e.team == c.team)).map (fun e => (e.addr, e.old))
  setHead s crew n { c with started := true, snap := cr.shm, mark := cr.wlog.length, older := missed }

/-- The follow-on as a matrix command (R422): its kind is the descriptor's. -/
def followCmd (s : State) (crew : Nat) (c : CopyCmd) (x : XFields) : MxCmd :=
  { id := c.id, kind := if fld (c.desc.getD 8 0#64).toNat 0 1 == 1 then 9 else 8, x := x
    desc := c.desc.drop 8, team := c.team, path := c.path, crew := crew, flag := c.flag, pc := c.pc
    rows := c.rows, queuedAt := s.now, accOld := c.accOld, follow := true }

/-- The ring advance of a complete copy (R420). -/
def ringAdvance (s : State) (crew : Nat) (c : CopyCmd) : State :=
  let len := copyLen s c
  s.modCrew crew (fun cr =>
    let r := cr.ring c.ring
    if c.rmode == 1 then cr.setRing c.ring (r.release c.id)
    else if c.rmode == 2 then cr.setRing c.ring (r.consume (ringSlots r len))
    else cr)

/-- What a command without REL has written counts as performed for its team from its flag on (R206). -/
def ownSees (s : State) (c : CopyCmd) : State :=
  if c.rel then s
  else { s with accesses := s.accesses.map (fun e =>
    (e.1, if e.2.engine.any (fun g => g.1 == c.id) then
        { e.2 with released := { scope := 0, by_ := placeOf s c.team, upto := s.nextId } :: e.2.released } else e.2)) }

/-- A command whose last unit has landed: the ring advance, then the flag, or the follow-on. The follow-on waits
in its channel until that advance has been made, and while the matrix queue is full (R419, R420, R422, R427). -/
def copyFinish (s : State) (crew core n : Nat) (c : CopyCmd) : State :=
  let drop (s : State) : State := s.modCrew crew (fun cr =>
    let ch := cr.chanOf n
    cr.setChan n { ch with queue := ch.queue.drop 1 })
  let s := if c.advanced then s else ownSees (ringAdvance s crew c) c
  let c := { c with advanced := true }
  match c.follow with
  | none => flagDone (drop s) c.team c.flag
  | some x =>
    let made := c.rmode != 1 || ((s.crew crew).ring c.ring).advancedFor c.id
    if !made || 4 ≤ ((s.core core).matrix.filter (fun m => m.start.isNone)).length then setHead s crew n c
    else
      let s := drop s
      s.modCore core (fun co => { co with matrix := co.matrix ++ [followCmd s crew c x] })

/-! ### Matrix commands and follow-ons before a save or a move (R253, R422) -/

/-- The data that a matrix command waits for: its rings, or room for what it writes (R427, R432). -/
def mxData (cr : Crew) (c : MxCmd) : Bool :=
  let has (on : Bool) (h : Nat) : Bool := !on || decide (1 ≤ (cr.ring h).filled)
  if c.isMma then
    has (!c.srcA) c.x.ha.toNat && has (!c.srcB) c.x.hb.toNat
      && has c.scaled (c.e 0 29 4) && has c.scaled (c.e 0 33 4)
  else if c.kind == 11 && c.e 0 8 1 == 1 then
    let r := cr.ring (c.e 0 9 4)
    let k := c.m * c.n * (Fmt.ofCode (c.e 0 0 4)).width / 8 / r.sz
    decide (r.filled + r.reservedSlots + k ≤ r.slots)
  else true

/-- What the start of a matrix command came to. -/
inductive MxStart where
  | ok (s : State) (c : MxCmd) | wait | full (line : Nat) | fault (f : FaultInfo) | walk (s : State) (c : MxCmd)

/-- Granules of 64 bytes are read under tracking. -/
def trackGranules (s : State) (k : Task) : List Nat → Track
  | [] => .ok s
  | g :: gs =>
    match trackRead s k.fn k.ts (64 * g) 64 with
    | .ok s => trackGranules s k gs
    | r => r

/-- What the tile fetch unit touches for both operands. -/
def mxTouches (s : State) (core : Nat) (c : MxCmd) : TfuReads :=
  let k := mxK c.fmtA
  let sx (w lo : Nat) : Int := signed 32 (c.e w lo 32)
  let a := if c.isMma && c.srcA then tfuTouches s c core (c.e 0 13 8) (sx 1 0) (sx 1 32) (sx 3 0) c.m k
    else {}
  let b := if c.isMma && c.srcB then tfuTouches s c core (c.e 0 21 8) (sx 2 0) (sx 2 32) (sx 3 32) c.n k
    else {}
  a.join b

/-- Lines that a command's tile fetch unit can pin now: a core holds at most 512 (R432). -/
def pinsFit (s : State) (core : Nat) (lines : List Nat) : Bool :=
  decide (((s.core core).matrix.flatMap MxCmd.pins ++ lines).eraseDups.length ≤ 512)

/-- The entries that the tile fetch unit needs walks for: the operand's tensor and the entries (R117). -/
def mxMisses (s : State) (core : Nat) (c : MxCmd) : Option (Nat × List Nat) :=
  let k := mxK c.fmtA
  let sx (w lo : Nat) : Int := signed 32 (c.e w lo 32)
  let a := if c.isMma && c.srcA then tfuMisses s c core (c.e 0 13 8) (sx 1 0) (sx 1 32) (sx 3 0) c.m k else []
  let b := if c.isMma && c.srcB then tfuMisses s c core (c.e 0 21 8) (sx 2 0) (sx 2 32) (sx 3 32) c.n k else []
  if !a.isEmpty then some (c.e 0 13 8, a) else if !b.isEmpty then some (c.e 0 21 8, b) else none

/-- A command starts at the current cycle: its operands are read, an ACCOUT reserves its slots. Walks that the
tile fetch unit needs come first, and its lines are pinned (R117, R432). -/
def mxBegin (s : State) (core : Nat) (c : MxCmd) : MxStart :=
  let tk := (s.team c.team).task
  let k := s.task tk
  match mxMisses s core c, mxReadOperands s core c with
  | some (tid, l), _ =>
    .walk (startWalks (pmCount s k.fn 0x16 l.length) tk c.team (enginePath c.id) tid l).1
      { c with wants := (c.wants ++ l).eraseDups }
  | none, .error f => .fault f
  | none, .ok c =>
    let t := mxTouches s core c
    let us : List MUnit := t.granules.map (fun g => { lane := 0, addr := some (64 * g), bits := 512 })
    let marked := !c.waits.isEmpty || c.x.acq
    if engineHeld s c.team c.id marked none false us || !pinsFit s core t.lines then .wait
    else match trackGranules (touchTtb s core k.fn t.entries) k t.granules with
    | .stall => .wait
    | .full l => .full l
    | .ok s =>
      let c := { c with start := some s.now, words := [], pins := t.lines }
      if c.kind == 11 && c.e 0 8 1 == 1 then
        let h := c.e 0 9 4
        .ok (s.modCrew c.crew (fun cr =>
          let r := cr.ring h
          cr.setRing h (r.reserve c.id (c.m * c.n * (Fmt.ofCode (c.e 0 0 4)).width / 8 / r.sz)))) c
      else .ok s c

/-- The words of the entries that a command waits for, as its walks will bring them. -/
def wordsNow (s : State) (t : Nat) (words : Tab Word64) (wants : List Nat) : Tab Word64 :=
  let fn := (s.task (s.team t).task).fn
  wants.foldl (fun w e => Tab.set w e (BitVec.ofNat 64 (gNat s fn e 8))) words

def MxCmd.walked (m : MxCmd) (s : State) : MxCmd := { m with words := wordsNow s m.team m.words m.wants, wants := [] }
def CopyCmd.walked (c : CopyCmd) (s : State) : CopyCmd :=
  { c with words := wordsNow s c.team c.words c.wants, wants := [] }

/-- The queue of a matrix engine runs until no command of the teams is left in it. -/
def runFollows (s : State) (core : Nat) (teams : List Nat) : Nat → State
  | 0 => s
  | fuel + 1 =>
    let q := (s.core core).matrix
    if !q.any (fun m => teams.contains m.team) then s
    else
      match q with
      | [] => s
      | m :: rest =>
        let s' := s.modCore core (fun co => { co with matrix := rest })
        if m.start.isSome then runFollows (mxFinish s' m) core teams fuel
        else if m.fault.isSome || !mxData (s.crew m.crew) m then s
        else
          match mxBegin s' core (m.walked s) with
          | .ok s' m => runFollows (mxFinish s' m) core teams fuel
          | .walk s' m =>
            match mxBegin s' core (m.walked s) with
            | .ok s' m => runFollows (mxFinish s' m) core teams fuel
            | _ => s
          | _ => s

/-- A channel runs until no command with a follow-on is left in it. -/
def runChannel (s : State) (crew core n : Nat) (teams : List Nat) : Nat → State
  | 0 => s
  | fuel + 1 =>
    let q := ((s.crew crew).chanOf n).queue
    if !q.any (fun c => c.follow.isSome) then s
    else
      match q with
      | [] => s
      | c :: _ =>
        if c.fault.isSome then s
        else if !c.started then
          if copyRoom (s.crew crew) c (copyLen s c) then
            runChannel (copyBegin s crew n c) crew core n teams fuel
          else s
        else if copyLanded s core c then
          runChannel (runFollows (copyFinish s crew core n c) core teams 8) crew core n teams fuel
        else
          match copyAdvance s crew core (c.walked s) with
          | .ok s c => runChannel (setHead s crew n c) crew core n teams fuel
          | .walk s c => runChannel (setHead s crew n (c.walked s)) crew core n teams fuel
          | _ => s

/-- How far the matrix commands and follow-ons of some teams' crews would come with all they can still have while their
teams stand still: leave, walks and time. -/
def finishFollows (s : State) (teams : List Nat) : State :=
  let crews := (s.crews.filter (fun e => e.2.teams.any (fun t => teams.contains t))).map Prod.fst
  crews.foldl (fun s cr =>
    let core := (s.crew cr).core
    (List.range 16).foldl (fun s n =>
      let q := ((s.crew cr).chanOf n).queue
      runChannel s cr core n teams ((q.map (copyLen s)).foldl (fun a l => a + l + 600) 0)) 
      (runFollows s core teams 8)) s

/-- The matrix commands and follow-ons of some teams' crews that have been issued and are not complete; a started command
other than a follow-on runs to its end with the save. -/
def followsLeft (s : State) (teams : List Nat) : Nat :=
  let crews := s.crews.filter (fun e => e.2.teams.any (fun t => teams.contains t))
  ((crews.flatMap (fun e => e.2.chans.flatMap (fun ch => ch.2.queue))).filter (fun q => q.follow.isSome)).length
    + ((s.cores.flatMap (fun e => e.2.matrix)).filter (fun m => (m.follow || m.start.isNone) && teams.contains m.team && !m.rowsDone)).length

/-- A save or a move of some teams waits: a matrix command or a follow-on can still complete. One that only a stopped team
could bring further is not waited for (R253, R422; log 29). -/
def followsWait (s : State) (teams : List Nat) : Bool :=
  let n := followsLeft s teams
  n != 0 && decide (followsLeft (finishFollows s teams) teams < n)

end Sys2Proof.Machine
end

