-- ==== Sys2Proof/Machine/Landing.lean ====
section
/-! DEFINITION. Registers, tags, predicates and latches as they read at a cycle, with results in
flight (R224, R233, R234), and the landing of results (R231, R290, R304). -/

namespace Sys2Proof.Machine

open Sys2Proof

/-! ### What a pending result writes -/

/-- The 32 bits that a result writes to register r, lane l, if any. -/
def PendRes.vregVal (e : PendRes) (r l : Nat) : Option Nat :=
  match e.dest with
  | .vreg d => if d == r then (Tab.find e.vals l).map (fun v => v.toNat % 2 ^ 32) else none
  | .vpair d =>
    if d == r then (Tab.find e.vals l).map (fun v => v.toNat % 2 ^ 32)
    else if d + 1 == r then (Tab.find e.vals l).map (fun v => v.toNat / 2 ^ 32)
    else none
  | _ => none

def PendRes.sregVal (e : PendRes) (n : Nat) : Option Nat :=
  match e.dest with
  | .sreg d => if d == n then (Tab.find e.vals 0).map BitVec.toNat else none
  | _ => none

def PendRes.predVal (e : PendRes) (p l : Nat) : Option Bool :=
  match e.dest with
  | .pred d => if d == p then (Tab.find e.vals l).map (fun v => v != 0#64) else none
  | _ => none

def PendRes.tagVal (e : PendRes) (r : Nat) : Option Fmt :=
  match e.dest with
  | .vreg d => if d == r then e.tag else none
  | .vpair d => if d == r || d + 1 == r then e.tag else none
  | _ => none

/-- A value as it reads at a cycle: a result that has landed by then replaces it; one that has not,
or that awaits its flag, leaves old or new (R224, R233). -/
def throughPending {α : Type} (pend : List PendRes) (cyc : Nat) (pick : Nat → Bool) (old : α)
    (val : PendRes → Option α) : α :=
  (pend.foldl (fun (acc : α × Nat) e =>
    match val e with
    | none => (acc.1, acc.2 + 1)
    | some v =>
      let landed := e.flag.isNone && decide (e.due ≤ cyc) && !e.clash
      (if landed || pick acc.2 then v else acc.1, acc.2 + 1)) (old, 0)).1

/-- V register r of lane l at a cycle. -/
def readV (tm : Team) (fr cyc r l : Nat) : Nat :=
  throughPending tm.pending cyc (fun i => Config.pick fr (i * 4096 + r) l)
    (Tab.get (Tab.get tm.vregs r []) l 0#32).toNat (fun e => e.vregVal r l)

/-- S register n at a cycle (R234). -/
def readS (tm : Team) (fr cyc n : Nat) : Nat :=
  throughPending tm.pending cyc (fun i => Config.pick fr (i * 4096 + 2048 + n) 0)
    (Tab.get tm.sregs n 0#64).toNat (fun e => e.sregVal n)

/-- Predicate p in lane l at a cycle: P0 holds in every lane (R226). -/
def readP (tm : Team) (fr cyc p l : Nat) : Bool :=
  if p == 0 then true
  else throughPending tm.pending cyc (fun i => Config.pick fr (i * 4096 + 2304 + p) l)
    (maskHas (Tab.get tm.preds p 0#1024) l) (fun e => e.predVal p l)

/-- The tag of V register r at a cycle (R290). -/
def readTag (tm : Team) (fr cyc r : Nat) : Fmt :=
  throughPending tm.pending cyc (fun i => Config.pick fr (i * 4096 + r) 1024)
    (Tab.get tm.tags r .none) (fun e => e.tagVal r)

def Team.latch (tm : Team) : LatchId → Latch
  | .bv => tm.bv
  | .bm => tm.bm
  | .bx => tm.bx

def Team.setLatch (tm : Team) (id : LatchId) (x : Latch) : Team :=
  match id with
  | .bv => { tm with bv := x }
  | .bm => { tm with bm := x }
  | .bx => { tm with bx := x }

/-- The latch entry of a lane at a cycle (R231). -/
def readLatch (tm : Team) (fr cyc : Nat) (id : LatchId) (l : Nat) : Nat :=
  throughPending tm.pending cyc (fun i => Config.pick fr (i * 4096 + 2400) l)
    (Tab.get (tm.latch id).vals l 0#32).toNat
    (fun e =>
      if e.latch == some id && e.word == l / 32 then
        match Tab.find e.vals l, e.dest with
        | some v, _ => some (v.toNat % 2 ^ 32)
        | none, .vreg r | none, .vpair r => some (Tab.get (Tab.get tm.vregs r []) l 0#32).toNat
        | _, _ => none
      else none)

def readLatchTag (tm : Team) (fr cyc : Nat) (id : LatchId) : Fmt :=
  throughPending tm.pending cyc (fun i => Config.pick fr (i * 4096 + 2400) 1024)
    (tm.latch id).fmtTag (fun e => if e.latch == some id then e.tag else none)

/-! ### Landing -/

/-- Two destinations name a register in common. -/
def Dest.clashes : Dest → Dest → Bool
  | .vreg a, .vreg b => a == b
  | .vreg a, .vpair b => a == b || a == b + 1
  | .vpair a, .vreg b => a == b || a + 1 == b
  | .vpair a, .vpair b => a == b || a == b + 1 || a + 1 == b
  | .sreg a, .sreg b => a == b
  | .pred a, .pred b => a == b
  | _, _ => false

/-- Two writes of a lane in common of which one is issued while the other is pending: until it lands, or until its flag
is observed (R224, R233). -/
def PendRes.overlaps (e g : PendRes) : Bool :=
  e.dest.clashes g.dest && e.vals.any (fun v => (Tab.find g.vals v.1).isSome)
    && (e.flag.isSome || g.from_ < e.due) && (g.flag.isSome || e.from_ < g.due)

/-- A result enters flight. Two pending writes of one register are marked: it will hold one of the
two values (R224). -/
def addPending (tm : Team) (e : PendRes) : Team :=
  if tm.pending.any (fun g => g.overlaps e) then
    { tm with pending := tm.pending.map (fun g => if g.overlaps e then { g with clash := true } else g)
                ++ [{ e with clash := true }] }
  else { tm with pending := tm.pending ++ [e] }

def addResults (tm : Team) (es : List PendRes) : Team := es.foldl addPending tm

/-- Write lanes of a register; operand buffers that hold it are emptied (R229). -/
def setLanes (tm : Team) (r : Nat) (vals : List (Nat × Nat)) : Team :=
  let row := Tab.setAll (Tab.get tm.vregs r []) (vals.map (fun v => (v.1, BitVec.ofNat 32 v.2)))
  let drop (pa : Path) : Path := { pa with keep := pa.keep.filter (fun k => k.1 != r) }
  { tm with vregs := Tab.set tm.vregs r row, paths := tm.paths.map (fun e => (e.1, drop e.2)) }

/-- The values of the lanes a result writes, when it is the last of two overlapping ones: then each
lane may keep the other value (R224). -/
def landVals (fr : Nat) (rest : List PendRes) (e : PendRes) : List (Nat × Word64) :=
  if e.clash && !rest.any (fun g => g.overlaps e) then
    e.vals.filter (fun v => Config.pick fr 2500 v.1)
  else e.vals

def lowHalves (l : List (Nat × Word64)) : List (Nat × Nat) :=
  l.map (fun (v : Nat × Word64) => (v.1, v.2.toNat % 2 ^ 32))

def highHalves (l : List (Nat × Word64)) : List (Nat × Nat) :=
  l.map (fun (v : Nat × Word64) => (v.1, v.2.toNat / 2 ^ 32))

def tagReg (tm : Team) (tag : Option Fmt) (r : Nat) : Team :=
  match tag with
  | some t => { tm with tags := Tab.set tm.tags r t }
  | none => tm

/-- Lanes of a predicate set and cleared. -/
def setPredLanes (m : Mask) (l : List (Nat × Word64)) : Mask :=
  l.foldl (fun (m : Mask) (v : Nat × Word64) =>
    if v.2 != 0#64 then m ||| BitVec.ofNat 1024 (2 ^ v.1)
    else m &&& ~~~(BitVec.ofNat 1024 (2 ^ v.1))) m

/-- The destination takes the values, and a register its tag (R290). -/
def landDest (tm : Team) (e : PendRes) (vals : List (Nat × Word64)) : Team :=
  match e.dest with
  | .vreg r => tagReg (setLanes tm r (lowHalves vals)) e.tag r
  | .vpair r =>
    let tm := tagReg (setLanes tm r (lowHalves vals)) e.tag r
    tagReg (setLanes tm (r + 1) (highHalves vals)) e.tag (r + 1)
  | .sreg n => { tm with sregs := Tab.setAll tm.sregs (vals.map (fun (v : Nat × Word64) => (n, v.2))) }
  | .pred p => { tm with preds := Tab.set tm.preds p (setPredLanes (Tab.get tm.preds p 0#1024) vals) }
  | .latchOnly | .nothing => tm

/-- The latch entry of the word as the destination stands (R231). -/
def landLatch (tm : Team) (e : PendRes) (vals : List (Nat × Word64)) : Team :=
  match e.latch with
  | none => tm
  | some id =>
    let new : Tab Word32 := match e.dest with
      | .vreg r | .vpair r =>
        (List.range 32).map (fun j =>
          (32 * e.word + j, Tab.get (Tab.get tm.vregs r []) (32 * e.word + j) 0#32))
      | _ => vals.map (fun (v : Nat × Word64) => (v.1, BitVec.ofNat 32 v.2.toNat))
    let x := tm.latch id
    tm.setLatch id { vals := Tab.setAll x.vals new, fmtTag := e.tag.getD x.fmtTag }

/-- A result lands (R224, R231, R290, R304); `rest` is what stays in flight. -/
def landOne (tm : Team) (fr : Nat) (rest : List PendRes) (e : PendRes) : Team :=
  let vals := landVals fr rest e
  let tm := landLatch (landDest tm e vals) e vals
  { tm with status := tm.status ||| BitVec.setWidth 64 e.flags
            raised := if tm.raisedAt == e.due then tm.raised ||| e.flags else e.flags
            raisedAt := e.due }

/-- Insert by landing cycle, after equal ones. -/
def insertDue (e : PendRes) : List PendRes → List PendRes
  | [] => [e]
  | g :: l => if e.due < g.due then e :: g :: l else g :: insertDue e l

def sortDue (l : List PendRes) : List PendRes := l.foldl (fun acc e => insertDue e acc) []

/-- The results of a list land in order; the others stay in flight. -/
def landList (tm : Team) (fr : Nat) (stay : List PendRes) : List PendRes → Team
  | [] => { tm with pending := stay }
  | e :: es => landList (landOne tm fr (stay ++ es) e) fr stay es

/-- Every fixed-latency result due by a cycle lands, in the order of their cycles (R224). -/
def landDue (tm : Team) (fr cyc : Nat) : Team :=
  let due := tm.pending.filter (fun e => e.flag.isNone && decide (e.due ≤ cyc))
  let stay := tm.pending.filter (fun e => !(e.flag.isNone && decide (e.due ≤ cyc)))
  landList tm fr stay (sortDue due)

/-- A flag is observed set: the results that named it have landed (R233). -/
def observeFlag (tm : Team) (fr k : Nat) : Team :=
  let due := tm.pending.filter (fun e => e.flag == some k)
  let stay := tm.pending.filter (fun e => !(e.flag == some k))
  landList tm fr stay due

/-- The fixed-latency results that are pending (R245). -/
def fixedPending (tm : Team) : List PendRes := tm.pending.filter (fun e => e.flag.isNone)

/-- Rows that a result takes in the frozen latch image (R245); one that only raises STATUS bits takes none. -/
def PendRes.rows (e : PendRes) : Nat := match e.dest with | .vpair _ => 2 | .nothing => 0 | _ => 1

def rowsOf (l : List PendRes) : Nat := l.foldl (fun n e => n + e.rows) 0

/-- The latch image can be taken in a cycle: 16 or fewer rows are pending, and none for longer than REMAIN can say
(R245, R246; log 18). -/
def fliFits (tm : Team) (now : Nat) : Bool :=
  decide (rowsOf (fixedPending tm) ≤ 16) && (fixedPending tm).all (fun e => decide (e.due ≤ now + 63))

/-- What is left of a list when its head lands until 16 or fewer rows are pending (R245). -/
def fliKeep : List PendRes → List PendRes
  | [] => []
  | e :: es => if rowsOf (e :: es) ≤ 16 then e :: es else fliKeep es

/-- The remaining gap of each path, counted from a cycle (R247, R257); a stop or a save empties the
operand buffers (R229). -/
def gapsLeft (tm : Team) (at_ : Nat) : Team :=
  let left (pa : Path) : Path := { pa with readyAt := pa.readyAt - at_, keep := [], passes := [], stretchTo := 0, gapTo := 0 }
  { tm with paths := tm.paths.map (fun e => (e.1, left e.2)) }

/-- The frozen latch image (R245): results land in order until the image can be taken (log 18); results that
named a flag have been performed and are in their registers. `due` becomes REMAIN, and each path's
`readyAt` its remaining gap. -/
def takeFli (tm : Team) (fr now : Nat) : Team :=
  if tm.fliTaken then tm
  else
    let fixed := sortDue (fixedPending tm)
    let far := (fixed.getLast?.map PendRes.due).getD 0 - 63
    let late := if far ≤ now then 0 else (fixed.filter (fun e => decide (e.due ≤ far))).length
    let n := max (fixed.length - (fliKeep fixed).length) late
    let cyc := max far (((fixed.take n).getLast?.map PendRes.due).getD now)
    let flagged := tm.pending.filter (fun e => e.flag.isSome)
    let tm := landList tm fr (fixed.drop n) (fixed.take n ++ flagged)
    let at_ := max now cyc
    let tm := gapsLeft tm at_
    { tm with fli := tm.pending.map (fun e => { e with due := max 1 (e.due - at_) })
              pending := [], fliTaken := true }

/-- The team's results are in flight again, REMAIN cycles from its first cycle of issue, and each path
has its remaining gap (R247). -/
def injectFli (tm : Team) (now : Nat) : Team :=
  if tm.fliTaken then
    { tm with pending := tm.fli.map (fun e => { e with due := now + e.due }) ++ tm.pending
              paths := tm.paths.map (fun e =>
                (e.1, { e.2 with readyAt := now + e.2.readyAt, gapTo := now + e.2.readyAt, gapReason := 1 }))
              fli := [], fliTaken := false }
  else tm

end Sys2Proof.Machine
end

