-- ==== Sys2Proof/Machine/Save.lean ====
section
/-! DEFINITION. Fault records (R249), the images of a saved task (R254-R258), and the save itself
(R253). A saved task keeps its teams and crews in State beside the bytes; Machine/Restore.lean reads the bytes
back. -/

namespace Sys2Proof.Machine

open Sys2Proof

/-- The 8-bit codes of R251. -/
def FaultCode.code : FaultCode → Nat
  | .illegalOp => 0x01 | .illegalOperand => 0x02 | .reservedField => 0x03 | .privileged => 0x04
  | .featureMasked => 0x05 | .formatMismatch => 0x06 | .regBounds => 0x07 | .accWindow => 0x08
  | .mstackOvf => 0x09 | .mstackUnf => 0x0A | .pathFull => 0x0B | .softwareTrap => 0x0C
  | .breakpoint => 0x0D | .watchpoint => 0x0E | .singleStep => 0x0F | .tileNotPresent => 0x10
  | .tileProtection => 0x11 | .tensorBounds => 0x12 | .tensorInvalid => 0x13 | .segmentBound => 0x14
  | .walkSegment => 0x15 | .align => 0x16 | .memUncorrectable => 0x17 | .sharedBounds => 0x18
  | .ringMisuse => 0x19 | .liningMismatch => 0x1A | .slotOverrun => 0x1B | .watchdog => 0x1C
  | .restoreCapacity => 0x21 | .linkError => 0x22 | .sashViolation => 0x23

/-- SLOT of a fault record (R249). -/
def Slot.code : Slot → Nat
  | .v => 0 | .m => 1 | .x => 2 | .c => 3 | .none => 7

def b2n (b : Bool) : Nat := if b then 1 else 0

/-- A fault record (R249). -/
def faultRecord (taskid : Nat) (wid0 : Word64) (path pc : Nat) (f : FaultInfo) (lost : Bool) : List Byte :=
  leBytes 1 f.code.code ++ leBytes 1 f.slot.code ++ leBytes 1 path
    ++ leBytes 1 (b2n f.deferred + 2 * b2n f.parkFail + 4 * b2n lost) ++ leBytes 4 0
    ++ leBytes 8 taskid ++ leBytes 8 wid0.toNat ++ leBytes 8 pc ++ leBytes 8 f.addr
    ++ leBytes 4 (f.tensor + 256 * f.lane)
    ++ (List.range 5).flatMap (fun d => leBytes 4 (f.coords.getD d 0#32).toNat)

/-! ### Context areas (R256, R257) -/

def pad128 (bs : List Byte) : List Byte := bs ++ List.replicate ((128 - bs.length % 128) % 128) 0#8

def PathKind.code : PathKind → Nat
  | .root => 0 | .split => 1 | .parked => 2 | .debug => 3 | .detached => 4

def maskBytes (p : Nat) (m : Mask) : List Byte := leBytes (4 * p) m.toNat

/-- One entry of the path table (R257). -/
def pathBytes : Option Path → List Byte
  | none => leBytes 32 0
  | some pa =>
    let rslot := match pa.replay with | some .m => 1 | some .x => 2 | some .c => 3 | _ => 0
    let w := 1 + 2 * pa.kind.code + 16 * pa.parent + 128 * b2n pa.replay.isSome + 256 * rslot
      + 1024 * pa.stack.length + 2 ^ 17 * (pa.readyAt % 32) + 2 ^ 22 * pa.stall + 2 ^ 27 * b2n pa.held
    let m := pa.mergeAt.getD (0, 0)
    leBytes 8 w ++ leBytes 8 m.1 ++ leBytes 2 m.2 ++ leBytes 14 0

/-- The base mask, then the stack from the bottom (R257). -/
def stackBytes (p : Nat) : Option Path → List Byte
  | none => leBytes (65 * 4 * p) 0
  | some pa =>
    maskBytes p pa.base ++ pa.stack.reverse.flatMap (maskBytes p)
      ++ leBytes ((64 - pa.stack.length) * 4 * p) 0

/-- The bytes of the 32 lanes of a word. -/
def laneBytes (w : Nat) (val : Nat → Nat) : List Byte :=
  (List.range 32).flatMap (fun j => leBytes 4 (val (32 * w + j)))

/-- The entries of a pending result: one for each row (R246); a predicate has no operand code and
is recorded under Z (log 18). -/
def fliEntries (e : PendRes) : List (List Byte) :=
  let lanes := (e.vals.filter (fun v => v.1 / 32 == e.word)).foldl (fun m v => m ||| 2 ^ (v.1 % 32)) 0
  let head (dest lanes : Nat) : List Byte :=
    leBytes 16 (dest + 2 ^ 11 * e.word + 2 ^ 16 * e.due + 2 ^ 22 * e.slot.code + 2 ^ 24
      + 2 ^ 25 * (e.tag.getD .none).code + 2 ^ 32 * lanes)
  let row (g : Word64 → Nat) : List Byte :=
    laneBytes e.word (fun l => g ((Tab.find e.vals l).getD 0#64))
  let lo (v : Word64) : Nat := v.toNat % 2 ^ 32
  match e.dest with
  | .vreg r => [head r lanes ++ row lo]
  | .vpair r => [head r lanes ++ row lo, head (r + 1) lanes ++ row (fun v => v.toNat / 2 ^ 32)]
  | .sreg n =>
    [head (0x600 + n) 0 ++ leBytes 8 ((Tab.find e.vals 0).getD 0#64).toNat ++ leBytes 120 0]
  | .pred _ => [head 0x687 lanes ++ row lo]
  | .latchOnly => [head 0x684 lanes ++ row lo]
  | .nothing => []

def latchBytes (p : Nat) (x : Latch) : List Byte :=
  (List.range p).flatMap (fun w => laneBytes w (fun l => (Tab.get x.vals l 0#32).toNat))

def fliBytes (tm : Team) : List Byte :=
  let es := (tm.fli.flatMap fliEntries).take 16
  es.flatten ++ leBytes ((16 - es.length) * 144) 0
    ++ latchBytes tm.words tm.bv ++ latchBytes tm.words tm.bm ++ latchBytes tm.words tm.bx

/-- One stream port (R257). -/
def portBytes (p : Port) : List Byte :=
  (List.range 4).flatMap (fun i => leBytes 8 (p.cfg.getD i 0#64).toNat) ++ leBytes 8 p.pos
    ++ leBytes 1 (b2n p.configured) ++ leBytes 23 0

/-- The sections after the header (R257). -/
def contextSections (cr : Crew) (tm : Team) : List (List Byte) :=
  let p := tm.words
  [ (List.range 8).flatMap (fun i => pathBytes (Tab.find tm.paths i)),
    (List.range 8).flatMap (fun i => stackBytes p (Tab.find tm.paths i)),
    (List.range 15).flatMap (fun i => maskBytes p (Tab.get tm.preds (i + 1) 0#1024)),
    leBytes 16 tm.flagSet.toNat ++ (List.range 16).flatMap (fun i => leBytes 1 (Tab.get tm.flagCount i 0)),
    (List.range 128).flatMap (fun i => leBytes 8 (Tab.get tm.sregs i 0#64).toNat),
    fliBytes tm,
    leBytes (tm.nregs / 2)
      (packElems 4 ((List.range tm.nregs).map (fun r => (Tab.get tm.tags r .none).code))),
    (List.range tm.nregs).flatMap (fun r => (List.range p).flatMap (fun w =>
      laneBytes w (fun l => (Tab.get (Tab.get tm.vregs r []) l 0#32).toNat))),
    (List.range tm.accLim).flatMap (fun r => (List.range 64).flatMap (fun c =>
      leBytes 4 (accAt cr (tm.accBase + r) c))),
    (List.range 4).flatMap (fun i => portBytes (Tab.get tm.ports i {})) ]

/-- YCOUNT in units of 1,024 cycles, saturated (R160). -/
def ycount (tm : Team) : Nat := min (tm.ycycles / 1024) 0xFFFF

/-- WDOG as it reads (R160). -/
def wdogWord (tk : Task) (tm : Team) : Nat :=
  tm.wdogLimit.toNat + 2 ^ 32 * ycount tm + 2 ^ 48 * tk.ovrlim + 2 ^ 56 * min tk.ovrs 0xFF

/-- TWK, the code of the team's width (R58). -/
def twkOf (tm : Team) : Nat := Nat.log2 tm.words

/-- A team's context area (R256, R257). -/
def contextArea (tk : Task) (cr : Crew) (tm : Team) : List Byte :=
  let body := ((contextSections cr tm).map pad128).flatten
  let flags := b2n tk.lining + 2 * b2n tk.cg16 + 4 * b2n tm.deferred.isSome + 8 * b2n tk.faulted
  let head := leBytes 4 0x58544353 ++ leBytes 2 1 ++ leBytes 2 0x100 ++ leBytes 4 20480
    ++ leBytes 1 8 ++ leBytes 1 64 ++ leBytes 1 16 ++ leBytes 1 0 ++ leBytes 2 1024 ++ leBytes 2 1536
    ++ leBytes 1 (twkOf tm) ++ leBytes 1 (tm.nregs / 16) ++ leBytes 1 tm.paths.length ++ leBytes 1 flags
    ++ leBytes 8 tk.taskid ++ leBytes 8 tm.wid0.toNat
    ++ leBytes 4 tm.accBase ++ leBytes 4 tm.accLim ++ leBytes 4 tm.lineBase
    ++ leBytes 4 (256 + body.length) ++ leBytes 8 tm.status.toNat ++ leBytes 8 (wdogWord tk tm)
    ++ (List.range 8).flatMap (fun i => leBytes 8 (((Tab.find tm.paths i).map Path.pc).getD 0))
    ++ leBytes 1 (min 16 (tm.fli.flatMap fliEntries).length) ++ leBytes 119 0
  head ++ body

/-! ### Crew areas and task blocks (R254, R258) -/

def barrierBytes (b : Barrier) : List Byte :=
  leBytes 1 b.arrived.length ++ leBytes 2 (b.arrived.foldl (fun m t => m ||| 2 ^ t) 0) ++ leBytes 1 0

/-- A ring image (R62) and its counts. -/
def ringBytes (r : Ring) : List Byte :=
  leBytes 4 r.base ++ leBytes 2 r.slotsz ++ leBytes 2 (r.slots + 4096 * r.fmt.code) ++ leBytes 8 0
    ++ leBytes 4 r.producer.toNat ++ leBytes 4 r.consumer.toNat ++ leBytes 8 0

def channelBytes (ch : Channel) : List Byte :=
  let c := ch.queue.head?
  leBytes 8 ch.cwp.toNat ++ leBytes 8 ((c.map CopyCmd.done).getD 0)
    ++ (List.range 6).flatMap (fun i =>
        leBytes 8 (((c.map CopyCmd.desc).getD []).getD i 0#64).toNat)

/-- A crew area (R258). -/
def crewArea (s : State) (cr : Crew) : List Byte :=
  let body := (List.range 16).flatMap (fun i => barrierBytes (Tab.get cr.bars i {})) ++ leBytes 32 0
    ++ (List.range 16).flatMap (fun i =>
        if i < cr.nrings then ringBytes (cr.ring i) else leBytes 32 0)
    ++ leBytes 256 0 ++ (List.range 16).flatMap (fun i => channelBytes (Tab.get cr.chans i {}))
    ++ shmBytes cr 0 cr.shmBytes
  let live := cr.teams.filter (fun t => !(s.team t).retired)
  leBytes 4 0x57455243 ++ leBytes 2 1 ++ leBytes 1 live.length ++ leBytes 1 cr.sash
    ++ leBytes 8 cr.number ++ leBytes 4 cr.shmBytes ++ leBytes 2 cr.accRows ++ leBytes 1 cr.nrings
    ++ leBytes 1 0 ++ leBytes 4 (32 + body.length) ++ leBytes 4 0 ++ body

/-- Insert by crew number. -/
def insertCrew (c : Crew) : List Crew → List Crew
  | [] => [c]
  | d :: l => if c.number < d.number then c :: d :: l else d :: insertCrew c l

/-- Crews of a task in ascending number (R254). -/
def crewsInOrder (s : State) (k : Nat) : List Crew :=
  ((s.crews.filter (fun e => e.2.task == k)).map Prod.snd).foldl (fun l c => insertCrew c l) []

/-- Live teams of a crew in ascending TIX. -/
def teamsInOrder (s : State) (cr : Crew) : List Team :=
  (List.range 16).filterMap (fun x =>
    ((cr.teams.map s.team).find? (fun t => t.tix == x && !t.retired)))

/-- A task block: the fault record, then each crew area with its teams' context areas (R254). -/
def blockOf (s : State) (k : Nat) (crews : List Crew) (record : List Byte) : List Byte :=
  let tk := s.task k
  let parts := crews.flatMap (fun cr => crewArea s cr :: (teamsInOrder s cr).map (contextArea tk cr))
  ((record :: parts).map pad128).flatten

def taskBlock (s : State) (k : Nat) (record : List Byte) : List Byte := blockOf s k (crewsInOrder s k) record

/-! ### The context-save area (R254, R255) -/

/-- Blocks begin right after the directory of 2,048 bytes, where a LOST record goes too (R254, R258, R473; log 19). -/
def firstBlock : Nat := 2048

/-- The least offset from `off` at which n bytes meet no block of the list. -/
def placeBlock (blocks : List (Nat × Nat)) (n off : Nat) : Nat → Nat
  | 0 => off
  | fuel + 1 =>
    match blocks.find? (fun b => !apart off n b.1 b.2) with
    | none => off
    | some b => placeBlock blocks n ((b.1 + b.2 + 127) / 128 * 128) fuel

/-- Blocks that other tasks of the function hold. -/
def blocksOf (s : State) (fn k : Nat) : List (Nat × Nat) :=
  (s.tasks.filter (fun e => e.2.fn == fn && e.1 != k && e.2.block != 0)).map
    (fun e => (e.2.block, e.2.blockLen))
  ++ (s.func fn).faultBlocks.map (fun b => (b.off, b.len))

/-- The flat address of an offset in the context-save area. -/
def ctxFlat (s : State) (fn off : Nat) : Nat := flatOf s fn ((ctxArea s fn).1 + off)

/-- A directory entry (R254). -/
def writeDirectory (s : State) (k : Nat) : State :=
  let tk := s.task k
  let e := leBytes 8 (1 + 2 * b2n tk.faulted + 4 * b2n (tk.phase == .finished && !tk.faulted))
    ++ leBytes 8 tk.taskid ++ leBytes 8 tk.ts.toNat ++ leBytes 8 tk.block
  memWrite s (ctxFlat s tk.fn (32 * tk.slot)) e

/-- The directory entry of a slot made invalid. -/
def clearDirectory (s : State) (fn slot : Nat) : State :=
  if (ctxArea s fn).2 == 0 then s else memWrite s (ctxFlat s fn (32 * slot)) (leBytes 32 0)

/-! ### The adds of REL (R200) -/

/-- A sequence lands in an S register when the flag is observed, or now without one (R233). -/
def landSeq (s : State) (t : Nat) (dest : Option Nat) (v : Nat) (flag : Option Nat) : State :=
  match dest with
  | none => s
  | some d =>
    s.modTeam t (fun tm => addResults tm
      [{ due := s.now, from_ := s.now, dest := .sreg d, vals := [(0, BitVec.ofNat 64 v)], flag := flag, slot := .m }])

/-- An earlier REL of the path to the same SOB has not made its add (R187, R200). -/
def relBehind (s : State) (op t _p soba : Nat) : Bool :=
  s.ops.any (fun o => match o.2 with
    | .rel t' _ _ soba' _ _ _ _ => (s.orderOf op).contains o.1 && t' == t && soba' == soba
    | _ => false)

/-- Those of some writes that have not performed what is bound to a SOB. -/
def unperformed (s : State) (soba : Nat) (ids : List Nat) : List Nat :=
  ids.filter (fun i => (Tab.find s.accesses i).any (fun a => a.boundTo soba))

/-- The command or operation waits for a speculation entry (R182). -/
def noteFull (s : State) (id line : Nat) : State :=
  if (Tab.find s.fulls id).isSome then s else { s with fulls := Tab.set s.fulls id (s.now, line) }

def clearFull (s : State) (id : Nat) : State := { s with fulls := Tab.erase s.fulls id }

/-- The team of an operation is on a core. -/
def onCore (s : State) (t : Nat) : Bool :=
  match Tab.find s.teams t with
  | some tm => tm.residence != .saved
  | none => false

/-- A pending REL whose bound writes are performed at its scope adds 1 to its word (R200). -/
def relAdd (s : State) (op : Nat) : State :=
  match Tab.find s.ops op with
  | some (.rel t p _ soba dest flag scope waits) =>
    let k := s.task (s.team t).task
    let flat := flatOf s k.fn soba
    let n := (leNat (cohortBytes s k.fn k.ts flat 8) + 1) % 2 ^ 64
    let r := releaseAt s t scope (some (soba, n)) (unperformed s soba waits)
    if !onCore s t || relBehind s op t p soba || !r.2.isEmpty || wordHeld s t p op flat true then s
    else
      let s := r.1
      let both := match trackRead s k.fn k.ts flat 8 with
        | .ok s => trackWrite s k.fn k.ts flat 8
        | r => r
      match both with
      | .ok s =>
        let s := cohortWrite s k.fn k.ts flat (leBytes 8 n)
        let s := { clearFull s op with ops := Tab.erase s.ops op }
        flagDone (landSeq s t dest n flag) t flag
      | .stall => s
      | .full l => noteFull s op l
  | _ => s

/-- The adds that some teams have issued are made (R218). -/
def finishRels (s : State) (teams : List Nat) : State :=
  let mine := (s.ops.filter (fun o => match o.2 with
    | .rel t _ _ _ _ _ _ _ => teams.contains t
    | _ => false)).map Prod.fst
  mine.foldl relAdd s

/-! ### The save (R253) -/

/-- Accumulator rows outside every window read 0 after a restore (R258). -/
def windowRows (s : State) (cr : Crew) : Tab Word32 :=
  cr.acc.filter (fun e => cr.teams.any (fun t =>
    let tm := s.team t
    decide (tm.accBase ≤ e.1 / 64) && decide (e.1 / 64 < tm.accBase + tm.accLim)))

/-- A unit that waited for a walk is placed by the word that the walk has read, or has the fault that this word gives it
(R117, R121). A 4-bit element that moves notes the byte of its new place (R214). -/
def replaceUnit (s : State) (k : Task) (acc : Access) (d : Desc) (entry w : Nat) (u : MUnit) : MUnit × List LaneBad :=
  if u.entry != some entry then (u, [])
  else
    let req : Req := { write := acc.kind.writes, versioned := acc.kind == .versioned }
    match tilePlace s k.fn d req w entry (u.off, u.hi) false with
    | .at_ flat _ _ _ =>
      let anew := acc.kind == .store && decide (u.bits < 8) && u.addr != some flat
      ({ u with addr := some flat, entry := none
                val2 := if anew then BitVec.ofNat 64 (leNat (cohortBytes s k.fn k.ts flat 1)) else u.val2 }, [])
    | .fault st code a h => ({ u with addr := none, entry := none }, [LaneBad.mk u.lane st code a h []])
    | .pad => ({ u with entry := none }, [])

/-- The units of an access that waited for an entry, and its faults, once the entry's word is there; a word that cannot be
read has an uncorrectable error (R39, R121 step 5). -/
def placeAccess (s : State) (k : Task) (acc : Access) (d : Desc) (entry : Nat) (word : Option Nat) : Access :=
  match word with
  | some w =>
    let us := acc.todo.map (replaceUnit s k acc d entry w)
    { acc with todo := us.map Prod.fst, bads := (acc.bads ++ us.flatMap Prod.snd).eraseDups }
  | none =>
    let hit := acc.todo.filter (fun u => u.entry == some entry)
    { acc with todo := acc.todo.map (fun u => if u.entry == some entry then { u with addr := none, entry := none } else u)
               bads := (acc.bads ++ hit.map (fun u => LaneBad.mk u.lane 5 .memUncorrectable entry false [])).eraseDups }

/-- The accesses that wait for a walk have its word. -/
def placeAccesses (s : State) (id : Nat) (w : TileWalk) (word : Option Nat) : State :=
  let place (e : Nat × Access) : Nat × Access :=
    if !e.2.walks.contains id then e
    else match descOf s (s.team e.2.team).task e.2.tensor with
      | some d => (e.1, placeAccess s (s.task w.task) e.2 d w.entry word)
      | none => e
  { s with ops := Tab.erase s.ops id, accesses := s.accesses.map place }

/-- A walk has read its entry: the buffer holds it, the accesses that waited are placed by it, and the engine
commands that waited have its word (R116, R117). -/
def endWalk (s : State) (id : Nat) (w : TileWalk) : State :=
  let k := s.task w.task
  let word := gNat s k.fn w.entry 8
  let core := w.core s
  let get (words : Tab Word64) : Tab Word64 := Tab.set words w.entry (BitVec.ofNat 64 word)
  let copy (q : CopyCmd) : CopyCmd :=
    if q.wants.contains w.entry then { q with words := get q.words, wants := q.wants.filter (· != w.entry) } else q
  let chan (e : Nat × Channel) : Nat × Channel := (e.1, { e.2 with queue := e.2.queue.map copy })
  let crew (e : Nat × Crew) : Nat × Crew :=
    (e.1, if e.2.core == core && (s.task e.2.task).fn == k.fn then { e.2 with chans := e.2.chans.map chan } else e.2)
  let mx (m : MxCmd) : MxCmd :=
    if m.wants.contains w.entry && (s.task (s.team m.team).task).fn == k.fn then
      { m with words := get m.words, wants := m.wants.filter (· != w.entry) } else m
  let s := { placeAccesses s id w (some word) with crews := s.crews.map crew }
  fillTtb (s.modCore core (fun co => { co with matrix := co.matrix.map mx })) core k.fn [w.entry]

/-- The walks that some teams' accesses wait for end (R117). -/
def finishWalks (s : State) (teams : List Nat) : State :=
  let ids := (s.accesses.filter (fun a => teams.contains a.2.team)).flatMap (fun a => a.2.walks)
  let fill (s : State) (id : Nat) : State :=
    match Tab.find s.ops id with
    | some (.walk w) => if w.stopped then s else endWalk s id w
    | _ => s
  ids.foldl fill s

/-- A store or a reduction to a HOST or REMOTE tensor starts (R181). -/
def accessStart (s : State) (id : Nat) (a : Access) : State :=
  let k := s.task (s.team a.team).task
  if !a.irrevocable || !onCore s a.team || !mayIrrevocable s k then s
  else
    let s := enterWriteThrough s k.fn k.ts
    { s with accesses := Tab.set s.accesses id { a with irrevocable := false } }

/-- The accesses of other teams that count as performed for some teams: these find them so wherever they go on
(R193, R218). -/
def boundFor (s : State) (teams : List Nat) : List Nat :=
  (s.accesses.filter (fun e => !teams.contains e.2.team
    && teams.any (fun t => e.2.todo.any (fun v => e.2.binds s v t s.nextId)))).map Prod.fst

/-- The accesses of some teams, performed as far as they can be, with those that count as performed for them
(R218). -/
def performAccesses (s : State) (teams : List Nat) : State :=
  let mine := s.accesses.filter (fun a => teams.contains a.2.team)
  let s := finishWalks (mine.foldl (fun s a => accessStart s a.1 a.2) s) teams
  performTeams (performIds s (boundFor s teams)) teams

/-- What some teams have issued can be brought to the point of a save or a move: every access can be performed
(R218), and no matrix command or follow-on is on its way (R253, R422). -/
def quietable (s : State) (teams : List Nat) : Bool :=
  let t := performAccesses s teams
  !followsWait s teams && !t.accesses.any (fun a => teams.contains a.2.team) && (boundFor t teams).isEmpty

/-- Everything some teams have in flight is brought to the point of a save or a move: accesses performed
(R218), adds of RELs made (R200), started matrix commands finished, and every team's latch image taken (R245,
R253). Follow-ons have completed before (R422). -/
def quiesceTeams (s : State) (teams : List Nat) : State :=
  let s := performAccesses s teams
  let s := finishRels (finishRadvs s teams s.ops.length) teams
  let s := mxFinishTeams s teams
  { s with teams := s.teams.map (fun e =>
      (e.1, if teams.contains e.1 then takeFli e.2 s.free s.now else e.2))
           free := s.free + 1 }

/-- The same for a whole task, which stops. -/
def quiesce (s : State) (k : Nat) : State := quiesceTeams (stopTeams s k) (teamsOfTask s k)

/-- Some crews and their teams leave their cores (R253). -/
def vacateCrews (s : State) (mine : Nat → Bool) : State :=
  let teams := (s.teams.filter (fun e => mine e.2.crew && !e.2.retired)).map Prod.fst
  let mark (e : Nat × Team) : Nat × Team :=
    (e.1, if teams.contains e.1 then { e.2 with residence := .saved } else e.2)
  let queued (c : Nat) : List MxCmd := s.cores.flatMap (fun e => e.2.matrix.filter (fun m => m.crew == c))
  let hold (e : Nat × Crew) : Nat × Crew :=
    (e.1, if mine e.1 then
        { e.2 with saved := true, acc := windowRows s e.2, waiting := e.2.waiting ++ queued e.1, moving := none
                   syncing := e.2.syncing && e.2.moving.isNone, migrate := e.2.migrate && e.2.moving.isNone }
      else e.2)
  let off (e : Nat × Core) : Nat × Core :=
    (e.1, { e.2 with standby := e.2.standby.filter (fun t => !teams.contains t)
                     matrix := e.2.matrix.filter (fun m => !teams.contains m.team) })
  { s with teams := s.teams.map mark, crews := s.crews.map hold, cores := s.cores.map off }

/-- A block of a task is placed and written, with its directory entry, or none is when the area cannot hold it
(R254, R255, R258). -/
def placeSaved (s : State) (k : Nat) (bytes : List Byte) : Option State :=
  let tk := s.task k
  let blocks := blocksOf s tk.fn k
  let off := placeBlock blocks bytes.length firstBlock (blocks.length + 1)
  if (ctxArea s tk.fn).2 < off + bytes.length + 65536 then none
  else
    let s := s.setTask k { tk with block := off, blockLen := bytes.length, image := bytes }
    some (writeDirectory (memWrite s (ctxFlat s tk.fn off) bytes) k)

/-- A save of a task that has been quiesced. -/
def storeTask (s : State) (k : Nat) (record : List Byte) : Option State :=
  (placeSaved s k (taskBlock s k record)).map (fun s =>
    let s := s.modTask k (fun tk => { tk with saved := true })
    traceTask (vacateCrews s (fun c => (s.crew c).task == k)) (s.task k) .save 0)

/-- A save of some crews of a task, which have been quiesced, beside those that are saved already; the others run on
(R36). -/
def storeCrews (s : State) (k : Nat) (cs : List Nat) : Option State :=
  let mine (c : Crew) : Bool := c.saved || cs.any (fun i => (s.crew i).number == c.number)
  (placeSaved s k (blockOf s k ((crewsInOrder s k).filter mine) (leBytes 64 0))).map (fun s =>
    vacateCrews s (fun c => cs.contains c))

/-- The task cannot be held: it is discarded, its queue stops with 0x11, and the LOST record is
written unless the PF's area has no size (R258, R488). -/
def loseTask (s : State) (k : Nat) (wid0 : Word64) (path pc : Nat) : State :=
  let tk := s.task k
  let rec_ := faultRecord tk.taskid wid0 path pc { code := .slotOverrun } true
  let s := if (ctxArea s tk.fn).2 == 0 then s else memWrite s (ctxFlat s tk.fn firstBlock) rec_
  let s := dropTaskWork s k
  let s := { s with tasks := Tab.erase s.tasks k }
  stopQueue (updateHem s tk.fn) tk.fn tk.queue 0x11

/-- Save a task whole; it keeps its slot (R241, R253). -/
def saveTask (s : State) (k : Nat) : State :=
  let s := quiesce s k
  match storeTask s k (leBytes 64 0) with
  | some s => s
  | none =>
    let tm := s.team ((teamsOfTask s k).headD 0)
    loseTask s k tm.wid0 0 (tm.path 0).pc

/-- Save some crews of a task, while its others run on (R36). -/
def saveCrews (s : State) (k : Nat) (cs : List Nat) : State :=
  let teams := (s.teams.filter (fun e => cs.contains e.2.crew && !e.2.retired)).map Prod.fst
  let s := quiesceTeams s teams
  match storeCrews s k cs with
  | some s => s
  | none =>
    let tm := s.team (teams.headD 0)
    loseTask s k tm.wid0 0 (tm.path 0).pc

/-- Bytes that a save of the task writes, on each core (R92, R253). -/
def saveBytes (s : State) (k core : Nat) : Nat :=
  let tk := s.task k
  ((crewsInOrder s k).filter (fun cr => cr.core == core)).foldl (fun n cr =>
    n + (pad128 (crewArea s cr)).length
      + (teamsInOrder s cr).foldl (fun m tm => m + (pad128 (contextArea tk cr tm)).length) 0) 0

end Sys2Proof.Machine
end

