-- ==== Sys2Proof/Machine/Pages.lean ====
section
/-! DEFINITION. The page-request pool and ring (R124-R128), and the walk-fault queue (R129). -/

namespace Sys2Proof.Machine

open Sys2Proof

/-! ### The pool (R124) -/

def PageReq.isOf (p : PageReq) (fn : Nat) : Bool := p.fn == fn

/-- Pool entries that a function holds. -/
def poolHeld (s : State) (fn : Nat) : Nat :=
  (s.pages.filter (fun p => p.fn == fn && p.pool.isSome)).length

def sharedUsed (s : State) : Nat := (s.pages.filter (fun p => p.pool.isSome && p.shared)).length

/-- Entry numbers that nobody holds. -/
def freeEntries (s : State) : List Nat :=
  (List.range 1024).filter (fun n => !s.pages.any (fun p => p.pool == some n))

/-- May a function take an entry now, and is it a shared one? -/
def poolChance (s : State) (fn : Nat) : Option Bool :=
  let held := poolHeld s fn
  if held < 2 then some false
  else if held < 64 && sharedUsed s < 638 then some true
  else none

/-- The first request of a list that a test accepts is replaced. -/
def replaceFirst {α : Type} (test : α → Bool) (f : α → α) : List α → List α
  | [] => []
  | x :: xs => if test x then f x :: xs else x :: replaceFirst test f xs

/-- The first waiting request of a function takes an entry; which number is open (log 5). -/
def takeEntry (s : State) (fn : Nat) (shared : Bool) : State :=
  let nums := freeEntries s
  let n := nums.getD (Config.freeNat s.free % nums.length) 0
  let give (p : PageReq) : PageReq := { p with pool := some n, shared := shared }
  let pages := replaceFirst (fun p => p.fn == fn && p.pool.isNone) give s.pages
  { s.bump with pages := pages }

def waits (s : State) (fn : Nat) : Bool := s.pages.any (fun p => p.fn == fn && p.pool.isNone)

/-- Waiting requests are served: each function's own reserve first, then the shared entries by the
rotating pointer (R124). -/
def serveWaiting (s : State) : Nat → State
  | 0 => s
  | fuel + 1 =>
    let order := (List.range 193).map (fun i => (s.pagePtr + i) % 193)
    match order.find? (fun f => waits s f && poolChance s f == some false) with
    | some f => serveWaiting (takeEntry s f false) fuel
    | none =>
      match order.find? (fun f => waits s f && poolChance s f == some true) with
      | some f => serveWaiting { takeEntry s f true with pagePtr := (f + 1) % 193 } fuel
      | none => s

/-! ### The ring (R126, R128) -/

/-- A request record (R128). -/
def pageRecord (s : State) (seq : Nat) (p : PageReq) : List Byte :=
  let info := p.tensor + 2 ^ 8 * b2n p.write + 2 ^ 9 * b2n p.host + 2 ^ 16 * p.pool.getD 0
    + 2 ^ 32 * (s.task p.task).taskid
  leBytes 8 seq ++ leBytes 8 info ++ leBytes 8 p.entry ++ leBytes 8 0

/-- The address of record i of a function's ring. -/
def recordAddr (f : Func) (i : Nat) : Nat :=
  f.prBase.toNat / 4096 * 4096 + 32 * (i % 2 ^ f.prLogsz.toNat)

/-- May the device write the next record (R126)? -/
def mayWriteRecord (f : Func) : Bool :=
  f.prEn && !f.prErr && decide (f.prTail.toNat < f.prHead.toNat + 2 ^ f.prLogsz.toNat)

/-- The oldest unwritten request of a function is written, if it may be (R126). -/
def writeRecord (s : State) (fn : Nat) : State :=
  let f := s.func fn
  let unwritten (p : PageReq) : Bool := p.fn == fn && p.pool.isSome && p.record.isNone
  match s.pages.find? unwritten with
  | none => s
  | some p =>
    if !mayWriteRecord f then s
    else
      let i := f.prTail.toNat
      let a := recordAddr f i
      if inSeg s fn a 32 then
        let s := memWrite s (flatOf s fn a) (pageRecord s i p)
        let pages := replaceFirst unwritten (fun q => { q with record := some i }) s.pages
        let s := { s with pages := pages }
        (s.modFunc fn (fun f => { f with prTail := f.prTail + 1#64, prq := true })).irq fn 2
      else s.setFunc fn { f with prErr := true }

/-- Every request of a function that can be written is written, in the order made. -/
def writeRecords (s : State) (fn : Nat) : Nat → State
  | 0 => s
  | n + 1 => writeRecords (writeRecord s fn) fn n

def flushRecords (s : State) (fn : Nat) : State := writeRecords s fn (s.pages.length)

/-- A request is made: it joins a pending one for the same address, takes an entry, or waits (R124). -/
def requestPage (s : State) (p : PageReq) : State :=
  let same (q : PageReq) : Bool := q.fn == p.fn && q.entry == p.entry && q.host == p.host
  if s.pages.any same then
    let join (q : PageReq) : PageReq :=
      { q with parked := q.parked ++ p.parked, engines := q.engines ++ p.engines }
    { s with pages := replaceFirst same join s.pages }
  else
    let chance := poolChance s p.fn
    let s := pmCount s p.fn 0x17 1
    let s := { s with pages := s.pages ++ [{ p with pool := none }] }
    match chance with
    | some shared => flushRecords (takeEntry s p.fn shared) p.fn
    | none => s

/-- The entry of a request becomes free, and waiting requests are served (R124). -/
def releaseRequest (s : State) (gone : PageReq → Bool) : State :=
  let s := { s with pages := s.pages.filter (fun p => !gone p) }
  let s := serveWaiting s s.pages.length
  (List.range 193).foldl flushRecords s

/-! ### The walk-fault queue (R129) -/

/-- The record of a failed walk is written when the queue is enabled and has room. -/
def writeWalkRecord (s : State) (op : Nat) : State :=
  match Tab.find s.ops op with
  | some (.walk w) =>
    if w.stopped && w.record.isNone && s.wqEn && decide (s.wqTail.toNat < s.wqHead.toNat + 2 ^ s.wqLogsz.toNat) then
      let i := s.wqTail.toNat
      let tk := s.task w.task
      let a := s.wqBase.toNat / 4096 * 4096 + 32 * (i % 2 ^ s.wqLogsz.toNat)
      let bs := leBytes 8 i ++ leBytes 8 (tk.fn + 2 ^ 8 * w.tensor + 2 ^ 16 * tk.part) ++ leBytes 8 w.entry
        ++ leBytes 8 tk.taskid
      let s := memWrite s (hostFlat a) bs
      let s := { s with ops := Tab.set s.ops op (.walk { w with record := some i })
                        wqTail := s.wqTail + 1#64 }
      s.irq pfFn 2
    else s
  | _ => s

/-- Every walk record that waits is written, if it can be. -/
def writeWalkRecords (s : State) : State := (Tab.keys s.ops).foldl writeWalkRecord s

end Sys2Proof.Machine
end

