-- ==== Sys2Proof/Machine/Leave.lean ====
section
/-! DEFINITION. Leave (R25-R31): the engines, their requests, the grants and the releases. Costs are in
tenths of a watt. -/

namespace Sys2Proof.Machine

open Sys2Proof

/-! ### Engines -/

/-- The die of a physical core position (R13). -/
def dieOf (core : Nat) : Nat := core / 104

/-- Numbers of the engines: of a core's matrix engine, a crew's copy channel, and a die's collective
engine. -/
def mxEngine (core : Nat) : Nat := 3 * core
def copyEngine (crew chan : Nat) : Nat := 3 * (16 * crew + chan) + 1
def collEngine (die : Nat) : Nat := 3 * die + 2

def copyCost : Nat := 6
def collCost : Nat := 30

/-- The cost of a matrix command by the width of its format (R26). -/
def mxCost (w : Nat) : Nat := if w == 16 then 20 else if w == 8 then 22 else 24

/-- Does a copy need leave (R25, R426)? -/
def copyNeedsLeave (len : Nat) : Bool := decide (16384 < len)

/-- The COLLs of a team stand in an engine: those of a saved task have left it (R440). -/
def collHere (s : State) (t : Nat) : Bool := (s.team t).residence != .saved

/-- Has an engine commands that need leave, queued or running (R26)? -/
def engineBusy (s : State) (e : Nat) : Bool :=
  if e % 3 == 0 then
    ((s.core (e / 3)).matrix.any (fun m => m.isMma && !m.rowsDone))
  else if e % 3 == 1 then
    (((s.crew (e / 3 / 16)).chanOf (e / 3 % 16)).queue.any (fun c => copyNeedsLeave (copyLen s c)))
  else s.ops.any (fun o => match o.2 with
    | .coll t _ _ _ _ _ _ _ => collHere s t && dieOf (s.crew (s.team t).crew).core == e / 3
    | _ => false)

/-- Leave goes with the core that asked for it, but for that of a collective engine that still has commands of other
cores (R26). -/
def leaveGoes (s : State) (x : Leave) : Bool := x.engine % 3 != 2 || !engineBusy s x.engine

/-! ### The arbiter (R26, R27, R33) -/

def sumCosts (l : List Leave) : Nat := l.foldl (fun n x => n + x.cost) 0

/-- G, the die's granted total. -/
def Die.total (d : Die) : Nat := sumCosts d.granted

/-- The granted total as it stood 1 µs ago. -/
def Die.earlier (d : Die) (now : Nat) : Nat :=
  ((d.history.find? (fun h => decide (h.1 + us 1 ≤ now))).map Prod.snd).getD 0

/-- What an engine holds, and what it holds and has asked for. -/
def Die.holds (d : Die) (e : Nat) : Nat := sumCosts (d.granted.filter (fun x => x.engine == e))
def Die.asked (d : Die) (e : Nat) : Nat :=
  d.holds e + sumCosts (d.queue.filter (fun x => x.engine == e))

/-- The granted total has changed; what is older than 1 µs is forgotten but for the newest. -/
def Die.note (d : Die) (now : Nat) : Die :=
  let recent := d.history.takeWhile (fun h => decide (now < h.1 + us 1))
  let last := (d.history.drop recent.length).take 1
  { d with history := (now, d.total) :: (recent ++ last) }

/-- The place of a core in the rotating order of one cycle's arrivals. -/
def Die.turn (d : Die) (core : Nat) : Nat := (core % 104 + 104 - d.pointer) % 104

/-- A request joins the queue: behind those of earlier cycles, in the rotating order among its own. -/
def enqueueLeave (d : Die) (r : Leave) : Die :=
  let before := d.queue.filter (fun x => x.at_ != r.at_ || decide (d.turn x.core ≤ d.turn r.core))
  let after := d.queue.filter (fun x => !(x.at_ != r.at_ || decide (d.turn x.core ≤ d.turn r.core)))
  { d with queue := before ++ r :: after }

/-- A command asks for what its engine lacks of a cost (R26). -/
def askLeave (s : State) (core e cost : Nat) (op : Option Nat) (reservation : Bool) : State :=
  let d := s.die (dieOf core)
  let have_ := d.asked e
  if cost ≤ have_ then s
  else s.setDie (dieOf core) (enqueueLeave d
    { engine := e, core := core, cost := cost - have_, op := op, reservation := reservation, at_ := s.now })

/-- The engine holds the leave that a command needs. -/
def hasLeave (s : State) (core e cost : Nat) : Bool := decide (cost ≤ (s.die (dieOf core)).holds e)

/-- A leave-bound command of the engine starts: what was reserved is now held for it (R29). -/
def leaveStarts (s : State) (core e : Nat) : State :=
  let use (x : Leave) : Leave := if x.engine == e then { x with reservation := false, idleSince := none } else x
  s.modDie (dieOf core) (fun d => { d with granted := d.granted.map use })

/-- The head of the queue fits (R27, R31, R33). -/
def leaveFits (s : State) (die : Nat) : Bool :=
  let d := s.die die
  match d.queue with
  | [] => false
  | r :: _ =>
    let g := d.total + r.cost
    decide (g ≤ 10 * d.ceil.toNat) && decide (g ≤ d.earlier s.now + 10 * d.ramp.toNat)
      && !(s.core r.core).noLeave

/-- LEAVE_GRANT (R27): a reservation counts its 2 µs from its own grant (R444). -/
def execLeaveGrant (die : Nat) (s : State) : Host.Outcome State Fault Refusal :=
  let d := s.die die
  match d.queue with
  | [] => .next s
  | r :: rest =>
    if !leaveFits s die then .next s
    else
      let renew (x : Leave) : Leave :=
        if r.reservation && x.engine == r.engine && x.reservation then { x with at_ := s.now } else x
      let d := { d with queue := rest, pointer := (r.core % 104 + 1) % 104
                        granted := d.granted.map renew ++ [{ r with at_ := s.now, op := none }] }
      let s := s.setDie die (d.note s.now)
      match r.op with
      | none => .next s
      | some id =>
        match Tab.find s.ops id with
        | some (.lvreq t _ flag _) => .next (flagDone { s with ops := Tab.erase s.ops id } t (some flag))
        | _ => .next s

/-- Engines without leave-bound commands begin or go on being idle (R26). -/
def markIdle (s : State) : State :=
  let mark (x : Leave) : Leave :=
    if x.reservation then x
    else if engineBusy s x.engine then { x with idleSince := none }
    else if x.idleSince.isSome then x
    else { x with idleSince := some s.now }
  { s with dies := s.dies.map (fun e => (e.1, { e.2 with granted := e.2.granted.map mark })) }

/-- Has an engine's leave been idle for 2 µs? -/
def leaveIdle (s : State) (die e : Nat) : Bool :=
  (s.die die).granted.any (fun x => x.engine == e && x.idleSince.any (fun t => decide (t + us 2 ≤ s.now)))

/-- LEAVE_RELEASE (R26): the engine's leave is released in full. -/
def execLeaveRelease (die engine : Nat) (s : State) : Host.Outcome State Fault Refusal :=
  let d := s.die die
  if leaveIdle s die engine && !engineBusy s engine then
    let d := { d with granted := d.granted.filter (fun x => x.engine != engine || x.reservation) }
    .next (s.setDie die (d.note s.now))
  else .next s

/-- A reservation whose 2 µs are over. -/
def Leave.lapsed (x : Leave) (now : Nat) : Bool := x.reservation && decide (x.at_ + us 2 ≤ now)

/-- LVREQ_LAPSE (R29). -/
def execLvreqLapse (die engine : Nat) (s : State) : Host.Outcome State Fault Refusal :=
  let d := s.die die
  if d.granted.any (fun x => x.engine == engine && x.lapsed s.now) then
    let d := { d with granted := d.granted.filter (fun x => !(x.engine == engine && x.lapsed s.now)) }
    .next (s.setDie die (d.note s.now))
  else .next s

end Sys2Proof.Machine
end

