-- ==== Sys2Proof/Decode.lean ====
section
/-! DEFINITION. Decoding of the slots and of a bundle (R307-R318, R323-R326, R340, R384, R411, R441,
R448), and the encoder, written from the same tables. A decoder only reads the bits: which field
values an instruction admits is said in Machine/SlotRules.lean. -/

namespace Sys2Proof

open Sys2Proof.Machine

/-- What the bits of a slot are: an instruction, an opcode that no map lists (R323-R326), or a
listed opcode with a nonzero reserved bit (R312, R317, R318). -/
inductive Dec where
  | ok (i : Instr) | illegalOp | reserved
  /-- operand fields that must be 0 are not: ILLEGAL_OPERAND (R456) -/
  | operand
  deriving DecidableEq, Repr

/-- The fields of the vector slot (R312, R340). -/
def vFields (w : Nat) : VFields where
  d := BitVec.ofNat 11 (fld w 10 11)
  a := BitVec.ofNat 11 (fld w 21 11)
  b := BitVec.ofNat 11 (fld w 32 11)
  c := BitVec.ofNat 11 (fld w 43 11)
  fmt := Fmt.ofCode (fld w 54 4)
  rnd := Rnd.ofCode (fld w 58 2)
  fzi := bitAt w 60
  fzo := bitAt w 61
  sat := bitAt w 62
  keep := BitVec.ofNat 2 (fld w 63 2)
  lat := bitAt w 65
  mod := BitVec.ofNat 4 (fld w 66 4)
  aux := BitVec.ofNat 8 (fld w 70 8)

/-- The fields of the memory slot (R314). -/
def mFields (w : Nat) : MFields where
  ds := BitVec.ofNat 11 (fld w 8 11)
  a := BitVec.ofNat 11 (fld w 19 11)
  tid := BitVec.ofNat 8 (fld w 30 8)
  off := BitVec.ofNat 8 (fld w 38 8)
  fmt := Fmt.ofCode (fld w 46 4)
  cnt := BitVec.ofNat 3 (fld w 50 3)
  cache := BitVec.ofNat 3 (fld w 53 3)
  scope := BitVec.ofNat 3 (fld w 56 3)
  flag := BitVec.ofNat 4 (fld w 59 4)
  fe := bitAt w 63

/-- The fields of the X slot in the command layout (R317). -/
def xFields (w : Nat) : XFields where
  sd := BitVec.ofNat 7 (fld w 6 7)
  flag := BitVec.ofNat 4 (fld w 13 4)
  fe := bitAt w 17
  ha := BitVec.ofNat 4 (fld w 18 4)
  hb := BitVec.ofNat 4 (fld w 22 4)
  acc := BitVec.ofNat 10 (fld w 26 10)
  shape := BitVec.ofNat 3 (fld w 36 3)
  acq := bitAt w 39
  rel := bitAt w 40
  scope := BitVec.ofNat 3 (fld w 41 3)
  atom := bitAt w 44
  follow := bitAt w 45

/-- The fields of the X slot in the lining layout (R317, R441). -/
def lFields (w : Nat) : LFields where
  d := BitVec.ofNat 10 (fld w 6 10)
  a := BitVec.ofNat 10 (fld w 16 10)
  b := BitVec.ofNat 10 (fld w 26 10)
  c := BitVec.ofNat 10 (fld w 36 10)
  cls := BitVec.ofNat 2 (fld w 46 2)

/-- The header (R308). -/
def headerOf (w : Nat) : Header where
  gap := BitVec.ofNat 5 (fld w 0 5)
  yld := bitAt w 5
  bkb := bitAt w 6
  lng := bitAt w 7
  gv := BitVec.ofNat 4 (fld w 8 4)
  nv := bitAt w 12
  gm := BitVec.ofNat 4 (fld w 13 4)
  nm := bitAt w 17
  gx := BitVec.ofNat 4 (fld w 18 4)
  nx := bitAt w 22
  gc := BitVec.ofNat 4 (fld w 23 4)
  nc := bitAt w 27
  sv := bitAt w 28
  sm := bitAt w 29
  sx := bitAt w 30
  sc := bitAt w 31

/-- The vector opcodes (R323). -/
def vInstr (opc : Nat) (f : VFields) : Option Instr :=
  match opc with
  | 0x01 => some (.vadd f)
  | 0x02 => some (.vsub f)
  | 0x03 => some (.vmul f)
  | 0x04 => some (.vmulh f)
  | 0x05 => some (.vmad f)
  | 0x06 => some (.vaddc f)
  | 0x07 => some (.vsubb f)
  | 0x08 => some (.vmin f)
  | 0x09 => some (.vmax f)
  | 0x0A => some (.vabsd f)
  | 0x0B => some (.vdot4 f)
  | 0x10 => some (.vand f)
  | 0x11 => some (.vor f)
  | 0x12 => some (.vxor f)
  | 0x13 => some (.vandn f)
  | 0x14 => some (.vnot f)
  | 0x15 => some (.vshl f)
  | 0x16 => some (.vshr f)
  | 0x17 => some (.vsar f)
  | 0x18 => some (.vrot f)
  | 0x19 => some (.vbfx f)
  | 0x1A => some (.vbfi f)
  | 0x1B => some (.vpopc f)
  | 0x1C => some (.vclz f)
  | 0x1D => some (.vbrev f)
  | 0x1E => some (.vlop3 f)
  | 0x20 => some (.vcmp f)
  | 0x21 => some (.vsel f)
  | 0x22 => some (.vfclass f)
  | 0x23 => some (.vmov f)
  | 0x24 => some (.vmovp f)
  | 0x30 => some (.vfadd f)
  | 0x31 => some (.vfsub f)
  | 0x32 => some (.vfmul f)
  | 0x33 => some (.vfma f)
  | 0x34 => some (.vfmin f)
  | 0x35 => some (.vfmax f)
  | 0x36 => some (.vfcmp f)
  | 0x37 => some (.vfdot2 f)
  | 0x38 => some (.vfdot4 f)
  | 0x40 => some (.vrcp f)
  | 0x41 => some (.vrsq f)
  | 0x42 => some (.vsqrt f)
  | 0x43 => some (.vexp2 f)
  | 0x44 => some (.vlog2 f)
  | 0x45 => some (.vsinp f)
  | 0x46 => some (.vcosp f)
  | 0x47 => some (.vtanh f)
  | 0x50 => some (.vcvt f)
  | 0x51 => some (.vpack f)
  | 0x52 => some (.vunpk f)
  | 0x53 => some (.vquant f)
  | 0x54 => some (.vdeq f)
  | 0x55 => some (.vscale f)
  | 0x60 => some (.vshuf f)
  | 0x61 => some (.vperm f)
  | 0x62 => some (.vbcast f)
  | 0x63 => some (.vred f)
  | 0x64 => some (.vscan f)
  | 0x65 => some (.vvote f)
  | 0x70 => some (.vgeti f)
  | 0x71 => some (.vseti f)
  | 0x78 => some (.plogic f)
  | 0x79 => some (.psetl f)
  | _ => none

/-- The memory opcodes (R324). -/
def mInstr (opc : Nat) (f : MFields) : Option Instr :=
  match opc with
  | 0x01 => some (.tld f)
  | 0x02 => some (.tst f)
  | 0x03 => some (.tred f)
  | 0x10 => some (.sld f)
  | 0x11 => some (.sst f)
  | 0x20 => some (.aadd f)
  | 0x21 => some (.afadd f)
  | 0x22 => some (.amin f)
  | 0x23 => some (.amax f)
  | 0x24 => some (.aand f)
  | 0x25 => some (.aor f)
  | 0x26 => some (.axor f)
  | 0x27 => some (.axchg f)
  | 0x28 => some (.acas f)
  | 0x30 => some (.saadd f)
  | 0x31 => some (.safadd f)
  | 0x32 => some (.samin f)
  | 0x33 => some (.samax f)
  | 0x34 => some (.saand f)
  | 0x35 => some (.saor f)
  | 0x36 => some (.saxor f)
  | 0x37 => some (.saxchg f)
  | 0x38 => some (.sacas f)
  | 0x40 => some (.rold f)
  | 0x48 => some (.accld f)
  | 0x49 => some (.accst f)
  | 0x50 => some (.radv f)
  | 0x51 => some (.rstat f)
  | 0x52 => some (.gcfg f)
  | 0x53 => some (.gskip f)
  | 0x60 => some (.acq f)
  | 0x61 => some (.rel f)
  | 0x62 => some (.fence f)
  | 0x63 => some (.invro f)
  | _ => none

/-- The X opcodes of the command layout (R325). -/
def xInstr (opc : Nat) (f : XFields) : Option Instr :=
  match opc with
  | 0x01 => some (.copy f)
  | 0x02 => some (.copyg f)
  | 0x03 => some (.copys f)
  | 0x04 => some (.fill f)
  | 0x08 => some (.mma f)
  | 0x09 => some (.mmas f)
  | 0x0A => some (.accz f)
  | 0x0B => some (.accout f)
  | 0x10 => some (.coll f)
  | 0x30 => some (.lvreq f)
  | _ => none

/-- The X opcodes of the lining layout (R325). -/
def lInstr (opc : Nat) (f : LFields) : Option Instr :=
  match opc with
  | 0x20 => some (.lfma f)
  | 0x21 => some (.ladd f)
  | 0x22 => some (.lmul f)
  | 0x23 => some (.liadd f)
  | 0x24 => some (.limul f)
  | 0x25 => some (.llogic f)
  | _ => none

/-- The control slot (R318, R326, R448): the opcode, then the bits that must be 0. -/
def decodeC (w : Nat) : Dec :=
  match fld w 0 8 with
  | 0x01 => if fld w 8 4 == 0 then .ok (.br (BitVec.ofNat 20 (fld w 12 20))) else .reserved
  | 0x02 => .ok (.brp (BitVec.ofNat 4 (fld w 8 4)) (BitVec.ofNat 20 (fld w 12 20)))
  | 0x03 => .ok (.brs (BitVec.ofNat 4 (fld w 8 4)) (BitVec.ofNat 20 (fld w 12 20)))
  | 0x04 => .ok (.brf (BitVec.ofNat 4 (fld w 8 4)) (BitVec.ofNat 20 (fld w 12 20)))
  | 0x05 => if fld w 8 4 == 0 then .ok (.brm (BitVec.ofNat 20 (fld w 12 20))) else .reserved
  | 0x06 => .ok (.call (BitVec.ofNat 4 (fld w 8 4)) (BitVec.ofNat 20 (fld w 12 20)))
  | 0x07 => if fld w 8 7 == 0 && fld w 22 7 == 0 && fld w 29 3 == 0 then .ok (.ret (BitVec.ofNat 7 (fld w 15 7))) else .reserved
  | 0x08 => if fld w 8 7 == 0 && fld w 29 3 == 0 then .ok (.jmpi (BitVec.ofNat 7 (fld w 15 7)) (BitVec.ofNat 7 (fld w 22 7))) else .reserved
  | 0x09 => .ok (.loop (BitVec.ofNat 4 (fld w 8 4)) (BitVec.ofNat 20 (fld w 12 20)))
  | 0x10 => if fld w 13 19 == 0 then .ok (.pushm (BitVec.ofNat 4 (fld w 8 4)) (bitAt w 12)) else .reserved
  | 0x11 => if fld w 8 24 == 0 then .ok .invm else .reserved
  | 0x12 => if fld w 8 24 == 0 then .ok .popm else .reserved
  | 0x13 => if fld w 13 19 == 0 then .ok (.setm (BitVec.ofNat 4 (fld w 8 4)) (bitAt w 12)) else .reserved
  | 0x14 => .ok (.split (BitVec.ofNat 4 (fld w 8 4)) (BitVec.ofNat 20 (fld w 12 20)))
  | 0x15 => if fld w 8 24 == 0 then .ok .join else .reserved
  | 0x16 => if fld w 22 7 == 0 && fld w 29 3 == 0 then .ok (.regroup (BitVec.ofNat 7 (fld w 8 7)) (BitVec.ofNat 7 (fld w 15 7))) else .operand
  | 0x20 => if fld w 29 3 == 0 then .ok (.sadd (BitVec.ofNat 7 (fld w 8 7)) (BitVec.ofNat 7 (fld w 15 7)) (BitVec.ofNat 7 (fld w 22 7))) else .reserved
  | 0x21 => if fld w 29 3 == 0 then .ok (.ssub (BitVec.ofNat 7 (fld w 8 7)) (BitVec.ofNat 7 (fld w 15 7)) (BitVec.ofNat 7 (fld w 22 7))) else .reserved
  | 0x22 => if fld w 29 3 == 0 then .ok (.smul (BitVec.ofNat 7 (fld w 8 7)) (BitVec.ofNat 7 (fld w 15 7)) (BitVec.ofNat 7 (fld w 22 7))) else .reserved
  | 0x23 => if fld w 30 2 == 0 then .ok (.smulh (BitVec.ofNat 7 (fld w 8 7)) (BitVec.ofNat 7 (fld w 15 7)) (BitVec.ofNat 7 (fld w 22 7)) (bitAt w 29)) else .reserved
  | 0x24 => if fld w 29 3 == 0 then .ok (.sand (BitVec.ofNat 7 (fld w 8 7)) (BitVec.ofNat 7 (fld w 15 7)) (BitVec.ofNat 7 (fld w 22 7))) else .reserved
  | 0x25 => if fld w 29 3 == 0 then .ok (.sor (BitVec.ofNat 7 (fld w 8 7)) (BitVec.ofNat 7 (fld w 15 7)) (BitVec.ofNat 7 (fld w 22 7))) else .reserved
  | 0x26 => if fld w 29 3 == 0 then .ok (.sxor (BitVec.ofNat 7 (fld w 8 7)) (BitVec.ofNat 7 (fld w 15 7)) (BitVec.ofNat 7 (fld w 22 7))) else .reserved
  | 0x27 => if fld w 29 3 == 0 then .ok (.sshl (BitVec.ofNat 7 (fld w 8 7)) (BitVec.ofNat 7 (fld w 15 7)) (BitVec.ofNat 7 (fld w 22 7))) else .reserved
  | 0x28 => if fld w 29 3 == 0 then .ok (.sshr (BitVec.ofNat 7 (fld w 8 7)) (BitVec.ofNat 7 (fld w 15 7)) (BitVec.ofNat 7 (fld w 22 7))) else .reserved
  | 0x29 => if fld w 29 3 == 0 then .ok (.ssar (BitVec.ofNat 7 (fld w 8 7)) (BitVec.ofNat 7 (fld w 15 7)) (BitVec.ofNat 7 (fld w 22 7))) else .reserved
  | 0x2A => if fld w 30 2 == 0 then .ok (.smin (BitVec.ofNat 7 (fld w 8 7)) (BitVec.ofNat 7 (fld w 15 7)) (BitVec.ofNat 7 (fld w 22 7)) (bitAt w 29)) else .reserved
  | 0x2B => if fld w 30 2 == 0 then .ok (.smax (BitVec.ofNat 7 (fld w 8 7)) (BitVec.ofNat 7 (fld w 15 7)) (BitVec.ofNat 7 (fld w 22 7)) (bitAt w 29)) else .reserved
  | 0x2C => .ok (.scmp (BitVec.ofNat 7 (fld w 8 7)) (BitVec.ofNat 7 (fld w 15 7)) (BitVec.ofNat 7 (fld w 22 7)) (BitVec.ofNat 3 (fld w 29 3)))
  | 0x2D => if fld w 29 3 == 0 then .ok (.ssel (BitVec.ofNat 7 (fld w 8 7)) (BitVec.ofNat 7 (fld w 15 7)) (BitVec.ofNat 7 (fld w 22 7))) else .reserved
  | 0x2E => if fld w 22 7 == 0 && fld w 29 3 == 0 then .ok (.smov (BitVec.ofNat 7 (fld w 8 7)) (BitVec.ofNat 7 (fld w 15 7))) else .reserved
  | 0x2F => if fld w 30 2 == 0 then .ok (.sdivu (BitVec.ofNat 7 (fld w 8 7)) (BitVec.ofNat 7 (fld w 15 7)) (BitVec.ofNat 7 (fld w 22 7)) (bitAt w 29)) else .reserved
  | 0x30 => .ok (.saddi (BitVec.ofNat 7 (fld w 8 7)) (BitVec.ofNat 7 (fld w 15 7)) (BitVec.ofNat 10 (fld w 22 10)))
  | 0x31 => .ok (.sandi (BitVec.ofNat 7 (fld w 8 7)) (BitVec.ofNat 7 (fld w 15 7)) (BitVec.ofNat 10 (fld w 22 10)))
  | 0x32 => .ok (.sori (BitVec.ofNat 7 (fld w 8 7)) (BitVec.ofNat 7 (fld w 15 7)) (BitVec.ofNat 10 (fld w 22 10)))
  | 0x33 => .ok (.sshli (BitVec.ofNat 7 (fld w 8 7)) (BitVec.ofNat 7 (fld w 15 7)) (BitVec.ofNat 10 (fld w 22 10)))
  | 0x34 => .ok (.sshri (BitVec.ofNat 7 (fld w 8 7)) (BitVec.ofNat 7 (fld w 15 7)) (BitVec.ofNat 10 (fld w 22 10)))
  | 0x35 => if fld w 15 1 == 0 then .ok (.sli (BitVec.ofNat 7 (fld w 8 7)) (BitVec.ofNat 16 (fld w 16 16))) else .reserved
  | 0x36 => if fld w 15 1 == 0 then .ok (.slih (BitVec.ofNat 7 (fld w 8 7)) (BitVec.ofNat 16 (fld w 16 16))) else .reserved
  | 0x37 => if fld w 15 1 == 0 then .ok (.slix (BitVec.ofNat 7 (fld w 8 7)) (BitVec.ofNat 16 (fld w 16 16))) else .reserved
  | 0x38 => if fld w 15 1 == 0 then .ok (.sliy (BitVec.ofNat 7 (fld w 8 7)) (BitVec.ofNat 16 (fld w 16 16))) else .reserved
  | 0x40 => if fld w 25 7 == 0 then .ok (.waitf (BitVec.ofNat 16 (fld w 8 16)) (bitAt w 24)) else .reserved
  | 0x41 => if fld w 24 8 == 0 then .ok (.clrf (BitVec.ofNat 16 (fld w 8 16))) else .reserved
  | 0x42 => if fld w 17 15 == 0 then .ok (.bar (BitVec.ofNat 4 (fld w 8 4)) (BitVec.ofNat 5 (fld w 12 5))) else .reserved
  | 0x43 => if fld w 8 24 == 0 then .ok .sasht else .reserved
  | 0x44 => if fld w 13 19 == 0 then .ok (.sashp (BitVec.ofNat 4 (fld w 8 4)) (bitAt w 12)) else .reserved
  | 0x45 => if fld w 19 13 == 0 then .ok (.waitc (BitVec.ofNat 4 (fld w 8 4)) (BitVec.ofNat 7 (fld w 12 7))) else .reserved
  | 0x50 => if fld w 12 3 == 0 && fld w 29 3 == 0 then .ok (.spawn (BitVec.ofNat 4 (fld w 8 4)) (BitVec.ofNat 7 (fld w 15 7)) (BitVec.ofNat 7 (fld w 22 7))) else .reserved
  | 0x51 => if fld w 8 24 == 0 then .ok .exit else .reserved
  | 0x52 => if fld w 16 16 == 0 then .ok (.trap (BitVec.ofNat 8 (fld w 8 8))) else .reserved
  | 0x53 => if fld w 8 24 == 0 then .ok .bkpt else .reserved
  | 0x54 => if fld w 15 1 == 0 then .ok (.rdsr (BitVec.ofNat 7 (fld w 8 7)) (BitVec.ofNat 16 (fld w 16 16))) else .reserved
  | 0x55 => if fld w 15 1 == 0 then .ok (.wrsr (BitVec.ofNat 7 (fld w 8 7)) (BitVec.ofNat 16 (fld w 16 16))) else .reserved
  | 0x56 => if fld w 22 7 == 0 && fld w 29 3 == 0 then .ok (.rdsys (BitVec.ofNat 7 (fld w 8 7)) (BitVec.ofNat 7 (fld w 15 7))) else .reserved
  | 0x57 => if fld w 8 7 == 0 && fld w 29 3 == 0 then .ok (.wrsys (BitVec.ofNat 7 (fld w 15 7)) (BitVec.ofNat 7 (fld w 22 7))) else .reserved
  | 0x58 => if fld w 19 13 == 0 then .ok (.lcmp (BitVec.ofNat 11 (fld w 8 11))) else .reserved
  | 0x59 => if fld w 8 7 == 0 && fld w 22 7 == 0 && fld w 29 3 == 0 then .ok (.waithem (BitVec.ofNat 7 (fld w 15 7))) else .reserved
  | 0x5A => if fld w 8 7 == 0 && fld w 29 3 == 0 then .ok (.signal (BitVec.ofNat 7 (fld w 15 7)) (BitVec.ofNat 7 (fld w 22 7))) else .reserved
  | 0x60 => if fld w 29 3 == 0 then .ok (.dbgsplit (BitVec.ofNat 7 (fld w 8 7)) (BitVec.ofNat 7 (fld w 15 7)) (BitVec.ofNat 7 (fld w 22 7))) else .reserved
  | 0x61 => if fld w 29 3 == 0 then .ok (.step (BitVec.ofNat 7 (fld w 8 7)) (BitVec.ofNat 7 (fld w 15 7)) (BitVec.ofNat 7 (fld w 22 7))) else .reserved
  | 0x62 => if fld w 29 3 == 0 then .ok (.dbgres (BitVec.ofNat 7 (fld w 8 7)) (BitVec.ofNat 7 (fld w 15 7)) (BitVec.ofNat 7 (fld w 22 7))) else .reserved
  | _ => .illegalOp

/-- The vector slot (R312, R323). -/
def decodeV (w : Nat) : Dec :=
  match vInstr (fld w 0 10) (vFields w) with
  | none => .illegalOp
  | some i => if fld w 78 2 == 0 then .ok i else .reserved

/-- The memory slot (R314, R324). -/
def decodeM (w : Nat) : Dec :=
  match mInstr (fld w 0 8) (mFields w) with
  | none => .illegalOp
  | some i => .ok i

/-- The X slot (R317, R325): opcodes 0x20-0x25 have the lining layout (R310). -/
def decodeX (w : Nat) : Dec :=
  match lInstr (fld w 0 6) (lFields w) with
  | some i => .ok i
  | none =>
    match xInstr (fld w 0 6) (xFields w) with
    | none => .illegalOp
    | some i => if fld w 46 2 == 0 then .ok i else .reserved

/-! ### The encoder -/

/-- The opcode and fields of a vector-slot instruction (R323). -/
def vOpcode (i : Instr) : Option (Nat × VFields) :=
  match i with
  | .vadd f => some (0x01, f)
  | .vsub f => some (0x02, f)
  | .vmul f => some (0x03, f)
  | .vmulh f => some (0x04, f)
  | .vmad f => some (0x05, f)
  | .vaddc f => some (0x06, f)
  | .vsubb f => some (0x07, f)
  | .vmin f => some (0x08, f)
  | .vmax f => some (0x09, f)
  | .vabsd f => some (0x0A, f)
  | .vdot4 f => some (0x0B, f)
  | .vand f => some (0x10, f)
  | .vor f => some (0x11, f)
  | .vxor f => some (0x12, f)
  | .vandn f => some (0x13, f)
  | .vnot f => some (0x14, f)
  | .vshl f => some (0x15, f)
  | .vshr f => some (0x16, f)
  | .vsar f => some (0x17, f)
  | .vrot f => some (0x18, f)
  | .vbfx f => some (0x19, f)
  | .vbfi f => some (0x1A, f)
  | .vpopc f => some (0x1B, f)
  | .vclz f => some (0x1C, f)
  | .vbrev f => some (0x1D, f)
  | .vlop3 f => some (0x1E, f)
  | .vcmp f => some (0x20, f)
  | .vsel f => some (0x21, f)
  | .vfclass f => some (0x22, f)
  | .vmov f => some (0x23, f)
  | .vmovp f => some (0x24, f)
  | .vfadd f => some (0x30, f)
  | .vfsub f => some (0x31, f)
  | .vfmul f => some (0x32, f)
  | .vfma f => some (0x33, f)
  | .vfmin f => some (0x34, f)
  | .vfmax f => some (0x35, f)
  | .vfcmp f => some (0x36, f)
  | .vfdot2 f => some (0x37, f)
  | .vfdot4 f => some (0x38, f)
  | .vrcp f => some (0x40, f)
  | .vrsq f => some (0x41, f)
  | .vsqrt f => some (0x42, f)
  | .vexp2 f => some (0x43, f)
  | .vlog2 f => some (0x44, f)
  | .vsinp f => some (0x45, f)
  | .vcosp f => some (0x46, f)
  | .vtanh f => some (0x47, f)
  | .vcvt f => some (0x50, f)
  | .vpack f => some (0x51, f)
  | .vunpk f => some (0x52, f)
  | .vquant f => some (0x53, f)
  | .vdeq f => some (0x54, f)
  | .vscale f => some (0x55, f)
  | .vshuf f => some (0x60, f)
  | .vperm f => some (0x61, f)
  | .vbcast f => some (0x62, f)
  | .vred f => some (0x63, f)
  | .vscan f => some (0x64, f)
  | .vvote f => some (0x65, f)
  | .vgeti f => some (0x70, f)
  | .vseti f => some (0x71, f)
  | .plogic f => some (0x78, f)
  | .psetl f => some (0x79, f)
  | _ => none

/-- The opcode and fields of a memory-slot instruction (R324). -/
def mOpcode (i : Instr) : Option (Nat × MFields) :=
  match i with
  | .tld f => some (0x01, f)
  | .tst f => some (0x02, f)
  | .tred f => some (0x03, f)
  | .sld f => some (0x10, f)
  | .sst f => some (0x11, f)
  | .aadd f => some (0x20, f)
  | .afadd f => some (0x21, f)
  | .amin f => some (0x22, f)
  | .amax f => some (0x23, f)
  | .aand f => some (0x24, f)
  | .aor f => some (0x25, f)
  | .axor f => some (0x26, f)
  | .axchg f => some (0x27, f)
  | .acas f => some (0x28, f)
  | .saadd f => some (0x30, f)
  | .safadd f => some (0x31, f)
  | .samin f => some (0x32, f)
  | .samax f => some (0x33, f)
  | .saand f => some (0x34, f)
  | .saor f => some (0x35, f)
  | .saxor f => some (0x36, f)
  | .saxchg f => some (0x37, f)
  | .sacas f => some (0x38, f)
  | .rold f => some (0x40, f)
  | .accld f => some (0x48, f)
  | .accst f => some (0x49, f)
  | .radv f => some (0x50, f)
  | .rstat f => some (0x51, f)
  | .gcfg f => some (0x52, f)
  | .gskip f => some (0x53, f)
  | .acq f => some (0x60, f)
  | .rel f => some (0x61, f)
  | .fence f => some (0x62, f)
  | .invro f => some (0x63, f)
  | _ => none

/-- The opcode and fields of a command (R325). -/
def xOpcode (i : Instr) : Option (Nat × XFields) :=
  match i with
  | .copy f => some (0x01, f)
  | .copyg f => some (0x02, f)
  | .copys f => some (0x03, f)
  | .fill f => some (0x04, f)
  | .mma f => some (0x08, f)
  | .mmas f => some (0x09, f)
  | .accz f => some (0x0A, f)
  | .accout f => some (0x0B, f)
  | .coll f => some (0x10, f)
  | .lvreq f => some (0x30, f)
  | _ => none

/-- The opcode and fields of a lining duplicate (R325). -/
def lOpcode (i : Instr) : Option (Nat × LFields) :=
  match i with
  | .lfma f => some (0x20, f)
  | .ladd f => some (0x21, f)
  | .lmul f => some (0x22, f)
  | .liadd f => some (0x23, f)
  | .limul f => some (0x24, f)
  | .llogic f => some (0x25, f)
  | _ => none

/-- The 32-bit number of a control-slot instruction (R448). -/
def encodeC (i : Instr) : Option Nat :=
  match i with
  | .br o => some (0x01 + o.toNat * 2 ^ 12)
  | .brp k o => some (0x02 + k.toNat * 2 ^ 8 + o.toNat * 2 ^ 12)
  | .brs k o => some (0x03 + k.toNat * 2 ^ 8 + o.toNat * 2 ^ 12)
  | .brf k o => some (0x04 + k.toNat * 2 ^ 8 + o.toNat * 2 ^ 12)
  | .brm o => some (0x05 + o.toNat * 2 ^ 12)
  | .call k o => some (0x06 + k.toNat * 2 ^ 8 + o.toNat * 2 ^ 12)
  | .ret a => some (0x07 + a.toNat * 2 ^ 15)
  | .jmpi a b => some (0x08 + a.toNat * 2 ^ 15 + b.toNat * 2 ^ 22)
  | .loop k o => some (0x09 + k.toNat * 2 ^ 8 + o.toNat * 2 ^ 12)
  | .pushm p g => some (0x10 + p.toNat * 2 ^ 8 + g.toNat * 2 ^ 12)
  | .invm => some (0x11)
  | .popm => some (0x12)
  | .setm p g => some (0x13 + p.toNat * 2 ^ 8 + g.toNat * 2 ^ 12)
  | .split k o => some (0x14 + k.toNat * 2 ^ 8 + o.toNat * 2 ^ 12)
  | .join => some (0x15)
  | .regroup d a => some (0x16 + d.toNat * 2 ^ 8 + a.toNat * 2 ^ 15)
  | .sadd d a b => some (0x20 + d.toNat * 2 ^ 8 + a.toNat * 2 ^ 15 + b.toNat * 2 ^ 22)
  | .ssub d a b => some (0x21 + d.toNat * 2 ^ 8 + a.toNat * 2 ^ 15 + b.toNat * 2 ^ 22)
  | .smul d a b => some (0x22 + d.toNat * 2 ^ 8 + a.toNat * 2 ^ 15 + b.toNat * 2 ^ 22)
  | .smulh d a b g => some (0x23 + d.toNat * 2 ^ 8 + a.toNat * 2 ^ 15 + b.toNat * 2 ^ 22 + g.toNat * 2 ^ 29)
  | .sand d a b => some (0x24 + d.toNat * 2 ^ 8 + a.toNat * 2 ^ 15 + b.toNat * 2 ^ 22)
  | .sor d a b => some (0x25 + d.toNat * 2 ^ 8 + a.toNat * 2 ^ 15 + b.toNat * 2 ^ 22)
  | .sxor d a b => some (0x26 + d.toNat * 2 ^ 8 + a.toNat * 2 ^ 15 + b.toNat * 2 ^ 22)
  | .sshl d a b => some (0x27 + d.toNat * 2 ^ 8 + a.toNat * 2 ^ 15 + b.toNat * 2 ^ 22)
  | .sshr d a b => some (0x28 + d.toNat * 2 ^ 8 + a.toNat * 2 ^ 15 + b.toNat * 2 ^ 22)
  | .ssar d a b => some (0x29 + d.toNat * 2 ^ 8 + a.toNat * 2 ^ 15 + b.toNat * 2 ^ 22)
  | .smin d a b g => some (0x2A + d.toNat * 2 ^ 8 + a.toNat * 2 ^ 15 + b.toNat * 2 ^ 22 + g.toNat * 2 ^ 29)
  | .smax d a b g => some (0x2B + d.toNat * 2 ^ 8 + a.toNat * 2 ^ 15 + b.toNat * 2 ^ 22 + g.toNat * 2 ^ 29)
  | .scmp d a b n => some (0x2C + d.toNat * 2 ^ 8 + a.toNat * 2 ^ 15 + b.toNat * 2 ^ 22 + n.toNat * 2 ^ 29)
  | .ssel d a b => some (0x2D + d.toNat * 2 ^ 8 + a.toNat * 2 ^ 15 + b.toNat * 2 ^ 22)
  | .smov d a => some (0x2E + d.toNat * 2 ^ 8 + a.toNat * 2 ^ 15)
  | .sdivu d a b g => some (0x2F + d.toNat * 2 ^ 8 + a.toNat * 2 ^ 15 + b.toNat * 2 ^ 22 + g.toNat * 2 ^ 29)
  | .saddi d a i => some (0x30 + d.toNat * 2 ^ 8 + a.toNat * 2 ^ 15 + i.toNat * 2 ^ 22)
  | .sandi d a i => some (0x31 + d.toNat * 2 ^ 8 + a.toNat * 2 ^ 15 + i.toNat * 2 ^ 22)
  | .sori d a i => some (0x32 + d.toNat * 2 ^ 8 + a.toNat * 2 ^ 15 + i.toNat * 2 ^ 22)
  | .sshli d a i => some (0x33 + d.toNat * 2 ^ 8 + a.toNat * 2 ^ 15 + i.toNat * 2 ^ 22)
  | .sshri d a i => some (0x34 + d.toNat * 2 ^ 8 + a.toNat * 2 ^ 15 + i.toNat * 2 ^ 22)
  | .sli d i => some (0x35 + d.toNat * 2 ^ 8 + i.toNat * 2 ^ 16)
  | .slih d i => some (0x36 + d.toNat * 2 ^ 8 + i.toNat * 2 ^ 16)
  | .slix d i => some (0x37 + d.toNat * 2 ^ 8 + i.toNat * 2 ^ 16)
  | .sliy d i => some (0x38 + d.toNat * 2 ^ 8 + i.toNat * 2 ^ 16)
  | .waitf m g => some (0x40 + m.toNat * 2 ^ 8 + g.toNat * 2 ^ 24)
  | .clrf m => some (0x41 + m.toNat * 2 ^ 8)
  | .bar b n => some (0x42 + b.toNat * 2 ^ 8 + n.toNat * 2 ^ 12)
  | .sasht => some (0x43)
  | .sashp t g => some (0x44 + t.toNat * 2 ^ 8 + g.toNat * 2 ^ 12)
  | .waitc n k => some (0x45 + n.toNat * 2 ^ 8 + k.toNat * 2 ^ 12)
  | .spawn k a b => some (0x50 + k.toNat * 2 ^ 8 + a.toNat * 2 ^ 15 + b.toNat * 2 ^ 22)
  | .exit => some (0x51)
  | .trap n => some (0x52 + n.toNat * 2 ^ 8)
  | .bkpt => some (0x53)
  | .rdsr d i => some (0x54 + d.toNat * 2 ^ 8 + i.toNat * 2 ^ 16)
  | .wrsr d i => some (0x55 + d.toNat * 2 ^ 8 + i.toNat * 2 ^ 16)
  | .rdsys d a => some (0x56 + d.toNat * 2 ^ 8 + a.toNat * 2 ^ 15)
  | .wrsys a b => some (0x57 + a.toNat * 2 ^ 15 + b.toNat * 2 ^ 22)
  | .lcmp v => some (0x58 + v.toNat * 2 ^ 8)
  | .waithem a => some (0x59 + a.toNat * 2 ^ 15)
  | .signal a b => some (0x5A + a.toNat * 2 ^ 15 + b.toNat * 2 ^ 22)
  | .dbgsplit d a b => some (0x60 + d.toNat * 2 ^ 8 + a.toNat * 2 ^ 15 + b.toNat * 2 ^ 22)
  | .step d a b => some (0x61 + d.toNat * 2 ^ 8 + a.toNat * 2 ^ 15 + b.toNat * 2 ^ 22)
  | .dbgres d a b => some (0x62 + d.toNat * 2 ^ 8 + a.toNat * 2 ^ 15 + b.toNat * 2 ^ 22)
  | _ => none

def vWord (opc : Nat) (f : VFields) : Nat :=
  opc + f.d.toNat * 2 ^ 10 + f.a.toNat * 2 ^ 21 + f.b.toNat * 2 ^ 32 + f.c.toNat * 2 ^ 43
    + f.fmt.code * 2 ^ 54 + f.rnd.code * 2 ^ 58 + f.fzi.toNat * 2 ^ 60 + f.fzo.toNat * 2 ^ 61
    + f.sat.toNat * 2 ^ 62 + f.keep.toNat * 2 ^ 63 + f.lat.toNat * 2 ^ 65 + f.mod.toNat * 2 ^ 66
    + f.aux.toNat * 2 ^ 70

def mWord (opc : Nat) (f : MFields) : Nat :=
  opc + f.ds.toNat * 2 ^ 8 + f.a.toNat * 2 ^ 19 + f.tid.toNat * 2 ^ 30 + f.off.toNat * 2 ^ 38
    + f.fmt.code * 2 ^ 46 + f.cnt.toNat * 2 ^ 50 + f.cache.toNat * 2 ^ 53 + f.scope.toNat * 2 ^ 56
    + f.flag.toNat * 2 ^ 59 + f.fe.toNat * 2 ^ 63

def xWord (opc : Nat) (f : XFields) : Nat :=
  opc + f.sd.toNat * 2 ^ 6 + f.flag.toNat * 2 ^ 13 + f.fe.toNat * 2 ^ 17 + f.ha.toNat * 2 ^ 18
    + f.hb.toNat * 2 ^ 22 + f.acc.toNat * 2 ^ 26 + f.shape.toNat * 2 ^ 36 + f.acq.toNat * 2 ^ 39
    + f.rel.toNat * 2 ^ 40 + f.scope.toNat * 2 ^ 41 + f.atom.toNat * 2 ^ 44 + f.follow.toNat * 2 ^ 45

def lWord (opc : Nat) (f : LFields) : Nat :=
  opc + f.d.toNat * 2 ^ 6 + f.a.toNat * 2 ^ 16 + f.b.toNat * 2 ^ 26 + f.c.toNat * 2 ^ 36
    + f.cls.toNat * 2 ^ 46

def headerWord (h : Header) : Nat :=
  h.gap.toNat + h.yld.toNat * 2 ^ 5 + h.bkb.toNat * 2 ^ 6 + h.lng.toNat * 2 ^ 7
    + h.gv.toNat * 2 ^ 8 + h.nv.toNat * 2 ^ 12 + h.gm.toNat * 2 ^ 13 + h.nm.toNat * 2 ^ 17
    + h.gx.toNat * 2 ^ 18 + h.nx.toNat * 2 ^ 22 + h.gc.toNat * 2 ^ 23 + h.nc.toNat * 2 ^ 27
    + h.sv.toNat * 2 ^ 28 + h.sm.toNat * 2 ^ 29 + h.sx.toNat * 2 ^ 30 + h.sc.toNat * 2 ^ 31

/-- The width of an instruction's slot: 80, 64, 48 or 32 bits (R307); 0 for a step that no slot
encodes. -/
def slotBits (i : Instr) : Nat :=
  if (vOpcode i).isSome then 80
  else if (mOpcode i).isSome then 64
  else if (xOpcode i).isSome || (lOpcode i).isSome then 48
  else if (encodeC i).isSome then 32
  else 0

/-- The number of an instruction's slot; 0 for a step that no slot encodes. -/
def encode (i : Instr) : Nat :=
  match vOpcode i, mOpcode i, xOpcode i, lOpcode i with
  | some (o, f), _, _, _ => vWord o f
  | none, some (o, f), _, _ => mWord o f
  | none, none, some (o, f), _ => xWord o f
  | none, none, none, some (o, f) => lWord o f
  | none, none, none, none => (encodeC i).getD 0

/-- The decoder of the slot of a width. -/
def decodeSlot (nbits w : Nat) : Dec :=
  if nbits == 80 then decodeV w
  else if nbits == 64 then decodeM w
  else if nbits == 48 then decodeX w
  else if nbits == 32 then decodeC w
  else .illegalOp

/-- The instruction a table word stands for: the opcode table numbers the bits of one slot, and the
slot's width says which slot it is. -/
def decodeTableWord (nbits w : Nat) : Option Instr :=
  match decodeSlot nbits w with
  | .ok i => some i
  | _ => none

/-! ### Bundles -/

/-- The raw parts of a bundle: the header word and the four slots' numbers (R307). -/
structure RawBundle where
  h : Nat
  v : Nat
  m : Nat
  x : Nat
  c : Nat
  deriving DecidableEq, Repr

/-- The parts of a bundle of 256 bits (R307). -/
def rawBundle (w : Nat) : RawBundle :=
  ⟨fld w 0 32, fld w 32 80, fld w 112 64, fld w 176 48, fld w 224 32⟩

/-- The 256-bit number of a bundle (R307). -/
def bundleWord (r : RawBundle) : Nat :=
  r.h + r.v * 2 ^ 32 + r.m * 2 ^ 112 + r.x * 2 ^ 176 + r.c * 2 ^ 224

/-- A bundle's decoded parts; an absent slot is `none` (R309). -/
structure Bundle where
  hdr : Header
  v : Option Instr := none
  m : Option Instr := none
  x : Option Instr := none
  c : Option Instr := none
  deriving DecidableEq, Repr

def Dec.toOption : Dec → Option Instr
  | .ok i => some i
  | _ => none

/-- The instructions of a bundle without a decode fault. -/
def decodeBundle (w : Nat) : Bundle :=
  let r := rawBundle w
  let h := headerOf r.h
  { hdr := h
    v := if h.sv then (decodeV r.v).toOption else none
    m := if h.sm then (decodeM r.m).toOption else none
    x := if h.sx then (decodeX r.x).toOption else none
    c := if h.sc then (decodeC r.c).toOption else none }

/-- The 256-bit number of a bundle's parts (R307, R309). -/
def encodeBundle (b : Bundle) : Nat :=
  let slot (i : Option Instr) : Nat := match i with | some j => encode j | none => 0
  bundleWord ⟨headerWord b.hdr, slot b.v, slot b.m, slot b.x, slot b.c⟩

end Sys2Proof
end

