-- ==== Sys2Proof/Machine/Operands.lean ====
section
/-! DEFINITION. The operand space (R319) and literals (R294, R295). -/

namespace Sys2Proof.Machine

open Sys2Proof

/-- What an 11-bit operand code names (R319). -/
inductive Opd where
  | v (i : Nat) | s (n : Nat) | g (k : Nat) | bv | bm | bx | z | lid | tix | widlo | widhi
  | h (r : Nat) | int (x : Int) | flt (i : Nat) | vs (n : Nat) | reserved
  deriving DecidableEq, Repr

/-- The operand that a code names (R319). -/
def opd (code : Nat) : Opd :=
  if code < 0x600 then .v code
  else if code < 0x680 then .s (code - 0x600)
  else if code < 0x684 then .g (code - 0x680)
  else if code == 0x684 then .bv
  else if code == 0x685 then .bm
  else if code == 0x686 then .bx
  else if code == 0x687 then .z
  else if code == 0x688 then .lid
  else if code == 0x689 then .tix
  else if code == 0x68A then .widlo
  else if code == 0x68B then .widhi
  else if code < 0x690 then .reserved
  else if code < 0x6A0 then .h (code - 0x690)
  else if code < 0x6C0 then .reserved
  else if code < 0x6E0 then .int ((code - 0x6C0 : Nat) - 16)
  else if code < 0x700 then .flt (code - 0x6E0)
  else if code < 0x780 then .vs (code - 0x700)
  else .reserved

/-- A code that names a V register, direct or through an S register. -/
def Opd.isV : Opd → Bool
  | .v _ | .vs _ => true
  | _ => false

def Opd.isS : Opd → Bool
  | .s _ => true
  | _ => false

def Opd.isH : Opd → Bool
  | .h _ => true
  | _ => false

def Opd.isLatch : Opd → Bool
  | .bv | .bm | .bx => true
  | _ => false

/-- The finite values of the literal table, by index (R295); indexes 24 and 28 to 31 are special. -/
def floatLiteral (i : Nat) : Dy :=
  match i with
  | 1 => ⟨1, 0⟩ | 2 => ⟨2, 0⟩ | 3 => ⟨3, 0⟩ | 4 => ⟨4, 0⟩ | 5 => ⟨5, 0⟩ | 6 => ⟨6, 0⟩ | 7 => ⟨7, 0⟩
  | 8 => ⟨8, 0⟩ | 9 => ⟨10, 0⟩ | 10 => ⟨16, 0⟩ | 11 => ⟨32, 0⟩ | 12 => ⟨64, 0⟩ | 13 => ⟨128, 0⟩
  | 14 => ⟨256, 0⟩ | 15 => ⟨1, -1⟩ | 16 => ⟨1, -2⟩ | 17 => ⟨1, -3⟩ | 18 => ⟨1, -4⟩ | 19 => ⟨3, -1⟩
  | 20 => ⟨3, -2⟩ | 21 => ⟨1, -8⟩ | 22 => ⟨1, -16⟩ | 23 => ⟨1, -24⟩ | 25 => ⟨-1, 0⟩ | 26 => ⟨-2, 0⟩
  | 27 => ⟨-1, -1⟩ | _ => ⟨0, 0⟩

/-- The bits of one element of an integer literal, if it is exact (R294). -/
def intLitElem (f : Fmt) (x : Int) : Option Nat :=
  match f with
  | .none => some (wrapBits 32 x)
  | .int64 => some (wrapBits 64 x)
  | _ => exactIn f ⟨x, 0⟩

/-- The bits of one element of a float literal, if it is exact (R295). -/
def fltLitElem (f : Fmt) (i : Nat) : Option Nat :=
  let isInt := f.isInt || f == .i4x
  let neg : Option Nat := if i == 28 then some 0 else some f.signBit
  if i == 28 || i == 29 then
    if isInt || !(f.hasInf || f == .none) then none
    else if f == .none then (if i == 28 then some 0x7F800000 else some 0xFF800000)
    else neg.map (· + f.infBits)
  else if i == 30 then
    if isInt then some 1 else if f == .none then some 0x00800000 else some (2 ^ f.layout.mb)
  else if i == 31 then
    if isInt then some (wrapBits f.width f.intMax) else some f.maxFinite
  else exactIn f (floatLiteral i) (i == 24)

/-- The 32 bits of a literal under a format, 64 under INT64: its element in every place (R294,
R295). -/
def litBits (f : Fmt) (o : Opd) : Option Nat :=
  let e := match o with
    | .int x => intLitElem f x
    | .flt i => fltLitElem f i
    | _ => none
  e.map (fun v => packElems f.width (List.replicate f.elems v))

/-- The bits of the whole format a source is read in: 64 under INT64, else 32 (R339). -/
def srcBits (f : Fmt) : Nat := if f == .int64 then 64 else 32

/-- The codes that carry a tag (R292). -/
def Opd.tagged : Opd → Bool
  | .v _ | .vs _ | .bv | .bm | .bx | .h _ => true
  | _ => false

end Sys2Proof.Machine
end

