-- ==== Sys2Proof/Machine/SlotRules.lean ====
section
/-! DEFINITION. What the field values of each instruction may be, and the decode faults of a slot
and of a bundle in the order of R327. -/

namespace Sys2Proof.Machine

open Sys2Proof

/-! ### The vector slot -/

/-- One row of the tables of the vector chapters: the operands used, the formats accepted, the
control fields that may be set, AUX (none: it holds a ring wait count), the format in which each
source is read, whether the sources are checked, the tag and the latency. -/
structure VSpec where
  useD : Bool := true
  useA : Bool := true
  useB : Bool := true
  useC : Bool := false
  fmts : List Fmt
  rnd : Bool := false
  fzi : Bool := false
  fzo : Bool := false
  sat : Bool := false
  mods : Nat := 0
  aux : Option Nat := none
  fa : Fmt
  fb : Fmt
  fc : Fmt
  checked : Bool := true
  tag : Fmt
  lat : Nat := 3
  /-- writes a V register named by D, so that LAT may be set (R313) -/
  latOk : Bool := true
  deriving DecidableEq, Repr

def fmtsIall : List Fmt := [.int32, .uint32, .int16, .int8, .uint8, .int4, .int64]
def fmtsLint : List Fmt := .none :: fmtsIall
def fmtsF : List Fmt := [.fp32, .bf16, .fp16]
def fmtsAll : List Fmt :=
  [.none, .fp32, .bf16, .fp16, .e4m3, .e5m2, .int32, .uint32, .int16, .int8, .uint8, .int4, .i4x,
    .e2m1, .scale, .int64]

/-- Integer arithmetic (R343). -/
def arithSpec (f : VFields) (lat : Nat) (sat : Bool := false) (useC : Bool := false) : VSpec :=
  { fmts := fmtsIall, sat := sat, useC := useC, fa := f.fmt, fb := f.fmt, fc := f.fmt,
    tag := f.fmt, lat := lat }

/-- Logic and bit manipulation: never checked (R347). -/
def logicSpec (f : VFields) (fmts : List Fmt) (useB : Bool := true) (useC : Bool := false)
    (aux : Option Nat := none) : VSpec :=
  { fmts := fmts, useB := useB, useC := useC, aux := aux, fa := f.fmt, fb := f.fmt, fc := f.fmt,
    checked := false, tag := f.fmt }

/-- Floating-point arithmetic (R357). -/
def floatSpec (f : VFields) (arith : Bool) (useC : Bool := false) : VSpec :=
  { fmts := fmtsF, useC := useC, rnd := arith, fzi := true, fzo := true, sat := arith,
    mods := if useC then 15 else 11, fa := f.fmt, fb := f.fmt, fc := f.fmt, tag := f.fmt, lat := 5 }

/-- Special functions (R362). -/
def specialSpec (f : VFields) : VSpec :=
  { fmts := fmtsF, useB := false, rnd := true, fzi := true, fzo := true, sat := true, mods := 9,
    fa := f.fmt, fb := f.fmt, fc := f.fmt, tag := f.fmt, lat := 12 }

/-- SFMT of a conversion: AUX [3:0] (R365). -/
def sfmtOf (f : VFields) : Fmt := Fmt.ofCode (fld f.aux.toNat 0 4)

/-- PART of a conversion: AUX [6:4] (R365). -/
def partOf (f : VFields) : Nat := fld f.aux.toNat 4 3

/-- The other 8-bit format under XB (R346, R361). -/
def fmtXB (f : VFields) : Fmt :=
  if bitAt f.aux.toNat 0 then
    match f.fmt with
    | .int8 => .uint8 | .uint8 => .int8 | .e4m3 => .e5m2 | .e5m2 => .e4m3 | g => g
  else f.fmt

/-- A format as a floating-point range for R366; I4X counts by its outliers. -/
def coverFmt (f : Fmt) : Fmt := if f == .i4x then .e4m3 else f

/-- Every value of the source format is exact in the destination format (R366). -/
def exactCover (sf df : Fmt) : Bool :=
  let s := coverFmt sf
  let subExp (g : Fmt) : Int := 1 - (g.layout.bias : Int) - g.layout.mb
  if s.isFloat then
    df.isFloat && decide (s.layout.mb ≤ df.layout.mb) && decide (subExp df ≤ subExp s)
      && !(Dy.lt (decodeF df df.maxFinite).dy (decodeF s s.maxFinite).dy)
      && (df.hasInf || !s.hasInf) && (df.layout.hasSign || !s.layout.hasSign)
  else if df.isFloat then
    (decide (0 ≤ s.intMin) || df.layout.hasSign)
      && decide (max s.intMax (-s.intMin) ≤ (2 ^ (df.layout.mb + 1) : Nat))
      && !(Dy.lt (decodeF df df.maxFinite).dy ⟨max s.intMax (-s.intMin), 0⟩)
  else decide (df.intMin ≤ s.intMin) && decide (s.intMax ≤ df.intMax)

/-- VCVT, VPACK and VUNPK (R365, R366). -/
def convSpec (f : VFields) (useB : Bool) : VSpec :=
  let sf := sfmtOf f
  let sFloat := sf.isFloat || sf == .i4x
  { fmts := [.fp32, .bf16, .fp16, .e4m3, .e5m2, .int32, .uint32, .int16, .int8, .uint8, .int4, .e2m1,
      .scale, .int64]
    useB := useB, useC := useB, rnd := sFloat || f.fmt.isFloat, fzi := sFloat, fzo := f.fmt.isFloat
    sat := !exactCover sf f.fmt, aux := some 0x7F, fa := sf, fb := sf, fc := f.fmt, tag := f.fmt
    lat := 5 }

/-- Lane moves (R374). -/
def laneSpec (w : Nat) (f : VFields) (auxMask : Nat) : VSpec :=
  { fmts := fmtsAll, aux := some auxMask, fa := f.fmt, fb := .none, fc := .none, checked := false
    tag := f.fmt, lat := if w ≤ 32 then 6 else 10 }

/-- Reductions and scans (R374, R378). -/
def redSpec (f : VFields) (auxMask : Nat) : VSpec :=
  let fl := f.fmt.isFloat
  { fmts := fmtsIall ++ fmtsF, useB := false, rnd := fl, fzi := fl, fzo := fl, sat := !fl
    aux := some auxMask, fa := f.fmt, fb := .none, fc := .none, tag := f.fmt, lat := 12 }

/-- The row of an instruction in a team of W lanes. -/
def vSpec (w : Nat) (i : Instr) : Option VSpec :=
  match i with
  | .vadd f => some (arithSpec f 3 (sat := true))
  | .vsub f => some (arithSpec f 3 (sat := true))
  | .vmul f => some (arithSpec f 4 (sat := true))
  | .vmulh f => some (arithSpec f 4)
  | .vmad f => some (arithSpec f 4 (sat := true) (useC := true))
  | .vaddc f => some { arithSpec f 3 with fmts := [.int32, .uint32], aux := some 0xFF }
  | .vsubb f => some { arithSpec f 3 with fmts := [.int32, .uint32], aux := some 0xFF }
  | .vmin f => some (arithSpec f 3)
  | .vmax f => some (arithSpec f 3)
  | .vabsd f => some (arithSpec f 3 (sat := true))
  | .vdot4 f => some { arithSpec f 4 (sat := true) (useC := true) with
      fmts := [.int8, .uint8], aux := some 1, fb := fmtXB f, fc := .int32, tag := .int32 }
  | .vand f => some (logicSpec f fmtsAll)
  | .vor f => some (logicSpec f fmtsAll)
  | .vxor f => some (logicSpec f fmtsAll)
  | .vandn f => some (logicSpec f fmtsAll)
  | .vnot f => some (logicSpec f fmtsAll (useB := false))
  | .vshl f => some (logicSpec f fmtsLint)
  | .vshr f => some (logicSpec f fmtsLint)
  | .vsar f => some (logicSpec f fmtsLint)
  | .vrot f => some (logicSpec f fmtsLint)
  | .vbfx f => some (logicSpec f [.none, .int32, .uint32])
  | .vbfi f => some (logicSpec f [.none, .int32, .uint32] (useC := true))
  | .vpopc f => some (logicSpec f fmtsLint (useB := false))
  | .vclz f => some (logicSpec f fmtsLint (useB := false))
  | .vbrev f => some (logicSpec f fmtsLint (useB := false))
  | .vlop3 f => some (logicSpec f fmtsAll (useC := true) (aux := some 0xFF))
  | .vcmp f => some { arithSpec f 3 with aux := some 0xFF }
  | .vsel f => some (logicSpec f fmtsAll (aux := some 0x1F))
  | .vfclass f => some { logicSpec f [.fp32, .bf16, .fp16, .e4m3, .e5m2, .e2m1] (useB := false) with
      fzi := true, mods := 9, checked := true, tag := .none }
  | .vmov f => some (logicSpec f fmtsAll (useB := false))
  | .vmovp f =>
    let dir := bitAt f.aux.toNat 4
    some { logicSpec f [.none, .int32, .uint32] (useB := false) (aux := some 0x1F) with
      useD := !dir, useA := dir, latOk := !dir }
  | .vfadd f => some (floatSpec f true)
  | .vfsub f => some (floatSpec f true)
  | .vfmul f => some (floatSpec f true)
  | .vfma f => some (floatSpec f true (useC := true))
  | .vfmin f => some (floatSpec f false)
  | .vfmax f => some (floatSpec f false)
  | .vfcmp f => some { floatSpec f false with
      fzo := false, aux := some 0xFF, tag := if f.fmt == .fp32 then .int32 else .int16 }
  | .vfdot2 f => some { floatSpec f true (useC := true) with
      fmts := [.bf16, .fp16], fc := .fp32, tag := .fp32 }
  | .vfdot4 f => some { floatSpec f true (useC := true) with
      fmts := [.e4m3, .e5m2], aux := some 1, fb := fmtXB f, fc := .fp32, tag := .fp32 }
  | .vrcp f => some (specialSpec f)
  | .vrsq f => some (specialSpec f)
  | .vsqrt f => some (specialSpec f)
  | .vexp2 f => some (specialSpec f)
  | .vlog2 f => some (specialSpec f)
  | .vsinp f => some (specialSpec f)
  | .vcosp f => some (specialSpec f)
  | .vtanh f => some (specialSpec f)
  | .vcvt f => some (convSpec f false)
  | .vpack f => some (convSpec f true)
  | .vunpk f => some (convSpec f false)
  | .vquant f => some
      { fmts := [.e4m3, .e5m2, .int8, .uint8, .e2m1, .int4, .i4x], useC := true, rnd := true
        fzi := true, fzo := true, sat := true, aux := some 0x7F, fa := sfmtOf f, fb := sfmtOf f
        fc := .fp32, tag := f.fmt, lat := 8 }
  | .vdeq f => some
      { fmts := fmtsF, rnd := true, fzi := true, fzo := true, sat := true, aux := some 0x7F
        fa := sfmtOf f, fb := .fp32, fc := .none, tag := f.fmt, lat := 5 }
  | .vscale f => some
      { fmts := [.fp32], rnd := true, fzi := true, fzo := true, sat := true, aux := some 3
        fa := .scale, fb := .fp32, fc := .none, tag := f.fmt, lat := 5 }
  | .vshuf f => some (laneSpec w f 0x3F)
  | .vperm f => some (laneSpec w f 0x3C)
  | .vbcast f => some (laneSpec w f 0x3C)
  | .vred f => some (redSpec f 0x7F)
  | .vscan f => some (redSpec f 0xFF)
  | .vvote f => some
      { fmts := [.int32, .uint32], useA := false, useB := false, aux := some 0x7F, fa := .none
        fb := .none, fc := .none, tag := f.fmt, lat := 12 }
  | .vgeti f => some
      { fmts := fmtsAll.filter (· != .int64), aux := some 0xFF, fa := f.fmt, fb := .none, fc := .none
        checked := false, tag := f.fmt, lat := 6 }
  | .vseti f => some
      { fmts := fmtsAll.filter (· != .int64), aux := some 0xFF, fa := f.fmt, fb := .none, fc := .none
        checked := false, tag := f.fmt, lat := 6, latOk := false }
  | .plogic f => some
      { fmts := [.uint32], useD := false, useB := false, aux := some 0xFF, fa := .none, fb := .none
        fc := .none, checked := false, tag := f.fmt, lat := 3, latOk := false }
  | .psetl f => some
      { fmts := [.int32, .uint32], useD := false, useB := false, aux := some 0x3F, fa := f.fmt
        fb := .none, fc := .none, tag := f.fmt, lat := 3, latOk := false }
  | _ => none

/-- A decode fault with its row in the order of R327. -/
abbrev Found := List (Nat × FaultCode)

/-- The fault when the condition holds. -/
def found (cond : Bool) (order : Nat) (c : FaultCode) : Found := if cond then [(order, c)] else []

def reservedIf (cond : Bool) : Found := found cond 2 .reservedField
def operandIf (cond : Bool) : Found := found cond 5 .illegalOperand
def boundsIf (cond : Bool) : Found := found cond 6 .regBounds

/-- The launch constants of R327. -/
structure Launch where
  n : Nat := 1536
  w : Nat := 1024
  cg16 : Bool := false
  priv : Bool := true
  lining : Bool := false
  migratable : Bool := false
  /-- VFFEAT: a set bit masks its feature (R101) -/
  mask : BitVec 14 := 0#14
  /-- the first bundle of the team (R101) -/
  first : Bool := false
  deriving DecidableEq, Repr

/-- The element count relations and PART of R365, R369 and R370. -/
def convShapeOk (i : Instr) : Bool :=
  match i with
  | .vcvt f => sfmtOf f != .none && sfmtOf f != f.fmt && f.fmt.elems == (sfmtOf f).elems && partOf f == 0
  | .vunpk f => sfmtOf f != .none && sfmtOf f != f.fmt && decide (f.fmt.elems < (sfmtOf f).elems)
      && decide (partOf f < (sfmtOf f).elems / f.fmt.elems)
  | .vpack f => sfmtOf f != .none && sfmtOf f != f.fmt
      && decide (2 * (sfmtOf f).elems ≤ f.fmt.elems)
      && decide (partOf f < f.fmt.elems / (2 * (sfmtOf f).elems))
  | .vdeq f => [Fmt.e4m3, .e5m2, .int8, .uint8, .int4, .i4x, .e2m1].contains (sfmtOf f)
      && decide (partOf f < (sfmtOf f).elems / f.fmt.elems)
  | .vquant f => fmtsF.contains (sfmtOf f) && decide (partOf f < f.fmt.elems / (2 * (sfmtOf f).elems))
      && (f.fmt != .i4x || 2 * (sfmtOf f).elems == 4)
  | _ => true

/-- SEG of R373: 11 to 15 are reserved, and a segment wider than the team is illegal. -/
def segFaults (w seg : Nat) : Found :=
  reservedIf (decide (10 < seg)) ++ operandIf (decide (0 < seg ∧ seg ≤ 10 ∧ w < 2 ^ seg))

/-- The checks that single instructions add (R352, R355, R373, R377, R378, R380-R382). -/
def vExtra (l : Launch) (i : Instr) : Found :=
  match i with
  | .vcmp f => reservedIf (fld f.aux.toNat 4 3 == 7)
  | .vmovp f => operandIf (bitAt f.aux.toNat 4 && fld f.aux.toNat 0 4 == 0)
  | .vcvt _ | .vunpk _ | .vpack _ | .vdeq _ | .vquant _ => reservedIf (!convShapeOk i)
  | .vshuf f => segFaults l.w (fld f.aux.toNat 2 4)
  | .vperm f => segFaults l.w (fld f.aux.toNat 2 4)
  | .vbcast f => segFaults l.w (fld f.aux.toNat 2 4) ++
      operandIf (match opd f.b.toNat with | .s _ | .int _ => false | _ => true)
  | .vred f => segFaults l.w (fld f.aux.toNat 3 4) ++
      reservedIf (decide ((if f.fmt.isFloat then 2 else 5) < fld f.aux.toNat 0 3))
  | .vscan f => segFaults l.w (fld f.aux.toNat 3 4) ++
      reservedIf (decide ((if f.fmt.isFloat then 2 else 5) < fld f.aux.toNat 0 3))
  | .vgeti f => operandIf (decide (0x600 ≤ f.a.toNat)) ++
      boundsIf (decide (f.a.toNat < 0x600 ∧ l.n ≤ f.a.toNat + f.aux.toNat))
  | .vseti f => operandIf (decide (0x600 ≤ f.d.toNat)) ++
      boundsIf (decide (f.d.toNat < 0x600 ∧ l.n ≤ f.d.toNat + f.aux.toNat))
  | .plogic f => reservedIf (f.keep != 0) ++ operandIf (!(opd f.a.toNat).isS)
  | .psetl f => operandIf (fld f.aux.toNat 0 4 == 0) ++ reservedIf (fld f.aux.toNat 4 2 == 3)
  | _ => []

/-- A direct V register of an INT64 operand is even, and lies below N with its pair (R286, R321). -/
def vregFaults (n code : Nat) (pair : Bool) : Found :=
  if code < 0x600 then
    operandIf (pair && code % 2 == 1) ++ boundsIf (decide (n ≤ code + (if pair then 1 else 0)))
  else []

/-- A source operand of the vector slot (R231, R294, R295, R319); `even` tells of a pair or an instruction under INT64. -/
def vSrcFaults (n : Nat) (code : Nat) (fmt : Fmt) (even : Bool) : Found :=
  let o := opd code
  operandIf (o == .reserved || (o.isLatch && even)) ++
  (match o with
    | .int _ | .flt _ => operandIf ((litBits fmt o).isNone)
    | _ => []) ++ vregFaults n code even

/-- The destination operand (R319, R232). -/
def vDstFaults (n : Nat) (code : Nat) (pair lat : Bool) : Found :=
  let ok := match opd code with | .v _ | .vs _ | .s _ | .z => true | _ => false
  operandIf (if lat then code != 0x687 else !ok) ++ vregFaults n code pair

/-- The fields of an instruction of the vector slot. -/
def vFieldsOf (i : Instr) : VFields :=
  match vOpcode i with
  | some (_, f) => f
  | none => vFields 0

/-- The sources of a vector instruction: position, code, format and whether a pair is read. -/
def vSources (f : VFields) (sp : VSpec) : List (Nat × Nat × Fmt × Bool) :=
  (if sp.useA then [(1, f.a.toNat, sp.fa, sp.fa == .int64)] else []) ++
  (if sp.useB then [(2, f.b.toNat, sp.fb, sp.fb == .int64)] else []) ++
  (if sp.useC then [(3, f.c.toNat, sp.fc, sp.fc == .int64)] else [])

/-- A source whose register must be even: a pair, and every V operand of an instruction with FMT 0xF (R286). -/
def evenSource (f : VFields) (q : Nat × Nat × Fmt × Bool) : Bool := q.2.2.2 || f.fmt == .int64

/-- Decode faults of a vector instruction (R313, R327, R340). -/
def vFaults (l : Launch) (i : Instr) : Found :=
  match vSpec l.w i with
  | none => []
  | some sp =>
    let f := vFieldsOf i
    let srcs := vSources f sp
    let hasH := srcs.any (fun q => (opd q.2.1).isH)
    let isWindow := match i with | .vseti _ => true | _ => false
    let isGeti := match i with | .vgeti _ => true | _ => false
    reservedIf ((!sp.useD && f.d != 0) || (!sp.useA && f.a != 0) || (!sp.useB && f.b != 0)
      || (!sp.useC && f.c != 0)) ++
    reservedIf (!sp.fmts.contains f.fmt) ++
    reservedIf ((!sp.rnd && f.rnd != .rne) || (!sp.fzi && f.fzi) || (!sp.fzo && f.fzo)
      || (!sp.sat && f.sat)) ++
    reservedIf (f.mod.toNat &&& sp.mods != f.mod.toNat) ++
    reservedIf (f.keep != 0 && !(srcs.any (fun q => q.1 == f.keep.toNat && (opd q.2.1).isV))) ++
    reservedIf (f.lat && (!sp.latOk || f.fmt == .int64)) ++
    reservedIf (match sp.aux with
      | some m => f.aux.toNat &&& m != f.aux.toNat
      | none => decide ((if hasH then 16 else 1) ≤ f.aux.toNat)) ++
    vExtra l i ++
    (if sp.useD && !isWindow then vDstFaults l.n f.d.toNat (f.fmt == .int64) f.lat else []) ++
    srcs.flatMap (fun q => if isGeti && q.1 == 1 then [] else vSrcFaults l.n q.2.1 q.2.2.1 (evenSource f q))

/-! ### The memory slot -/

/-- Which kinds of operand code a field admits. -/
structure MSpec where
  /-- DS: V and V[Sn]; S; Z -/
  dsV : Bool := false
  dsS : Bool := false
  dsZ : Bool := false
  /-- A: V and V[Sn]; S; an integer literal from the given least value -/
  aV : Bool := false
  aS : Bool := false
  aLit : Option Int := none
  useTid : Bool := false
  /-- the bits of OFF that are in use -/
  offMask : Nat := 0
  fmts : List Fmt := [.none]
  useCnt : Bool := false
  caches : List Nat := [0]
  /-- the greatest SCOPE -/
  scope : Nat := 0
  /-- FE: 0 never, 1 may, 2 must -/
  fe : Nat := 0
  /-- a destination (an S destination then needs CNT 0) -/
  isLoad : Bool := false
  /-- the second value register of a compare-and-swap -/
  twoVals : Bool := false
  deriving DecidableEq, Repr

def fmtsAtomicInt : List Fmt := [.int32, .uint32, .int64]
def fmtsAtomicRaw : List Fmt := [.none, .int32, .uint32, .int64]

/-- Global atomics (R396). -/
def atomicSpec (fmts : List Fmt) (two : Bool := false) : MSpec :=
  { dsV := true, dsS := true, aV := true, aS := true, useTid := true, offMask := 0xFF, fmts := fmts
    caches := [0, 1, 2, 3], scope := 5, fe := 2, twoVals := two }

/-- Shared atomics (R401). -/
def sharedSpec (fmts : List Fmt) (two : Bool := false) : MSpec :=
  { dsV := true, dsS := true, aV := true, aS := true, offMask := 0xFF, fmts := fmts, scope := 1
    fe := 2, twoVals := two }

/-- The row of a memory instruction (R391, R396, R400-R410). -/
def mSpec (i : Instr) : Option MSpec :=
  match i with
  | .tld _ => some { dsV := true, dsS := true, dsZ := true, aV := true, aS := true, useTid := true
                     offMask := 0xFF, fmts := fmtsAll, useCnt := true, caches := [0, 1, 2, 3, 4]
                     scope := 1, fe := 2, isLoad := true }
  | .tst _ => some { dsV := true, dsS := true, aV := true, aS := true, useTid := true, offMask := 0xFF
                     fmts := fmtsAll, useCnt := true, caches := [0, 1, 2, 3], scope := 5, fe := 1 }
  | .tred _ => some { dsV := true, dsS := true, aV := true, aS := true, useTid := true, offMask := 7
                      fmts := fmtsAtomicInt ++ fmtsF, useCnt := true, caches := [0, 1, 2, 3]
                      scope := 5, fe := 1 }
  | .rold _ => some { dsV := true, dsS := true, aV := true, aS := true, useTid := true
                      offMask := 0xFF, fmts := fmtsAll, useCnt := true, fe := 2, isLoad := true }
  | .aadd _ | .amin _ | .amax _ => some (atomicSpec fmtsAtomicInt)
  | .afadd _ => some (atomicSpec fmtsF)
  | .aand _ | .aor _ | .axor _ => some (atomicSpec fmtsAtomicRaw)
  | .axchg _ => some (atomicSpec fmtsAll)
  | .acas _ => some (atomicSpec fmtsAtomicRaw (two := true))
  | .saadd _ | .samin _ | .samax _ => some (sharedSpec fmtsAtomicInt)
  | .safadd _ => some (sharedSpec fmtsF)
  | .saand _ | .saor _ | .saxor _ => some (sharedSpec fmtsAtomicRaw)
  | .saxchg _ => some (sharedSpec fmtsAll)
  | .sacas _ => some (sharedSpec fmtsAtomicRaw (two := true))
  | .sld _ => some { dsV := true, dsS := true, dsZ := true, aV := true, aS := true, offMask := 0xFF
                     fmts := fmtsAll, useCnt := true, isLoad := true }
  | .sst _ => some { dsV := true, dsS := true, aV := true, aS := true, offMask := 0xFF
                     fmts := fmtsAll, useCnt := true }
  | .accld _ => some { dsV := true, aS := true, aLit := some 0, offMask := 0xFF
                       fmts := [.none, .fp32], useCnt := true, isLoad := true }
  | .accst _ => some { dsV := true, aS := true, aLit := some 0, offMask := 0xFF
                       fmts := [.none, .fp32], useCnt := true }
  | .radv _ => some { aS := true, aLit := some 1, offMask := 0x1F }
  | .rstat _ => some { dsS := true, offMask := 0xF, fmts := [.int64] }
  | .gcfg _ => some { aS := true, offMask := 3 }
  | .gskip _ => some { aS := true, aLit := some 0, offMask := 3 }
  | .acq f => some { dsS := true, dsZ := true, aS := f.off.toNat % 2 == 0
                     aLit := if f.off.toNat % 2 == 0 then some 0 else none, useTid := true
                     offMask := 1, fmts := [.int64], scope := 5, fe := 2 }
  | .rel _ => some { dsS := true, dsZ := true, useTid := true, fmts := [.int64], scope := 5, fe := 1 }
  | .fence _ => some { scope := 5 }
  | .invro _ => some {}
  | _ => none

/-- The fields of an instruction of the memory slot. -/
def mFieldsOf (i : Instr) : MFields :=
  match mOpcode i with
  | some (_, f) => f
  | none => mFields 0

/-- Does the DS field admit the code? -/
def dsOk (sp : MSpec) (f : MFields) : Bool :=
  match opd f.ds.toNat with
  | .v _ | .vs _ => sp.dsV
  | .s n => sp.dsS && !(sp.isLoad && f.cnt != 0) && decide (n + f.cnt.toNat < 128)
      && decide (n + (if !sp.twoVals then 0 else if f.fmt == .int64 then 2 else 1) < 128)
  | .z => sp.dsZ
  | _ => false

/-- Does the A field admit the code? -/
def aOk (sp : MSpec) (f : MFields) : Bool :=
  match opd f.a.toNat with
  | .v _ | .vs _ => sp.aV
  | .s _ => sp.aS
  | .int x => match sp.aLit with
    | some lo => decide (lo ≤ x)
    | none => false
  | _ => false

/-- Decode faults of a memory instruction (R315, R327, R384, R385). -/
def mFaults (l : Launch) (i : Instr) : Found :=
  match mSpec i with
  | none => []
  | some sp =>
    let f := mFieldsOf i
    let usesDS := sp.dsV || sp.dsS || sp.dsZ
    let usesA := sp.aV || sp.aS || sp.aLit.isSome
    let pair := f.fmt == .int64
    let regs := (f.cnt.toNat + 1) * (if sp.twoVals then 2 else 1) * (if pair then 2 else 1)
    let isAcqRel := match i with | .acq _ | .rel _ => true | _ => false
    reservedIf ((!usesDS && f.ds != 0) || (!usesA && f.a != 0) || (!sp.useTid && f.tid != 0)
      || (!sp.useCnt && f.cnt != 0)) ++
    reservedIf (f.off.toNat &&& sp.offMask != f.off.toNat) ++
    reservedIf (!sp.fmts.contains f.fmt) ++
    reservedIf (!sp.caches.contains f.cache.toNat) ++
    reservedIf (decide (sp.scope < f.scope.toNat)) ++
    reservedIf ((!f.fe && f.flag != 0) || (f.fe && sp.fe == 0)) ++
    reservedIf (sp.useCnt && pair && decide (3 < f.cnt.toNat)) ++
    (match i with
      | .tld g => reservedIf (g.scope == 1 && g.cache == 4) ++
          found (g.scope == 1 && l.mask.getLsbD 11) 4 .featureMasked
      | .tst g => reservedIf (!g.fe && g.scope != 0)
      | .tred g => reservedIf (!g.fe && g.scope != 0) ++
          reservedIf (decide ((if g.fmt.isFloat then 2 else 5) < g.off.toNat))
      | .rel g => operandIf (!g.fe && (opd g.ds.toNat).isS)
      | .gcfg g => operandIf (decide (0x600 + 124 < g.a.toNat))
      | _ => []) ++
    operandIf (!f.fe && sp.fe == 2) ++
    operandIf (usesDS && !dsOk sp f) ++ operandIf (usesA && !aOk sp f) ++
    (if sp.dsV && !isAcqRel then
      operandIf (pair && decide (f.ds.toNat < 0x600) && f.ds.toNat % 2 == 1) ++
      boundsIf (decide (f.ds.toNat < 0x600 ∧ l.n < f.ds.toNat + regs))
     else []) ++
    operandIf (pair && sp.aV && decide (f.a.toNat < 0x600) && f.a.toNat % 2 == 1) ++
    boundsIf (sp.aV && !sp.useTid && decide (f.a.toNat < 0x600 ∧ l.n ≤ f.a.toNat))

/-! ### The X slot -/

/-- Which fields a command uses, and the length of its descriptor (R411-R444). -/
structure XSpec where
  words : Nat := 0
  useH : Bool := false
  useAcc : Bool := false
  useShape : Bool := false
  acq : Bool := false
  rel : Bool := false
  atom : Bool := false
  follow : Bool := false
  deriving DecidableEq, Repr

def xSpec (i : Instr) : Option XSpec :=
  match i with
  | .copy f => some { words := if f.follow then 12 else 8, useH := f.follow, useAcc := f.follow
                      useShape := f.follow, acq := true, rel := true, atom := true, follow := true }
  | .copyg _ => some { words := 8, acq := true, rel := true, atom := true }
  | .copys _ => some { words := 8, acq := true, rel := true }
  | .fill _ => some { words := 8, rel := true }
  | .mma _ | .mmas _ => some { words := 4, useH := true, useAcc := true, useShape := true, acq := true
                               rel := true }
  | .accz _ => some { useAcc := true, useShape := true }
  | .accout _ => some { words := 2, useAcc := true, useShape := true, rel := true }
  | .coll _ => some { words := 5, acq := true, rel := true }
  | .lvreq _ => some {}
  | _ => none

/-- The fields of a command. -/
def xFieldsOf (i : Instr) : XFields :=
  match xOpcode i with
  | some (_, f) => f
  | none => xFields 0

/-- Decode faults of a command (R317, R327, R411, R421, R422, R429, R444). -/
def xFaults (l : Launch) (i : Instr) : Found :=
  match xSpec i with
  | none => []
  | some sp =>
    let f := xFieldsOf i
    let isLv := match i with | .lvreq _ => true | _ => false
    let isColl := match i with | .coll _ => true | _ => false
    reservedIf ((sp.words == 0 && f.sd != 0) || (!f.fe && f.flag != 0)) ++
    reservedIf (if isLv then
        decide (2 < f.shape.toNat) || f.hb != 0 || (f.shape != 1 && f.ha != 0)
          || decide (f.acc.toNat ≥ 3) || (f.shape != 0 && f.acc != 0)
      else (!sp.useH && (f.ha != 0 || f.hb != 0)) || (!sp.useAcc && f.acc != 0)
          || (!sp.useShape && f.shape != 0) || (sp.useShape && f.shape == 7)) ++
    reservedIf ((!sp.acq && f.acq) || (!sp.rel && f.rel) || (!sp.atom && f.atom)
      || (!sp.follow && f.follow)) ++
    reservedIf (decide (5 < f.scope.toNat) || (f.scope != 0 && !f.acq && !f.rel)) ++
    found ((isColl && l.mask.getLsbD 1) || (isLv && f.shape == 2 && l.mask.getLsbD 1)
      || (f.atom && l.mask.getLsbD 11)) 4 .featureMasked ++
    operandIf (decide (128 < f.sd.toNat + sp.words)) ++ operandIf (isLv && !f.fe)

/-- Decode faults of a lining duplicate (R441). -/
def lFaults (i : Instr) : Found :=
  match i with
  | .lfma f => reservedIf (f.cls == 3)
  | .ladd f | .lmul f | .liadd f | .limul f => reservedIf (f.cls == 3 || f.c != 0)
  | .llogic f => reservedIf (f.c != 0)
  | _ => []

/-! ### The control slot -/

/-- The numbers of the system registers (R468). -/
def sysRegListed (n : Nat) : Bool :=
  decide (n ≤ 0x10) || (decide (0x20 ≤ n) && decide (n ≤ 0x2F)) || (decide (0x100 ≤ n) && decide (n ≤ 0x10F))

/-- Decode faults of a control instruction beyond its fixed bits (R327, R456-R472). -/
def cFaults (l : Launch) (i : Instr) : Found :=
  match i with
  | .scmp _ _ _ cond => reservedIf (cond == 7)
  | .sshli _ _ imm | .sshri _ _ imm => reservedIf (decide (64 ≤ imm.toNat))
  | .waitf m _ => reservedIf (m == 0)
  | .clrf m => reservedIf (m == 0)
  | .bar _ count => reservedIf (decide (17 ≤ count.toNat))
  | .regroup _ a => operandIf (decide (124 < a.toNat))
  | .rdsr _ imm | .wrsr _ imm => operandIf (!sysRegListed imm.toNat)
  | .lcmp v => operandIf (decide (0x600 ≤ v.toNat)) ++
      boundsIf (decide (v.toNat < 0x600 ∧ l.n ≤ v.toNat))
  | .rdsys _ _ | .wrsys _ _ | .dbgsplit _ _ _ | .step _ _ _ | .dbgres _ _ _ =>
    found (!l.priv) 3 .privileged
  | .spawn _ _ _ => found (l.mask.getLsbD 5) 4 .featureMasked
  | _ => []

/-- The decode faults that an instruction's own fields show, whatever its slot (R327). -/
def slotFaults (l : Launch) (i : Instr) : Found :=
  vFaults l i ++ mFaults l i ++ xFaults l i ++ lFaults i ++ cFaults l i

/-! ### A bundle -/

/-- What the bits of one slot show: absent, decoded, or refused (R309, R327). -/
def decFaults (l : Launch) (present : Bool) (raw : Nat) (d : Dec) : Found :=
  if present then
    match d with
    | .ok i => slotFaults l i
    | .illegalOp => [(1, .illegalOp)]
    | .reserved => [(2, .reservedField)]
    | .operand => [(5, .illegalOperand)]
  else reservedIf (raw != 0)

/-- The G codes that stand in operand fields of a bundle (R322). -/
def gCodes (i : Instr) : List Nat :=
  match vSpec 1024 i with
  | some sp =>
    (vSources (vFieldsOf i) sp).filterMap (fun q =>
      match opd q.2.1 with | .g k => some k | _ => none)
  | none => []

/-- The faults of the header: guards and presence of absent slots, LNG, masked header features
(R101, R309, R310, R327). -/
def headerFaults (l : Launch) (h : Header) : Found :=
  reservedIf ((!h.sv && (h.gv != 0 || h.nv)) || (!h.sm && (h.gm != 0 || h.nm))
    || (!h.sx && (h.gx != 0 || h.nx)) || (!h.sc && (h.gc != 0 || h.nc))) ++
  reservedIf (h.lng && !h.sx) ++
  found (l.first && ((l.lining && l.mask.getLsbD 0) || (l.migratable && l.mask.getLsbD 7)
    || (l.cg16 && l.mask.getLsbD 8))) 4 .featureMasked

/-- LNG agrees with the X opcode (R310). -/
def lngFaults (h : Header) (x : Nat) : Found :=
  found (h.sx && (h.lng != (decide (0x20 ≤ fld x 0 6) && decide (fld x 0 6 ≤ 0x25)))) 1 .illegalOp

/-- All decode faults of a bundle, in slot order header, V, M, X, C (R327). -/
def bundleFaults (l : Launch) (w : Nat) : List (Nat × FaultCode × Slot) :=
  let r := rawBundle w
  let h := headerOf r.h
  let dv := decodeV r.v
  let tagged (s : Slot) (fs : Found) := fs.map (fun q => (q.1, q.2, s))
  let gv := match h.sv, dv with | true, .ok i => gCodes i | _, _ => []
  tagged .none (found (w == 0) 1 .illegalOp ++ headerFaults l h) ++
  tagged .v (decFaults l h.sv r.v dv ++ operandIf (!gv.Nodup)) ++
  tagged .m (decFaults l h.sm r.m (decodeM r.m)) ++
  tagged .x (lngFaults h r.x ++ decFaults l h.sx r.x (decodeX r.x)) ++
  tagged .c (decFaults l h.sc r.c (decodeC r.c))

/-- The first of them in the order of R327. -/
def firstFault : List (Nat × FaultCode × Slot) → Option (FaultCode × Slot)
  | [] => none
  | (o, c, s) :: t => if t.any (fun q => decide (q.1 < o)) then firstFault t else some (c, s)

def decodeFault (l : Launch) (w : Nat) : Option (FaultCode × Slot) := firstFault (bundleFaults l w)

end Sys2Proof.Machine
end

