-- ==== Sys2Proof/Machine/Ops.lean ====
section
/-! DEFINITION. What all slots share: who issues, passes and guards (R220-R228), reading sources
(R319-R322), forming results (R224, R231, R320), and taking a fault (R180, R239, R240, R244, R252,
R262) and returning from one by a replay. -/

namespace Sys2Proof.Machine

open Sys2Proof

/-! ### The issuing path -/

/-- What a slot sees of the bundle that issues: the team without the results of its own bundle, the
path, the header, and the lanes it acts for. -/
structure Ctx where
  t : Nat
  p : Nat
  pc : Nat
  cyc : Nat
  fr : Nat
  tm : Team
  pa : Path
  hdr : Header
  extra : List Nat
  lanes : Mask
  /-- narrow-group mode (R222) -/
  cg16 : Bool

def seenTeam (tm : Team) : Option Nat → Team
  | some n => { tm with pending := tm.pending.take n }
  | none => tm

/-- The context of the issuing path, if there is one. -/
def ctxOf (s : State) : Option Ctx :=
  match s.issue with
  | none => none
  | some i =>
    match Tab.find s.teams i.team with
    | none => none
    | some tm =>
      match Tab.find tm.paths i.path with
      | none => none
      | some pa => some
          { t := i.team, p := i.path, pc := i.pc, cyc := s.now, fr := s.free
            tm := seenTeam tm i.seen, pa := pa, hdr := i.hdr, extra := i.extra
            lanes := i.lanes.getD pa.active, cg16 := (s.task tm.task).cg16 }

def Ctx.width (c : Ctx) : Nat := c.tm.words * 32

def Ctx.tk (c : Ctx) (s : State) : Task := s.task c.tm.task

def Ctx.crew (c : Ctx) (s : State) : Crew := s.crew c.tm.crew

def Ctx.core (c : Ctx) (s : State) : Nat := (c.crew s).core

/-- A pass (R221): its mask word, its first cycle, the cycle from which its results' latencies count
(R228), and the lanes for which the slot acts. -/
structure Pass where
  w : Nat
  start : Nat
  base : Nat
  lanes : List Nat
  deriving DecidableEq, Repr

def sumL (l : List Nat) : Nat := l.foldl (· + ·) 0

/-- The lanes of a word in which a guard holds (R226). -/
def Ctx.guardLanes (c : Ctx) (start w : Nat) (g : BitVec 4) (neg : Bool) : List Nat :=
  (wordLanes c.lanes w).filter (fun l => readP c.tm c.fr start g.toNat l != neg)

/-- The passes of a slot with a guard (R221, R223, R228). -/
def Ctx.passes (c : Ctx) (g : BitVec 4) (neg : Bool) : List Pass :=
  let ws := maskWords c.tm.words c.lanes
  (List.range ws.length).map (fun k =>
    let w := ws.getD k 0
    let start := c.cyc + k + sumL (c.extra.take k)
    { w := w, start := start, base := c.cyc + k + sumL (c.extra.take (k + 1))
      lanes := c.guardLanes start w g neg })

def Ctx.vPasses (c : Ctx) : List Pass := c.passes c.hdr.gv c.hdr.nv
def Ctx.mPasses (c : Ctx) : List Pass := c.passes c.hdr.gm c.hdr.nm
def Ctx.xPasses (c : Ctx) : List Pass := c.passes c.hdr.gx c.hdr.nx

/-- The slot acts in no lane. -/
def idle (ps : List Pass) : Bool := ps.all (fun p => p.lanes.isEmpty)

/-- The first pass in which a slot that acts once per bundle acts (R225, R383). -/
def firstPass (ps : List Pass) : Option Pass := ps.find? (fun p => !p.lanes.isEmpty)

/-- The lanes of all passes. -/
def passLanes (ps : List Pass) : List Nat := ps.flatMap Pass.lanes

/-- The guard of the control slot (R226). -/
def Ctx.controlGuard (c : Ctx) : Bool :=
  let held := match lowestLane c.lanes with
    | some l => readP c.tm c.fr c.cyc c.hdr.gc.toNat l
    | none =>
      match lowestLane c.pa.base with
      | some l => readP c.tm c.fr c.cyc c.hdr.gc.toNat l
      | none => c.hdr.gc == 0
  held != c.hdr.nc

/-! ### Operands -/

def flt (code : FaultCode) : FaultInfo := { code := code }

/-- S register n as the bundle reads it. -/
def Ctx.sreg (c : Ctx) (n : Nat) : Nat := readS c.tm c.fr c.cyc n

/-- The first of `count` registers that a V code names: direct, or through an S register (R286, R321). -/
def Ctx.vreg (c : Ctx) (code count : Nat) (pair : Bool) : Except FaultInfo Nat :=
  let check (v : Nat) : Except FaultInfo Nat :=
    if pair && v % 2 == 1 then .error (flt .illegalOperand)
    else if c.tm.nregs < v + count then .error (flt .regBounds)
    else .ok v
  match opd code with
  | .v i => check i
  | .vs n => check (c.sreg n)
  | _ => .ok 0

/-- The register number, 0 where there is none. -/
def Ctx.vregD (c : Ctx) (code : Nat) : Nat :=
  match opd code with
  | .v i => i
  | .vs n => c.sreg n
  | _ => 0

/-- A broadcast S register under a format: its low bits to each element (R292). -/
def broadcastS (f : Fmt) (v : Nat) : Nat := packElems f.width (List.replicate f.elems v)

/-! ### Stream ports and rings -/

def Port.count (p : Port) (i : Nat) : Nat := fld (p.cfg.getD 1 0#64).toNat (16 * i) 16

def Port.stride (p : Port) (i : Nat) : Int :=
  signed 32 (fld (p.cfg.getD (2 + i / 2) 0#64).toNat (32 * (i % 2)) 32)

/-- The number of vectors (R407). -/
def Port.total (p : Port) : Nat := p.count 0 * p.count 1 * p.count 2 * p.count 3

/-- The byte offset of lane j of a vector (R407). -/
def Port.addr (p : Port) (v j : Nat) : Int :=
  let i0 := v % p.count 0
  let i1 := v / p.count 0 % p.count 1
  let i2 := v / (p.count 0 * p.count 1) % p.count 2
  let i3 := v / (p.count 0 * p.count 1 * p.count 2)
  let base : Nat := fld (p.cfg.getD 0 0#64).toNat 0 32
  let ls : Nat := fld (p.cfg.getD 0 0#64).toNat 32 16
  (base : Int) + (i0 : Nat) * p.stride 0 + (i1 : Nat) * p.stride 1 + (i2 : Nat) * p.stride 2
    + (i3 : Nat) * p.stride 3 + ((j * ls : Nat) : Int)

/-- A byte that a port returns: a value the byte had between the GCFG and the read (R408). -/
def portByte (cr : Crew) (p : Port) (fr a : Nat) : Byte :=
  let later := ((cr.wlog.drop p.mark).filter (fun e => e.1 == a)).map Prod.snd
  anyOf fr a (Memory.read p.snap a :: later)

/-- What lane l reads of a port in its pass (R322, R407, R408). -/
def portRead (cr : Crew) (p : Port) (fr n l : Nat) : Nat :=
  let a := (p.addr ((p.pos + l / 32) % p.total) (l % 32)).toNat
  leNat ((List.range n).map (fun i => portByte cr p fr (a + i)))

/-- Some byte of the vectors of a read lies outside shared memory (R408). -/
def portOutside (cr : Crew) (p : Port) (words n : Nat) : Bool :=
  (List.range words).any (fun w => (List.range 32).any (fun j =>
    let a := p.addr ((p.pos + w) % p.total) j
    decide (a < 0) || decide ((cr.shmBytes : Int) < a + n)))

/-- What lane l reads of a ring's consumer slot (R404). -/
def ringRead (cr : Crew) (h n l : Nat) : Nat :=
  let r := cr.ring h
  leNat (shmBytes cr (r.slotAt r.consumer.toNat + n * l % r.sz) n)

/-! ### Sources of the vector slot -/

/-- The value that a lane reads of an operand code, under a format (R319, R283, R292). -/
def Ctx.source (c : Ctx) (cr : Crew) (p : Pass) (f : Fmt) (pair : Bool) (code l : Nat) : Nat :=
  let n := if pair then 8 else 4
  let v (r : Nat) : Nat :=
    readV c.tm c.fr p.start r l + (if pair then 2 ^ 32 * readV c.tm c.fr p.start (r + 1) l else 0)
  let wid := (Tab.get c.tm.wids l 0#64).toNat
  match opd code with
  | .v i => v i
  | .vs k => v (c.sreg k)
  | .s k => broadcastS (if pair then .int64 else f) (readS c.tm c.fr p.start k)
  | .g k => portRead cr (Tab.get c.tm.ports k {}) c.fr n l
  | .bv => readLatch c.tm c.fr p.start .bv l
  | .bm => readLatch c.tm c.fr p.start .bm l
  | .bx => readLatch c.tm c.fr p.start .bx l
  | .z => 0
  | .lid => l
  | .tix => c.tm.tix
  | .widlo => wid % 2 ^ 32
  | .widhi => wid / 2 ^ 32
  | .h r => ringRead cr r n l
  | .int _ | .flt _ => (litBits f (opd code)).getD 0
  | .reserved => 0

/-- The tag that an operand code carries, if it carries one (R290, R292). -/
def Ctx.tagOf (c : Ctx) (cr : Crew) (code : Nat) : Option Fmt :=
  match opd code with
  | .v i => some (readTag c.tm c.fr c.cyc i)
  | .vs k => some (readTag c.tm c.fr c.cyc (c.sreg k))
  | .bv => some (readLatchTag c.tm c.fr c.cyc .bv)
  | .bm => some (readLatchTag c.tm c.fr c.cyc .bm)
  | .bx => some (readLatchTag c.tm c.fr c.cyc .bx)
  | .h r => some (cr.ring r).fmt
  | _ => none

/-- A tag that is neither NONE nor the format (R291); of a pair, either register's. -/
def Ctx.tagBad (c : Ctx) (cr : Crew) (code : Nat) (f : Fmt) (pair : Bool) : Bool :=
  let bad (t : Fmt) : Bool := t != f && t != .none
  match c.tagOf cr code with
  | none => false
  | some t => bad t || (pair && (opd code).isV && bad (readTag c.tm c.fr c.cyc (c.vregD code + 1)))

/-- The first fault of a list of conditions. -/
def firstOf : List (Bool × FaultCode) → Option FaultInfo
  | [] => none
  | (b, code) :: r => if b then some (flt code) else firstOf r

/-- A V operand that resolves to an illegal register (R286, R321). -/
def Ctx.vregIs (c : Ctx) (code : Nat) (count : Nat) (pair : Bool) (e : FaultCode) : Bool :=
  match c.vreg code count pair with
  | .error f => f.code == e
  | .ok _ => false

/-- The faults that a source of the vector slot raises at issue (R291, R321, R404, R408, R328). -/
def Ctx.sourceFaults (c : Ctx) (cr : Crew) (code : Nat) (f : Fmt) (pair even checked : Bool) :
    List (Bool × FaultCode) :=
  let regs := if pair then 2 else 1
  let port := match opd code with | .g k => some (Tab.get c.tm.ports k {}) | _ => none
  let misuse := match opd code with | .h r => decide (cr.nrings ≤ r) | _ => false
  [ (c.vregIs code regs even .illegalOperand || port.any (fun p => !p.configured), .illegalOperand),
    (c.vregIs code regs even .regBounds, .regBounds),
    (checked && c.tagBad cr code f pair, .formatMismatch),
    (misuse, .ringMisuse),
    (port.any (fun p => p.configured && portOutside cr p c.tm.words (if pair then 8 else 4)),
      .sharedBounds) ]

/-- Conditions of several operands, fault by fault. -/
def mergeFaults (ls : List (List (Bool × FaultCode))) : Option FaultInfo :=
  let all := ls.flatten
  firstOf ([FaultCode.illegalOperand, .regBounds, .formatMismatch, .ringMisuse, .sharedBounds].map
    (fun code => (all.any (fun q => q.1 && q.2 == code), code)))

/-! ### Results -/

/-- The result of one pass (R224, R231, R232, R320): `lowest` tells whether this pass holds the lowest
lane that qualifies. -/
def vResult (c : Ctx) (p : Pass) (code : Nat) (pair lat lowest : Bool) (tag : Option Fmt) (latency : Nat)
    (vals : List (Nat × Word64)) (flags : Flags) (slot : Slot) (latch : Option LatchId) : List PendRes :=
  let r : PendRes := { due := p.base + latency, from_ := p.start, dest := .nothing, word := p.w, vals := vals, tag := tag
                       latch := latch, flags := flags, slot := slot }
  let none_ : List PendRes := if flags == 0#6 then [] else [{ r with vals := [], tag := none, latch := none }]
  if vals.isEmpty then none_
  else if lat then [{ r with dest := .latchOnly }]
  else
    match opd code with
    | .v _ | .vs _ =>
      let d := c.vregD code
      [{ r with dest := if pair then .vpair d else .vreg d }]
    | .s n =>
      if lowest then
        let v := (vals.headD (0, 0#64)).2.toNat
        let w : Word64 := BitVec.ofNat 64 (if pair then v else v % 2 ^ 32)
        [{ r with dest := .sreg n, vals := [(0, w)], tag := none, latch := none }]
      else none_
    | _ => none_

/-- A predicate result (R226): P0 is never written. -/
def pResult (p : Pass) (pd latency : Nat) (vals : List (Nat × Bool)) (slot : Slot) : List PendRes :=
  if pd == 0 || vals.isEmpty then []
  else [{ due := p.base + latency, from_ := p.start, dest := .pred pd, word := p.w, slot := slot
          vals := vals.map (fun v => (v.1, if v.2 then 1#64 else 0#64)) }]

/-- A scalar result of the control slot. -/
def sResult (c : Ctx) (n latency : Nat) (v : Word64) : PendRes :=
  { due := c.cyc + sumL (c.extra.take 1) + latency, from_ := c.cyc, dest := .sreg n, vals := [(0, v)], slot := .c }

/-- Results go into flight in the issuing team. -/
def State.land (s : State) (t : Nat) (rs : List PendRes) : State :=
  s.modTeam t (fun tm => addResults tm rs)

/-- The ports that a slot has read go on by the team's words (R408). -/
def popPorts (s : State) (t : Nat) (codes : List Nat) : State :=
  let ks := codes.filterMap (fun code => match opd code with | .g k => some k | _ => none)
  s.modTeam t (fun tm =>
    let pop (ports : Tab Port) (k : Nat) : Tab Port :=
      let p := Tab.get ports k {}
      Tab.set ports k { p with pos := (p.pos + tm.words) % p.total }
    { tm with ports := ks.foldl pop tm.ports })

/-! ### Taking a fault -/

/-- Faults that a speculative task does not defer (R180). -/
def deferrable (code : FaultCode) : Bool :=
  match code with
  | .breakpoint | .watchpoint | .singleStep | .liningMismatch | .watchdog => false
  | _ => true

/-- The lowest free index of a path table (R236). -/
def Team.freePath (tm : Team) : Option Nat :=
  (List.range 8).find? (fun i => (Tab.find tm.paths i).isNone)

/-- Lanes leave a path: its base mask and every stack entry (R237, R239). -/
def Path.without (pa : Path) (m : Mask) : Path :=
  { pa with base := pa.base &&& ~~~m, stack := pa.stack.map (fun x => x &&& ~~~m) }

/-- The task is saved and marked FAULTED, its record is written, and its queue stops; a task that cannot be held is
lost (R252, R258). -/
def finishStop (s : State) (k : Nat) (x : Stopping) : State :=
  let s := quiesce s k
  let s := s.modTask k (fun tk => { tk with faulted := true, stopping := none })
  let tk := s.task k
  let rec_ := faultRecord tk.taskid x.wid0 x.path x.pc x.info false
  match storeTask s k rec_ with
  | none => loseTask s k x.wid0 x.path x.pc
  | some s =>
    let s := dropTaskWork s k
    let s := s.modTask k (fun tk => { tk with phase := .finished, frec := rec_ })
    stopQueue s tk.fn tk.queue 0x10

/-- R252: the task stops whole, for the first fault that it takes. Its save waits for its follow-ons, and for
accesses that cannot be performed yet (R218, R422). -/
def stopTask (s : State) (k : Nat) (wid0 : Word64) (p pc : Nat) (f : FaultInfo) : State :=
  if (s.task k).stopping.isSome then s
  else
    let x : Stopping := ⟨wid0, p, pc, f⟩
    let s := stopTeams s k
    if quietable s (teamsOfTask s k) then finishStop s k x else s.modTask k (fun tk => { tk with stopping := some x })

/-- The save of a task that stops need wait no longer. -/
def stopDue (s : State) (k : Nat) : Bool := (s.task k).stopping.isSome && quietable s (teamsOfTask s k)

/-- It is made. -/
def makeStop (s : State) (k : Nat) : State :=
  match (s.task k).stopping with
  | some x => finishStop s k x
  | none => s

/-- R180: the fault is recorded in its team, unless the team holds one, and the task is suspended. -/
def deferFault (s : State) (t p pc : Nat) (f : FaultInfo) : State :=
  let k := (s.team t).task
  let s := s.modTeam t (fun tm =>
    if tm.deferred.isSome then tm
    else { tm with deferred := some { f with deferred := true }, deferredAt := some (p, pc) })
  (stopTeams s k).modTask k (fun tk => { tk with suspended := true })

/-- A slot of a path's bundle is to run again for some lanes, before what the path would do next (R180, R239). -/
def Path.replayAt (pa : Path) (slot : Slot) (lanes : Mask) (pc : Nat) : Path :=
  { pa with replay := some slot, replayNext := pa.replay, rmask := lanes, pc := pc, hitDone := pa.hitWas
            after := if pa.replay.isSome then pa.after else pa.pc }

/-- R129: the walk of a memory slot failed the comparator. The path waits to replay the slot, every
team of the task stops, and the PF gets a record. -/
def walkFault (s : State) (t p pc : Nat) (f : FaultInfo) : State :=
  let k := (s.team t).task
  let (id, s) := s.newId
  let s := { s with ops := Tab.set s.ops id (.walk { task := k, team := t, path := p, tensor := f.tensor, entry := f.addr, at_ := s.now, stopped := true }) }
  let s := s.modPath t p (fun pa =>
    { pa.replayAt f.slot f.lanes pc with heldBy := some id, stall := 25 })
  writeWalkRecord ((stopTeams s k).modTask k (fun tk => { tk with walkStop := true })) id

/-- The requests that parked lanes make, in the order of R122. -/
def requestPages (s : State) (t q : Nat) (f : FaultInfo) : State :=
  let k := (s.team t).task
  f.pages.foldl (fun s e => requestPage s
    { fn := (s.task k).fn, entry := e.1, host := e.2, tensor := f.tensor, task := k
      write := f.isWrite, parked := [(t, q)] }) s

/-- A path that merges with its parent at a recorded point: a parked one, or a debug path in the role
of one (R272). -/
def Path.returns (pa : Path) : Bool := pa.kind == .parked || pa.kind == .debug

/-- The path replays its memory slot after a park, and these are the lanes for which it does (R239). -/
def parkReplay (s : State) (t p : Nat) (pa : Path) : Option Mask :=
  match s.issue with
  | some i =>
    if i.team == t && i.path == p && i.only == some .m && pa.kind == .parked && !pa.deferReplay then
      some (i.lanes.getD pa.active)
    else none
  | none => none

/-- A path that is to replay its memory slot for some lanes once their pages have come. -/
def Path.parkedAt (x : Path) (lanes : Mask) (pc : Nat) : Path :=
  { x.replayAt .m lanes pc with parked := true, stall := 12 }

/-- Some lanes of a path form a parked path; those that have not merged since an earlier park keep that park's merge
point (R239). None when the path table is full. -/
def parkFrom (s : State) (t p pc : Nat) (f : FaultInfo) : Option State :=
  let tm := s.team t
  let pa := tm.path p
  match tm.freePath with
  | none => none
  | some q =>
    let same := pa.returns
    let lanes := pa.base &&& f.lanes
    let child : Path := Path.parkedAt
      { kind := .parked, parent := if same then pa.parent else p
        base := lanes, stack := pa.stack.map (fun x => x &&& lanes)
        mergeAt := if same then pa.mergeAt else none, readyAt := pa.readyAt, mine := pa.mine
        pc := pa.pc, replay := pa.replay, after := pa.after, hitWas := pa.hitWas } lanes pc
    let tm := (tm.setPath p (pa.without lanes)).setPath q child
    some (requestPages (tracePath (s.setTeam t tm) t q .pathCreated 2) t q f)

/-- The lanes of a bundle's fault park from each of some paths that hold some of them. -/
def parkEach (s : State) (t pc : Nat) (f : FaultInfo) : List Nat → Option State
  | [] => some s
  | p :: ps => (parkFrom s t p pc f).bind (fun s => parkEach s t pc f ps)

/-- R239, R240: the faulting lanes become a parked path, or a replaying path of which every lane faults again parks
whole. Lanes that a SPLIT of the bundle has moved park from the split path. None when the path table has too few
entries free. -/
def parkLanes (s : State) (t p pc : Nat) (f : FaultInfo) : Option State :=
  let tm := s.team t
  let pa := tm.path p
  let again := f.again || (parkReplay s t p pa).any (fun m => (m &&& ~~~f.lanes) == 0#1024)
  if again then some (requestPages (s.modPath t p (fun x => x.parkedAt f.lanes pc)) t p f)
  else
    let split := (tm.paths.filter (fun e => e.1 != p && (e.2.base &&& f.lanes) != 0#1024)).map Prod.fst
    let own := if (pa.base &&& f.lanes) == 0#1024 && !split.isEmpty then [] else [p]
    parkEach s t pc f (own ++ split)

/-- R262: a lining mismatch is never deferred. -/
def liningFault (s : State) (t p pc : Nat) (f : FaultInfo) : State :=
  let tm := s.team t
  let k := tm.task
  let tk := s.task k
  let core := (s.crew tm.crew).core
  let again (s : State) : State := abortCohort s tk.fn tk.ts .lining
  let halt (s : State) : State :=
    stopTask (s.modFunc tk.fn (fun g => { g with lnStop := g.lnStop + 1#64 })) k tm.wid0 p pc f
  if (cohortAt s tk.fn tk.ts).writeThrough then halt s
  else
    match tk.lastMiss with
    | none => again { s.setTask k { tk with lastMiss := some core } with transients := (s.now, .core core) :: s.transients }
    | some c =>
      if c == core then
        let s := s.setTask k { tk with avoid := core :: tk.avoid, moved := true }
        again (s.modFunc tk.fn (fun g => { g with lnMove := g.lnMove + 1#64 }))
      else halt s

/-- Taking a fault of path p of team t at bundle pc: the one operation that every faulting slot uses.
It is deferred (R180), handled by the lining rules (R262), reported to the PF (R129), parked (R239), or
stops the task (R252). -/
def takeFault (s : State) (t p pc : Nat) (f : FaultInfo) : State :=
  let tm := s.team t
  let k := tm.task
  let pa := tm.path p
  let f := { f with deferred := f.deferred || pa.deferReplay }
  if f.code == .liningMismatch then liningFault s t p pc f
  else if isSpeculative s (s.task k) && deferrable f.code then deferFault s t p pc f
  else if f.code == .walkSegment && f.slot == .m then walkFault s t p pc f
  else if f.code == .tileNotPresent && f.slot == .m then
    match parkLanes s t p pc f with
    | some s => s
    | none => stopTask (requestPages s t p f) k tm.wid0 p pc { f with parkFail := true }
  else stopTask s k tm.wid0 p pc f

/-! ### Faults that walks show (R117, R239, R240) -/

/-- The paths of a team that hold some of some lanes. -/
def holders (tm : Team) (lanes : Mask) : List Nat :=
  (tm.paths.filter (fun e => (e.2.base &&& lanes) != 0#1024)).map Prod.fst

/-- Taking a fault of an access that has been issued: at its bundle, in its path or in one to which its lanes have gone.
A park of lanes of which none is left does nothing; a replay of a parked path that has not moved on parks again. -/
def lateFault (s : State) (a : Access) (f : FaultInfo) : State :=
  let tm := s.team a.team
  let hs := holders tm f.lanes
  let p := if hs.contains a.path then a.path else hs.headD a.path
  let pa := tm.path p
  let whole := a.replays && p == a.path && pa.kind == .parked && (pa.base &&& ~~~f.lanes) == 0#1024
  if hs.isEmpty && f.code == .tileNotPresent then s
  else takeFault s a.team p a.pc { f with again := whole }

/-- An access whose walks have ended takes the fault that its elements have: of the whole access, or of the lanes whose
tiles are absent, while the others go on (R121, R122). -/
def settleFault (s : State) (id : Nat) : State :=
  match Tab.find s.accesses id with
  | none => s
  | some a =>
    if a.walks.any (fun w => (Tab.find s.ops w).isSome) || !onCore s a.team then s
    else
      match faultOf a.tensor a.kind.writes a.bads with
      | none => s
      | some f =>
        let f := { f with slot := .m }
        if f.code == .tileNotPresent then
          let a' := { a with todo := a.todo.filter (fun u => !f.lanes.getLsbD u.lane), bads := [] }
          let s := { s with accesses := Tab.set s.accesses id a' }
          lateFault (if a'.todo.isEmpty then completeAccess s id a' else s) a f
        else
          let all := a.todo.map MUnit.lane ++ a.bads.map LaneBad.lane
          lateFault (completeAccess s id a) a { f with lanes := maskOf all.eraseDups }

/-- The accesses of which that is so. -/
def settleFaults (s : State) : State :=
  ((s.accesses.filter (fun e => !e.2.bads.isEmpty)).map Prod.fst).foldl settleFault s

/-- Before a save or a move: the walks of some teams' accesses end, and faults that they show are taken. -/
def settleTeams (s : State) (teams : List Nat) : State := settleFaults (finishWalks s teams)

/-- The return from a deferred fault (R180): the path replays the faulting slot for the lanes that
faulted; a fault of the whole bundle lets the bundle issue again. -/
def replayDeferred (s : State) (t : Nat) : State :=
  s.modTeam t (fun tm =>
    match tm.deferred, tm.deferredAt with
    | some f, some (p, pc) =>
      let back (pa : Path) : Path :=
        if f.slot == .none then { pa with pc := pc, deferReplay := true }
        else { pa.replayAt f.slot f.lanes pc with deferReplay := true }
      { tm.modPath p back with deferred := none, deferredAt := none }
    | _, _ => tm)

/-- The return from a parked fault (R128, R239): the path replays its memory slot. -/
def replayParked (s : State) (t p : Nat) : State :=
  s.modPath t p (fun pa => { pa with parked := false, stall := 1 })

/-! ### Running a slot -/

/-- A slot of the issuing bundle has faulted: the fault is taken, or noted while other slots of the
bundle are still to run (R244, R328). -/
def raise (s : State) (c : Ctx) (slot : Slot) (f : FaultInfo) : State :=
  let f := { f with slot := slot, lanes := if f.lanes == 0#1024 then c.lanes else f.lanes }
  match s.issue with
  | some i =>
    if i.collect then { s with issue := some { i with faults := i.faults ++ [f] } }
    else
      let s := takeFault s c.t c.p c.pc f
      { s with issue := some { i with faults := [f] } }
  | none => s

/-- A slot's meaning: its effect on the state, or the fault that it raises. -/
def runSlot (s : State) (slot : Slot) (f : Ctx → Except FaultInfo State) :
    Host.Outcome State Fault Refusal :=
  match ctxOf s with
  | none => .fault .noIssuingPath
  | some c =>
    match f c with
    | .ok s' => .next s'
    | .error e => .next (raise s c slot e)

/-- A control slot acts when its guard holds (R226). -/
def runControl (s : State) (f : Ctx → Except FaultInfo State) : Host.Outcome State Fault Refusal :=
  runSlot s .c (fun c => if c.controlGuard then f c else .ok s)

end Sys2Proof.Machine
end

