-- ==== Sys2Proof/Machine/Branch.lean ====
section
/-! DEFINITION. Branches (R449-R451). The path's next bundle is the target, or the bundle after. -/

namespace Sys2Proof.Machine

open Sys2Proof

/-- An address moved by a signed number of bundles, modulo 2^64. -/
def bundleAt (pc : Nat) (off : Int) : Nat := (((pc : Int) + 32 * off) % ((2 ^ 64 : Nat) : Int)).toNat

/-- The path's next bundle. -/
def goto_ (s : State) (c : Ctx) (pc : Nat) : State := s.modPath c.t c.p (fun pa => { pa with pc := pc })

/-- A relative branch (R449). -/
def branchRun (s : State) (c : Ctx) (off : BitVec 20) (taken : Bool) : State :=
  goto_ s c (bundleAt c.pc (if taken then off.toInt else 1))

/-- The active lanes of the path in which a predicate holds, at the bundle's first pass (R446). -/
def Ctx.predLanes (c : Ctx) (k : Nat) (neg : Bool) : Mask :=
  maskOf ((maskLanes c.pa.active).filter (fun l => readP c.tm c.fr c.cyc k l != neg))

/-- The bundle is not issued: its path keeps it as its PC and waits (R447). -/
def holdPath (s : State) (c : Ctx) (reason : Nat) : State :=
  s.modPath c.t c.p (fun pa => { pa with pc := c.pc, stall := reason })

/-- BR (R449). -/
def execBr (off : BitVec 20) (s : State) : Host.Outcome State Fault Refusal :=
  runControl s (fun c => .ok (branchRun s c off true))

/-- BRP (R449). -/
def execBrp (k : BitVec 4) (off : BitVec 20) (s : State) : Host.Outcome State Fault Refusal :=
  runControl s (fun c => .ok (branchRun s c off (c.predLanes k.toNat false != 0#1024)).bump)

/-- BRS (R449). -/
def execBrs (k : BitVec 4) (off : BitVec 20) (s : State) : Host.Outcome State Fault Refusal :=
  runControl s (fun c => .ok (branchRun s c off (c.sreg k.toNat != 0)).bump)

/-- A flag is set now. -/
def flagIsSet (tm : Team) (k : Nat) : Bool := tm.flagSet.getLsbD k

/-- BRF (R449): a flag found set has been observed (R233). -/
def execBrf (k : BitVec 4) (off : BitVec 20) (s : State) : Host.Outcome State Fault Refusal :=
  runControl s (fun c =>
    let set := flagIsSet (s.team c.t) k.toNat
    let s := if set then (s.modTeam c.t (fun tm => observeFlag tm s.free k.toNat)).bump else s
    .ok (branchRun s c off set))

/-- BRM (R449). -/
def execBrm (off : BitVec 20) (s : State) : Host.Outcome State Fault Refusal :=
  runControl s (fun c => .ok (branchRun s c off (c.pa.active == 0#1024)))

/-- CALL (R451). -/
def execCall (k : BitVec 4) (off : BitVec 20) (s : State) : Host.Outcome State Fault Refusal :=
  runControl s (fun c =>
    let back : Word64 := BitVec.ofNat 64 (c.pc + 32)
    .ok (branchRun (s.land c.t [sResult c (112 + k.toNat) 2 back]) c off true))

/-- An indirect branch: a target off the bundle grid is an illegal operand (R451). -/
def indirect (s : State) (c : Ctx) (target : Nat) : Except FaultInfo State :=
  if target % 32 != 0 then .error (flt .illegalOperand) else .ok (goto_ s c target).bump

/-- RET (R451). -/
def execRet (a : BitVec 7) (s : State) : Host.Outcome State Fault Refusal :=
  runControl s (fun c => indirect s c (c.sreg a.toNat))

/-- JMPI (R451). -/
def execJmpi (a b : BitVec 7) (s : State) : Host.Outcome State Fault Refusal :=
  runControl s (fun c => indirect s c ((c.sreg a.toNat + 32 * c.sreg b.toNat) % 2 ^ 64))

/-- LOOP (R450): a counter of 0 is neither written nor followed. -/
def execLoop (k : BitVec 4) (off : BitVec 20) (s : State) : Host.Outcome State Fault Refusal :=
  runControl s (fun c =>
    let x := c.sreg k.toNat
    let s := if x == 0 then s
      else s.land c.t [sResult c k.toNat 2 (BitVec.ofNat 64 (x - 1))]
    .ok (branchRun s c off (decide (1 < x))).bump)

end Sys2Proof.Machine
end

