-- ==== Sys2Proof/Machine/Mask.lean ====
section
/-! DEFINITION. The mask stack (R235, R452). -/

namespace Sys2Proof.Machine

open Sys2Proof

/-- The mask below the top: the next entry, or the base mask (R452). -/
def Path.parentMask (pa : Path) : Mask := (pa.stack.drop 1).headD pa.base

/-- The top of the stack replaced. -/
def Path.setTop (pa : Path) (m : Mask) : Path := { pa with stack := m :: pa.stack.drop 1 }

/-- The lanes of a mask in which a predicate holds, at the bundle's first pass (R446, R452). -/
def Ctx.maskWith (c : Ctx) (m : Mask) (k : Nat) (neg : Bool) : Mask :=
  maskOf ((maskLanes m).filter (fun l => readP c.tm c.fr c.cyc k l != neg))

/-- A change of the stack that needs an entry: an empty one raises MSTACK_UNF (R452). -/
def stackRun (s : State) (g : Ctx → Path → Path) : Host.Outcome State Fault Refusal :=
  runControl s (fun c =>
    if c.pa.stack.isEmpty then .error (flt .mstackUnf) else .ok (s.modPath c.t c.p (g c)))

/-- PUSHM (R452): the 65th entry raises MSTACK_OVF (R235). -/
def execPushm (p : BitVec 4) (neg : Bool) (s : State) : Host.Outcome State Fault Refusal :=
  runControl s (fun c =>
    if 64 ≤ c.pa.stack.length then .error (flt .mstackOvf)
    else
      let m := c.maskWith c.pa.active p.toNat neg
      .ok (s.modPath c.t c.p (fun pa => { pa with stack := m :: pa.stack })).bump)

/-- INVM (R452). -/
def execInvm (s : State) : Host.Outcome State Fault Refusal :=
  stackRun s (fun _ pa => pa.setTop (pa.parentMask &&& ~~~pa.active))

/-- POPM (R452). Merging at the mark comes before the bundle issues (R239). -/
def execPopm (s : State) : Host.Outcome State Fault Refusal :=
  stackRun s (fun _ pa => { pa with stack := pa.stack.drop 1 })

/-- SETM (R452). -/
def execSetm (p : BitVec 4) (neg : Bool) (s : State) : Host.Outcome State Fault Refusal :=
  stackRun s (fun c pa => pa.setTop (c.maskWith pa.parentMask p.toNat neg))

end Sys2Proof.Machine
end

