-- ==== Sys2Proof/Machine/Teams.lean ====
section
/-! DEFINITION. What the teams of a core and of a crew share: contexts and standby places (R151-R153),
the sash (R243), barriers (R462), merging of paths (R237-R239) and the retirement of a team (R137). -/

namespace Sys2Proof.Machine

open Sys2Proof

/-! ### Contexts (R151-R153) -/

/-- Rows that a team holds: N × W/32. -/
def Team.rows (tm : Team) : Nat := tm.nregs * tm.words

/-- The teams that are on a core. -/
def teamsOnCore (s : State) (core : Nat) : List (Nat × Team) :=
  s.teams.filter (fun e => !e.2.retired && e.2.residence != .saved && (s.crew e.2.crew).core == core)

/-- The context that a team holds, or moves into. -/
def Team.ctx (tm : Team) : Option Nat :=
  match tm.residence with
  | .active c => some c
  | .exchanging _ i => i
  | _ => none

def freeContexts (s : State) (core : Nat) : List Nat :=
  let used := (teamsOnCore s core).filterMap (fun e => e.2.ctx)
  (List.range 8).filter (fun c => !used.contains c)

/-- Fast rows in use on a core. -/
def fastRows (s : State) (core : Nat) : Nat :=
  ((teamsOnCore s core).filter (fun e => e.2.ctx.isSome)).foldl (fun n e => n + e.2.rows) 0

/-- A context and fast rows for a team. -/
def contextFor (s : State) (core : Nat) (tm : Team) : Option Nat :=
  if fastRows s core + tm.rows ≤ 4096 then (freeContexts s core).head? else none

/-- Cycles of a move between the stores (R153). -/
def moveCycles (tm : Team) : Nat := ceilDiv (tm.nregs * tm.words * 32) 64

/-- The head of the standby queue moves in while it fits (R152). -/
def fillContexts (s : State) (core : Nat) : Nat → State
  | 0 => s
  | fuel + 1 =>
    match (s.core core).standby with
    | [] => s
    | t :: rest =>
      let tm := s.team t
      match tm.residence, contextFor s core tm with
      | .standby, some c =>
        let s := s.modCore core (fun co => { co with standby := rest })
        fillContexts (s.setTeam t { tm with residence := .exchanging (s.now + moveCycles tm) (some c) })
          core fuel
      | _, _ => s

/-- The move of a team out of its context has ended. -/
def movedOut (s : State) (tm : Team) : Bool :=
  match tm.residence with
  | .exchanging u none => decide (u ≤ s.now)
  | _ => false

/-- Moves that have ended (R153): a team that has moved out joins the tail of the standby queue, unless its crew is
leaving the core (R157). -/
def settleMoves (s : State) : State :=
  let settle (tm : Team) : Team :=
    match tm.residence with
    | .exchanging u (some c) => if u ≤ s.now then { tm with residence := .active c } else tm
    | .exchanging u none => if u ≤ s.now then { tm with residence := .standby } else tm
    | _ => tm
  let out := s.teams.filter (fun e => movedOut s e.2 && (s.crew e.2.crew).moving.isNone)
  out.foldl (fun s e => s.modCore (s.crew e.2.crew).core (fun co => { co with standby := co.standby ++ [e.1] }))
    { s with teams := s.teams.map (fun e => (e.1, settle e.2)) }

/-! ### The sash (R243) -/

/-- The live team of a crew with an index. -/
def teamAt (s : State) (cr : Crew) (tix : Nat) : Option Nat :=
  cr.teams.find? (fun t => (s.team t).tix == tix && !(s.team t).retired)

/-- Teams that a crew was launched with: TEAMSM1 + 1. -/
def teamCount (s : State) (cr : Crew) : Nat := (s.task cr.task).teamsPerCrew

/-- The first live index from one on, in ring order; the index itself when no team is live. -/
def ringNext (s : State) (cr : Crew) (tix : Nat) : Nat :=
  let n := teamCount s cr
  ((List.range n).map (fun i => (tix + i) % n)).find? (fun x => (teamAt s cr x).isSome) |>.getD tix

/-- The sash goes to an index, or to the next live team after it. -/
def passSash (s : State) (c tix : Nat) : State :=
  s.modCrew c (fun cr => { cr with sash := ringNext s cr tix, sashFrom := s.now + 1 })

/-! ### Merging (R237-R239) -/

/-- Stacks aligned at the bottom: the shorter repeats its current mask (R238). Top first. -/
def extendStack (pa : Path) (depth : Nat) : List Mask :=
  List.replicate (depth - pa.stack.length) pa.active ++ pa.stack

/-- Masks joined entry by entry. -/
def orMasks (l k : List Mask) : List Mask := List.zipWith (· ||| ·) l k

/-- Lanes given back to a base mask and to every entry of a stack (R237). -/
def Path.give (pa : Path) (m : Mask) : Path :=
  { pa with base := pa.base ||| m, stack := pa.stack.map (fun x => x ||| m) }

/-- Two paths at one merge point, at one depth, become the first (R239). -/
def Path.mergeWith (pa qa : Path) : Path :=
  { pa with base := pa.base ||| qa.base, stack := orMasks pa.stack qa.stack, mine := pa.mine ++ qa.mine }

/-- The debugger holds a path: a merge waits for it (R269). -/
def Path.isHeld (pa : Path) : Bool := pa.held || pa.stepHeld

/-- The paths of a team other than one. -/
def otherPaths (tm : Team) (p : Nat) : List (Nat × Path) := tm.paths.filter (fun e => e.1 != p)

/-- The paths of a team merge into one, at a BAR (R238). -/
def mergeAll (tm : Team) (p : Nat) : Team :=
  let depth := tm.paths.foldl (fun n e => max n e.2.stack.length) 0
  let pa := tm.path p
  let start : Mask × List Mask := (pa.base, extendStack pa depth)
  let all := (otherPaths tm p).foldl (fun (a : Mask × List Mask) e =>
    (a.1 ||| e.2.base, orMasks a.2 (extendStack e.2 depth))) start
  { tm with paths := [(p, { pa with kind := .root, base := all.1, stack := all.2, mergeAt := none
                                    mine := tm.paths.flatMap (fun e => e.2.mine) })] }

/-! ### Barriers (R462) -/

/-- Live teams of a crew. -/
def liveTeams (s : State) (cr : Crew) : List Nat := cr.teams.filter (fun t => !(s.team t).retired)

def Crew.bar (cr : Crew) (b : Nat) : Barrier := Tab.get cr.bars b {}

/-- Arrivals that complete a barrier. -/
def barTarget (s : State) (cr : Crew) (bar : Barrier) : Nat :=
  if bar.target == 0 then (liveTeams s cr).length else bar.target

/-- A complete BAR releases the earlier accesses of its participants at CREW scope (R203). -/
def releaseBar (s : State) (c : Nat) (tixs : List Nat) : State :=
  let ts := tixs.filterMap (teamAt s (s.crew c))
  let mark (a : Access) : Access :=
    if ts.contains a.team && a.kind != .readOnly && a.engine.isNone then
      { a with released := { scope := 1, by_ := placeOf s a.team, upto := s.nextId } :: a.released } else a
  { s with accesses := s.accesses.map (fun (e : Nat × Access) => (e.1, mark e.2)) }.modCrew c (fun cr => ts.foldl Crew.releaseLate cr)

/-- A barrier that its arrivals complete: every arrived team may issue its BAR bundle (R462). -/
def completeBar (s : State) (c b : Nat) : State :=
  let cr := s.crew c
  let bar := cr.bar b
  if bar.arrived.isEmpty || bar.arrived.length < barTarget s cr bar then s
  else
    let open_ (pa : Path) : Path := if pa.atBar then { pa with barPass := true, atBar := false } else pa
    let free (s : State) (tix : Nat) : State :=
      match teamAt s cr tix with
      | some t => s.modTeam t (fun tm => { tm with paths := tm.paths.map (fun e => (e.1, open_ e.2)) })
      | none => s
    bar.arrived.foldl free (releaseBar (s.setCrew c { cr with bars := Tab.set cr.bars b {} }) c bar.arrived)

def completeBars (s : State) (c : Nat) : State := (List.range 16).foldl (fun s b => completeBar s c b) s

/-! ### Retirement (R137) -/

/-- A team's last path has ended: its context, rows and place are free, the sash goes on, and barriers
count one team less. -/
def retireTeam (s : State) (t : Nat) : State :=
  let tm := s.team t
  let cr := s.crew tm.crew
  let s := s.setTeam t { tm with retired := true, residence := .standby }
  let s := if cr.sash == tm.tix then passSash s tm.crew (tm.tix + 1) else s
  let s := completeBars s tm.crew
  let s := s.modCore cr.core (fun co => { co with standby := co.standby.filter (· != t) })
  fillContexts s cr.core 64

end Sys2Proof.Machine
end

