-- ==== Sys2Proof/Machine/Paths.lean ====
section
/-! DEFINITION. Paths: SPLIT, JOIN, EXIT, REGROUP (R236-R242, R453-R456), and what happens at a
reconvergence mark before its bundle issues (R239). -/

namespace Sys2Proof.Machine

open Sys2Proof

/-! ### Reconvergence marks (R238, R239) -/

/-- The paths that a path's merge point waits for. -/
def returning (tm : Team) (p : Nat) : List (Nat × Path) :=
  (otherPaths tm p).filter (fun e => e.2.returns && e.2.parent == p)

/-- A parked path at a mark (R239): it waits for the merge point to be recorded, arrives there, or
becomes a detached path. The second part tells whether the bundle may issue. -/
def markReturning (tm : Team) (p pc : Nat) : Team × Bool :=
  let pa := tm.path p
  match pa.mergeAt with
  | none => (tm.setPath p { pa with stall := 11 }, false)
  | some m =>
    if m == (pc, pa.stack.length) then (tm.setPath p { pa with arrived := true, stall := 11 }, false)
    else (tm.setPath p { pa with kind := .detached, mergeAt := none, arrived := false }, true)

/-- Paths whose parent has merged into another path take that one as their parent. -/
def takeOver (paths : Tab Path) (gone : List (Nat × Path)) (p : Nat) : Tab Path :=
  let move (x : Path) : Path := if x.kind != .root && gone.any (fun k => k.1 == x.parent) then { x with parent := p } else x
  (paths.filter (fun e => !gone.any (fun k => k.1 == e.1))).map (fun e => (e.1, if e.1 == p then e.2 else move e.2))

/-- A path at a mark, as the parent of parked paths (R239): it records the merge point, waits, and
merges when all of them have arrived. -/
def markParent (tm : Team) (p pc : Nat) : Team × Bool :=
  let pa := tm.path p
  let kids := returning tm p
  let record (e : Nat × Path) : Nat × Path :=
    if e.2.returns && e.2.parent == p && e.1 != p && e.2.mergeAt.isNone then
      (e.1, { e.2 with mergeAt := some (pc, pa.stack.length) })
    else e
  if kids.isEmpty then (tm, true)
  else if kids.all (fun e => e.2.arrived && !e.2.isHeld) then
    let merged := kids.foldl (fun (x : Path) e => x.mergeWith e.2) pa
    (({ tm with paths := takeOver tm.paths kids p }).setPath p merged, true)
  else
    let tm := { tm with paths := tm.paths.map record }
    (tm.modPath p (fun x => { x with stall := 11 }), false)

/-- What a path does when it becomes ready to issue a bundle that is a mark: the paths that return to it come first, and
then it returns to its own parent (R239, R272). -/
def reachMark (s : State) (t p pc : Nat) : State × Bool :=
  let tm := s.team t
  let q := markParent tm p pc
  let s' := (List.range (tm.paths.length - q.1.paths.length)).foldl (fun s _ => tracePath s t p .pathMerged 0)
    (s.setTeam t q.1)
  if !q.2 || !(q.1.path p).returns then (s', q.2)
  else
    let r := markReturning q.1 p pc
    (s'.setTeam t r.1, r.2)

/-! ### SPLIT and JOIN -/

/-- SPLIT (R237, R453): the lanes in which the predicate holds leave for a new path. -/
def execSplit (k : BitVec 4) (off : BitVec 20) (s : State) : Host.Outcome State Fault Refusal :=
  runControl s (fun c =>
    let m := c.predLanes k.toNat false
    let tm := s.team c.t
    let pa := tm.path c.p
    let here : Path := { pa with pc := bundleAt c.pc 1 }
    if m == 0#1024 then .ok (s.setTeam c.t (tm.setPath c.p here)).bump
    else
      match tm.freePath with
      | none => .error (flt .pathFull)
      | some q =>
        let child : Path := { kind := .split, parent := c.p, base := m, pc := bundleAt c.pc off.toInt
                              readyAt := pa.readyAt, mine := pa.mine }
        let tm := (tm.setPath c.p (here.without m)).setPath q child
        .ok (tracePath (s.setTeam c.t tm) c.t q .pathCreated 1).bump)

/-- The children that a JOIN of the path waits for (R454). -/
def joinKids (tm : Team) (p : Nat) : List (Nat × Path) :=
  (otherPaths tm p).filter (fun e => (e.2.kind == .split || e.2.kind == .detached) && e.2.parent == p)

/-- Every child has arrived, and the debugger holds none of them (R269). -/
def joinReady (tm : Team) (p : Nat) : Bool := (joinKids tm p).all (fun e => e.2.arrived && !e.2.isHeld)

/-- JOIN (R454). -/
def execJoin (s : State) : Host.Outcome State Fault Refusal :=
  runControl s (fun c =>
    let tm := s.team c.t
    let pa := tm.path c.p
    let kids := joinKids tm c.p
    if !joinReady tm c.p then .ok (holdPath s c 11)
    else
      let lanes := kids.foldl (fun (m : Mask) e => m ||| e.2.base) 0#1024
      let child := pa.kind == .split || pa.kind == .detached
      let merged := { pa.give lanes with
        pc := bundleAt c.pc 1, arrived := child, stall := if child then 11 else pa.stall
        mine := kids.foldl (fun (l : List Nat) e => l ++ e.2.mine) pa.mine }
      let s := s.setTeam c.t (({ tm with paths := takeOver tm.paths kids c.p }).setPath c.p merged)
      .ok (kids.foldl (fun s _ => tracePath s c.t c.p .pathMerged 0) s))

/-! ### EXIT -/

/-- The children of an exiting path take its parent, or become root paths (R455). -/
def adopt (tm : Team) (p : Nat) : Team :=
  let pa := tm.path p
  let move (x : Path) : Path :=
    if x.kind == .root || x.parent != p then x
    else if pa.kind == .root then { x with kind := .root, parent := 0, arrived := false }
    else { x with parent := pa.parent }
  { tm with paths := tm.paths.map (fun e => (e.1, if e.1 == p then e.2 else move e.2)) }

/-- EXIT (R455, R137). When another slot of its bundle has faulted, the path keeps the slot to execute
it after the replay of that one (R239, R244). -/
def execExit (s : State) : Host.Outcome State Fault Refusal :=
  runControl s (fun c =>
    let faulted := match s.issue with | some i => !i.faults.isEmpty | none => false
    if faulted then
      .ok (s.modPath c.t c.p (fun pa =>
        { pa with pc := c.pc, replay := some .c, rmask := pa.active, after := bundleAt c.pc 1 }))
    else
      let tm := adopt (s.team c.t) c.p
      let tm := { tm with paths := Tab.erase tm.paths c.p }
      let s := s.setTeam c.t tm
      .ok (if tm.paths.isEmpty then retireTeam s c.t else s))

/-! ### REGROUP (R242, R456) -/

/-- The eight range words. -/
def regroupRanges (c : Ctx) (a : Nat) : List Nat :=
  (List.range 8).map (fun i => fld (c.sreg (a + i / 2)) (32 * (i % 2)) 32)

/-- The registers listed, each once. -/
def regroupRegs (rs : List Nat) : List Nat :=
  (rs.flatMap (fun r => (List.range (fld r 11 11)).map (fun i => fld r 0 11 + i))).eraseDups

/-- Lane j takes what a function reads in the j-th of some lanes. -/
def compact {α : Type} (from_ : List Nat) (read : Nat → α) : List (Nat × α) :=
  (List.range from_.length).map (fun j => (j, read (from_.getD j 0)))

/-- Where a lane's values go: its place among the kept lanes; a lane that is not kept has none below the team's. -/
def laneTo (from_ : List Nat) (l : Nat) : Nat := if from_.contains l then from_.idxOf l else 1024 + l

/-- A pending result at a REGROUP (log 89). One of a fixed latency does not land in a lane that has received another
lane's values; one that names a flag follows its lane (R233, R242). -/
def regroupPending (from_ : List Nat) (e : PendRes) : PendRes :=
  let stays (l : Nat) : Bool := from_.length ≤ l || from_.getD l l == l
  let lanes (e : PendRes) : PendRes :=
    if e.flag.isNone then { e with vals := e.vals.filter (fun v => stays v.1) }
    else
      let vals := (e.vals.map (fun v => (laneTo from_ v.1, v.2))).filter (fun v => decide (v.1 < 1024))
      { e with vals := vals, word := (vals.headD (32 * e.word, 0#64)).1 / 32 }
  match e.dest with
  | .vreg _ | .vpair _ | .pred _ => lanes e
  | _ => e

/-- The accesses of a team that a REGROUP leaves in flight follow their lanes (log 89). -/
def regroupAccess (t : Nat) (from_ : List Nat) (a : Access) : Access :=
  let move (u : MUnit) : MUnit := { u with lane := laneTo from_ u.lane }
  let toV := match a.dest with | some (_, false) => true | _ => false
  if a.team == t && toV then
    { a with todo := a.todo.map move, got := a.got.map move
             bads := (a.bads.map (fun b => { b with lane := laneTo from_ b.lane })).filter (fun b => decide (b.lane < 1024)) }
  else a

/-- The team with the active lanes at the low places: listed registers, predicates and WIDs move; the
other registers of a lane that received another lane's values are undefined (log 5). -/
def regroupTeam (c : Ctx) (tm : Team) (regs : List Nat) : Team :=
  let from_ := maskLanes c.pa.active
  let moved := (List.range from_.length).filter (fun j => from_.getD j 0 != j)
  let row (r : Nat) : Tab Word32 :=
    if regs.contains r then
      Tab.setAll (Tab.get tm.vregs r []) (compact from_ (fun l => BitVec.ofNat 32 (readV c.tm c.fr c.cyc r l)))
    else Tab.setAll (Tab.get tm.vregs r []) (moved.map (fun j => (j, Config.freeWord c.fr r j)))
  let pred (k : Nat) : Mask :=
    maskOf (((compact from_ (fun l => readP c.tm c.fr c.cyc k l)).filter (fun q => q.2)).map Prod.fst)
  let wids := compact from_ (fun l => Tab.get tm.wids l 0#64)
  { tm with vregs := (List.range tm.nregs).map (fun r => (r, row r))
            preds := (List.range 15).map (fun k => (k + 1, pred (k + 1)))
            wids := Tab.setAll tm.wids wids
            pending := tm.pending.map (regroupPending from_) }

/-- REGROUP (R242, R456). -/
def execRegroup (d a : BitVec 7) (s : State) : Host.Outcome State Fault Refusal :=
  runControl s (fun c =>
    let rs := regroupRanges c a.toNat
    let regs := regroupRegs rs
    let n := (maskLanes c.pa.active).length
    let tm := s.team c.t
    if rs.any (fun r => fld r 22 10 != 0) then .error (flt .illegalOperand)
    else if rs.any (fun r => fld r 11 11 != 0 && decide (tm.nregs < fld r 0 11 + fld r 11 11)) then
      .error (flt .regBounds)
    else if tm.paths.length != 1 || !c.pa.stack.isEmpty then .error (flt .illegalOperand)
    else
      let tm := regroupTeam c tm regs
      let back (pa : Path) : Path :=
        { pa with base := maskUpTo n, keep := [], stall := 1
                  readyAt := max pa.readyAt (c.cyc + 2 + regs.length * tm.words) }
      let from_ := maskLanes c.pa.active
      let s := { s with accesses := s.accesses.map (fun (e : Nat × Access) => (e.1, regroupAccess c.t from_ e.2)) }
      let s := s.setTeam c.t (tm.modPath c.p back)
      .ok (s.land c.t [sResult c d.toNat 2 (BitVec.ofNat 64 n)]).bump)

end Sys2Proof.Machine
end

