-- ==== Sys2Proof/Machine/Stops.lean ====
section
/-! DEFINITION. Debug stops and their records (R264, R267-R270). -/

namespace Sys2Proof.Machine

open Sys2Proof

/-- Do breakpoints, watchpoints and marks act in a task: it was launched with DEBUG, and its VF holds a
lease, which the PF does not need (R264, R267)? -/
def debugEnabled (s : State) (k : Task) : Bool :=
  k.debug && (k.fn == pfFn || (s.func k.fn).dbgLease)

/-- DBGCTL bits (R265). -/
def Func.allStop (f : Func) : Bool := f.dbgCtl.getLsbD 0
def Func.bpEn (f : Func) : Bool := f.dbgCtl.getLsbD 1
def Func.wpEn (f : Func) : Bool := f.dbgCtl.getLsbD 2
def Func.stopIrq (f : Func) : Bool := f.dbgCtl.getLsbD 3

/-! ### Records (R270) -/

/-- The 128 bits of a stop record (R270). -/
def stopWord (slot tix p code idx crew pc : Nat) : BitVec 128 :=
  BitVec.ofNat 128 (slot % 64 + 2 ^ 6 * (tix % 16) + 2 ^ 10 * (p % 8) + 2 ^ 13 * (code % 256)
    + 2 ^ 21 * (idx % 8) + 2 ^ 32 * (crew % 2 ^ 32) + 2 ^ 64 * (pc % 2 ^ 64))

/-- A stop of a path as it stands. -/
def stopOf (s : State) (t p code idx : Nat) : Stop :=
  let tm := s.team t
  let cr := s.crew tm.crew
  let k := s.task tm.task
  { team := t, path := p, fn := k.fn, slot := k.slot, tix := tm.tix, code := code, idx := idx, crew := cr.number
    lcore := cr.lcore, taskid := k.taskid, pc := (tm.path p).pc }

/-- A stop record is written, or lost when 16 are unconsumed (R270). -/
def writeStop (s : State) (x : Stop) : State :=
  let s := traceEvent s x.fn .stop x.code
    { taskid := x.taskid, lcore := x.lcore, tix := x.tix, path := x.path, crew := x.crew, pc := x.pc }
  let f := s.func x.fn
  if 16 ≤ f.stopTail.toNat - f.stopHead.toNat then s.setFunc x.fn { f with dbgOvf := true }
  else
    let w := stopWord x.slot x.tix x.path x.code x.idx x.crew x.pc
    let s := s.setFunc x.fn { f with
      stopEv := Tab.set f.stopEv (f.stopTail.toNat % 16) w, stopTail := f.stopTail + 1#64 }
    if f.stopIrq then s.irq x.fn 3 else s

/-- The place of a stop among those of its cycle: by task slot, TIX and path. -/
def Stop.rank (x : Stop) : Nat := 128 * x.slot + 8 * x.tix + x.path

/-- A stop after those that do not rank above it. -/
def insertStop (x : Stop) : List Stop → List Stop
  | [] => [x]
  | y :: l => if x.rank < y.rank then x :: y :: l else y :: insertStop x l

/-- The records of a cycle's stops, in ascending order of task slot, TIX and path (R270). -/
def writeStops (s : State) : State :=
  (s.stops.foldl (fun l x => insertStop x l) []).foldl writeStop { s with stops := [] }

/-! ### Stops (R269) -/

/-- A path is held (R269); the stop empties its operand buffer (R229). -/
def Path.hold (pa : Path) : Path :=
  { pa with held := true, stall := if pa.heldBy.isSome then pa.stall else 24, keep := [] }

/-- The team has arrived at a barrier. -/
def hasArrived (s : State) (tm : Team) : Bool := (s.crew tm.crew).bars.any (fun b => b.2.arrived.contains tm.tix)

/-- A path is held no more. One that waits at a BAR at which its team could not arrive meanwhile takes part again (R269). -/
def Path.release (pa : Path) (arrived : Bool) : Path :=
  { pa with held := false, stepHeld := false, stepping := false, stepped := false
            stall := if pa.isHeld && pa.heldBy.isNone then 1 else pa.stall
            atBar := pa.atBar && (arrived || !pa.isHeld) }

/-- The paths that a step held go on (R273). -/
def endStep (s : State) (t : Nat) : State :=
  let arrived := hasArrived s (s.team t)
  let free (pa : Path) : Path :=
    if pa.held then { pa with stepHeld := false, stepping := false, stepped := false } else pa.release arrived
  s.modTeam t (fun tm => { tm with paths := tm.paths.map (fun e => (e.1, free e.2)) })

/-- A stop that holds a stepped path before its bundle issues ends the step (R271, R273; log 90). -/
def dropStep (s : State) (t : Nat) : State :=
  if (s.team t).paths.any (fun e => e.2.held && e.2.stepping) then endStep s t else s

/-- Every path of a task is held at its next bundle boundary (R269). -/
def holdTask (s : State) (k : Nat) : State :=
  let s : State := { s with teams := s.teams.map (fun e =>
      (e.1, if e.2.task == k then
          { e.2 with paths := e.2.paths.map (fun q => (q.1, q.2.hold)) } else e.2)) }
  ((s.teams.filter (fun e => e.2.task == k)).map Prod.fst).foldl dropStep s

/-- A stop of a path: it is held, its record is due, and with ALLSTOP the whole task is held. -/
def stopPath (s : State) (t p code idx : Nat) : State :=
  let k := (s.team t).task
  let s := dropStep { s.modPath t p Path.hold with stops := s.stops ++ [stopOf s t p code idx] } t
  if (s.func (s.task k).fn).allStop then holdTask s k else s

/-- A path will stop when its bundle has completed (R267, R268). -/
def stopLater (s : State) (t p code idx : Nat) : State :=
  s.modPath t p (fun pa => { pa with stopAfter := pa.stopAfter ++ [(code, idx)] })

/-- The bundle of a path is done: no slot of it is left to replay, and its fault has not stopped the task. -/
def bundleDone (s : State) (tm : Team) (p : Nat) (pa : Path) : Bool :=
  pa.replay.isNone && !pa.parked && !tm.deferredAt.any (fun d => d.1 == p)
    && (s.task tm.task).stopping.isNone && !(s.task tm.task).faulted

/-- The stops that awaited the end of a path's bundle take place. -/
def takeStops (s : State) (t p : Nat) : State :=
  match Tab.find s.teams t with
  | none => s
  | some tm =>
    match Tab.find tm.paths p with
    | none => s
    | some pa =>
      if pa.stopAfter.isEmpty || !bundleDone s tm p pa then s
      else pa.stopAfter.foldl (fun s x => stopPath s t p x.1 x.2) (s.setTeam t (tm.setPath p { pa with stopAfter := [] }))

end Sys2Proof.Machine
end

