-- ==== Sys2Proof/Machine/MemTensor.lean ====
section
/-! DEFINITION. Tensor accesses and global atomics (R388-R398): their coordinates, the checks at issue
and of every element, parking of the lanes whose tiles are absent, and the access that goes out. -/

namespace Sys2Proof

/-- Values are register pairs (R385). -/
def MFields.pair (f : MFields) : Bool := f.fmt == .int64

/-- Bits of one value: 32, or 64 under INT64 (R385). -/
def MFields.bits (f : MFields) : Nat := if f.pair then 64 else 32

def MFields.values (f : MFields) : Nat := f.cnt.toNat + 1

/-- The flag that an instruction names. -/
def MFields.flagOf (f : MFields) : Option Nat := if f.fe then some f.flag.toNat else none

end Sys2Proof

namespace Sys2Proof.Machine

open Sys2Proof

/-! ### Running a slot that faults in some lanes only -/

/-- A slot's meaning when part of it may take effect beside its fault (R122): none of it does when another
slot of the bundle faults too (R328). -/
def runSlotBoth (s : State) (slot : Slot) (f : Ctx → State × Option FaultInfo) :
    Host.Outcome State Fault Refusal :=
  match ctxOf s with
  | none => .fault .noIssuingPath
  | some c =>
    match f c with
    | (s', none) => .next s'
    | (s', some e) => .next (raise (if s.issue.any Issue.alone then s else s') c slot e)

/-! ### Operands -/

/-- One 32-bit register, or a pair, in a lane. -/
def Ctx.regVal (c : Ctx) (p : Pass) (r l : Nat) (pair : Bool) : Nat :=
  readV c.tm c.fr p.start r l + (if pair then 2 ^ 32 * readV c.tm c.fr p.start (r + 1) l else 0)

/-- Value i of the data operand in a lane; an S register is broadcast (R384, R385, R292). -/
def Ctx.dataVal (c : Ctx) (p : Pass) (f : MFields) (i l : Nat) : Nat :=
  match opd f.ds.toNat with
  | .s n => broadcastS f.fmt (readS c.tm c.fr p.start (n + i))
  | _ => c.regVal p (c.vregD f.ds.toNat + (if f.pair then 2 * i else i)) l f.pair

/-- The second value of a compare and swap: DS + 1, or DS + 2 under INT64, of either kind of register (R396). -/
def Ctx.swapVal (c : Ctx) (p : Pass) (f : MFields) (l : Nat) : Nat :=
  let k := if f.pair then 2 else 1
  match opd f.ds.toNat with
  | .s n => broadcastS f.fmt (readS c.tm c.fr p.start (n + k))
  | _ => c.regVal p (c.vregD f.ds.toNat + k) l f.pair

/-- The faults of a V or V[Sn] data operand of some registers. -/
def Ctx.dataReg (c : Ctx) (f : MFields) (regs : Nat) : Option FaultInfo :=
  match opd f.ds.toNat with
  | .v _ | .vs _ =>
    match c.vreg f.ds.toNat regs f.pair with
    | .error e => some e
    | .ok _ => none
  | _ => none

/-- A data register's tag is neither NONE nor FMT (R291, R385). -/
def Ctx.dataTagBad (c : Ctx) (f : MFields) (regs : Nat) : Bool :=
  (opd f.ds.toNat).isV && (List.range regs).any (fun i =>
    let t := readTag c.tm c.fr c.cyc (c.vregD f.ds.toNat + i)
    t != f.fmt && t != .none)

/-- Registers that hold coordinates: RANK, or the address of tensor 0 (R388). -/
def coordRegs (d : Desc) : Nat := if d.flat then 1 else d.rank

/-- The faults of the coordinate operand (R388); under INT64 its register is even (R286, R385). -/
def Ctx.coordFault (c : Ctx) (d : Desc) (f : MFields) : Option FaultInfo :=
  let tid := f.tid.toNat
  let n := coordRegs d
  match opd f.a.toNat with
  | .s k => if 128 < k + n then some (flt .regBounds) else none
  | _ =>
    match c.vreg f.a.toNat (if tid == 0 then 2 else n) (tid == 0 || f.pair) with
    | .error e => some e
    | .ok _ => none

/-- The coordinates that a lane names, before the offset (R388). -/
def Ctx.coords (c : Ctx) (p : Pass) (d : Desc) (f : MFields) (l : Nat) : List Int :=
  let tid := f.tid.toNat
  match opd f.a.toNat with
  | .s k =>
    if tid == 0 then [(readS c.tm c.fr p.start k : Int)]
    else (List.range (coordRegs d)).map (fun i => signed 32 (readS c.tm c.fr p.start (k + i)))
  | _ =>
    let r := c.vregD f.a.toNat
    if tid == 0 then [(c.regVal p r l true : Int)]
    else (List.range (coordRegs d)).map (fun i => signed 32 (readV c.tm c.fr p.start (r + i) l))

/-- Memory elements in one value (R388, R389): of a tensor without a format, bytes. -/
def elemsPerValue (d : Desc) (f : MFields) : Nat := if d.flat then 1 else f.bits / d.fmt.memBits

/-- The first element's coordinates, with OFF (R388). -/
def firstCoords (d : Desc) (f : MFields) (xs : List Int) : List Int :=
  let step : Nat := if d.flat then f.bits / 8 else elemsPerValue d f
  match xs with
  | x :: r => (x + signed 8 f.off.toNat * (step : Int)) :: r
  | [] => []

/-- Coordinates moved by k elements along dimension 0. -/
def moveX0 (xs : List Int) (k : Nat) : List Int :=
  match xs with
  | x :: r => (x + (k : Int)) :: r
  | [] => []

/-! ### Checks of a lane (R121, R122) -/

/-- What an access does beside moving data. -/
structure TensorOp where
  kind : AccessKind
  write : Bool := false
  versioned : Bool := false
  /-- lands values in DS -/
  loads : Bool := false
  /-- one unit a lane, as the global atomics have (R396) -/
  atomicUnit : Bool := false
  /-- a second value register (R396) -/
  two : Bool := false
  /-- a SYS scope of it is clamped (R217) -/
  clamps : Bool := false

/-- One lane's elements with their coordinates, and their faults: all of them as memory stands, and those that no walk
is still to decide. -/
structure LaneCheck where
  lane : Nat
  elems : List (List Int × Elem)
  bads : List LaneBad := []
  sure : List LaneBad := []

/-- The fault of an element. -/
def badOf (l : Nat) (e : List Int × Elem) : Option LaneBad :=
  match e.2 with
  | .fault st code a h => some ⟨l, st, code, a, h, e.1⟩
  | _ => none

/-- The alignment of the first element of a tiled access (R389, R396). -/
def firstAligned (d : Desc) (f : MFields) (op : TensorOp) (x0 : Int) : Bool :=
  let unit : Nat := if op.atomicUnit then elemsPerValue d f
    else if d.fmt == .i4x then 4 else if d.fmt.memBits == 4 then 2 else 1
  d.flat || x0 % (unit : Int) == 0

/-- Every element of a lane's run, checked (R389, R121). -/
def laneCheck (s : State) (c : Ctx) (d : Desc) (f : MFields) (op : TensorOp) (p : Pass) (l : Nat) :
    LaneCheck :=
  let req : Req := { write := op.write, versioned := op.versioned }
  let xs := firstCoords d f (c.coords p d f l)
  let n := f.bits / 8
  let run := f.values * elemsPerValue d f
  let one (k : Nat) : List Int × Elem :=
    if d.flat then
      let ys := moveX0 xs (k * n)
      (ys, checkFlat s c.tm.task f.tid.toNat req (coord ys 0) n)
    else
      let ys := moveX0 xs k
      (ys, checkTiled s c.tm.task (c.core s) d req ys l)
  let es := (List.range run).map one
  let first : Nat := match es.head? with
    | some (_, .at_ flat _ _ _) => guestOf s (s.task c.tm.task).fn flat
    | _ => 0
  let al : List LaneBad := if firstAligned d f op (coord xs 0) then [] else [⟨l, 9, .align, first, false, xs⟩]
  let idle := op.atomicUnit && es.any (fun e => e.2 == .pad)
  let open_ (e : List Int × Elem) : Bool :=
    !d.flat && !idle && (entryMiss s c.tm.task (c.core s) d req e.1 l []).isSome
  { lane := l, elems := es, bads := es.filterMap (badOf l) ++ al
    sure := (es.filter (fun e => !open_ e)).filterMap (badOf l) ++ al }

/-- The whole access's fault (R122), as memory stands. -/
def accessFault (tid : Nat) (write : Bool) (lanes : List LaneCheck) : Option FaultInfo :=
  faultOf tid write (lanes.flatMap LaneCheck.bads)

/-! ### Units -/

/-- An element in its bytes, for which alone single-copy atomicity holds in HOST and REMOTE memory (R190). -/
def MUnit.inBytes (u : MUnit) : List MUnit :=
  if u.bits ≤ 8 then [u]
  else (List.range (u.bits / 8)).map (fun b =>
    { u with bits := 8, elem := u.elem * (u.bits / 8) + b, off := u.off + b
             addr := u.addr.map (· + b), val := BitVec.ofNat 64 (fld u.val.toNat (8 * b) 8) })

/-- Only the byte is single-copy atomic in what the access touches (R190). -/
def bytewise (s : State) (c : Ctx) (d : Desc) (op : TensorOp) : Bool :=
  (d.host || d.remote || (c.tk s).fn == pfFn) && (match op.kind with | .load | .store | .readOnly => true | _ => false)

/-! ### Regions (R196-R198) -/

/-- SOBA of a region entry. -/
def regionSoba (b : List Byte) : Nat := fieldAt b 8 8

/-- Does a region bind an access of a tensor at coordinates (R198)? -/
def regionBinds (d : Desc) (b : List Byte) (tid : Nat) (xs : List Int) : Bool :=
  let lo (i : Nat) : Int := signed 32 (fieldAt b (0x10 + 4 * i) 4)
  let hi (i : Nat) : Int := signed 32 (fieldAt b (0x24 + 4 * i) 4)
  fieldAt b 0 1 == tid &&
    (!bitAt (fieldAt b 1 1) 0 ||
      (if tid == 0 then
        decide ((fieldAt b 0x10 8 : Int) ≤ coord xs 0) && decide (coord xs 0 < (fieldAt b 0x24 8 : Int))
      else (List.range d.rank).all (fun i => decide (lo i ≤ coord xs i) && decide (coord xs i < hi i))))

/-- The coordinates that an element of a tensor names: of a flat one, those of its bytes. -/
def elemCoords (d : Desc) (bits : Nat) (xs : List Int) : List (List Int) :=
  if d.flat then (List.range (bits / 8)).map (moveX0 xs) else [xs]

/-- The SOBs to whose regions an element of an access is bound. -/
def boundSobs (k : Task) (d : Desc) (tid bits : Nat) (xs : List Int) : List Nat :=
  ((k.regions.filter (fun b => (elemCoords d bits xs).any (regionBinds d b tid))).map regionSoba).eraseDups

/-- The units of a lane: what each element of its values does. One whose entry is not at hand says where in
its tile it lies (R117). -/
def laneUnits (s : State) (c : Ctx) (d : Desc) (f : MFields) (op : TensorOp) (p : Pass) (q : LaneCheck) : List MUnit :=
  let per := elemsPerValue d f
  let bits := if d.flat then f.bits else d.fmt.memBits
  let none_ := op.atomicUnit && q.elems.any (fun e => e.2 == .pad)
  let req : Req := { write := op.write, versioned := op.versioned }
  let us := (List.range q.elems.length).filterMap (fun k =>
    let i := k / per
    let e := k % per
    let u : MUnit :=
      { lane := q.lane, idx := i, elem := e, bits := bits
        val := BitVec.ofNat 64 (if op.write then fld (c.dataVal p f i q.lane) (bits * e) bits else 0)
        val2 := BitVec.ofNat 64 (if op.two then fld (c.swapVal p f q.lane) (bits * e) bits else 0) }
    let pad : MUnit := { u with val := BitVec.ofNat 64 (padElem d bits) }
    match q.elems[k]? with
    | some (xs, .at_ flat hi en miss) =>
      let sobs := if op.write then boundSobs (c.tk s) d f.tid.toNat bits xs else []
      let at_ : MUnit := { u with addr := some flat, hi := hi, sobs := sobs }
      some (if none_ then pad
        else if miss then { at_ with entry := en, off := (tileOffset d xs).1 } else at_)
    | some (_, .pad) => if op.loads then some pad else none
    | some (xs, .fault _ _ _ _) =>
      (entryMiss s c.tm.task (c.core s) d req xs q.lane []).map (fun en =>
        let o := tileOffset d xs
        { u with hi := o.2, entry := some en, off := o.1
                 sobs := if op.write then boundSobs (c.tk s) d f.tid.toNat bits xs else [] })
    | none => none)
  let us := if bytewise s c d op then us.flatMap MUnit.inBytes else us
  if op.kind == .store then us.map (byteNow s (c.tk s)) else us

/-! ### Watchpoints (R268) -/

/-- Does an armed watchpoint match an access: its task, its tensor, the kind of access, and the in-bounds
coordinates of a lane? -/
def watchHits (k : Task) (d : Desc) (tid : Nat) (reads writes : Bool) (xss : List (List Int))
    (w : Nat → Nat) : Bool :=
  let ctl := w 0
  let at_ (off i : Nat) : Int := signed 32 (fld (w ((off + 4 * i) / 8)) (32 * ((off + 4 * i) / 4 % 2)) 32)
  let flat64 (off : Nat) : Int :=
    ((fld (w (off / 8)) (32 * (off / 4 % 2)) 32 + 2 ^ 32 * fld (w ((off + 4) / 8)) (32 * ((off + 4) / 4 % 2)) 32 : Nat) : Int)
  let inside (xs : List Int) : Bool :=
    if tid == 0 then decide (flat64 8 ≤ coord xs 0) && decide (coord xs 0 < flat64 0x1C)
    else (List.range (coordRegs d)).all (fun i =>
      decide (at_ 8 i ≤ coord xs i) && decide (coord xs i < at_ 0x1C i))
  bitAt ctl 0 && ((reads && bitAt ctl 1) || (writes && bitAt ctl 2))
    && (bitAt ctl 3 || fld ctl 4 6 == k.slot) && fld ctl 10 8 == tid && xss.any inside

/-- The first watchpoint that an access hits. -/
def watchpointOf (s : State) (k : Task) (d : Desc) (tid : Nat) (op : TensorOp) (xss : List (List Int)) :
    Option Nat :=
  let f := s.func k.fn
  let reads := match op.kind with | .store => false | _ => true
  if f.wpEn && debugEnabled s k then
    (List.range 4).find? (fun n =>
      watchHits k d tid reads op.write xss (fun i => (Tab.get f.wpt (8 * n + i) 0#64).toNat))
  else none

/-- The path of an access that hit a watchpoint stops before its next bundle. -/
def stopWatch (s : State) (c : Ctx) (hit : Option Nat) : State :=
  match hit with
  | some n => stopLater s c.t c.p 0x0E n
  | none => s

/-! ### Scopes -/

/-- A SYS scope acts as PART and sets SCOPE_CLAMPED when the VF's scopes are capped (R217). -/
def clampScope (s : State) (t scope : Nat) : State × Nat :=
  let fn := (s.task (s.team t).task).fn
  if scope == 5 && (s.func fn).scopeCap then
    (s.modTeam t (fun tm => { tm with status := tm.status ||| 0x100#64 }), 4)
  else (s, scope)

/-! ### The access -/

/-- An access goes out: its flag is issued, and with nothing to do it is complete at once (R386). -/
def issueAccess (s : State) (acc : Access) : State :=
  let order := pathInFlight s acc.team acc.path
  let s := flagIssue s acc.team acc.flag
  if acc.todo.isEmpty then flagDone s acc.team acc.flag
  else
    let id := s.nextId
    let s := { s with nextId := id + 1, accesses := Tab.set s.accesses id { acc with order := order } }
    s.modPath acc.team acc.path (fun pa => { pa with mine := order ++ [id] })

/-- The faults of a tensor access that come before its lanes are checked (R121, R388, R390). -/
def tensorFault (s : State) (c : Ctx) (f : MFields) (op : TensorOp) : Option FaultInfo :=
  let tid := f.tid.toNat
  let tk := c.tm.task
  let regs := f.values * (if f.pair then 2 else 1) * (if op.two then 2 else 1)
  match c.dataReg f regs with
  | some e => some e
  | none =>
    match descOf s tk tid with
    | none => some { code := .tensorInvalid, tensor := tid, addr := descAddr (s.task tk) tid }
    | some d =>
      match c.coordFault d f with
      | some e => some e
      | none =>
        if (op.write && c.dataTagBad f regs)
            || (!d.flat && d.fmt != .none && d.fmt != f.fmt) then some (flt .formatMismatch)
        else if tensorMasked s (s.task tk).fn d then some { code := .featureMasked, tensor := tid }
        else none

/-- The destination registers of an access that lands values. -/
def destOf (c : Ctx) (f : MFields) : Option (Nat × Bool) :=
  match opd f.ds.toNat with
  | .v r => some (r, false)
  | .vs n => some (c.sreg n, false)
  | .s n => some (n, true)
  | _ => none

/-- The entries of some lanes' elements that the buffer does not hold (R116, R117). -/
def lanesMiss (s : State) (c : Ctx) (d : Desc) (op : TensorOp) (lanes : List LaneCheck) : List Nat :=
  if d.flat then []
  else (lanes.flatMap (fun q => q.elems.filterMap (fun e =>
    entryMiss s c.tm.task (c.core s) d { write := op.write, versioned := op.versioned } e.1 q.lane []))).eraseDups

/-- The lanes that go out, with the access they make; those of their faults that are known wait with it for its walks. -/
def tensorAccess (s : State) (c : Ctx) (d : Desc) (f : MFields) (op : TensorOp) (bads : List LaneBad)
    (good : List (Pass × LaneCheck)) : State :=
  let tid := f.tid.toNat
  let els := good.flatMap (fun q => q.2.elems)
  let misses := lanesMiss s c d op (good.map Prod.snd)
  let entries := ((els.filterMap (fun e => match e.2 with
    | .at_ _ _ (some en) _ => some en | _ => none)) ++ misses).eraseDups
  let k := c.tk s
  let hits := (els.filterMap (fun e => match e.2 with
    | .at_ _ _ (some en) false => some en | _ => none)).eraseDups
  let w := startWalks (touchTtb s (c.core s) k.fn hits) c.tm.task c.t c.p tid misses
  let clamped := if op.clamps then clampScope w.1 c.t f.scope.toNat else (w.1, 0)
  let fenced := match op.kind with
    | .atomic _ | .combine _ => fenceAt clamped.1 c.t c.p clamped.2
    | _ => (clamped.1, [])
  let s := fenced.1
  let acc : Access :=
    { team := c.t, path := c.p, pc := c.pc, kind := op.kind, flag := f.flagOf
      dest := if op.loads then destOf c f else none, fmt := f.fmt, cnt := f.values
      todo := good.flatMap (fun q => laneUnits s c d f op q.1 q.2)
      bytewise := bytewise s c d op, tracked := !untracked d
      irrevocable := op.write && (d.host || d.remote)
      after := fenced.2
      walks := w.2, tensor := tid, entries := entries, bads := bads
      replays := s.issue.any (fun i => i.only == some .m) && c.pa.kind == .parked && !c.pa.deferReplay
      versions := if op.versioned then entries.map (fun e => flatOf s k.fn (e + 8)) else [] }
  let inside := els.filterMap (fun e => match e.2 with | .at_ _ _ _ _ => some e.1 | _ => none)
  stopWatch (issueAccess (keepDesc s c.tm.task tid) acc).bump c (watchpointOf s k d tid op inside)

/-- A fault that no walk can change: another check of the lane would have to fail at an earlier step (R121, R122). -/
def LaneBad.early (b : LaneBad) : Bool := b.code != .tileNotPresent && decide (b.step ≤ 5)

/-- A tensor access (R388-R398): the lanes that pass go out; a fault of the whole access stops it, and
lanes whose tiles are absent are raised beside the others (R122). One with a miss goes out whole, and its faults are
taken when its walks have ended, unless one stands before any that they could show (R117; log 43). -/
def tensorRun (s : State) (f : MFields) (op : TensorOp) : Host.Outcome State Fault Refusal :=
  runSlotBoth s .m (fun c =>
    if idle c.mPasses then (s, none)
    else
      match tensorFault s c f op with
      | some e => (keepDesc s c.tm.task f.tid.toNat, some e)
      | none =>
        match descOf s c.tm.task f.tid.toNat with
        | none => (s, none)
        | some d =>
          let lanes := c.mPasses.flatMap (fun p => p.lanes.map (fun l => (p, laneCheck s c d f op p l)))
          let misses := lanesMiss s c d op (lanes.map Prod.snd)
          let met := pmCount s (c.tk s).fn 0x16 misses.length
          let sure := lanes.flatMap (fun q => q.2.sure)
          if !misses.isEmpty && !sure.any LaneBad.early then (tensorAccess met c d f op sure lanes, none)
          else
            match faultOf f.tid.toNat op.write sure with
            | none => (tensorAccess met c d f op [] lanes, none)
            | some e =>
              if e.code == .tileNotPresent then
                (tensorAccess met c d f op [] (lanes.filter (fun q => q.2.sure.isEmpty)), some e)
              else (keepDesc met c.tm.task f.tid.toNat, some e))

/-! ### The instructions -/

/-- TLD (R392, R394, R395): versioned under SCOPE 1, through the read-only L1 under policy 4. -/
def execTld (f : MFields) (s : State) : Host.Outcome State Fault Refusal :=
  let versioned := f.scope.toNat == 1
  tensorRun s f { kind := if versioned then .versioned else if f.cache.toNat == 4 then .readOnly else .load
                  versioned := versioned, loads := true }

/-- TST (R392). -/
def execTst (f : MFields) (s : State) : Host.Outcome State Fault Refusal :=
  tensorRun s f { kind := .store, write := true }

/-- TRED (R393): the combining operations have the numbers of OP. -/
def execTred (f : MFields) (s : State) : Host.Outcome State Fault Refusal :=
  tensorRun s { f with off := 0#8 } { kind := .combine (f.off.toNat % 8), write := true, clamps := true }

/-- ROLD (R394). -/
def execRold (f : MFields) (s : State) : Host.Outcome State Fault Refusal :=
  tensorRun s f { kind := .readOnly, loads := true }

/-- A global atomic (R396-R398). -/
def atomicRun (s : State) (f : MFields) (op : Nat) (two : Bool) : Host.Outcome State Fault Refusal :=
  tensorRun s f { kind := .atomic op, write := true, loads := true, atomicUnit := true, two := two
                  clamps := true }

/-- AADD (R396). -/
def execAadd (f : MFields) (s : State) : Host.Outcome State Fault Refusal := atomicRun s f opAdd false

/-- AFADD (R396). -/
def execAfadd (f : MFields) (s : State) : Host.Outcome State Fault Refusal := atomicRun s f opAdd false

/-- AMIN (R396). -/
def execAmin (f : MFields) (s : State) : Host.Outcome State Fault Refusal := atomicRun s f opMin false

/-- AMAX (R396). -/
def execAmax (f : MFields) (s : State) : Host.Outcome State Fault Refusal := atomicRun s f opMax false

/-- AAND (R396). -/
def execAand (f : MFields) (s : State) : Host.Outcome State Fault Refusal := atomicRun s f opAnd false

/-- AOR (R396). -/
def execAor (f : MFields) (s : State) : Host.Outcome State Fault Refusal := atomicRun s f opOr false

/-- AXOR (R396). -/
def execAxor (f : MFields) (s : State) : Host.Outcome State Fault Refusal := atomicRun s f opXor false

/-- AXCHG (R396). -/
def execAxchg (f : MFields) (s : State) : Host.Outcome State Fault Refusal := atomicRun s f opXchg false

/-- ACAS (R396). -/
def execAcas (f : MFields) (s : State) : Host.Outcome State Fault Refusal := atomicRun s f opCas true

end Sys2Proof.Machine
end

