-- ==== Sys2Proof/Machine/MemShared.lean ====
section
/-! DEFINITION. Shared memory, accumulator windows, rings and stream ports as the memory slot reaches
them (R399-R408). -/

namespace Sys2Proof.Machine

open Sys2Proof

/-! ### Addresses and bank conflicts (R399, R230) -/

/-- The byte address of a lane (R399). -/
def Ctx.shmAddr (c : Ctx) (p : Pass) (f : MFields) (l : Nat) : Int :=
  let a : Nat := match opd f.a.toNat with
    | .s n => readS c.tm c.fr p.start n % 2 ^ 32
    | _ => readV c.tm c.fr p.start (c.vregD f.a.toNat) l
  (a : Int) + signed 8 f.off.toNat * ((f.bits / 8 : Nat) : Int)

/-- The lanes of the slot with their passes. -/
def slotLanes (ps : List Pass) : List (Pass × Nat) := ps.flatMap (fun p => p.lanes.map (fun l => (p, l)))

/-- The 4-byte words that a pass touches, each once. -/
def passWords (c : Ctx) (f : MFields) (p : Pass) : List Nat :=
  (p.lanes.flatMap (fun l =>
    let a := (c.shmAddr p f l).toNat / 4
    (List.range (f.values * (f.bits / 32))).map (fun i => a + i))).eraseDups

/-- Extra cycles of a pass: the most words in one bank, less 1 (R230). -/
def conflictCycles (words : List Nat) : Nat :=
  ((List.range 32).map (fun b => (words.filter (fun w => w % 32 == b)).length)).foldl max 0 - 1

/-- The extra cycles of every pass. -/
def bankStretch (c : Ctx) (f : MFields) (ps : List Pass) : List Nat :=
  ps.map (fun p => conflictCycles (passWords c f p))

/-- The path's next bundle slips by the total (R230). -/
def slip (s : State) (c : Ctx) (n : Nat) : State :=
  if n == 0 then s
  else s.modPath c.t c.p (fun pa => { pa with readyAt := pa.readyAt + n, stall := 7 })

/-- The faults of a shared-memory access at issue (R321, R291, R399); under INT64 A's register is even too
(R286, R385). -/
def sharedFault (s : State) (c : Ctx) (f : MFields) (reads two : Bool) (ps : List Pass) : Option FaultInfo :=
  let regs := f.values * (if f.pair then 2 else 1) * (if two then 2 else 1)
  let n := f.bits / 8
  let as := (slotLanes ps).map (fun q => (q.2, c.shmAddr q.1 f q.2))
  let size : Nat := (c.crew s).shmBytes
  match c.dataReg f regs, c.vreg f.a.toNat 1 f.pair with
  | some e, _ => some e
  | _, .error e => some e
  | none, .ok _ =>
    if reads && c.dataTagBad f regs then some (flt .formatMismatch)
    else
      match as.find? (fun q => q.2 % (n : Int) != 0) with
      | some q => some { code := .align, lane := q.1 }
      | none =>
        match as.find? (fun q => decide (q.2 < 0) || decide ((size : Int) < q.2 + ((n * f.values : Nat) : Int))) with
        | some q => some { code := .sharedBounds, lane := q.1 }
        | none => none

/-! ### SLD and SST (R400) -/

/-- A result that lands in one of several consecutive destination registers; the lowest gives the latch
its word (R231). -/
def mResult (c : Ctx) (f : MFields) (due : Nat) (p : Pass) (i : Nat) (lowest : Bool)
    (vals : List (Nat × Word64)) : List PendRes :=
  let r : PendRes := { due := due, from_ := p.start, dest := .nothing, word := p.w, vals := vals, tag := some f.fmt
                       slot := .m, latch := if i == 0 then some .bm else none }
  if vals.isEmpty then []
  else
    match opd f.ds.toNat with
    | .v _ | .vs _ =>
      let d := c.vregD f.ds.toNat
      [{ r with dest := if f.pair then .vpair (d + 2 * i) else .vreg (d + i) }]
    | .s n =>
      if lowest then
        [{ r with dest := .sreg n, vals := [(0, (vals.headD (0, 0#64)).2)], tag := none, latch := none }]
      else []
    | _ => []

/-- The bytes that a shared-memory access touches. -/
def touchedBytes (c : Ctx) (f : MFields) : List Nat :=
  (slotLanes c.mPasses).flatMap (fun q =>
    (List.range (f.bits / 8 * f.values)).map (fun i => (c.shmAddr q.1 f q.2).toNat + i))

/-- The state that SLD and SST find: the shared atomics of their bytes that they must follow are performed (R188). -/
def atomicsFirst (s : State) (c : Ctx) (f : MFields) : State :=
  settleAtomics s c.t (some c.p) (some (touchedBytes c f))

/-- SLD (R400): each value is read at issue, after the path's earlier accesses (R188), and lands after 14
cycles and the stretches. Another team's store that is not released may be missed. -/
def execSld (f : MFields) (s : State) : Host.Outcome State Fault Refusal :=
  runSlot s .m (fun c =>
    let ps := c.mPasses
    if idle ps then .ok s
    else
      match sharedFault s c f false false ps with
      | some e => .error e
      | none =>
        let s := atomicsFirst s c f
        let cr := c.crew s
        let st := bankStretch c f ps
        let seen (a : Nat) : Nat := leNat ((List.range (f.bits / 8)).map (fun i => shmSeen cr c.fr c.t (a + i)))
        let low := firstPass ps
        let n := f.bits / 8
        let rs := (List.range ps.length).flatMap (fun k =>
          let p := ps.getD k ⟨0, 0, 0, []⟩
          let due := p.base + sumL (st.take (k + 1)) + 14
          (List.range f.values).flatMap (fun i =>
            mResult c f due p i (low == some p) (p.lanes.map (fun l =>
              (l, BitVec.ofNat 64 (seen ((c.shmAddr p f l).toNat + n * i)))))))
        let s := s.modCrew c.tm.crew (fun cr => cr.noteSeen c.fr c.t (touchedBytes c f))
        .ok (slip (s.land c.t rs) c (sumL st)).bump)

/-- SST (R400): lanes write in ascending order, so that the highest lane's value remains (R189). Other teams see
it once it is released. -/
def execSst (f : MFields) (s : State) : Host.Outcome State Fault Refusal :=
  runSlot s .m (fun c =>
    let ps := c.mPasses
    if idle ps then .ok s
    else
      match sharedFault s c f true false ps with
      | some e => .error e
      | none =>
        let s := atomicsFirst s c f
        let n := f.bits / 8
        let put (cr : Crew) (q : Pass × Nat) : Crew :=
          (List.range f.values).foldl (fun cr i =>
            shmWrite cr ((c.shmAddr q.1 f q.2).toNat + n * i) (leBytes n (c.dataVal q.1 f i q.2))) cr
        let s := s.modCrew c.tm.crew (fun cr => (slotLanes ps).foldl put (cr.noteLate c.t (touchedBytes c f)))
        .ok (slip s c (sumL (bankStretch c f ps))).bump)

/-! ### Shared atomics (R401) -/

/-- The units of a shared atomic: one a lane. -/
def sharedUnit (c : Ctx) (f : MFields) (two : Bool) (q : Pass × Nat) : MUnit :=
  { lane := q.2, addr := some (c.shmAddr q.1 f q.2).toNat, bits := f.bits
    val := BitVec.ofNat 64 (c.dataVal q.1 f 0 q.2)
    val2 := BitVec.ofNat 64 (if two then c.swapVal q.1 f q.2 else 0) }

/-- A shared atomic: it completes no earlier than 14 cycles after its last pass and the stretches. -/
def sharedAtomicRun (s : State) (f : MFields) (op : Nat) (two : Bool) : Host.Outcome State Fault Refusal :=
  runSlot s .m (fun c =>
    let ps := c.mPasses
    if idle ps then .ok s
    else
      match sharedFault s c f true two ps with
      | some e => .error e
      | none =>
        let st := sumL (bankStretch c f ps)
        let last := ((ps.getLast?).map Pass.base).getD c.cyc
        let fenced := fenceAt s c.t c.p f.scope.toNat
        let s := fenced.1
        let acc : Access :=
          { team := c.t, path := c.p, kind := .sharedAtomic op, flag := f.flagOf, dest := destOf c f
            fmt := f.fmt, todo := (slotLanes ps).map (sharedUnit c f two), tracked := false
            earliest := last + st + 14, after := fenced.2 }
        .ok (slip (issueAccess s acc) c st).bump)

/-- SAADD (R401). -/
def execSaadd (f : MFields) (s : State) : Host.Outcome State Fault Refusal := sharedAtomicRun s f opAdd false

/-- SAFADD (R401). -/
def execSafadd (f : MFields) (s : State) : Host.Outcome State Fault Refusal := sharedAtomicRun s f opAdd false

/-- SAMIN (R401). -/
def execSamin (f : MFields) (s : State) : Host.Outcome State Fault Refusal := sharedAtomicRun s f opMin false

/-- SAMAX (R401). -/
def execSamax (f : MFields) (s : State) : Host.Outcome State Fault Refusal := sharedAtomicRun s f opMax false

/-- SAAND (R401). -/
def execSaand (f : MFields) (s : State) : Host.Outcome State Fault Refusal := sharedAtomicRun s f opAnd false

/-- SAOR (R401). -/
def execSaor (f : MFields) (s : State) : Host.Outcome State Fault Refusal := sharedAtomicRun s f opOr false

/-- SAXOR (R401). -/
def execSaxor (f : MFields) (s : State) : Host.Outcome State Fault Refusal := sharedAtomicRun s f opXor false

/-- SAXCHG (R401). -/
def execSaxchg (f : MFields) (s : State) : Host.Outcome State Fault Refusal := sharedAtomicRun s f opXchg false

/-- SACAS (R401). -/
def execSacas (f : MFields) (s : State) : Host.Outcome State Fault Refusal := sharedAtomicRun s f opCas true

/-! ### Accumulator windows (R402, R403) -/

/-- The unsigned value of an A operand that is an S code or a literal, in a pass (R225). -/
def Ctx.countIn (c : Ctx) (f : MFields) (p : Pass) : Nat :=
  match opd f.a.toNat with
  | .s n => readS c.tm c.fr p.start n
  | .int x => x.toNat
  | _ => 0

/-- The same for what acts once per bundle: in the first pass in which a lane qualifies (R225, R383). -/
def Ctx.countOf (c : Ctx) (f : MFields) (ps : List Pass) : Nat :=
  match firstPass ps with
  | some p => c.countIn f p
  | none => 0

/-- The window element of value i in a lane (R402). -/
def Ctx.accElem (c : Ctx) (f : MFields) (p : Pass) (i l : Nat) : Nat :=
  64 * (c.countIn f p + f.off.toNat) + c.width * i + l

/-- Every element that the access touches, as lane, value and window element. -/
def accTouches (c : Ctx) (f : MFields) (ps : List Pass) : List (Nat × Nat × Nat) :=
  (slotLanes ps).flatMap (fun q => (List.range f.values).map (fun i => (q.2, i, c.accElem f q.1 i q.2)))

/-- The faults of an accumulator access (R321, R291, R403). -/
def accFault (c : Ctx) (f : MFields) (reads : Bool) (ps : List Pass) : Option FaultInfo :=
  match c.dataReg f f.values with
  | some e => some e
  | none =>
    if reads && c.dataTagBad f f.values then some (flt .formatMismatch)
    else
      match (accTouches c f ps).find? (fun q => decide (c.tm.accLim ≤ q.2.2 / 64)) with
      | some q => some { code := .accWindow, lane := q.1 }
      | none => none

/-- An element as an ACCLD reads it: old or new within 10 cycles of an ACCST (R403). -/
def accRead (cr : Crew) (fr now e : Nat) : Nat :=
  match cr.accOld.find? (fun o => o.2.1 == e && decide (now < o.1 + 10)) with
  | some o => if Config.pick fr 2600 e then o.2.2.toNat else (Tab.get cr.acc e 0#32).toNat
  | none => (Tab.get cr.acc e 0#32).toNat

/-- ACCLD (R402). -/
def execAccld (f : MFields) (s : State) : Host.Outcome State Fault Refusal :=
  runSlot s .m (fun c =>
    let ps := c.mPasses
    if idle ps then .ok s
    else
      match accFault c f false ps with
      | some e => .error e
      | none =>
        let cr := c.crew s
        let rs := ps.flatMap (fun p => (List.range f.values).flatMap (fun i =>
          mResult c f (p.base + 10) p i false (p.lanes.map (fun l =>
            (l, BitVec.ofNat 64 (accRead cr c.fr p.start (64 * c.tm.accBase + c.accElem f p i l)))))))
        .ok (s.land c.t rs).bump)

/-- ACCST (R402): what it replaces can still be read for 10 cycles (R403). -/
def execAccst (f : MFields) (s : State) : Host.Outcome State Fault Refusal :=
  runSlot s .m (fun c =>
    let ps := c.mPasses
    if idle ps then .ok s
    else
      match accFault c f true ps with
      | some e => .error e
      | none =>
        let puts : List (Nat × Nat × Word32) := ps.flatMap (fun p => p.lanes.flatMap (fun l =>
          (List.range f.values).map (fun i =>
            (p.start, 64 * c.tm.accBase + c.accElem f p i l, BitVec.ofNat 32 (c.dataVal p f i l)))))
        let put (cr : Crew) (q : Nat × Nat × Word32) : Crew :=
          let old := (q.1, q.2.1, Tab.get cr.acc q.2.1 0#32)
          { cr with acc := Tab.set cr.acc q.2.1 q.2.2
                    accOld := old :: cr.accOld.filter (fun o => decide (s.now < o.1 + 10)) }
        .ok (s.modCrew c.tm.crew (fun cr => puts.foldl put cr)).bump)

/-! ### Rings (R405, R406) -/

/-- Is there room for a producer advance (R405)? -/
def Ring.room (r : Ring) (a : Nat) : Bool := decide (r.filled + a ≤ r.slots)

/-- RADV (R405). A producer advance that finds no room leaves the state as it is: the bundle waits at issue,
with stall reason 4. The count is applied once the shared atomics that the team made before it are performed
(R204); issue goes on. -/
def execRadv (f : MFields) (s : State) : Host.Outcome State Fault Refusal :=
  runSlot s .m (fun c =>
    let h := f.off.toNat % 16
    let cr := c.crew s
    let r := cr.ring h
    let a := c.countOf f c.mPasses
    let producer := !bitAt f.off.toNat 4
    if idle c.mPasses then .ok s
    else if decide (cr.nrings ≤ h) || a == 0 || decide (r.slots < a) then .error (flt .ringMisuse)
    else if !producer && decide (r.filled < a + radvPending s c.tm.crew h false) then .error (flt .ringMisuse)
    else if producer && !r.room (a + radvPending s c.tm.crew h true) then .ok s
    else
      let s := settleAtomics s c.t none
      let waits := openAtomics s c.t none
      if waits.isEmpty && radvPending s c.tm.crew h producer == 0 then .ok (radvApply s c.t h a producer)
      else .ok { s with nextId := s.nextId + 1, ops := Tab.set s.ops s.nextId (.radv c.t h a producer waits) })

/-- RSTAT (R406). -/
def execRstat (f : MFields) (s : State) : Host.Outcome State Fault Refusal :=
  runSlot s .m (fun c =>
    let h := f.off.toNat % 16
    let cr := c.crew s
    let r := cr.ring h
    match firstPass c.mPasses, opd f.ds.toNat with
    | some p, .s n =>
      if cr.nrings ≤ h then .error (flt .ringMisuse)
      else
        let v : Word64 := BitVec.ofNat 64 (r.producer.toNat + 2 ^ 32 * r.consumer.toNat)
        .ok (s.land c.t [{ due := p.base + 6, from_ := p.start, dest := .sreg n, vals := [(0, v)], slot := .m }])
    | _, _ => .ok s)

/-! ### Stream ports (R407, R408) -/

/-- A configuration that GCFG refuses. -/
def portBad (cfg : List Word64) : Bool :=
  let w (i : Nat) : Nat := (cfg.getD i 0#64).toNat
  (List.range 4).any (fun i => fld (w 1) (16 * i) 16 == 0) || fld (w 0) 48 16 != 0
    || fld (w 0) 0 32 % 4 != 0 || fld (w 0) 32 16 % 4 != 0
    || [fld (w 2) 0 32, fld (w 2) 32 32, fld (w 3) 0 32, fld (w 3) 32 32].any (fun x => x % 4 != 0)

/-- GCFG (R407): the crew notes its writes of shared memory from now on (R408). -/
def execGcfg (f : MFields) (s : State) : Host.Outcome State Fault Refusal :=
  runSlot s .m (fun c =>
    match firstPass c.mPasses, opd f.a.toNat with
    | some p, .s n =>
      let cfg := (List.range 4).map (fun i => BitVec.ofNat 64 (readS c.tm c.fr p.start (n + i)))
      if portBad cfg then .error (flt .illegalOperand)
      else
        let cr := { c.crew s with logging := true }
        let port : Port := { cfg := cfg, configured := true, snap := cr.shm, mark := cr.wlog.length }
        let s := s.setCrew c.tm.crew cr
        .ok (s.modTeam c.t (fun tm => { tm with ports := Tab.set tm.ports (f.off.toNat % 4) port })).bump
    | _, _ => .ok s)

/-- GSKIP (R408); the position of a port that has not been configured stays 0. -/
def execGskip (f : MFields) (s : State) : Host.Outcome State Fault Refusal :=
  runSlot s .m (fun c =>
    if idle c.mPasses then .ok s
    else
      let k := f.off.toNat % 4
      let a := c.countOf f c.mPasses
      let skip (p : Port) : Port :=
        if p.configured then { p with pos := (p.pos + a) % p.total } else p
      .ok (s.modTeam c.t (fun tm =>
        { tm with ports := Tab.set tm.ports k (skip (Tab.get tm.ports k {})) })))

end Sys2Proof.Machine
end

