-- ==== Sys2Proof/Machine/MemOrder.lean ====
section
/-! DEFINITION. ACQ, REL, FENCE and INVRO (R194-R201, R209, R409, R410). -/

namespace Sys2Proof.Machine

open Sys2Proof

/-! ### The region table (R196, R197) -/

/-- Where a task's region entry lies. -/
def regionAddr (k : Task) (i : Nat) : Nat := k.lrec.ttbase.toNat + 0x8100 + 64 * i

/-- The bounds of an entry are as R197 asks. -/
def regionBoundsOk (d : Desc) (b : List Byte) : Bool :=
  let tid := fieldAt b 0 1
  let box := bitAt (fieldAt b 1 1) 0
  let zero (off n : Nat) : Bool := fieldAt b off n == 0
  if !box then zero 0x10 40
  else if tid == 0 then
    decide (fieldAt b 0x10 8 ≤ fieldAt b 0x24 8) && zero 0x18 12 && zero 0x2C 12
  else
    (List.range 5).all (fun i =>
      if i < d.rank then decide (signed 32 (fieldAt b (0x10 + 4 * i) 4) ≤ signed 32 (fieldAt b (0x24 + 4 * i) 4))
      else zero (0x10 + 4 * i) 4 && zero (0x24 + 4 * i) 4)

/-- The region's SOB word, when the entry is valid and listed (R197). -/
def regionOf (s : State) (tk i : Nat) : Option Nat :=
  let k := s.task tk
  match k.regions[i]? with
  | none => none
  | some b =>
    match descOf s tk (fieldAt b 0 1) with
    | none => none
    | some d =>
      let soba := regionSoba b
      let ok := fieldAt b 1 1 / 4 == 0 && fieldAt b 2 6 == 0 && fieldAt b 0x38 8 == 0
        && regionBoundsOk d b && soba % 8 == 0 && inSeg s k.fn soba 8
      if ok then some soba else none

/-- The fault of a region that is invalid or not listed (R197). -/
def regionFault (k : Task) (i : Nat) : FaultInfo := { code := .tensorInvalid, addr := regionAddr k i }

/-- The S register that receives a sequence. -/
def dsReg (f : MFields) : Option Nat :=
  match opd f.ds.toNat with
  | .s n => some n
  | _ => none

/-! ### ACQ and REL -/

/-- The writes bound to regions of one SOB and not yet performed that a path has issued, or that its team has
acquired through an ACQ of the SOB (R198, R200). -/
def boundWrites (s : State) (t p soba : Nat) : List Nat :=
  let mine := pathAccesses s t p
  let got (a : Access) : Bool := a.released.any (fun r =>
    r.sob.any (fun w => w.1 == soba) && r.by_.within r.scope (placeOf s t) && r.acquired s t s.nextId)
  (s.accesses.filter (fun e => e.2.kind.writes && (mine.contains e.1 || got e.2) && e.2.boundTo soba)).map Prod.fst

/-- The word of a SOB lies in memory with an uncorrectable error (R39). -/
def sobBad (s : State) (k : Task) (soba : Nat) : Option FaultInfo :=
  if (readBad s k.fn k.ts (flatOf s k.fn soba) 8).isSome then some { code := .memUncorrectable, addr := soba } else none

/-- ACQ (R201): it waits in the memory system for the SOB to reach the value, or to be read once. -/
def execAcq (f : MFields) (s : State) : Host.Outcome State Fault Refusal :=
  runSlot s .m (fun c =>
    if idle c.mPasses then .ok s
    else
      let i := f.tid.toNat
      match regionOf s c.tm.task i, (regionOf s c.tm.task i).bind (sobBad s (c.tk s)) with
      | none, _ => .error (regionFault (c.tk s) i)
      | some _, some e => .error e
      | some soba, none =>
        let value : Option Word64 :=
          if bitAt f.off.toNat 0 then none else some (BitVec.ofNat 64 (c.countOf f c.mPasses))
        let cl := clampScope s c.t f.scope.toNat
        .ok (issueOp (flagIssue cl.1 c.t f.flagOf) c.t c.p (.acq c.t c.p i soba (dsReg f) value f.flag.toNat cl.2)))

/-- REL (R200): issue does not wait; the add is made once the bound writes are performed. -/
def execRel (f : MFields) (s : State) : Host.Outcome State Fault Refusal :=
  runSlot s .m (fun c =>
    if idle c.mPasses then .ok s
    else
      let i := f.tid.toNat
      match regionOf s c.tm.task i, (regionOf s c.tm.task i).bind (sobBad s (c.tk s)) with
      | none, _ => .error (regionFault (c.tk s) i)
      | some _, some e => .error e
      | some soba, none =>
        let waits := boundWrites s c.t c.p soba
        let cl := clampScope s c.t f.scope.toNat
        .ok (issueOp (flagIssue cl.1 c.t f.flagOf) c.t c.p (.rel c.t c.p i soba (dsReg f) f.flagOf cl.2 waits)))

/-! ### FENCE and INVRO -/

/-- FENCE (R194, R195): the path is held until its earlier accesses are performed at the scope; its
shared-memory stores are then seen by the crew. -/
def execFence (f : MFields) (s : State) : Host.Outcome State Fault Refusal :=
  runSlot s .m (fun c =>
    if idle c.mPasses then .ok s
    else
      let cl := clampScope s c.t f.scope.toNat
      let r := fenceAt cl.1 c.t c.p cl.2
      .ok (r.1.modPath c.t c.p (fun pa =>
        { pa with fence := r.2, stall := if r.2.isEmpty then pa.stall else 16 })).bump)

/-- INVRO (R209, R410). -/
def execInvro (_ : MFields) (s : State) : Host.Outcome State Fault Refusal :=
  runSlot s .m (fun c =>
    if idle c.mPasses then .ok s
    else
      let s := s.modCore (c.core s) (fun co => { co with ro := [] })
      .ok (s.modTeam c.t (fun tm => { tm with invroAt := s.now })))

end Sys2Proof.Machine
end

