-- ==== Sys2Proof/Machine/Engines.lean ====
section
/-! DEFINITION. What the commands of the X slot share: their descriptor words, the checks of tensors and
rings at issue, the sash, the rows they own, and engine faults (R411, R412, R431). -/

namespace Sys2Proof

/-- The flag that a command names. -/
def XFields.flagOf (f : XFields) : Option Nat := if f.fe then some f.flag.toNat else none

end Sys2Proof

namespace Sys2Proof.Machine

open Sys2Proof

/-- The words of a descriptor, as the command's pass reads them (R411). -/
def Ctx.words (c : Ctx) (p : Pass) (sd n : Nat) : List Word64 :=
  (List.range n).map (fun i => BitVec.ofNat 64 (readS c.tm c.fr p.start (sd + i)))

/-- A command runs once per bundle, at the first pass in which a lane qualifies (R225, R411). -/
def runCommand (s : State) (f : Ctx → Pass → Except FaultInfo State) : Host.Outcome State Fault Refusal :=
  runSlot s .x (fun c =>
    match firstPass c.xPasses with
    | none => .ok s
    | some p => f c p)

/-- The same where a command that faults has used tensors: the descriptors stay read (R106). -/
def runCommandKeep (s : State) (f : Ctx → Pass → State × Option FaultInfo) : Host.Outcome State Fault Refusal :=
  runSlotBoth s .x (fun c =>
    match firstPass c.xPasses with
    | none => (s, none)
    | some p => f c p)

/-- What a command with ACQ waits for, and a COPYS (`orders`): the path's accesses in flight, performed at its scope
(R206, R424). -/
def commandWaits (s : State) (c : Ctx) (f : XFields) (orders : Bool := false) : List Nat :=
  if f.acq || orders then (releaseAt s c.t (clampScope s c.t f.scope.toNat).2 none (fencedBy s c.t c.p)).2 else []

/-- A command goes out: its flag is issued and a SYS scope clamped (R217, R233). With ACQ, and of a COPYS, the path's
stores count as performed at its scope for it (R206, R424). -/
def issueCommand (s : State) (c : Ctx) (f : XFields) (orders : Bool := false) : State :=
  let cl := clampScope s c.t f.scope.toNat
  let s := if f.acq || orders then (fenceAt cl.1 c.t c.p cl.2).1 else cl.1
  flagIssue s c.t f.flagOf

/-- A list of checks in order: the first that fails is raised. -/
def checks : List (Bool × FaultInfo) → Option FaultInfo
  | [] => none
  | (bad, f) :: r => if bad then some f else checks r

/-- The window rows that a command owns (R428, R429). -/
def ownedRows (c : Ctx) (f : XFields) (m : Nat) : List Nat :=
  (List.range m).map (fun i => c.tm.accBase + f.acc.toNat + i)

def ownRows (s : State) (t : Nat) (rows : List Nat) : State :=
  s.modTeam t (fun tm => { tm with owned := tm.owned ++ rows })

/-- Elements that an ACCST wrote less than 10 cycles ago, with what they held (R403). -/
def lateElems (s : State) (c : Ctx) (rows : List Nat) : Tab Word32 :=
  ((c.crew s).accOld.filter (fun o => rows.contains (o.2.1 / 64) && decide (s.now < o.1 + 10))).map
    (fun o => (o.2.1, o.2.2))

/-! ### The checks of an MMA (R430, R431) -/

def fmts16 : List Fmt := [.bf16, .fp16]
def fmts8 : List Fmt := [.e4m3, .e5m2, .int8, .uint8]
def fmts4 : List Fmt := [.e2m1, .int4, .i4x]

/-- The pairs of operand formats that a step takes. -/
def mxFormatsOk (scaled : Bool) (a b : Fmt) : Bool :=
  let both (l : List Fmt) : Bool := l.contains a && l.contains b
  let scalable (f : Fmt) : Bool := [Fmt.e4m3, .e5m2, .int8, .e2m1, .int4].contains f
  ((both fmts16 && a == b) || both fmts8 || both fmts4) && (!scaled || (scalable a && scalable b))

/-- The descriptor's fields are those that its kind uses (R430). -/
def mxFieldsOk (q : MxCmd) : Bool :=
  let unused (src : Bool) (w : Nat) (lo3 : Nat) : Bool := src || (q.e w 0 64 == 0 && q.e 3 lo3 32 == 0)
  let scales := q.scaled || (q.e 0 29 10 == 0)
  mxFormatsOk q.scaled q.fmtA q.fmtB && q.e 0 39 25 == 0 && scales
    && unused q.srcA 1 0 && unused q.srcB 2 32
    && !(q.srcA && (q.e 0 11 1 == 1 || q.x.ha != 0)) && !(q.srcB && (q.e 0 12 1 == 1 || q.x.hb != 0))

/-- A ring is missing, or its slots are too small. -/
def ringShort (cr : Crew) (on : Bool) (h bytes : Nat) : Bool :=
  on && (decide (cr.nrings ≤ h) || decide ((cr.ring h).sz < bytes))

/-- A ring's format is neither NONE nor the operand's. -/
def ringOdd (cr : Crew) (on : Bool) (h : Nat) (f : Fmt) : Bool :=
  on && (cr.ring h).fmt != .none && (cr.ring h).fmt != f

/-- The tensor of an operand that the tile fetch unit reads is of another format. -/
def tfuOdd (s : State) (tk : Nat) (on : Bool) (tid : Nat) (f : Fmt) : Bool :=
  on && (match descOf s tk tid with | some d => d.fmt != f | none => false)

/-- The tensor is behind a masked feature (R101). -/
def tfuMasked (s : State) (tk : Nat) (on : Bool) (tid : Nat) : Bool :=
  on && (match descOf s tk tid with | some d => tensorMasked s (s.task tk).fn d | none => false)

/-- The checks of an MMA or MMAS, or of a follow-on, at issue (R431). `direct` tells whether KIND must be
the opcode's. -/
def mxFault (s : State) (c : Ctx) (q : MxCmd) (direct : Bool) : Option FaultInfo :=
  let cr := c.crew s
  let tk := c.tm.task
  let fn := (c.tk s).fn
  let k := mxK q.fmtA
  let tidA := q.e 0 13 8
  let tidB := q.e 0 21 8
  checks
    [ (cr.sash != c.tm.tix, flt .sashViolation),
      ((masked s fn 9 && (q.fmtA.width == 4 || q.fmtB.width == 4))
        || (masked s fn 10 && (q.srcA || q.srcB)) || tfuMasked s tk q.srcA tidA
        || tfuMasked s tk q.srcB tidB, flt .featureMasked),
      (!mxFieldsOk q || (direct && q.scaled != (q.kind == 9)), flt .illegalOperand),
      (ringShort cr (!q.srcA) q.x.ha.toNat (q.m * 32) || ringShort cr (!q.srcB) q.x.hb.toNat (q.n * 32)
        || ringShort cr q.scaled (q.e 0 29 4) (q.m * k / 32)
        || ringShort cr q.scaled (q.e 0 33 4) (q.n * k / 32), flt .ringMisuse),
      (ringOdd cr (!q.srcA) q.x.ha.toNat q.fmtA || ringOdd cr (!q.srcB) q.x.hb.toNat q.fmtB
        || ringOdd cr q.scaled (q.e 0 29 4) .scale || ringOdd cr q.scaled (q.e 0 33 4) .scale
        || tfuOdd s tk q.srcA tidA q.fmtA || tfuOdd s tk q.srcB tidB q.fmtB, flt .formatMismatch),
      (decide (c.tm.accLim < q.x.acc.toNat + q.m), flt .accWindow) ]

/-! ### Engine faults (R180, R412) -/

/-- The commands of all matrix engines, and those that saved crews hold for one. -/
def mxCommands (s : State) : List MxCmd :=
  s.cores.flatMap (fun e => e.2.matrix) ++ s.crews.flatMap (fun e => e.2.waiting)

/-- Engine commands of a task that a fault holds (R180, R412). -/
def heldCommands (s : State) (k : Nat) : List Nat :=
  let mine (t : Nat) : Bool := (s.team t).task == k && (Tab.find s.teams t).isSome
  let inChans := (s.crews.flatMap (fun c => c.2.chans.flatMap (fun ch => ch.2.queue))).filterMap (fun q =>
    if q.fault.isSome && mine q.team then some q.id else none)
  let inMx := (mxCommands s).filterMap (fun m => if m.fault.isSome && mine m.team then some m.id else none)
  let inOps := s.ops.filterMap (fun o => match o.2 with
    | .coll t _ _ _ _ _ _ (some _) => if mine t then some o.1 else none
    | .spawn t _ _ _ _ _ _ (some _) => if mine t then some o.1 else none
    | _ => none)
  inChans ++ inMx ++ inOps

/-- The engine commands of the machine by number, with the team, the path and the PC of their bundles. -/
def engineOwner (s : State) (id : Nat) : Option (Nat × Nat × Nat) :=
  let inChan := s.crews.findSome? (fun e => e.2.chans.findSome? (fun ch =>
    (ch.2.queue.find? (fun q => q.id == id)).map (fun q => (q.team, q.path, q.pc))))
  let inMx := (mxCommands s).findSome? (fun m => if m.id == id then some (m.team, m.path, m.pc) else none)
  match inChan, inMx, Tab.find s.ops id with
  | some r, _, _ => some r
  | none, some r, _ => some r
  | none, none, some (.coll t p _ _ pc _ _ _) => some (t, p, pc)
  | none, none, some (.spawn t p _ _ _ pc _ _) => some (t, p, pc)
  | _, _, _ => none

/-- A command is held by a fault, or freed to retry its unit; a step that is still reading starts anew. -/
def setEngineFault (s : State) (id : Nat) (f : Option FaultInfo) : State :=
  let inChan (q : CopyCmd) : CopyCmd := if q.id == id then { q with fault := f } else q
  let inMx (m : MxCmd) : MxCmd :=
    if m.id == id then { m with fault := f, start := if m.consDone then m.start else none, pins := [] } else m
  let onChan (e : Nat × Channel) : Nat × Channel := (e.1, { e.2 with queue := e.2.queue.map inChan })
  let crew (e : Nat × Crew) : Nat × Crew :=
    (e.1, { e.2 with chans := e.2.chans.map onChan, waiting := e.2.waiting.map inMx })
  let core (e : Nat × Core) : Nat × Core := (e.1, { e.2 with matrix := e.2.matrix.map inMx })
  let s : State := { s with crews := s.crews.map crew, cores := s.cores.map core }
  match Tab.find s.ops id with
  | some (.coll t p d fl pc w src _) => { s with ops := Tab.set s.ops id (.coll t p d fl pc w src f) }
  | some (.spawn t p a b fl pc since _) => { s with ops := Tab.set s.ops id (.spawn t p a b fl pc since f) }
  | _ => s

/-- An engine meets a fault after issue (R412): a page request, a walk fault, or the stop of the task; in
a speculative task the command is held and the task suspended (R180). -/
def engineFault (s : State) (id : Nat) (f : FaultInfo) : State :=
  match engineOwner s id with
  | none => s
  | some (t, p, pc) =>
    let tm := s.team t
    let k := tm.task
    let tk := s.task k
    if isSpeculative s tk then
      (stopTeams (setEngineFault s id (some f)) k).modTask k (fun x => { x with suspended := true })
    else if f.code == .tileNotPresent then
      f.pages.foldl (fun s e => requestPage s
        { fn := tk.fn, entry := e.1, host := e.2, tensor := f.tensor, task := k, write := f.isWrite
          engines := [id] }) (setEngineFault s id (some f))
    else if f.code == .walkSegment then
      let (w, s) := s.newId
      let s := { setEngineFault s id (some f) with
        ops := Tab.set s.ops w (.walk
          { task := k, team := t, path := enginePath id, tensor := f.tensor, entry := f.addr, at_ := s.now, stopped := true }) }
      writeWalkRecord ((stopTeams s k).modTask k (fun x => { x with walkStop := true })) w
    else stopTask (setEngineFault s id (some f)) k tm.wid0 p pc f

end Sys2Proof.Machine
end

