-- ==== Sys2Proof/Machine/Accesses.lean ====
section
/-! DEFINITION. What the memory system does outside the issuing bundles: results landing (R224), latch
images of stopped teams (R245), accesses performed (R233), walks (R117-R119, R129), page requests
(R126-R128), and the completion of ACQ and REL (R200, R201). -/

namespace Sys2Proof.Machine

open Sys2Proof

/-! ### Landing -/

/-- A team has a fixed-latency result that is due. -/
def landingDue (s : State) (t : Nat) : Bool :=
  (s.team t).pending.any (fun e => e.flag.isNone && decide (e.due ≤ s.now))

/-- RESULT_LANDING (R224, R231). -/
def execResultLanding (team : Nat) (s : State) : Host.Outcome State Fault Refusal :=
  if landingDue s team then .next (s.modTeam team (fun tm => landDue tm s.free s.now)).bump else .next s

/-- An edge has frozen a team: it is at or after c+63 (R92). -/
def edgeFrozen (s : State) (tm : Team) : Bool :=
  let k := s.task tm.task
  let q := s.part k.part
  q.edgeX == some k.fn && (q.edgeStep == .frozen || q.edgeStep == .saving) && tm.residence != .saved

/-- A stopped team, one that an edge has frozen, or one whose paths a debugger holds, whose latch image can be taken
(R245). -/
def fliDue (s : State) (t : Nat) : Bool :=
  let tm := s.team t
  let still := tm.stopped || edgeFrozen s tm || (!tm.paths.isEmpty && tm.paths.all (fun e => e.2.held))
  still && !tm.fliTaken && !tm.retired && fliFits tm s.now

/-- FLI_CAPTURE (R245). -/
def execFliCapture (team : Nat) (s : State) : Host.Outcome State Fault Refusal :=
  if fliDue s team then .next (s.modTeam team (fun tm => takeFli tm s.free s.now)).bump else .next s

/-- An access that met an uncorrectable error stops: MEM_UNCORRECTABLE at its bundle, with the address of the
element (R39, R121, R123). -/
def accessBad (s : State) (id : Nat) : State :=
  match Tab.find s.accesses id with
  | some a =>
    match a.bad with
    | some flat =>
      let lanes := maskOf ((a.todo.map MUnit.lane).eraseDups)
      let at_ := guestOf s (s.task (s.team a.team).task).fn flat
      let lane := ((a.todo.find? (fun u => u.addr.any (fun x => decide (x ≤ flat) && decide (flat < x + u.bytes)))).map
        MUnit.lane).getD 0
      takeFault (completeAccess s id a) a.team a.path a.pc
        { code := .memUncorrectable, slot := .m, addr := at_, tensor := a.tensor, lane := lane, lanes := lanes
          isWrite := a.kind.writes }
    | none => s
  | none => s

/-- GLOBAL_ACCESS_COMPLETE (R233, R386): the chosen values of an access are performed; words of memory may show
errors that the ECC cannot correct (R18, R39). -/
def execGlobalAccessComplete (acc : Nat) (units bad : List Nat) (s : State) :
    Host.Outcome State Fault Refusal :=
  match Tab.find s.accesses acc with
  | some a =>
    if onCore s a.team then .next (settleFault (accessBad (performChosen (noteErrors s bad) acc units) acc) acc).bump
    else .next s
  | none => .next s

/-! ### Walks (R116-R119, R129) -/

/-- The engine commands of a core that wait for an entry. -/
def enginesWanting (s : State) (core fn entry : Nat) : List Nat :=
  let mine (t : Nat) : Bool := (s.crew (s.team t).crew).core == core && (s.task (s.team t).task).fn == fn
  (s.crews.flatMap (fun c => c.2.chans.flatMap (fun ch => ch.2.queue))).filterMap (fun q =>
      if q.wants.contains entry && mine q.team then some q.id else none)
    ++ (s.core core).matrix.filterMap (fun m => if m.wants.contains entry && mine m.team then some m.id else none)

/-- A walk that meets an uncorrectable error: MEM_UNCORRECTABLE with the entry's address in every access that
waited for it and in every command (R121 step 5, R123). -/
def walkBad (s : State) (id : Nat) (w : TileWalk) : State :=
  (enginesWanting s (w.core s) (s.task w.task).fn w.entry).foldl (fun s e => engineFault s e
    { code := .memUncorrectable, slot := .x, addr := w.entry, tensor := w.tensor }) (placeAccesses s id w none)

/-- WALK_COMPLETE (R117): a walk in flight has read its entry: the buffer holds it, and what waited may go on or takes its
fault (R121). Words of memory may show errors that the ECC cannot correct (R39). -/
def execWalkComplete (walk : Nat) (bad : List Nat) (s : State) : Host.Outcome State Fault Refusal :=
  match Tab.find s.ops walk with
  | some (.walk w) =>
    if w.stopped || !w.flying then .next s
    else
      let s := noteErrors s bad
      if (eccHit s (flatOf s (s.task w.task).fn w.entry) 8).isSome then .next (settleFaults (walkBad s walk w))
      else .next (settleFaults (endWalk s walk w))
  | _ => .next s

/-- The stopped walk that a record of the walk-fault queue names. -/
def walkOfRecord (s : State) (index : Nat) : Option Nat :=
  (s.ops.find? (fun o => match o.2 with
    | .walk w => w.stopped && w.record == some index
    | _ => false)).map Prod.fst

/-- A task goes on when none of its walks is stopped any more. -/
def resumeWalks (s : State) (k : Nat) : State :=
  let left := s.ops.any (fun o => match o.2 with
    | .walk w => w.stopped && w.task == k
    | _ => false)
  if left then s else (resumeTeams s k).modTask k (fun x => { x with walkStop := false })

/-- An access or a command whose walk failed retries it. -/
def retryWalk (s : State) (t p : Nat) : State :=
  if p < 8 then s.modPath t p (fun pa => { pa with heldBy := none, stall := 1 })
  else setEngineFault s (p - 8) none

/-- TENSOR_INVALID for a failed walk, at the bundle that walked. -/
def invalidWalk (s : State) (t p tensor entry : Nat) : State :=
  let f : FaultInfo := { code := .tensorInvalid, slot := .m, addr := entry, tensor := tensor }
  if p < 8 then
    let pa := (s.team t).path p
    takeFault s t p pa.pc { f with lanes := pa.rmask }
  else
    match engineOwner s (p - 8) with
    | some (t, q, pc) => stopTask s (s.team t).task (s.team t).wid0 q pc { f with slot := .x }
    | none => s

/-- A write of WQRES (R129). -/
def wqResolve (s : State) (index : Nat) (invalid : Bool) : State :=
  match walkOfRecord s index with
  | none => s
  | some w =>
    match Tab.find s.ops w with
    | some (.walk x) =>
      let s := { s with ops := Tab.erase s.ops w }
      if invalid then invalidWalk s x.team x.path x.tensor x.entry
      else resumeWalks (retryWalk s x.team x.path) x.task
    | _ => s

/-- WALK_FAULT_RESOLVE (R129). -/
def execWalkFaultResolve (index : Nat) (invalid : Bool) (s : State) : Host.Outcome State Fault Refusal :=
  .next (wqResolve s index invalid)

/-- Entries of an address range leave every buffer of a function (R119). -/
def dropEntries (s : State) (fn a n : Nat) : State :=
  let gone (e : TtbEntry) : Bool := e.fn == fn && decide (a ≤ e.entry) && decide (e.entry < a + 16 * n)
  { s with cores := s.cores.map (fun c => (c.1, { c.2 with ttb := c.2.ttb.filter (fun e => !gone e) })) }

/-- Walks of an address range that are in flight are discarded, to restart (R119). -/
def discardWalks (s : State) (fn a n : Nat) : State :=
  let hit (w : TileWalk) : Bool := w.flying && !w.stopped && (s.task w.task).fn == fn && decide (a ≤ w.entry)
    && decide (w.entry < a + 16 * n)
  { s with ops := s.ops.map (fun o => (o.1, match o.2 with
      | .walk w => .walk (if hit w then { w with flying := false, again := true } else w)
      | x => x)) }

/-- TINVCTL.GO (R119, R126): the entries as TINVA and TINVN name them now leave the buffers, walks in flight
restart, and accesses go on with the words they have. -/
def tinvGo (s : State) (fn : Nat) : State :=
  let f := s.func fn
  if f.tinvBusy then s
  else
    let a := f.tinva.toNat / 16 * 16
    let n := fld f.tinvn.toNat 0 32
    (discardWalks (dropEntries s fn a n) fn a n).modFunc fn
      (fun f => { f with tinvBusy := true, tinvMark := s.nextId, tinvFrom := a, tinvLen := n })

/-- TILE_INVALIDATE (R119). -/
def execTileInvalidate (fn : Nat) (s : State) : Host.Outcome State Fault Refusal := .next (tinvGo s fn)

/-- What an invalidation waits for (R119): a discarded walk has not restarted, or an access or a command that
had a word of a matching entry is not complete. -/
def tinvWaits (s : State) (fn : Nat) : Bool :=
  let f := s.func fn
  let hit (e : Nat) : Bool := decide (f.tinvFrom ≤ e) && decide (e < f.tinvFrom + 16 * f.tinvLen)
  let of (t : Nat) : Bool := (s.task (s.team t).task).fn == fn
  s.accesses.any (fun e => decide (e.1 < f.tinvMark) && of e.2.team && e.2.entries.any hit)
    || (tileWalks s).any (fun w => w.2.again && (s.task w.2.task).fn == fn && hit w.2.entry)
    || s.crews.any (fun c => c.2.chans.any (fun ch => ch.2.queue.any (fun q =>
        decide (q.id < f.tinvMark) && of q.team && q.words.any (fun w => hit w.1))))
    || (mxCommands s).any (fun m => decide (m.id < f.tinvMark) && of m.team && m.words.any (fun w => hit w.1))

/-- TILE_INVALIDATE_DONE (R119). -/
def execTileInvalidateDone (fn : Nat) (s : State) : Host.Outcome State Fault Refusal :=
  if (s.func fn).tinvBusy && !tinvWaits s fn then
    .next (s.modFunc fn (fun f => { f with tinvBusy := false }))
  else .next s

/-! ### Page requests (R126, R128) -/

/-- The record of a page request that is written at an index of the ring. -/
def PageReq.hasIndex (p : PageReq) (fn i : Nat) : Bool := p.fn == fn && p.record == some i

/-- A path that parked on a request replays its slot. A path of a saved task stays on its other requests
(R241). -/
def unpark (s : State) (t p : Nat) : State :=
  if !((s.team t).path p).parked then s
  else
    let saved := (s.task (s.team t).task).parkSaved
    let leave (r : PageReq) : PageReq :=
      if saved then r else { r with parked := r.parked.filter (fun q => q != (t, p)) }
    replayParked { s with pages := s.pages.map leave } t p

/-- The command that waited for a request retries its unit. -/
def retryEngine (s : State) (id : Nat) : State :=
  if s.pages.any (fun p => p.engines.contains id) then s else setEngineFault s id none

/-- TENSOR_INVALID in a parked path, at its parked bundle (R128). -/
def invalidPath (s : State) (t p tensor addr : Nat) : State :=
  match Tab.find s.teams t with
  | none => s
  | some tm =>
    let pa := tm.path p
    takeFault s t p pa.pc { code := .tensorInvalid, slot := .m, addr := addr, tensor := tensor, lanes := pa.rmask }

/-- A request ends with RESULT (R128). -/
def endRequest (s : State) (p : PageReq) (fn i result : Nat) : State :=
  let s := releaseRequest s (fun q => q.hasIndex fn i)
  if result == 0 then
    let s := if p.host then s else dropEntries s fn p.entry 1
    let s := p.parked.foldl (fun s q => unpark s q.1 q.2) s
    p.engines.foldl retryEngine s
  else
    let s := p.parked.foldl (fun s q => invalidPath s q.1 q.2 p.tensor p.entry) s
    p.engines.foldl (fun s id =>
      engineFault s id { code := .tensorInvalid, slot := .x, addr := p.entry, tensor := p.tensor }) s

/-- A write of PRCPL (R128). -/
def prcplWrite (s : State) (fn i : Nat) : State :=
  let f := s.func fn
  let cpl := gNat s fn (recordAddr f i + 24) 8
  if !f.prEn || !bitAt cpl 0 || f.prTail.toNat ≤ i || i + 2 ^ f.prLogsz.toNat < f.prTail.toNat
      || f.prDone.contains i then s
  else
    let s := s.setFunc fn { f with prDone := i :: f.prDone }
    match s.pages.find? (fun p => p.hasIndex fn i) with
    | none => s
    | some p => endRequest s p fn i (fld cpl 1 3)

/-- PAGE_REQUEST_COMPLETE (R128). -/
def execPageRequestComplete (fn index : Nat) (s : State) : Host.Outcome State Fault Refusal :=
  .next (prcplWrite s fn index)

/-- A write of PRCTL (R126). -/
def prctlWrite (s : State) (fn : Nat) (val : Word64) : State :=
  let f := s.func fn
  let v := val.toNat
  if f.prEn then s.setFunc fn { f with prEn := bitAt v 0 }
  else
    let f := { f with prLogsz := BitVec.ofNat 4 (fld v 1 4) }
    if !bitAt v 0 || fld v 1 4 < 6 || 12 < fld v 1 4 then s.setFunc fn f
    else
      let s := s.setFunc fn { f with prEn := true, prErr := false, prTail := 0#64, prHead := 0#64, prDone := [] }
      let again (p : PageReq) : PageReq := if p.fn == fn then { p with record := none } else p
      flushRecords { s with pages := s.pages.map again } fn

/-- PRCTL_ENABLE (R126). -/
def execPrctlEnable (fn : Nat) (val : Word64) (s : State) : Host.Outcome State Fault Refusal :=
  .next (prctlWrite s fn val)

/-- A write of PRHEAD: a lower value is ignored (R126). -/
def prheadSet (s : State) (fn : Nat) (val : Word64) : State :=
  if (s.func fn).prHead.toNat ≤ val.toNat then
    flushRecords (s.modFunc fn (fun f => { f with prHead := val })) fn
  else s

/-- PRHEAD_WRITE (R126). -/
def execPrheadWrite (fn : Nat) (val : Word64) (s : State) : Host.Outcome State Fault Refusal :=
  .next (prheadSet s fn val)

/-! ### ACQ and REL (R200, R201, R409) -/

/-- ACQ_COMPLETE (R201): the word is read; the wait form goes on until it has reached the value. The team has
then acquired what RELs up to that sequence released, from parties of its scope's instance. -/
def execAcqComplete (op : Nat) (s : State) : Host.Outcome State Fault Refusal :=
  match Tab.find s.ops op with
  | some (.acq t p _ soba dest value flag scope) =>
    let k := s.task (s.team t).task
    let flat := flatOf s k.fn soba
    if !onCore s t || wordHeld s t p op flat false then .next s
    else match trackRead s k.fn k.ts flat 8 with
    | .ok s =>
      let v := leNat (cohortBytes s k.fn k.ts flat 8)
      if value.all (fun w => decide (w.toNat ≤ v)) then
        let got : Acquired := { soba := soba, seq := v, scope := scope, upto := s.nextId, by_ := placeOf s t }
        let s := { clearFull s op with ops := Tab.erase s.ops op }.modTeam t (fun tm =>
          { tm with acquired := got :: tm.acquired })
        .next (flagDone (landSeq s t dest v (some flag)) t (some flag))
      else .next s
    | .stall => .next s
    | .full l => .next (noteFull s op l)
  | _ => .next s

/-- REL_COMPLETE (R200): once the bound writes are performed, 1 is added to the word. -/
def execRelComplete (op : Nat) (s : State) : Host.Outcome State Fault Refusal := .next (relAdd s op)

end Sys2Proof.Machine
end

