-- ==== Sys2Proof/Machine/Copy.lean ====
section
/-! DEFINITION. COPY, COPYG, COPYS and FILL at issue (R413-R425), and the steps of a copy channel
(R414, R419, R420, R426). -/

namespace Sys2Proof.Machine

open Sys2Proof

/-! ### The checks of R418 -/

/-- The shared side that RING replaces has offset 0, and fields that are not used are 0 (R415, R420). -/
def copyOffsetsOk (q : CopyCmd) : Bool :=
  let soffUsed := (q.dir == 0 && q.rmode != 1) || (q.dir == 1 && q.rmode != 2 && !q.isFill)
    || (q.dir == 3 && q.rmode != 2)
  let soff2Used := q.dir == 3 && q.rmode != 1
  (soffUsed || q.soff == 0) && (soff2Used || q.soff2 == 0)

/-- DIR, RMODE, COP and the other fields are allowed for the opcode. -/
def copyFieldsOk (q : CopyCmd) : Bool :=
  let dirOk := if q.kind == 1 then q.follow.isNone || q.dir == 0
    else if q.kind == 2 then q.dir == 0
    else if q.kind == 3 then q.dir == 1
    else decide (q.dir ≤ 1)
  let rmodeOk := q.rmode == 0 || (q.rmode == 1 && (q.dir == 0 || q.dir == 3))
    || (q.rmode == 2 && !q.isFill && (q.dir == 1 || q.dir == 3))
  dirOk && rmodeOk && (q.rmode != 0 || q.ring == 0)
    && (if q.kind == 3 then decide (q.cop ≤ 3) else q.cop == 0)
    && q.d 0 31 1 == 0 && q.d 5 16 16 == 0 && q.d 6 0 64 == 0 && q.d 7 0 64 == 0
    && (q.srcGlobal || q.tids == 0) && (q.dstGlobal || q.tidd == 0)
    && (q.boxTid.isSome || (List.range 5).all (fun i => q.x i == 0))
    && (q.kind != 1 || q.auxw == 0) && copyOffsetsOk q
    && (List.range 5).all (fun i => q.ext i != 0)

/-- The tensors that a command names: number, and whether it is the destination. -/
def CopyCmd.tensors (q : CopyCmd) : List (Nat × Bool) :=
  (if q.srcGlobal then [(q.tids, false)] else []) ++ (if q.dstGlobal then [(q.tidd, true)] else [])

/-- The pairings of COP and format (R424). -/
def copOk (cop : Nat) (f : Fmt) : Bool :=
  let ints := [Fmt.int32, .uint32, .int64].contains f
  let floats := fmtsF.contains f
  if cop == 0 then ints else if cop == 3 then floats else ints || floats

/-- The box fits the ranks (R416, R423, R424). -/
def copyBoxOk (s : State) (tk : Nat) (q : CopyCmd) : Bool :=
  let ds := q.tensors.filterMap (fun t => descOf s tk t.1)
  let rows := !q.byRows || (q.ext 2 == 1 && q.ext 3 == 1 && q.ext 4 == 1)
  let fits (d : Desc) : Bool := (List.range 5).all (fun i => decide (i < d.rank) || q.ext i == 1)
    && (!q.byRows || decide (2 ≤ d.rank)) && (q.kind != 3 || copOk q.cop d.fmt)
  rows && ds.all fits && (match ds with
    | [a, b] => a.rank == b.rank && a.fmt == b.fmt
    | _ => true)

/-- Offsets are multiples of 4, and 4-bit boxes begin and end on their groups (R416). -/
def copyAligned (s : State) (tk : Nat) (q : CopyCmd) : Bool :=
  let ok (d : Desc) : Bool :=
    let g : Nat := if d.fmt == .i4x then 4 else if d.fmt.memBits == 4 then 2 else 1
    q.ext 0 % g == 0 && q.x 0 % (g : Int) == 0
  q.soff % 4 == 0 && q.soff2 % 4 == 0 && (!q.byRows || q.auxw % 4 == 0)
    && (q.tensors.filterMap (fun t => descOf s tk t.1)).all ok

/-- Every shared byte lies inside the crew's allocation. -/
def copyInside (cr : Crew) (q : CopyCmd) (len : Nat) : Bool :=
  let fits (on : Bool) (off n : Nat) : Bool := !on || decide (off + n ≤ cr.shmBytes)
  fits (!q.dstGlobal && q.rmode != 1) (if q.dir == 3 then q.soff2 else q.soff) len
    && fits (q.srcShared && q.rmode != 2) q.soff len && fits q.byRows q.auxw (4 * q.ext 1)

/-- The rules of a ring that a command fills or empties (R420). -/
def ringStreamBad (cr : Crew) (h len : Nat) : Bool :=
  let r := cr.ring h
  decide (cr.nrings ≤ h) || len % r.sz != 0 || decide (r.slots * r.sz < len)

/-- The first tensor that is no valid one, or a destination that is tensor 1. -/
def copyTensorFault (s : State) (tk : Nat) (q : CopyCmd) : Option FaultInfo :=
  q.tensors.findSome? (fun t =>
    if (descOf s tk t.1).isNone then
      some { code := .tensorInvalid, tensor := t.1, addr := descAddr (s.task tk) t.1 }
    else if t.2 && t.1 == 1 then some { code := .tileProtection, tensor := 1 }
    else none)

/-- The follow-on as it is checked at the copy's issue (R422). -/
def CopyCmd.followOn (q : CopyCmd) : Option MxCmd :=
  q.follow.map (fun x =>
    { kind := if fld (q.desc.getD 8 0#64).toNat 0 1 == 1 then 9 else 8, x := x, desc := q.desc.drop 8 })

/-- The checks of a copy command at issue, in the order of R418. -/
def copyFault (s : State) (c : Ctx) (q : CopyCmd) : Option FaultInfo :=
  let tk := c.tm.task
  let cr := c.crew s
  if !copyFieldsOk q then some (flt .illegalOperand)
  else
    match copyTensorFault s tk q with
    | some f => some f
    | none =>
      let len := copyLen s q
      let ds := q.tensors.filterMap (fun t => descOf s tk t.1)
      let early := checks
        [ (!copyBoxOk s tk q, flt .illegalOperand),
          (!copyAligned s tk q, flt .align),
          (!copyInside cr q len, flt .sharedBounds),
          (q.rmode != 0 && ringStreamBad cr q.ring len, flt .ringMisuse),
          (q.atom && (q.dir == 3 || ds.any (fun d => !d.versioned)), flt .tileProtection) ]
      match early with
      | some f => some f
      | none =>
        match q.followOn.bind (fun m => mxFault s c m false) with
        | some f => some f
        | none =>
          checks [(ds.any (fun d => tensorMasked s (c.tk s).fn d), flt .featureMasked)]

/-! ### Issue -/

/-- A copy command enters its channel (R413). -/
def copyRun (s : State) (f : XFields) (kind : Nat) : Host.Outcome State Fault Refusal :=
  runCommandKeep s (fun c p =>
    let q : CopyCmd :=
      { kind := kind, desc := c.words p f.sd.toNat (if f.follow then 12 else 8), flag := f.flagOf
        team := c.t, path := c.p, pc := c.pc, acq := f.acq, rel := f.rel, atom := f.atom
        scope := (clampScope s c.t f.scope.toNat).2
        follow := if f.follow then some f else none, waits := commandWaits s c f (kind == 3) }
    let tensors := q.tensors.map Prod.fst ++ (q.followOn.map MxCmd.tensors).getD []
    let kept := tensors.foldl (fun s t => keepDesc s c.tm.task t) s
    match copyFault s c q with
    | some e => (if copyFieldsOk q then kept else s, some e)
    | none =>
      let rows := match q.followOn with | some m => ownedRows c f m.m | none => []
      let late := lateElems s c rows
      let s := ownRows (issueCommand kept c f (kind == 3)) c.t rows
      let (id, s) := s.newId
      let n := q.d 0 0 4
      ((s.modCrew c.tm.crew (fun cr =>
        let ch := cr.chanOf n
        cr.setChan n { ch with queue := ch.queue ++ [{ q with id := id, rows := rows, accOld := late }] })).bump, none))

/-- COPY (R419). -/
def execCopy (f : XFields) (s : State) : Host.Outcome State Fault Refusal := copyRun s f 1

/-- COPYG (R423). -/
def execCopyg (f : XFields) (s : State) : Host.Outcome State Fault Refusal := copyRun s f 2

/-- COPYS (R424). -/
def execCopys (f : XFields) (s : State) : Host.Outcome State Fault Refusal := copyRun s f 3

/-- FILL (R425). -/
def execFill (f : XFields) (s : State) : Host.Outcome State Fault Refusal := copyRun s f 4

/-! ### The channel -/

/-- A write to a HOST or REMOTE tensor (R181). -/
def copyIrrevocable (s : State) (q : CopyCmd) : Bool :=
  q.dstGlobal && (match descOf s (s.team q.team).task q.tidd with
    | some d => d.host || d.remote
    | none => false)

/-- The crew's engines may act: it is on a core and not moving (R157, R253). -/
def crewRuns (cr : Crew) : Bool := !cr.saved && cr.moving.isNone

/-- What a head command waits for beside leave: its accesses, its ring, and the frontier when it is
irrevocable (R181, R206, R420). -/
def copyMayStart (s : State) (cr : Crew) (q : CopyCmd) : Bool :=
  let k := s.task (s.team q.team).task
  q.waits.all (fun i => (Tab.find s.accesses i).isNone) && copyRoom cr q (copyLen s q)
    && (!copyIrrevocable s q || mayIrrevocable s k)

/-- COPY_START (R420, R426): the channel's head asks for leave if it needs it, and starts once its leave
and its ring slots are there. -/
def execCopyStart (crew chan : Nat) (s : State) : Host.Outcome State Fault Refusal :=
  let cr := s.crew crew
  match (cr.chanOf chan).queue with
  | [] => .next s
  | q :: _ =>
    if q.started || q.fault.isSome || !crewRuns cr then .next s
    else
      let e := copyEngine crew chan
      let leave := copyNeedsLeave (copyLen s q)
      if leave && !hasLeave s cr.core e copyCost then .next (askLeave s cr.core e copyCost none false)
      else if !copyMayStart s cr q then .next s
      else
        let k := s.task (s.team q.team).task
        let s := if copyIrrevocable s q then enterWriteThrough s k.fn k.ts else s
        let s := if leave then leaveStarts s cr.core e else s
        .next (copyBegin s crew chan q)

/-- A copy that has started has the leave that it runs under (R25, R26). -/
def copyLeave (s : State) (core crew chan : Nat) (q : CopyCmd) : Bool :=
  !copyNeedsLeave (copyLen s q) || hasLeave s core (copyEngine crew chan) copyCost

/-- A channel whose next unit may move: its head has started, its leave is there, and no fault or walk holds it. -/
def chanReady (s : State) (crew chan : Nat) : Bool :=
  let cr := s.crew crew
  match (cr.chanOf chan).queue with
  | [] => false
  | q :: _ => q.started && q.fault.isNone && q.wants.isEmpty && crewRuns cr && !copyLanded s cr.core q
    && copyLeave s cr.core crew chan q

/-- The place of a channel in the copy engine's rotation (R413). -/
def Core.chanTurn (co : Core) (key : Nat) : Nat := if co.copyPtr ≤ key then key else key + 2 ^ 64

/-- Of the channels whose units have come at this moment, another of the core stands before this one in the
rotation (R413). -/
def chanAhead (s : State) (core crew chan : Nat) : Bool :=
  let co := s.core core
  let before (e : Nat × Nat) : Bool := (s.crew e.1).core == core && chanReady s e.1 e.2
    && decide (co.chanTurn (16 * e.1 + e.2) < co.chanTurn (16 * crew + chan))
  co.copyTurns.any before || s.agenda.any (fun e => decide (e.1 ≤ s.now) && (match e.2 with
    | .copyUnitLand c n _ => before (c, n)
    | _ => false))

/-- Bytes that the copy engine of a core has moved in this cycle. -/
def copyMoved (s : State) (core : Nat) : Nat := if (s.core core).copyAt == s.now then (s.core core).copyBytes else 0

/-- A unit of a channel has moved: the pointer passes it, and the cycle's bytes are counted (R413). -/
def noteUnit (s : State) (core crew chan n : Nat) : State :=
  let moved := copyMoved s core
  if n == 0 then s
  else s.modCore core (fun co => { co with copyPtr := 16 * crew + chan + 1, copyAt := s.now, copyBytes := moved + n })

/-- What the next step of a started command comes to. -/
def landNext (s : State) (crew chan : Nat) (q : CopyCmd) : State :=
  let core := (s.crew crew).core
  match copyAdvance s crew core q with
  | .ok s' q' =>
    let s := noteUnit (setHead (clearFull s' q.id) crew chan q') core crew chan (q'.done - q.done)
    if copyLanded s core q' then copyFinish s crew core chan q' else s
  | .walk s q => setHead s crew chan q
  | .wait => s
  | .full l => noteFull s q.id l
  | .fault f => engineFault (setHead s crew chan { q with words := [] }) q.id f

/-- COPY_UNIT_LAND (R412-R414, R419, R422): the next unit of a started command lands; after the last one the
command ends. Units that come in one cycle are taken by the rotating pointer, up to 256 bytes. A command whose leave an
edge, a move or a retirement has taken asks for it again (R25, R26). Words of memory errors that the ECC cannot correct (R39). -/
def execCopyUnitLand (crew chan : Nat) (bad : List Nat) (s : State) : Host.Outcome State Fault Refusal :=
  let cr := s.crew crew
  match (cr.chanOf chan).queue with
  | [] => .next s
  | q :: _ =>
    let s := noteErrors s bad
    if !q.started || q.fault.isSome || !crewRuns cr then .next s
    else if copyLanded s cr.core q then .next (copyFinish s crew cr.core chan q)
    else if !copyLeave s cr.core crew chan q then .next (askLeave s cr.core (copyEngine crew chan) copyCost none false)
    else if chanAhead s cr.core crew chan || 256 < copyMoved s cr.core + 64 then
      .next (s.modCore cr.core (fun co => { co with copyTurns := co.copyTurns ++ [(crew, chan)] }))
    else .next (landNext s crew chan q)

/-- The waiting unit that the copy engine of a core takes next (R413). -/
def turnDue (s : State) (core : Nat) : Option (Nat × Nat) :=
  if 256 < copyMoved s core + 64 then none
  else (s.core core).copyTurns.find? (fun e => !chanReady s e.1 e.2 || !chanAhead s core e.1 e.2)

/-- The copy engine of a core takes a waiting unit; one whose channel cannot move is no longer there. -/
def takeTurn (s : State) (core : Nat) (e : Nat × Nat) : State :=
  let s := s.modCore core (fun co => { co with copyTurns := co.copyTurns.erase e })
  match ((s.crew e.1).chanOf e.2).queue with
  | [] => s
  | q :: _ => if chanReady s e.1 e.2 then landNext s e.1 e.2 q else s

end Sys2Proof.Machine
end

