-- ==== Sys2Proof/Machine/Matrix.lean ====
section
/-! DEFINITION. MMA, MMAS, ACCZ, ACCOUT and LVREQ at issue, and the steps of a matrix engine
(R427-R435, R444). -/

namespace Sys2Proof.Machine

open Sys2Proof

/-! ### Issue -/

/-- A matrix command as its bundle gives it. -/
def mxCommand (s : State) (c : Ctx) (p : Pass) (f : XFields) (kind words : Nat) : MxCmd :=
  { kind := kind, x := f, desc := c.words p f.sd.toNat words, team := c.t, path := c.p, crew := c.tm.crew
    flag := f.flagOf, pc := c.pc, queuedAt := s.now, waits := commandWaits s c f }

/-- The command enters the queue of its core, and its rows become owned (R427, R428). -/
def mxEnqueue (s : State) (c : Ctx) (f : XFields) (q : MxCmd) : State :=
  let rows := ownedRows c f q.m
  let late := lateElems s c rows
  let core := c.core s
  let s := ownRows (issueCommand s c f) c.t rows
  let (id, s) := s.newId
  let put (co : Core) : Core :=
    { co with matrix := co.matrix ++ [{ q with id := id, rows := rows, accOld := late }] }
  (s.modCore core put).bump

/-- MMA and MMAS (R433): leave is asked for when the command arrives (R26). -/
def mmaRun (s : State) (f : XFields) (kind : Nat) : Host.Outcome State Fault Refusal :=
  runCommandKeep s (fun c p =>
    let q := mxCommand s c p f kind 4
    let kept := q.tensors.foldl (fun s t => keepDesc s c.tm.task t) s
    match mxFault s c q true with
    | some e => (if e.code == .sashViolation then s else kept, some e)
    | none =>
      let core := c.core s
      (askLeave (mxEnqueue kept c f q) core (mxEngine core) (mxCost q.fmtA.width) none false, none))

/-- MMA (R433). -/
def execMma (f : XFields) (s : State) : Host.Outcome State Fault Refusal := mmaRun s f 8

/-- MMAS (R433). -/
def execMmas (f : XFields) (s : State) : Host.Outcome State Fault Refusal := mmaRun s f 9

/-- ACCZ (R434). -/
def execAccz (f : XFields) (s : State) : Host.Outcome State Fault Refusal :=
  runCommand s (fun c p =>
    let q := mxCommand s c p f 10 0
    match checks [((c.crew s).sash != c.tm.tix, flt .sashViolation),
        (decide (c.tm.accLim < f.acc.toNat + q.m), flt .accWindow)] with
    | some e => .error e
    | none => .ok (mxEnqueue s c f q))

/-- Bytes that an ACCOUT writes. -/
def MxCmd.outLen (q : MxCmd) : Nat := q.m * q.n * (Fmt.ofCode (q.e 0 0 4)).width / 8

/-- The checks of an ACCOUT at issue (R418, R435). -/
def accoutFault (s : State) (c : Ctx) (f : XFields) (q : MxCmd) : Option FaultInfo :=
  let cr := c.crew s
  let ring := q.e 0 8 1 == 1
  let off := q.e 0 32 32
  let fmtOk := [Fmt.fp32, .bf16, .fp16, .e4m3, .e5m2].contains (Fmt.ofCode (q.e 0 0 4))
  checks
    [ (!fmtOk || q.e 0 13 19 != 0 || q.e 1 32 32 != 0 || (ring && off != 0) || (!ring && q.e 0 9 4 != 0),
        flt .illegalOperand),
      (off % 4 != 0, flt .align),
      (!ring && decide (cr.shmBytes < off + q.outLen), flt .sharedBounds),
      (ring && ringStreamBad cr (q.e 0 9 4) q.outLen, flt .ringMisuse),
      (decide (c.tm.accLim < f.acc.toNat + q.m), flt .accWindow) ]

/-- ACCOUT (R435). -/
def execAccout (f : XFields) (s : State) : Host.Outcome State Fault Refusal :=
  runCommand s (fun c p =>
    let q := mxCommand s c p f 11 2
    match accoutFault s c f q with
    | some e => .error e
    | none => .ok (mxEnqueue s c f q))

/-! ### LVREQ (R29, R444) -/

/-- The engine and the cost that an LVREQ names. -/
def lvreqEngine (s : State) (c : Ctx) (f : XFields) : Nat × Nat :=
  let core := c.core s
  if f.shape == 0 then (mxEngine core, mxCost (if f.acc == 0 then 16 else if f.acc == 1 then 8 else 4))
  else if f.shape == 1 then (copyEngine c.tm.crew f.ha.toNat, copyCost)
  else (collEngine (dieOf core), collCost)

/-- LVREQ (R444): an engine that holds the cost already renews its reservation and sets the flag; else a
request joins the queue, and its grant sets the flag. -/
def execLvreq (f : XFields) (s : State) : Host.Outcome State Fault Refusal :=
  runCommand s (fun c _ =>
    let e := lvreqEngine s c f
    let core := c.core s
    let s := flagIssue s c.t f.flagOf
    let renew (x : Leave) : Leave := if x.engine == e.1 && x.reservation then { x with at_ := s.now } else x
    if hasLeave s core e.1 e.2 then
      let s := s.modDie (dieOf core) (fun d => { d with granted := d.granted.map renew })
      .ok (flagDone s c.t f.flagOf)
    else
      let (id, s) := s.newId
      let s := { s with ops := Tab.set s.ops id (.lvreq c.t e.1 f.flag.toNat e.2) }
      let d := s.die (dieOf core)
      let r : Leave := { engine := e.1, core := core, cost := e.2 - d.asked e.1, op := some id
                         reservation := true, at_ := s.now }
      .ok (s.setDie (dieOf core) (enqueueLeave d r)))

/-! ### The matrix engine -/

/-- The first command of a core that has not started. -/
def mxNext (s : State) (core : Nat) : Option MxCmd :=
  (s.core core).matrix.find? (fun m => m.start.isNone)

/-- The cycles that R428 asks for have passed. -/
def mxTimely (s : State) (core : Nat) (q : MxCmd) : Bool :=
  decide (q.queuedAt + 4 ≤ s.now)
    && (match (s.core core).lastStart with | some t => decide (t + 8 ≤ s.now) | none => true)

/-- What the command waits for beside leave (R427). -/
def mxMayStart (s : State) (core : Nat) (q : MxCmd) : Bool :=
  mxTimely s core q && q.fault.isNone && q.wants.isEmpty && crewRuns (s.crew q.crew) && mxData (s.crew q.crew) q
    && q.waits.all (fun i => (Tab.find s.accesses i).isNone)

/-- A command of a core is replaced. -/
def setMx (s : State) (core : Nat) (q : MxCmd) : State :=
  s.modCore core (fun co => { co with matrix := co.matrix.map (fun m => if m.id == q.id then q else m) })

def dropMx (s : State) (core id : Nat) : State :=
  s.modCore core (fun co => { co with matrix := co.matrix.filter (fun m => m.id != id) })

/-- MATRIX_STEP_START (R427, R428, R432). A follow-on asks for leave when it has arrived. -/
def execMatrixStepStart (core : Nat) (s : State) : Host.Outcome State Fault Refusal :=
  match mxNext s core with
  | none => .next s
  | some q =>
    let e := mxEngine core
    let cost := mxCost q.fmtA.width
    if q.isMma && !hasLeave s core e cost then .next (askLeave s core e cost none false)
    else if !mxMayStart s core q then .next s
    else
      match mxBegin s core q with
      | .ok s q =>
        let s := if q.isMma then leaveStarts s core e else s
        let s := setMx (clearFull s q.id) core q
        .next (s.modCore core (fun co => { co with lastStart := some s.now }))
      | .walk s q => .next (setMx s core q)
      | .wait => .next s
      | .full l => .next (noteFull s q.id l)
      | .fault f => .next (engineFault (setMx s core { q with words := [] }) q.id f)

/-- The first command of a core that is due for something n cycles after its start. -/
def mxDue (s : State) (core n : Nat) (done : MxCmd → Bool) : Option MxCmd :=
  (s.core core).matrix.find? (fun m =>
    !done m && (match m.start with | some t => decide (t + n ≤ s.now) | none => false))

/-- MATRIX_OPERANDS_DONE (R428): the consumer advances of s + 8, and the release of the pins. -/
def execMatrixOperandsDone (core : Nat) (s : State) : Host.Outcome State Fault Refusal :=
  match mxDue s core 8 MxCmd.consDone with
  | none => .next s
  | some q => .next (setMx (mxConsume s q) core { q with consDone := true, pins := [] })

/-- MATRIX_ROWS_WRITTEN (R428, R433-R435): the rows are written at s + 24, in starting order. An ACCOUT
stays until its bytes are written. -/
def execMatrixRowsWritten (core : Nat) (s : State) : Host.Outcome State Fault Refusal :=
  match mxDue s core 24 MxCmd.rowsDone with
  | none => .next s
  | some q =>
    let r := mxRowsWrite s q
    .next ((if q.kind == 11 then setMx r.1 core r.2 else dropMx r.1 core q.id).bump)

/-- ACCOUT_LAST_BYTE_WRITTEN (R435): no earlier than s + 32. -/
def execAccoutLastByteWritten (core : Nat) (s : State) : Host.Outcome State Fault Refusal :=
  match mxDue s core 32 (fun m => m.kind != 11 || !m.rowsDone) with
  | none => .next s
  | some q => .next (dropMx (accoutFinish s q) core q.id)

end Sys2Proof.Machine
end

