-- ==== Sys2Proof/Machine/Coll.lean ====
section
/-! DEFINITION. COLL (R436-R440): the checks at issue, the start as an irrevocable operation, and the
completion with what the other ranks sent (log 20). -/

namespace Sys2Proof.Machine

open Sys2Proof

/-! ### The descriptor (R436) -/

def collW (d : List Word64) (w lo n : Nat) : Nat := fld (d.getD w 0#64).toNat lo n
def collOp (d : List Word64) : Nat := collW d 0 0 3
def collRed (d : List Word64) : Nat := collW d 0 3 2
def collFmt (d : List Word64) : Fmt := Fmt.ofCode (collW d 0 5 4)
def collGroup (d : List Word64) : Nat := collW d 1 0 64
def collSrc (d : List Word64) : Nat := collW d 2 0 64
def collDst (d : List Word64) : Nat := collW d 3 0 64
def collCount (d : List Word64) : Nat := collW d 4 0 32
def collTag (d : List Word64) : Nat := collW d 0 32 32

/-- Bytes of n elements. -/
def collBytes (d : List Word64) (n : Nat) : Nat := n * (collFmt d).memBits / 8

/-- NPEER, RANK and the entries of the group, which the start adds to the descriptor from word 5 on. -/
def collN (d : List Word64) : Nat := collW d 5 0 64
def collRank (d : List Word64) : Nat := collW d 6 0 64
def collIds (d : List Word64) : List Word64 := d.drop 7

/-- What a COLL refuses at issue. -/
def collBad (d : List Word64) : Bool :=
  let reduces := collOp d ≤ 1
  let fmts := [Fmt.int32, .uint32, .int64, .fp32, .bf16, .fp16]
  decide (4 < collOp d) || collRed d == 3 || (!reduces && collRed d != 0) || collW d 0 19 13 != 0
    || collW d 4 32 32 != 0 || collCount d == 0
    || collCount d * (collFmt d).memBits % 32 != 0 || (reduces && !fmts.contains (collFmt d))

/-- COLL (R438-R440): it goes to the collective engine of the die, and asks for leave. -/
def execColl (f : XFields) (s : State) : Host.Outcome State Fault Refusal :=
  runCommand s (fun c p =>
    let d := c.words p f.sd.toNat 5
    if collBad d then .error (flt .illegalOperand)
    else
      let core := c.core s
      let waits := commandWaits s c f
      let (id, s) := (issueCommand s c f).newId
      let s := { s.bump with ops := Tab.set s.ops id (.coll c.t c.p d f.flagOf c.pc waits none none)
                             collX := Tab.set (s.collX.filter (fun e => (Tab.find s.ops e.1).isSome)) id f }
      .ok (askLeave s core (collEngine (dieOf core)) collCost none false))

/-! ### The start -/

/-- The fault of a range reached as tensor 0, by accesses of k bytes (R115, R120, R121). -/
def flatFault (s : State) (fn a n k : Nat) : Option FaultInfo :=
  if !inSeg s fn a n then
    if fn == pfFn then some { code := .tileNotPresent, slot := .x, addr := a, pages := [(a, true)] }
    else some { code := .segmentBound, slot := .x, addr := a }
  else if a % k != 0 then some { code := .align, slot := .x, addr := a }
  else none

/-- A number of the group record, as the task reads it (R170). -/
def groupNat (s : State) (k : Task) (a n : Nat) : Nat := leNat (cohortBytes s k.fn k.ts (flatOf s k.fn a) n)

/-- Bytes of a group record. -/
def groupLen (s : State) (k : Task) (g : Nat) : Nat := 8 + 2 * groupNat s k g 2

/-- The entries of a group record. -/
def groupIds (s : State) (k : Task) (g : Nat) : List Word64 :=
  (List.range (groupNat s k g 2)).map (fun i => BitVec.ofNat 64 (groupNat s k (g + 8 + 2 * i) 2))

/-- The group record obeys R437. -/
def groupOk (s : State) (k : Task) (g : Nat) : Bool :=
  let w := groupNat s k g 8
  let n := fld w 0 16
  let r := fld w 16 16
  let entry (i : Nat) : Nat := groupNat s k (g + 8 + 2 * i) 2
  decide (2 ≤ n) && decide (n ≤ 1024) && decide (r < n) && fld w 32 32 == 0
    && (List.range n).all (fun i => decide (entry i < 1024)) && entry r == Config.ownId.toNat

/-- Bytes at SRC, and at DST (R438). -/
def srcLen (d : List Word64) : Nat := if collOp d == 4 then 0 else collBytes d (collCount d)

def dstLen (d : List Word64) (n : Nat) : Nat :=
  if collOp d == 0 || collOp d == 4 then collBytes d (collCount d)
  else if collOp d == 1 then collBytes d (collCount d / n)
  else if collOp d == 2 then collBytes d (n * collCount d)
  else 0

/-- A byte of the group record lies in a word with an uncorrectable error (R39). -/
def groupBad (s : State) (k : Task) (g n : Nat) : Option FaultInfo :=
  (readBad s k.fn k.ts (flatOf s k.fn g) n).map (fun b =>
    { code := .memUncorrectable, slot := .x, addr := guestOf s k.fn b })

/-- The engine fault that a COLL meets at its start (R436, R437). -/
def collFault (s : State) (k : Task) (d : List Word64) : Option FaultInfo :=
  let fn := k.fn
  let g := collGroup d
  let w := max 1 ((collFmt d).memBits / 8)
  match flatFault s fn g 8 8, groupBad s k g 8 with
  | some f, _ => some f
  | none, some f => some f
  | none, none =>
    let n := groupNat s k g 2
    match flatFault s fn g (8 + 2 * n) 8, groupBad s k g (8 + 2 * n) with
    | some f, _ => some f
    | none, some f => some f
    | none, none =>
      if !groupOk s k g then some { code := .tensorInvalid, slot := .x, addr := g }
      else if (collOp d == 1 && collCount d % n != 0) || (decide (3 ≤ collOp d) && decide (n ≤ collW d 0 9 10)) then
        some { code := .illegalOperand, slot := .x }
      else
        match (if srcLen d == 0 then none else flatFault s fn (collSrc d) (srcLen d) w) with
        | some f => some f
        | none => if dstLen d n == 0 then none else flatFault s fn (collDst d) (dstLen d n) w

/-- No earlier COLL of the die is left (R439). -/
def collFirst (s : State) (die id : Nat) : Bool :=
  s.ops.all (fun o => match o.2 with
    | .coll t _ _ _ _ _ _ _ => decide (id ≤ o.1) || !collHere s t || dieOf (s.crew (s.team t).crew).core != die
    | _ => true)

/-- What a COLL reads under tracking: its group record, and its source (R171, R437). -/
def collReads (s : State) (k : Task) (d : List Word64) : Track :=
  match trackRead s k.fn k.ts (flatOf s k.fn (collGroup d)) (groupLen s k (collGroup d)) with
  | .ok s => trackRead s k.fn k.ts (flatOf s k.fn (collSrc d)) (srcLen d)
  | r => r

/-- With ACQ, a COLL waits for what its team has released and acquired, and has still in flight (R206). -/
def collHeld (s : State) (id t : Nat) (k : Task) (d : List Word64) : Bool :=
  let u (a n : Nat) : MUnit := { lane := 0, addr := some (flatOf s k.fn a), bits := 8 * n }
  engineHeld s t id ((Tab.find s.collX id).any XFields.acq) none false
    [u (collGroup d) (groupLen s k (collGroup d)), u (collSrc d) (srcLen d)]

/-- A waiting COLL starts when its task is the frontier's and unpredicted, its accesses are performed and
its leave is granted (R181, R206, R440): the source is read and sent. A command whose leave is gone asks for it
again (R26). -/
def collStart (s : State) (id : Nat) : State :=
  match Tab.find s.ops id with
  | some (.coll t p d flag pc waits none none) =>
    let tm := s.team t
    let k := s.task tm.task
    let cr := s.crew tm.crew
    let die := dieOf cr.core
    let e := collEngine die
    let ready := mayIrrevocable s k && collFirst s die id && crewRuns cr
      && waits.all (fun i => (Tab.find s.accesses i).isNone)
    if !ready then s
    else if !hasLeave s cr.core e collCost then askLeave s cr.core e collCost none false
    else
      match collFault s k d with
      | some f => engineFault s id f
      | none =>
        let g := collGroup d
        let flat := flatOf s k.fn (collSrc d)
        if collHeld s id t k d then s
        else match collReads s k d with
        | .ok s =>
          match readBad s k.fn k.ts flat (srcLen d) with
          | some b => engineFault s id { code := .memUncorrectable, slot := .x, addr := guestOf s k.fn b }
          | none =>
            let src := cohortBytes s k.fn k.ts flat (srcLen d)
            let d := d ++ [BitVec.ofNat 64 (groupNat s k g 2), BitVec.ofNat 64 (groupNat s k (g + 2) 2)] ++ groupIds s k g
            let s := clearFull (leaveStarts (enterWriteThrough s k.fn k.ts) cr.core e) id
            { s with ops := Tab.set s.ops id (.coll t p d flag pc waits (some src) none) }
        | .stall => s
        | .full l => noteFull s id l
  | _ => s

/-! ### The completion -/

/-- The match of a message: TAG and the group's entries (R439; log 20). -/
def collMatch (d : List Word64) : List Byte :=
  leBytes 4 (collTag d) ++ (collIds d).flatMap (fun e => leBytes 2 e.toNat)

/-- What a rank sends after the match: OP, RED and FMT, COUNT, and its bytes (log 20). -/
def collHeader (d : List Word64) (op : Nat) : List Byte :=
  leBytes 4 (op + 8 * collRed d + 32 * (collFmt d).code) ++ leBytes 4 (collCount d)

/-- The messages that a command takes: one of each other rank, or the partner's, all with its TAG and its group
(R439). -/
def collMeant (d : List Word64) (msgs : List (List Byte)) : Bool :=
  let m := collMatch d
  let meant (x : List Byte) : Bool := x.take m.length == m
  if 3 ≤ collOp d then msgs.length == 1 && msgs.all meant
  else msgs.length == collN d && (List.range msgs.length).all (fun i => i == collRank d || meant (msgs.getD i []))

/-- The messages behind their match. -/
def collData (d : List Word64) (msgs : List (List Byte)) : List (List Byte) := msgs.map (fun x => x.drop (collMatch d).length)

/-- The messages agree with the command (R439): a send meets a receive. -/
def collAgrees (d : List Word64) (peers : List (List Byte)) : Bool :=
  let op := collOp d
  let partner := op == 3 || op == 4
  let want := collHeader d (if partner then 7 - op else op)
  let len := if op == 3 then 0 else collBytes d (collCount d)
  let ok (m : List Byte) : Bool := m.take 8 == want && m.length == 8 + len
  if partner then (match peers with | [m] => ok m | _ => false)
  else peers.length == collN d
    && (List.range peers.length).all (fun i => i == collRank d || ok (peers.getD i []))

/-- The elements of a byte string. -/
def elemsOf (w : Nat) (bs : List Byte) : List Nat :=
  (List.range (bs.length * 8 / w)).map (fun i => fld (leNat bs) (w * i) w)

/-- Contributions combined from left to right in ascending rank (R438). -/
def collCombine (d : List Word64) (ms : List (List Byte)) : List Byte :=
  let f := collFmt d
  let w := f.memBits
  let join (a b : List Nat) : List Nat := List.zipWith (fun x y => combineElem (collRed d) f w x y 0) a b
  match ms.map (elemsOf w) with
  | [] => []
  | m :: r =>
    let out := r.foldl join m
    leBytes (out.length * w / 8) (packElems w out)

/-- The bytes that the command leaves at DST (R438). -/
def collResult (d : List Word64) (src : List Byte) (peers : List (List Byte)) : List Byte :=
  let data (i : Nat) : List Byte := if i == collRank d then src else (peers.getD i []).drop 8
  let all := (List.range (collN d)).map data
  let block := collBytes d (collCount d / collN d)
  if collOp d == 0 then collCombine d all
  else if collOp d == 1 then collCombine d (all.map (fun m => (m.drop (collRank d * block)).take block))
  else if collOp d == 2 then all.flatten
  else if collOp d == 4 then (peers.headD []).drop 8
  else []

/-- Of the commands with this TAG on this group, this one is the first (R439). -/
def collTurn (s : State) (op : Nat) (d : List Word64) : Bool :=
  s.ops.all (fun o => match o.2 with
    | .coll t _ e _ _ _ src _ =>
      let ids := if src.isSome then collIds e else groupIds s (s.task (s.team t).task) (collGroup e)
      decide (op ≤ o.1) || collTag e != collTag d || ids != collIds d
    | _ => true)

/-- The destination bytes are written. Without REL they may stay undone for parties that nothing orders after them, with
REL for those outside its scope (R206); host memory is written at once (R216). -/
def collWrite (s : State) (op t pc : Nat) (k : Task) (d : List Word64) (out : List Byte) : State :=
  let flat := flatOf s k.fn (collDst d)
  let x := Tab.find s.collX op
  let rel := x.any XFields.rel
  let scope := (x.map (fun f => f.scope.toNat)).getD 0
  let w := max 1 ((collFmt d).memBits / 8)
  if out.isEmpty || k.fn == pfFn || (rel && decide (5 ≤ scope)) || !Config.pick s.free op 0 then cohortWrite s k.fn k.ts flat out
  else
    let mark : Released := { scope := if rel then scope else 0, by_ := placeOf s t, upto := s.nextId + 1 }
    let acc : Access :=
      { team := t, path := enginePath op, pc := pc, kind := .store, engine := some (op, 2 ^ 64 + op), released := [mark]
        todo := (List.range (out.length / w)).map (fun i =>
          { lane := 0, idx := i, addr := some (flat + w * i), bits := 8 * w
            val := BitVec.ofNat 64 (leNat ((out.drop (w * i)).take w)) }) }
    { s with nextId := s.nextId + 1, accesses := Tab.set s.accesses s.nextId acc }

/-- COLL_COMPLETE (R438, R439): the peers' messages are there; a mismatch is a LINK_ERROR. Messages of another TAG or
group are not this command's. A command whose leave is gone asks for it again (R25). -/
def execCollComplete (op : Nat) (peers : List (List Byte)) (s : State) : Host.Outcome State Fault Refusal :=
  match Tab.find s.ops op with
  | some (.coll t _ d flag pc _ (some src) none) =>
    let tm := s.team t
    let k := s.task tm.task
    let core := (s.crew tm.crew).core
    let e := collEngine (dieOf core)
    if !crewRuns (s.crew tm.crew) || !collMeant d peers || !collTurn s op d then .next s
    else if !hasLeave s core e collCost then .next (askLeave s core e collCost none false)
    else if !collAgrees d (collData d peers) then .next (engineFault s op { code := .linkError, slot := .x })
    else
      let out := collResult d src (collData d peers)
      match trackWrite s k.fn k.ts (flatOf s k.fn (collDst d)) out.length with
      | .ok s =>
        let s := collWrite s op t pc k d out
        .next (flagDone { clearFull s op with ops := Tab.erase s.ops op }.bump t flag)
      | .stall => .next s
      | .full l => .next (noteFull s op l)
  | _ => .next s

end Sys2Proof.Machine
end

