-- ==== Sys2Proof/Machine/CrewSync.lean ====
section
/-! DEFINITION. Waiting for flags, channels, barriers and the sash (R460-R463). A wait whose condition does
not hold leaves its bundle as the path's PC (R447). -/

namespace Sys2Proof.Machine

open Sys2Proof

/-! ### Flags (R460) -/

/-- The flags that a mask names. -/
def flagsNamed (m : BitVec 16) : List Nat := bitsBelow 16 m.toNat

/-- The condition of WAITF. -/
def waitfHolds (tm : Team) (m : BitVec 16) (any : Bool) : Bool :=
  if any then (flagsNamed m).any (flagIsSet tm) else (flagsNamed m).all (flagIsSet tm)

/-- Every named flag that is set has been observed (R233). -/
def observeFlags (tm : Team) (fr : Nat) (m : BitVec 16) : Team :=
  ((flagsNamed m).filter (flagIsSet tm)).foldl (fun tm k => observeFlag tm fr k) tm

/-- CLRF (R460): a flag with a pending count is left as it is. -/
def execClrf (m : BitVec 16) (s : State) : Host.Outcome State Fault Refusal :=
  runControl s (fun c =>
    .ok (s.modTeam c.t (fun tm =>
      let idle_ := (flagsNamed m).filter (fun k => Tab.get tm.flagCount k 0 == 0)
      let bits := idle_.foldl (fun (b : BitVec 16) k => b ||| BitVec.ofNat 16 (2 ^ k)) 0#16
      { tm with flagSet := tm.flagSet &&& ~~~bits })))

/-! ### Channels (R461) -/

def Crew.chan (cr : Crew) (n : Nat) : Channel := Tab.get cr.chans n {}

/-- The value that WAITC waits for: Sk as it was read when the bundle first became ready. -/
def waitcValue (c : Ctx) (k : BitVec 7) : Nat :=
  match c.pa.waitVal with
  | some v => v.toNat
  | none => c.sreg k.toNat

/-- WAITC (R461). -/
def execWaitc (n : BitVec 4) (k : BitVec 7) (s : State) : Host.Outcome State Fault Refusal :=
  runControl s (fun c =>
    let v := waitcValue c k
    let ok := decide (v ≤ ((c.crew s).chan n.toNat).cwp.toNat)
    let mark (pa : Path) : Path := { pa with waitVal := if ok then none else some (BitVec.ofNat 64 v) }
    let s := s.modPath c.t c.p mark
    .ok (if ok then s else holdPath s c 2).bump)

/-! ### Barriers (R462) -/

/-- Every live path of a team waits at the BAR bundle, and the debugger holds none of them (R238, R269). -/
def allAtBar (tm : Team) (pc : Nat) : Bool := tm.paths.all (fun e => e.2.atBar && e.2.pc == pc && !e.2.isHeld)

/-- The lowest index of a team's paths. -/
def lowestPath (tm : Team) : Nat := tm.paths.foldl (fun m e => min m e.1) 8

/-- A barrier that the whole crew completes in a bundle with YLD is a synchronous yield: a requested
migration may begin once every team has issued the bundle (R156). -/
def syncYield (s : State) (c : Ctx) (b : Nat) : State :=
  let cr := c.crew s
  let live := liveTeams s cr
  if cr.migrate && c.hdr.yld && (cr.bar b).arrived.length == live.length then
    s.setCrew c.tm.crew { cr with syncing := true, syncLeft := live }
  else s

/-- The team of a path that waits at a barrier can arrive now: its other paths have ended or have come (R238, R462). -/
def barOpen (s : State) (c : Ctx) (b : Nat) : Bool :=
  allAtBar (s.team c.t) c.pc && !((c.crew s).bar b).arrived.contains c.tm.tix

/-- A path waits at its BAR bundle; the team arrives when all of its paths do (R238, R462). -/
def barArrive (s : State) (c : Ctx) (b count : Nat) : Except FaultInfo State :=
  let wait (pa : Path) : Path := { pa with pc := c.pc, atBar := true, stall := 5 }
  let tm := (s.team c.t).modPath c.p wait
  let cr := c.crew s
  let bar := cr.bar b
  if bar.arrived.contains tm.tix || !allAtBar tm c.pc then .ok (s.setTeam c.t tm)
  else if !bar.arrived.isEmpty && bar.target != count then .error (flt .illegalOperand)
  else
    let low := lowestPath tm
    let s := s.setTeam c.t (mergeAll tm low)
    let s := (otherPaths tm low).foldl (fun s _ => tracePath s c.t low .pathMerged 0) s
    let bar : Barrier := { arrived := bar.arrived ++ [tm.tix], target := count }
    let s := s.setCrew c.tm.crew { cr with bars := Tab.set cr.bars b bar }
    let done := barTarget s (c.crew s) bar ≤ bar.arrived.length
    .ok (if done then completeBar (syncYield s c b) c.tm.crew b else s)

/-- A path that its completed barrier has freed goes on (R462). -/
def passBar (s : State) (c : Ctx) : State :=
  let s := s.modPath c.t c.p (fun pa => { pa with barPass := false, atBar := false, pc := bundleAt c.pc 1 })
  s.modCrew c.tm.crew (fun cr => { cr with syncLeft := cr.syncLeft.filter (· != c.t) })

/-- BAR (R462). -/
def execBar (b : BitVec 4) (count : BitVec 5) (s : State) : Host.Outcome State Fault Refusal :=
  runControl s (fun c =>
    if c.pa.barPass then .ok (passBar s c)
    else
      match barArrive s c b.toNat count.toNat with
      | .error e => .error e
      | .ok s => .ok (if ((s.team c.t).path c.p).barPass then passBar s c else s))

/-! ### The sash (R463) -/

/-- Does the issuing team hold the sash (R243)? -/
def Ctx.holdsSash (c : Ctx) (s : State) : Bool := (c.crew s).sash == c.tm.tix

/-- SASHT passes: the team holds the sash, and not only since this cycle (R463). -/
def Ctx.sashOpen (c : Ctx) (s : State) : Bool := c.holdsSash s && decide ((c.crew s).sashFrom ≤ s.now)

/-- SASHT (R463). -/
def execSasht (s : State) : Host.Outcome State Fault Refusal :=
  runControl s (fun c => .ok (if c.sashOpen s then s else holdPath s c 6))

/-- SASHP (R463). -/
def execSashp (t : BitVec 4) (named : Bool) (s : State) : Host.Outcome State Fault Refusal :=
  runControl s (fun c =>
    if !c.holdsSash s then .error (flt .sashViolation)
    else if named && decide (teamCount s (c.crew s) ≤ t.toNat) then .error (flt .illegalOperand)
    else .ok (passSash s c.tm.crew (if named then t.toNat else c.tm.tix + 1)))

end Sys2Proof.Machine
end

