-- ==== Sys2Proof/Machine/Debug.lean ====
section
/-! DEFINITION. Debug commands (R271-R275), the hits of breakpoints (R266, R267), steps (R273) and the end
of a lease (R276), with the privileged forms DBGSPLIT, STEP and DBGRES (R472). -/

namespace Sys2Proof.Machine

open Sys2Proof

/-! ### Targets (R265, R271) -/

/-- What a command acts on: a task, a team and a path of it. -/
structure DbgTarget where
  k : Nat
  t : Nat
  p : Nat
  all : Bool

/-- The target that a DBGSEL value and a crew number name in a VF: a team that is resident or saved. A task on the
restart list holds no slot (R178). -/
def dbgTarget (s : State) (fn sel crew : Nat) : Option DbgTarget :=
  match s.tasks.find? (fun e => e.2.fn == fn && e.2.slot == fld sel 0 6 && !e.2.restart) with
  | none => none
  | some (k, _) =>
    match s.teams.find? (fun e => e.2.task == k && e.2.tix == fld sel 6 4 && !e.2.retired
        && (s.crew e.2.crew).number == crew) with
    | none => none
    | some (t, tm) =>
      let p := fld sel 10 3
      let all := bitAt sel 13
      if all || (Tab.find tm.paths p).isSome then some ⟨k, t, p, all⟩ else none

/-- The paths of a target. -/
def targetPaths (s : State) (d : DbgTarget) : List Nat :=
  if d.all then Tab.keys (s.team d.t).paths else [d.p]

/-- A change of some paths of a team. -/
def modPaths (s : State) (t : Nat) (ps : List Nat) (g : Path → Path) : State :=
  ps.foldl (fun s p => s.modPath t p g) s

/-- What differs between two byte strings: the places, with the new bytes. -/
def diffBytes (old new : List Byte) : List (Nat × Byte) :=
  ((List.range old.length).zip (old.zip new)).filterMap (fun e => if e.2.1 == e.2.2 then none else some (e.1, e.2.2))

/-- A command on a saved target acts on the saved state: its block follows (R271). -/
def syncSaved (s : State) (k : Nat) : State :=
  let tk := s.task k
  if tk.block == 0 then s
  else
    let new := blockOf s k ((crewsInOrder s k).filter Crew.saved) (tk.image.take 64)
    let s := (diffBytes tk.image new).foldl (fun s e => memWrite s (ctxFlat s tk.fn (tk.block + e.1)) [e.2]) s
    s.modTask k (fun x => { x with image := new })

/-! ### The commands (R271-R275): each gives the state, RESULT, and the path that DBGSPLIT created -/

abbrev DbgOut := State × Nat × Nat

/-- HALT: paths that are not yet held are held, with a stop record each. -/
def dbgHalt (s : State) (d : DbgTarget) : DbgOut :=
  let ps := (targetPaths s d).filter (fun p => !((s.team d.t).path p).held)
  (ps.foldl (fun s p => stopPath s d.t p 0 0) s, 0, 0)

/-- RESUME. -/
def dbgResume (s : State) (d : DbgTarget) : DbgOut :=
  let ps := (targetPaths s d).filter (fun p => ((s.team d.t).path p).held)
  if ps.isEmpty then (s, 3, 0)
  else
    let arrived := hasArrived s (s.team d.t)
    (modPaths s d.t ps (fun pa => { pa.release arrived with stepHeld := pa.stepHeld }), 0, 0)

/-- STEP: the other paths are held until the target's bundle is done (R273). -/
def dbgStep (s : State) (d : DbgTarget) : DbgOut :=
  let tm := s.team d.t
  if !(tm.path d.p).held then (s, 3, 0)
  else
    let others := ((otherPaths tm d.p).filter (fun e => !e.2.held)).map Prod.fst
    let s := modPaths s d.t others (fun pa => { pa with stepHeld := true })
    let arrived := hasArrived s tm
    (s.modPath d.t d.p (fun pa => { pa.release arrived with stepping := true }), 0, 0)

/-- DBGSPLIT: one lane of a held path leaves for a held debug path (R272). -/
def dbgSplit (s : State) (d : DbgTarget) (lane : Nat) : DbgOut :=
  let tm := s.team d.t
  let pa := tm.path d.p
  let m : Mask := maskOf [lane]
  if !pa.held then (s, 3, 0)
  else if !maskHas pa.active lane then (s, 6, 0)
  else
    match tm.freePath with
    | none => (s, 4, 0)
    | some q =>
      let child : Path :=
        { pa with kind := .debug, parent := d.p, base := pa.base &&& m, stack := pa.stack.map (· &&& m)
                  mergeAt := none, arrived := false, held := true, rmask := pa.rmask &&& m }
      let tm := (tm.setPath d.p (pa.without m)).setPath q child
      let follow (r : PageReq) : PageReq :=
        if r.parked.contains (d.t, d.p) then { r with parked := r.parked ++ [(d.t, q)] } else r
      let s := s.setTeam d.t tm
      (tracePath { s with pages := s.pages.map follow } d.t q .pathCreated 3, 0, q)

/-- The lanes of a team's held paths. -/
def heldLanes (tm : Team) : Mask :=
  (tm.paths.filter (fun e => e.2.held)).foldl (fun (m : Mask) e => m ||| e.2.base) 0#1024

/-- A result in flight by its lanes: those of held paths, and those of running ones. One that no lane has, such as a
scalar's, runs while any path does. -/
def splitHeld (tm : Team) (e : PendRes) : List (PendRes × Bool) :=
  let held := heldLanes tm
  match e.dest with
  | .sreg _ | .nothing => [(e, tm.paths.any (fun q => !q.2.held))]
  | _ =>
    let part (run : Bool) : List (PendRes × Bool) :=
      let vals := e.vals.filter (fun v => maskHas held v.1 != run)
      if vals.isEmpty then [] else [({ e with vals := vals }, run)]
    part false ++ part true

/-- The team as a snapshot shows it (R274): the results of held paths' lanes are in flight; of lanes of running paths,
each has landed or not. -/
def snapTeam (tm : Team) (fr now : Nat) : Team :=
  if tm.fliTaken then tm
  else
    let parts := tm.pending.flatMap (splitHeld tm)
    let tagged := (List.range parts.length).zip parts
    let lands (e : Nat × (PendRes × Bool)) : Bool := e.2.2 && Config.pick fr e.1 3000
    let of (b : Bool) : List PendRes := (tagged.filter (fun e => lands e == b)).map (fun e => e.2.1)
    takeFli (landList tm fr (of false) (of true)) fr now

/-- A snapshot's bytes go to a guest-physical address (R274). -/
def snapWrite (s : State) (fn a : Nat) (bs : List Byte) : DbgOut :=
  if inSeg s fn a bs.length then ((memWrite s (flatOf s fn a) bs).bump, 0, 0) else (s, 5, 0)

def dbgSnapTeam (s : State) (fn a : Nat) (d : DbgTarget) : DbgOut :=
  let tm := s.team d.t
  snapWrite s fn a (contextArea (s.task d.k) (s.crew tm.crew) (snapTeam tm s.free s.now))

def dbgSnapCrew (s : State) (fn a : Nat) (d : DbgTarget) : DbgOut :=
  snapWrite s fn a (crewArea s (s.crew (s.team d.t).crew))

/-- A register that a result in flight will write, or the result of a load, an atomic, an ACQ or a REL that is not
performed (R233). -/
def hasPending (s : State) (t : Nat) (dest : Dest) : Bool :=
  let tm := s.team t
  let comes (a : Access) : Bool := a.team == t && a.todo.any (fun u => (valueResult a [u]).any (fun e => e.dest.clashes dest))
  let named (d : Option Nat) : Bool := d.any (fun n => (Dest.sreg n).clashes dest)
  let awaits (o : PendOp) : Bool := match o with
    | .acq t' _ _ _ d _ _ _ => t' == t && named d
    | .rel t' _ _ _ d _ _ _ => t' == t && named d
    | _ => false
  (tm.pending ++ tm.fli).any (fun e => e.dest.clashes dest) || s.accesses.any (fun a => comes a.2) || s.ops.any (fun o => awaits o.2)

/-- POKE (R275). -/
def dbgPoke (s : State) (d : DbgTarget) (arg arg2 : Nat) : DbgOut :=
  let tm := s.team d.t
  let pa := tm.path d.p
  let lane := fld arg2 11 10
  if !pa.held then (s, 3, 0)
  else
    match opd (fld arg2 0 11) with
    | .v r =>
      if !maskHas pa.base lane then (s, 6, 0)
      else if tm.nregs ≤ r || hasPending s d.t (.vreg r) then (s, 7, 0)
      else (s.setTeam d.t (setLanes tm r [(lane, arg % 2 ^ 32)]), 0, 0)
    | .s n =>
      if tm.paths.any (fun e => !e.2.held) then (s, 3, 0)
      else if hasPending s d.t (.sreg n) then (s, 7, 0)
      else (s.setTeam d.t { tm with sregs := Tab.set tm.sregs n (BitVec.ofNat 64 arg) }, 0, 0)
    | _ => (s, 7, 0)

/-- A command by its code. -/
def dbgCommand (s : State) (code fn sel crew arg arg2 : Nat) : DbgOut :=
  if code == 0 || 8 ≤ code then (s, 7, 0)
  else
    match dbgTarget s fn sel crew with
    | none => (s, 2, 0)
    | some d =>
      let done (r : DbgOut) : DbgOut := (syncSaved r.1 d.k, r.2)
      if code == 1 then done (dbgHalt s d)
      else if code == 2 then done (dbgResume s d)
      else if code == 3 then done (dbgStep s d)
      else if code == 4 then done (dbgSplit s d (fld arg2 11 10))
      else if code == 5 then dbgSnapTeam s fn arg d
      else if code == 6 then dbgSnapCrew s fn arg d
      else done (dbgPoke s d arg arg2)

/-- A STEP of a team has not ended (R273). -/
def stepRuns (s : State) (t : Nat) : Bool := (s.team t).paths.any (fun e => e.2.stepping || e.2.stepped)

/-- The STEP that a window has given last still runs (R265, R271). -/
def dbgBusy (s : State) (f : Func) : Bool := f.dbgStep.any (stepRuns s)

/-- The function whose teams and whose debug context a window acts on: the PF's names it in DBGSEL (R264; log 69). -/
def dbgSubject (s : State) (fn : Nat) : Nat := if fn == pfFn then fld (s.func fn).dbgSel.toNat 16 8 else fn

/-- A command given through the window of a function (R264, R271). A window without a lease ignores it, and so does
one whose command is running. -/
def dbgWindow (s : State) (fn code : Nat) : State :=
  let f := s.func fn
  if (fn != pfFn && !f.dbgLease) || dbgBusy s f then s
  else
    let target := dbgSubject s fn
    let r := dbgCommand s code target f.dbgSel.toNat f.dbgCrew.toNat f.dbgArg.toNat f.dbgArg2.toNat
    let team := if code == 3 && r.2.1 == 0 then (dbgTarget s target f.dbgSel.toNat f.dbgCrew.toNat).map DbgTarget.t else none
    r.1.modFunc fn (fun f =>
      { f with dbgResult := BitVec.ofNat 4 r.2.1, dbgStep := team
               dbgArg := if code == 4 && r.2.1 == 0 then
                   BitVec.ofNat 64 (f.dbgArg.toNat / 8 * 8 + r.2.2) else f.dbgArg })

/-- DBG_HALT (R271). -/
def execDbgHalt (fn : Nat) (s : State) : Host.Outcome State Fault Refusal := .next (dbgWindow s fn 1)

/-- DBG_RESUME (R271). -/
def execDbgResume (fn : Nat) (s : State) : Host.Outcome State Fault Refusal := .next (dbgWindow s fn 2)

/-- DBG_STEP (R273). -/
def execDbgStep (fn : Nat) (s : State) : Host.Outcome State Fault Refusal := .next (dbgWindow s fn 3)

/-- DBG_SPLIT (R272). -/
def execDbgSplit (fn : Nat) (s : State) : Host.Outcome State Fault Refusal := .next (dbgWindow s fn 4)

/-- DBG_SNAPTEAM (R274). -/
def execDbgSnapteam (fn : Nat) (s : State) : Host.Outcome State Fault Refusal := .next (dbgWindow s fn 5)

/-- DBG_SNAPCREW (R274). -/
def execDbgSnapcrew (fn : Nat) (s : State) : Host.Outcome State Fault Refusal := .next (dbgWindow s fn 6)

/-- DBG_POKE (R275). -/
def execDbgPoke (fn : Nat) (s : State) : Host.Outcome State Fault Refusal := .next (dbgWindow s fn 7)

/-! ### The privileged forms (R472) -/

/-- A path waits for an access whose length the spec leaves open; its result lands at the end (R470,
R472). -/
def holdFor (s : State) (c : Ctx) (dest : Option Nat) (v : Nat) : State :=
  let n := c.cyc + 2 + Config.freeNat c.fr
  let s := s.modPath c.t c.p (fun pa => { pa with readyAt := max pa.readyAt n, stall := 2 })
  match dest with
  | some d => (s.land c.t [{ due := n, from_ := c.cyc, dest := .sreg d, vals := [(0, BitVec.ofNat 64 v)], slot := .c }]).bump
  | none => s.bump

/-- The path waits for the STEP that its form has begun (R472). -/
def awaitStep (s : State) (c : Ctx) (target : Option DbgTarget) : State :=
  s.modPath c.t c.p (fun pa => { pa with waitStep := target.map DbgTarget.t })

/-- One of the three forms: Sa names the target and the lane, Sb the crew. A STEP holds its path until it is done. -/
def dbgForm (s : State) (code : Nat) (d a b : BitVec 7) : Host.Outcome State Fault Refusal :=
  runControl s (fun c =>
    let sel := c.sreg a.toNat
    let r := dbgCommand s code (fld sel 16 8) sel (c.sreg b.toNat) 0 (fld sel 32 10 * 2 ^ 11)
    let v := 16 * r.2.1 + (if code == 4 && r.2.1 == 0 then r.2.2 else 0)
    let steps := if code == 3 && r.2.1 == 0 then dbgTarget s (fld sel 16 8) sel (c.sreg b.toNat) else none
    .ok (awaitStep (holdFor r.1 c (some d.toNat) v) c steps))

/-- DBGSPLIT (R472). -/
def execDbgsplit (d a b : BitVec 7) (s : State) : Host.Outcome State Fault Refusal := dbgForm s 4 d a b

/-- STEP (R472). -/
def execStep (d a b : BitVec 7) (s : State) : Host.Outcome State Fault Refusal := dbgForm s 3 d a b

/-- DBGRES (R472). -/
def execDbgres (d a b : BitVec 7) (s : State) : Host.Outcome State Fault Refusal := dbgForm s 2 d a b

/-! ### Hits (R266, R267) -/

/-- The bundle at an address of a task, as the number that its bytes make (R307). The PF's software may write its code
area: each fetched bundle is then the old one or the new one (R492; log 87). -/
def fetchWord (s : State) (k : Task) (pc : Nat) : Nat :=
  let new := gNat s k.fn pc 32
  let sealed := (Tab.get (s.func k.fn).slots k.codeSlot {}).body
  if k.fn != pfFn || sealed.isEmpty then new
  else
    let old := leNat ((sealed.drop (pc - k.codeBase)).take 32)
    if old != new && Config.pick s.free 3400 pc then old else new

/-- The breakpoint that an address of a task hits: its number, or 0 for a BKB mark. -/
def breakHit (s : State) (k : Task) (pc : Nat) : Option Nat :=
  let f := s.func k.fn
  let w (n : Nat) : Nat := (Tab.get f.bkpt n 0#64).toNat
  let hits (n : Nat) : Bool := bitAt (w n) 0 && (bitAt (w n) 1 || fld (w n) 2 6 == k.slot)
    && fld (w n) 8 8 == k.codeSlot && k.codeBase + 32 * fld (w n) 16 24 == pc
  if !(f.bpEn && debugEnabled s k) then none
  else
    match (List.range 8).find? hits with
    | some n => some n
    | none => if (headerOf (rawBundle (fetchWord s k pc)).h).bkb then some 0 else none

/-- The hit that stops a path now, be it to replay a slot of the bundle (R239); one that it has been stopped for already
does not count again. -/
def hitOf (s : State) (t p : Nat) : Option Nat :=
  let tm := s.team t
  let pa := tm.path p
  if pa.hitDone || pa.held then none else breakHit s (s.task tm.task) pa.pc

/-- BREAKPOINT_HIT (R267): the path stops before the bundle issues. -/
def execBreakpointHit (team path : Nat) (s : State) : Host.Outcome State Fault Refusal :=
  match hitOf s team path with
  | none => .next s
  | some n =>
    .next (stopPath (s.modPath team path (fun pa => { pa with hitDone := true })) team path 0x0D n)

/-! ### The end of a step (R273) -/

/-- A stepped bundle whose passes have issued and whose gap has elapsed. -/
def stepDue (s : State) (t p : Nat) : Bool :=
  let pa := (s.team t).path p
  pa.stepped && decide (pa.readyAt ≤ s.now)

/-- STEP_COMPLETE (R273). -/
def execStepComplete (team path : Nat) (s : State) : Host.Outcome State Fault Refusal :=
  if stepDue s team path then .next (stopPath (endStep s team) team path 0x0F 0) else .next s

/-! ### The end of a lease (R276) -/

/-- Every path of a VF is released, and its debug context is cleared (R266). -/
def endDebug (s : State) (fn : Nat) : State :=
  let team (e : Nat × Team) : Nat × Team :=
    let arrived := hasArrived s e.2
    (e.1, if (s.task e.2.task).fn == fn then
        { e.2 with paths := e.2.paths.map (fun q => (q.1, q.2.release arrived)) } else e.2)
  let s : State := { s with teams := s.teams.map team }
  let s := ((tasksOf s fn).filter (fun e => e.2.block != 0)).foldl (fun s e => syncSaved s e.1) s
  s.modFunc fn (fun f => { f with dbgCtl := 0#4, bkpt := [], wpt := [] })

end Sys2Proof.Machine
end

