-- ==== Sys2Proof/Machine/Create.lean ====
section
/-! DEFINITION. Partitions and the function that runs in each (R78, R79, R485), code handles (R68, R69),
launch records and their checks (R58-R62), and the creation of a task (R60, R61, R132). -/

namespace Sys2Proof.Machine

open Sys2Proof

/-! ### Bays and cores (R15, R78, R79, R485) -/

/-- The bays of an enabled partition, or the free bays, ascending. -/
def partBays (s : State) (p : Nat) : List Nat :=
  if p == freePart then
    (List.range 32).filter (fun b => !s.parts.any (fun e => e.2.en && e.2.bays.getLsbD b))
  else bitsBelow 32 (s.part p).bays.toNat

/-- The physical core that bears a module logical number. -/
def coreOfLogical (s : State) (l : Nat) : Option Nat :=
  ((List.range 13).map (13 * (l / 12) + ·)).find? (fun c => (s.core c).logical == some l)

/-- The logical numbers of the active cores of some bays, in relative order. -/
def activeLogicals (s : State) (bays : List Nat) : List Nat :=
  (bays.flatMap (fun b => (List.range 12).map (12 * b + ·))).filter (fun l => (coreOfLogical s l).isSome)

/-- Cores of a partition by relative number; a vacant number names no core. -/
def partCores (s : State) (p : Nat) : List (Nat × Nat) :=
  let ls := if p == freePart then activeLogicals s (partBays s p) else (s.part p).lcores
  (List.range ls.length).filterMap (fun i => (coreOfLogical s (ls.getD i 0)).map (fun c => (i, c)))

/-- The bytes of a pseudo-channel (R18). -/
def chanBytes : Nat := 192 * 2 ^ 20

/-- Where an address of a partition lies in the HBM of its bays: pages of 4 KiB go round the pseudo-channels in the order
of R79 (R78). -/
def bareOf (bays : List Nat) (a : Nat) : Nat :=
  let page := a / 4096
  let chan := page % (64 * bays.length)
  spaceBase bareSpace + (64 * bays.getD (chan / 64) 0 + chan % 64) * chanBytes + page / (64 * bays.length) * 4096 + a % 4096

/-- The address at which a partition of some bays finds a byte of HBM, if it is one of its own. -/
def addrOf (bays : List Nat) (bare : Nat) : Option Nat :=
  let x := bare - spaceBase bareSpace
  let chan := x / chanBytes
  (bays.findIdx? (· == chan / 64)).map (fun j =>
    (x % chanBytes / 4096 * (64 * bays.length) + 64 * j + chan % 64) * 4096 + x % 4096)

/-- Where a flat address of device memory lies in HBM, whoever maps it. -/
def bareAt (s : State) (flat : Nat) : Option Nat :=
  if spaceOf flat == bareSpace then some flat
  else if spaceOf flat < 32 && (s.part (spaceOf flat)).en then
    some (bareOf (bitsBelow 32 (s.part (spaceOf flat)).bays.toNat) (flat % 2 ^ 64))
  else none

/-- The granules of a number of bays (R79). -/
def granules (bays : Nat) : Nat := 47 * bays / 4

/-! ### Who runs -/

/-- The function whose work runs in a partition. -/
def running (s : State) (p : Nat) : Option Nat := if p == freePart then some pfFn else (s.part p).runVf

/-- The partition in which a function's work runs. -/
def homePart (s : State) (fn : Nat) : Nat := if fn == pfFn then freePart else (s.func fn).part.toNat

/-- A function's work runs now. -/
def runs (s : State) (fn : Nat) : Bool := running s (homePart s fn) == some fn

/-- Is the dispatcher of a partition open (R92, R94)? The PF's always is (R485). -/
def dispatcherOpen (s : State) (p : Nat) : Bool :=
  p == freePart || ((s.part p).isOpen && !(s.part p).draining)

/-- A task runs at the frontier only (R58, R101, R163, R173, R485). -/
def frontierOnly (s : State) (k : Task) : Bool :=
  k.noSpec || masked s k.fn 4 || specWaysOf s k.fn == 0

/-! ### Task slots (R132, R178) -/

/-- The task slots that a function's tasks hold. -/
def slotsHeld (s : State) (fn : Nat) : List Nat :=
  ((tasksOf s fn).filter (fun e => !e.2.restart || e.2.keeps)).map (fun e => e.2.slot)

def freeSlots (s : State) (fn : Nat) : List Nat :=
  (List.range 64).filter (fun i => !(slotsHeld s fn).contains i)

/-- The SPAWNs of a function that wait for a slot, oldest first, with their teams. -/
def waitingSpawns (s : State) (fn : Nat) : List (Nat × Nat) :=
  s.ops.filterMap (fun o => match o.2 with
    | .spawn t _ _ _ _ _ _ none => if (s.task (s.team t).task).fn == fn then some (o.1, t) else none
    | _ => none)

/-- A SPAWN of the frontier cohort. -/
def frontierSpawn (s : State) (t : Nat) : Bool := isFrontier s (s.task (s.team t).task)

/-- The restart list of a function, lowest timestamp first. -/
def restartList (s : State) (fn : Nat) : List (Nat × Task) :=
  let l := listed s fn
  let ins (e : Nat × Task) (acc : List (Nat × Task)) : List (Nat × Task) :=
    acc.takeWhile (fun d => decide (d.2.ts.toNat ≤ e.2.ts.toNat)) ++ e ::
      acc.dropWhile (fun d => decide (d.2.ts.toNat ≤ e.2.ts.toNat))
  l.foldl (fun acc e => ins e acc) []

/-- The claims on a free slot that come before each claimant: frontier SPAWNs, the restart list, other
SPAWNs, the walker (R178). -/
def claimsBefore (s : State) (fn rank : Nat) : Nat :=
  let sp := waitingSpawns s fn
  let front := (sp.filter (fun e => frontierSpawn s e.2)).length
  let rest := (restartList s fn).length
  (if 1 ≤ rank then front else 0) + (if 2 ≤ rank then rest else 0) + (if 3 ≤ rank then sp.length - front else 0)

/-- The slot that a claimant of a rank may take. -/
def slotFor (s : State) (fn rank : Nat) : Option Nat := (freeSlots s fn)[claimsBefore s fn rank]?

/-! ### Code handles (R65, R68-R71) -/

/-- The sealed slot that a handle names, when it is valid for a function (R69). A slot that is being
released is valid no more (R70). -/
def handleSlot (s : State) (fn : Nat) (h : BitVec 128) : Option (Nat × SealedSlot) :=
  let w := h.toNat
  let n := fld w 8 8
  let x := Tab.get (s.func fn).slots n {}
  let same := fld w 0 8 == fn && x.live && !x.releasing && fld w 16 16 == x.gen.toNat
    && fld w 32 16 == x.entries.length && fld w 48 32 == x.base && fld w 80 24 == x.len
    && fld w 104 24 == (Config.handleCheck (BitVec.ofNat 104 w)).toNat
  if same then some (n, x) else none

/-- The handle of a slot (R68). The PF's owner byte is 192: the model's choice (log 78). -/
def handleOf (fn n : Nat) (x : SealedSlot) : BitVec 128 :=
  let w := fn + 2 ^ 8 * n + 2 ^ 16 * x.gen.toNat + 2 ^ 32 * x.entries.length + 2 ^ 48 * x.base + 2 ^ 80 * x.len
  BitVec.ofNat 128 (w + 2 ^ 104 * (Config.handleCheck (BitVec.ofNat 104 w)).toNat)

/-! ### Launch records (R58) -/

/-- The fields of the 128 bytes. -/
def parseRecord (b : List Byte) : LaunchRec :=
  let w (off : Nat) : Word64 := BitVec.ofNat 64 (fieldAt b off 8)
  { codeh := BitVec.ofNat 128 (fieldAt b 0 16), ctl := w 0x10, widw := w 0x18, counts := w 0x20
    counts2 := BitVec.ofNat 32 (fieldAt b 0x28 4), arglen := BitVec.ofNat 32 (fieldAt b 0x2C 4)
    ttbase := w 0x30, argbase := w 0x38, tstamp := w 0x40
    waita := (List.range 4).map (fun i => w (0x48 + 8 * i)), siga := w 0x68
    waitv := (List.range 4).map (fun i => BitVec.ofNat 32 (fieldAt b (0x70 + 4 * i) 4)) }

def LaunchRec.ctlF (r : LaunchRec) (lo n : Nat) : Nat := fld r.ctl.toNat lo n
def LaunchRec.entry (r : LaunchRec) : Nat := r.ctlF 0 16
def LaunchRec.twk (r : LaunchRec) : Nat := r.ctlF 16 3
def LaunchRec.ndiv (r : LaunchRec) : Nat := r.ctlF 20 7
def LaunchRec.prio (r : LaunchRec) : Nat := r.ctlF 27 3
def LaunchRec.teams (r : LaunchRec) : Nat := r.ctlF 31 4 + 1
def LaunchRec.shmUnits (r : LaunchRec) : Nat := r.ctlF 35 11
def LaunchRec.accRows (r : LaunchRec) : Nat := r.ctlF 46 11
def LaunchRec.rings (r : LaunchRec) : Nat := r.ctlF 57 5
def LaunchRec.width (r : LaunchRec) (i : Nat) : Nat := fld r.widw.toNat (6 * i) 6
def LaunchRec.flag (r : LaunchRec) (bit : Nat) : Bool := bitAt r.widw.toNat bit
def LaunchRec.graph (r : LaunchRec) : Bool := r.flag 50
def LaunchRec.ncrew (r : LaunchRec) : Nat := fld r.counts.toNat 0 32
def LaunchRec.level (r : LaunchRec) (i : Nat) : Nat :=
  if i == 3 then fld r.counts.toNat 32 16 else if i == 4 then fld r.counts.toNat 48 16
  else fld r.counts2.toNat 0 16
def LaunchRec.regions (r : LaunchRec) : Nat := fld r.counts2.toNat 16 7

/-- Register rows of a team: N × W/32. -/
def LaunchRec.rows (r : LaunchRec) : Nat := 16 * r.ndiv * 2 ^ r.twk

/-- A ring image is valid (R62). -/
def ringImageOk (shm : Nat) (b : List Byte) : Bool :=
  let base := fieldAt b 0 4
  let sz := fieldAt b 4 2
  let n := fld (fieldAt b 6 2) 0 12
  base % 128 == 0 && decide (1 ≤ sz) && decide (1 ≤ n) && fieldAt b 8 8 == 0
    && decide (base + sz * 16 * n ≤ shm * 256)

/-- The bytes of a function's memory as a cohort reads them. -/
def fnBytes (s : State) (fn : Nat) (ts : Word64) (a n : Nat) : List Byte :=
  cohortBytes s fn ts (flatOf s fn a) n

/-- Reserved bits, argument length and alignments (R58, R60 check 0x0B). -/
def recordForm (r : LaunchRec) : Bool :=
  r.ctlF 19 1 == 0 && r.ctlF 30 1 == 0 && r.ctlF 62 2 == 0 && fld r.widw.toNat 36 12 == 0
    && fld r.widw.toNat 52 12 == 0 && fld r.counts2.toNat 23 9 == 0
    && r.arglen.toNat % 8 == 0 && decide (r.arglen.toNat ≤ 2 ^ 20)
    && r.ttbase.toNat % 4096 == 0 && r.argbase.toNat % 8 == 0
    && (r.siga :: r.waita).all (fun w => fld w.toNat 1 2 == 0)

/-- The argument block and the tokens in device memory pass the comparator (R60 check 0x0B). -/
def recordReach (s : State) (fn : Nat) (r : LaunchRec) : Bool :=
  (r.arglen == 0#32 || inSeg s fn r.argbase.toNat r.arglen.toNat)
    && (r.siga :: r.waita).all (fun w => w == 0#64 || bitAt w.toNat 0 || fn == pfFn || inSeg s fn w.toNat 8)

/-- Every width is at most 32 and they sum to 64. -/
def widthsOk (r : LaunchRec) : Bool :=
  (List.range 6).all (fun i => decide (r.width i ≤ 32))
    && ((List.range 6).map r.width).foldl (· + ·) 0 == 64

def countsOk (r : LaunchRec) : Bool :=
  let ok (n w : Nat) : Bool := decide (1 ≤ n) && decide (n ≤ 2 ^ w)
  decide (r.teams ≤ 2 ^ r.width 1) && ok r.ncrew (r.width 2)
    && (List.range 3).all (fun i => ok (r.level (i + 3)) (r.width (i + 3)))

/-- The ring images of a record, as the cohort reads them. -/
def ringImages (s : State) (fn : Nat) (ts : Word64) (r : LaunchRec) : List (List Byte) :=
  (List.range r.rings).map (fun i => fnBytes s fn ts (r.ttbase.toNat + 0x8000 + 16 * i) 16)

def ringsOk (s : State) (fn : Nat) (ts : Word64) (r : LaunchRec) : Bool :=
  decide (r.rings ≤ 16) && (r.rings == 0 || inSeg s fn (r.ttbase.toNat + 0x8000) (16 * r.rings))
    && (ringImages s fn ts r).all (ringImageOk r.shmUnits)

/-- The entry that a record names. -/
def recordEntry (x : SealedSlot) (r : LaunchRec) : Word64 × Nat := x.entries.getD r.entry (0#64, 0)

/-- The checks of a launch record, in order: the code of the first that fails (R60). -/
def recordCode (s : State) (fn : Nat) (ts : Word64) (r : LaunchRec) : Option Nat :=
  match handleSlot s fn r.codeh with
  | none => some 0x01
  | some (_, x) =>
    let h := (recordEntry x r).1.toNat
    let fails : List (Bool × Nat) :=
      [ (decide (x.entries.length ≤ r.entry), 0x02),
        (bitAt h 11 && fn != pfFn, 0x03),
        (decide (5 < r.twk) || r.width 0 != 5 + r.twk, 0x04),
        (!widthsOk r, 0x05),
        (!countsOk r, 0x06),
        (r.ndiv == 0 || decide (96 < r.ndiv) || decide (r.ndiv < fld h 12 7) || decide (4096 < r.rows), 0x07),
        (decide (20480 < r.teams * r.rows) || decide (1536 < r.shmUnits) || decide (1024 < r.accRows), 0x08),
        (!ringsOk s fn ts r, 0x09),
        (decide (64 < r.regions), 0x0A),
        (!recordForm r || !recordReach s fn r, 0x0B) ]
    (fails.find? (fun e => e.1)).map Prod.snd

/-! ### Creation (R60, R61, R132) -/

/-- The 64 bytes of a region entry; one that cannot be read is invalid (R197). -/
def regionBytes (s : State) (fn : Nat) (ts : Word64) (r : LaunchRec) (i : Nat) : List Byte :=
  let a := r.ttbase.toNat + 0x8100 + 64 * i
  if inSeg s fn a 64 then fnBytes s fn ts a 64 else List.replicate 64 0xFF#8

def regionTable (s : State) (fn : Nat) (ts : Word64) (r : LaunchRec) : List (List Byte) :=
  (List.range r.regions).map (regionBytes s fn ts r)

/-- The argument words of a record: 16 of them, 0 beyond ARGLEN (R61). They are read in the version of the task's cohort:
the model's choice (log 75). -/
def argWords (s : State) (fn : Nat) (ts : Word64) (r : LaunchRec) : List Word64 :=
  (List.range 16).map (fun i =>
    if 8 * i < r.arglen.toNat then
      BitVec.ofNat 64 (leNat (fnBytes s fn ts (r.argbase.toNat + 8 * i) 8))
    else 0#64)

/-- The first address in a range, as the device reads it for a task, that holds an error which the ECC cannot
correct (R39). -/
def deviceBad (s : State) (fn : Nat) (ts : Word64) (a n : Nat) : Option Nat :=
  (readBad s fn ts (flatOf s fn a) n).map (fun b => a + (b - flatOf s fn a))

/-- Such an address in the arguments and the ring images of a record. -/
def argsBad (s : State) (fn : Nat) (ts : Word64) (r : LaunchRec) : Option Nat :=
  (deviceBad s fn ts r.argbase.toNat (min 128 r.arglen.toNat)).or
    (deviceBad s fn ts (r.ttbase.toNat + 0x8000) (16 * r.rings))

/-- Such an address in the region table of a record. -/
def tableBad (s : State) (fn : Nat) (ts : Word64) (r : LaunchRec) : Option Nat :=
  deviceBad s fn ts (r.ttbase.toNat + 0x8100) (64 * r.regions)

/-- The first byte of a sealed object's body (R67, R68). -/
def bodyBase (s : State) (fn : Nat) (x : SealedSlot) : Nat := (codeArea s fn).1 + 32 * x.base

/-- Where a task comes from. -/
structure Origin where
  fn : Nat
  queue : Nat := 0
  creator : Option Nat := none
  walked : Bool := false
  byWalker : Bool := false
  node : Nat := 0
  walkPrev : Option Word64 := none
  predicted : List Nat := []
  arg15 : Option Word64 := none

/-- A task of a checked record: it takes a slot and a number and enters Waiting. Its ring images are read now, once
(R62): the model's choice (log 76). -/
def createTask (s : State) (o : Origin) (slot : Nat) (ts : Word64) (r : LaunchRec) : State :=
  match handleSlot s o.fn r.codeh with
  | none => s
  | some (n, x) =>
    let e := recordEntry x r
    let base := bodyBase s o.fn x
    let f := s.func o.fn
    let args := argWords s o.fn ts r
    let k : Task :=
      { fn := o.fn, part := homePart s o.fn, slot := slot, taskid := f.nextTaskid, queue := o.queue
        creator := o.creator, creatorId := ((o.creator.bind (Tab.find s.tasks)).map Task.taskid).getD 0, walked := o.walked, launchedByWalker := o.byWalker, node := o.node
        walkPrev := o.walkPrev, predicted := o.predicted, lrec := r, arg15 := o.arg15, header := e.1, codeSlot := n
        codeBase := base, codeLen := 32 * x.len, entryPc := base + 32 * e.2
        args := match o.arg15 with | some v => args.take 15 ++ [v] | none => args
        ts := ts, regions := regionTable s o.fn ts r, ringImgs := ringImages s o.fn ts r
        badArgs := argsBad s o.fn ts r, badTable := tableBad s o.fn ts r
        noSpec := r.flag 48, debug := r.flag 51, startAt := s.now }
    let s := s.setFunc o.fn { f with nextTaskid := f.nextTaskid + 1 }
    let (id, s) := s.newId
    updateHem (traceTask (s.setTask id k) k .created 0) o.fn

/-- The timestamp that a new task would take is that of the cohort whose commit has begun (R166). -/
def meetsSealed (s : State) (fn : Nat) (ts : Word64) : Bool :=
  (s.func fn).sealedAt.isSome && decide (ts.toNat ≤ (hem s fn).toNat)

/-- The last timestamp of all is being committed: a task that would take it waits (R166). -/
def stampWaits (s : State) (fn : Nat) (ts : Word64) : Bool := meetsSealed s fn ts && hem s fn == BitVec.allOnes 64

/-- A timestamp below HEMLINE is raised to it, and one that would join a sealed cohort to the one after it, with
TSCLAMP set (R60, R166). -/
def clampStamp (s : State) (fn : Nat) (ts : Word64) : State × Word64 :=
  let clamped := s.modFunc fn (fun f => { f with tsClamp := true })
  if meetsSealed s fn ts then (clamped, hem s fn + 1#64)
  else if ts.toNat < (hem s fn).toNat then (clamped, hem s fn)
  else (s, ts)

/-- A task restarts in a slot; it reads its region table again (R178). -/
def restartIn (s : State) (k : Task) (slot : Nat) : Task :=
  { k with restart := false, keeps := false, slot := slot, startAt := s.now
           regions := regionTable s k.fn k.ts k.lrec, badTable := tableBad s k.fn k.ts k.lrec }

/-- A task that has kept its slot (R178; log 68). -/
def keptTask (s : State) (fn : Nat) : Option (Nat × Task) := (tasksOf s fn).find? (fun e => e.2.restart && e.2.keeps)

/-- Tasks that have kept their slots restart in them, and those of the restart list retake slots, lowest timestamp first
(R178). -/
def retakeSlots (s : State) (fn : Nat) : Nat → State
  | 0 => s
  | fuel + 1 =>
    match keptTask s fn, restartList s fn, slotFor s fn 1 with
    | some (id, k), _, _ => retakeSlots (s.setTask id (restartIn s k k.slot)) fn fuel
    | none, (id, k) :: _, some slot => retakeSlots (s.setTask id (restartIn s k slot)) fn fuel
    | none, _, _ => s

end Sys2Proof.Machine
end

