-- ==== Sys2Proof/Machine/Queues.lean ====
section
/-! DEFINITION. Queues and the dispatcher (R53-R57, R139, R140), the start of a walk (R143-R145), and the
tokens of a task (R63). -/

namespace Sys2Proof.Machine

open Sys2Proof

/-! ### Queue registers (R53, R54) -/

def Func.queue (f : Func) (q : Nat) : Queue := Tab.get f.queues q {}

def setQueue (s : State) (fn q : Nat) (x : Queue) : State :=
  s.modFunc fn (fun f => { f with queues := Tab.set f.queues q x })

/-- The address of a record ring: bits [63:7], with bit 0 HOST. -/
def ringBase (w : Nat) : Nat := w / 128 * 128 + w % 2

/-- An address register of a queue, as it is kept. -/
def keepRing (v : Word64) : Word64 := BitVec.ofNat 64 (ringBase v.toNat)
def keepWord (v : Word64) : Word64 := BitVec.ofNat 64 (v.toNat / 8 * 8 + v.toNat % 2)

/-- Some byte of the ring, the tail word or the head address lies in the segment and fails the comparator
(R54). For the PF, an address that does not translate fails it: the model's choice (log 96). -/
def queueOutside (s : State) (fn : Nat) (x : Queue) : Bool :=
  let bad (w n : Nat) : Bool := !bitAt w 0 && !inSeg s fn (w / 8 * 8) n
  bad (ringBase x.qbase.toNat) (128 * 2 ^ x.logsz.toNat) || bad x.qtaila.toNat 8
    || (x.qheada != 0#64 && bad x.qheada.toNat 8)

/-- A queue's FAULTED tasks lose their saved state when it is enabled (R252). -/
def forgetFaults (s : State) (fn q : Nat) : State :=
  let f := s.func fn
  let drop (s : State) (b : FaultBlock) : State :=
    if gNat s fn ((ctxArea s fn).1 + 32 * b.slot + 8) 8 == b.taskid then clearDirectory s fn b.slot else s
  let s := (f.faultBlocks.filter (fun b => b.queue == q)).foldl drop s
  let s := s.modFunc fn (fun f => { f with faultBlocks := f.faultBlocks.filter (fun b => b.queue != q) })
  let mine (k : Task) : Bool := k.fn == fn && k.queue == q && k.faulted
  let s := (s.tasks.filter (fun e => mine e.2)).foldl (fun s e => clearDirectory s fn e.2.slot) s
  { s with tasks := s.tasks.map (fun e =>
      (e.1, if mine e.2 then { e.2 with block := 0, blockLen := 0, frec := [] } else e.2)) }

/-- EN goes from 0 to 1 (R54). -/
def enableQueue (s : State) (fn q : Nat) : State :=
  let x := (s.func fn).queue q
  let x : Queue := { x with en := true, qhead := 0#64, qtailv := 0#64, qerr := 0#64, qdone := 0#64 }
  let s := forgetFaults (setQueue s fn q x) fn q
  if x.logsz.toNat < 4 then stopQueue s fn q 0x0E
  else if queueOutside s fn x then stopQueue s fn q 0x13
  else s

/-- EN goes from 1 to 0: the queue's Waiting tasks are discarded (R140). -/
def disableQueue (s : State) (fn q : Nat) : State :=
  let x := (s.func fn).queue q
  let s := setQueue s fn q { x with en := false }
  let gone (k : Task) : Bool := k.fn == fn && k.queue == q && k.phase == .waiting && (!k.restart || k.wasWaiting)
  updateHem { s with tasks := s.tasks.filter (fun e => !gone e.2) } fn

/-- May a function enable a queue (R82)? The PF has no quota. -/
def queueAllowed (s : State) (fn q : Nat) : Bool := fn == pfFn || decide (q < (s.func fn).qmax.toNat)

/-- A write of QCTL: LOGSZ is taken while EN is 0 (R53, R54). -/
def qctlWrite (s : State) (fn q : Nat) (val : Word64) : State :=
  let x := (s.func fn).queue q
  let v := val.toNat
  let x := { x with irq := bitAt v 5, logsz := if x.en then x.logsz else BitVec.ofNat 4 (fld v 1 4) }
  let s := setQueue s fn q x
  if x.en && !bitAt v 0 then disableQueue s fn q
  else if !x.en && bitAt v 0 && queueAllowed s fn q then enableQueue s fn q
  else s

/-- QUEUE_ENABLE (R54). -/
def execQueueEnable (fn q : Nat) (val : Word64) (s : State) : Host.Outcome State Fault Refusal :=
  .next (qctlWrite s fn q val)

/-- QUEUE_DISABLE (R140). -/
def execQueueDisable (fn q : Nat) (val : Word64) (s : State) : Host.Outcome State Fault Refusal :=
  .next (qctlWrite s fn q val)

/-! ### The tail (R55, R56) -/

/-- The dispatcher reads the tail word of an enabled queue. -/
def readTail (s : State) (fn q : Nat) : State :=
  let x := (s.func fn).queue q
  if !x.en then s
  else if !tokenOk s fn x.qtaila.toNat 8 then stopQueue s fn q 0x13
  else
    let v := leNat (Memory.bytes s.mem (tokenFlat s fn x.qtaila.toNat) 8)
    let s := setQueue s fn q { x with qtailv := BitVec.ofNat 64 v }
    if v < x.qtailv.toNat then stopQueue s fn q 0x0C
    else if x.qhead.toNat + 2 ^ x.logsz.toNat < v then stopQueue s fn q 0x0D
    else s

/-- The tail word of an enabled queue differs from the value last observed, or cannot be reached (R55). -/
def tailMoved (s : State) (fn : Nat) (x : Queue) : Bool :=
  x.en && (!tokenOk s fn x.qtaila.toNat 8
    || leNat (Memory.bytes s.mem (tokenFlat s fn x.qtaila.toNat) 8) != x.qtailv.toNat)

/-- Since when each tail word of a running function has differed. -/
def markTails (s : State) : State :=
  let mark (fn : Nat) (x : Queue) : Queue :=
    { x with tailAt := if tailMoved s fn x then (if x.tailAt.isSome then x.tailAt else some s.now) else none }
  { s with funcs := s.funcs.map (fun e =>
      (e.1, if runs s e.1 then { e.2 with queues := e.2.queues.map (fun q => (q.1, mark e.1 q.2)) } else e.2)) }

/-- A change that the dispatcher sees by now: 2 µs have passed (R55). -/
def tailDue (s : State) : Option (Nat × Nat) :=
  s.funcs.findSome? (fun e =>
    if !runs s e.1 then none
    else (e.2.queues.find? (fun q => q.2.tailAt.any (fun t => decide (t + us 2 ≤ s.now)) && tailMoved s e.1 q.2)).map
      (fun q => (e.1, q.1)))

/-- TAIL_WORD_CHANGE (R55, R57): the word is written, and the dispatcher of a running function sees it. A change
that another party has made is seen by an entry that names the value it has left, or after 2 µs. -/
def execTailWordChange (fn q : Nat) (val : Word64) (s : State) : Host.Outcome State Fault Refusal :=
  let x := (s.func fn).queue q
  let flat := tokenFlat s fn x.qtaila.toNat
  let s := if tokenOk s fn x.qtaila.toNat 8 then memWrite s flat (leBytes 8 val.toNat) else s
  .next (if runs s fn then readTail s fn q else s)

/-! ### The walk's position, and what comes first for a slot (R144, R178) -/

/-- The bytes of node i of a graph. -/
def nodeBytes (s : State) (fn : Nat) (w : Walk) (i : Nat) : List Byte :=
  gBytes s fn (bodyBase s fn (Tab.get (s.func fn).slots w.slot {}) + 32 * (w.first + i)) 32

def nodeKind (b : List Byte) : Nat := fld (fieldAt b 0 4) 0 4
def nodeNext (b : List Byte) : Nat := fld (fieldAt b 0 4) 4 12
def nodeAlt (b : List Byte) : Nat := fld (fieldAt b 0 4) 16 12
def nodePred (b : List Byte) : Nat := fld (fieldAt b 0 4) 28 2

/-- A present token's word has reached its value. -/
def tokenHolds (s : State) (fn : Nat) (w : Word64) (v : Word32) : Bool :=
  w == 0#64 || decide (v.toNat ≤ leNat (Memory.bytes s.mem (tokenFlat s fn w.toNat) 8))

def tokensHold (s : State) (fn : Nat) (r : LaunchRec) : Bool :=
  (List.range 4).all (fun i => tokenHolds s fn (r.waita.getD i 0#64) (r.waitv.getD i 0#32))

/-- Tasks of the walk that have not committed (R146, R147). -/
def walkTasks (s : State) (fn : Nat) : List (Nat × Task) := (tasksOf s fn).filter (fun e => e.2.launchedByWalker)

/-- Tasks that the node at the walk's position creates next: one, or those of a SPAWNSET, which are created
together where the limit of 48 lets them be (R146, R147; log 44). -/
def nodeBatch (s : State) (fn : Nat) (w : Walk) (b : List Byte) : Nat :=
  let room := 48 - (walkTasks s fn).length
  let k := fieldAt b 16 4
  if nodeKind b == 1 then min 1 room
  else if nodeKind b != 6 then 0
  else if k ≤ 48 then (if k ≤ room then k else 0)
  else min room (k - w.spawned)

/-- Slots that the walker wants (R178). -/
def walkerClaim (s : State) (fn : Nat) : Nat :=
  match (s.func fn).walk with
  | none => 0
  | some w =>
    if w.ended || !dispatcherOpen s (homePart s fn) || !tokensHold s fn w.lrec then 0
    else nodeBatch s fn w (nodeBytes s fn w w.pos)

/-- The slot that the dispatcher may take: the walker comes before it (R178). -/
def dispatchSlot (s : State) (fn : Nat) : Option Nat := (freeSlots s fn)[claimsBefore s fn 3 + walkerClaim s fn]?

/-! ### The selection (R139) -/

/-- The 128 bytes at the head of a queue; none when a host address cannot be translated. -/
def headBytes (s : State) (fn : Nat) (x : Queue) : Option (List Byte) :=
  let w := ringBase x.qbase.toNat + 128 * (x.qhead.toNat % 2 ^ x.logsz.toNat)
  if tokenOk s fn w 128 then some (Memory.bytes s.mem (tokenFlat s fn w) 128) else none

/-- May the head record of a queue be consumed now: a slot is free, and with a GRAPH record the walker? One that
cannot be read, or a masked GRAPH record, takes part and stops its queue. -/
def headReady (s : State) (fn : Nat) (x : Queue) : Bool :=
  !(freeSlots s fn).isEmpty && (match headBytes s fn x with
    | none => true
    | some b =>
      let r := parseRecord b
      if r.graph then masked s fn 6 || (s.func fn).walk.isNone
      else (dispatchSlot s fn).isSome && !stampWaits s fn r.tstamp)

/-- The priority level of a queue's head (R57); one that cannot be read has level 7: the model's choice (log 74). -/
def headPrio (s : State) (fn : Nat) (x : Queue) : Nat :=
  match headBytes s fn x with | some b => (parseRecord b).prio | none => 7

/-- The queues whose head records take part. -/
def readyQueues (s : State) (fn : Nat) : List (Nat × Queue) :=
  ((List.range 64).map (fun q => (q, (s.func fn).queue q))).filter (fun e =>
    e.2.en && decide (e.2.qhead.toNat < e.2.qtailv.toNat) && headReady s fn e.2)

/-- The queue that the dispatcher chooses, with its level: the highest priority, and the rotating pointer
among equals. -/
def chosenQueue (s : State) (p fn : Nat) : Option (Nat × Nat) :=
  let qs := readyQueues s fn
  let top := qs.foldl (fun m e => max m (headPrio s fn e.2)) 0
  let start := Tab.get (s.part p).dispPtr top 0
  let order := (List.range 64).map (fun i => (start + i) % 64)
  (order.find? (fun q => qs.any (fun e => e.1 == q && headPrio s fn e.2 == top))).map (fun q => (q, top))

/-! ### Consumption (R55, R139, R140) -/

/-- QHEAD advances, and is written at QHEADA (R54, R55). -/
def consume (s : State) (fn q : Nat) : State :=
  let x := (s.func fn).queue q
  let h := x.qhead + 1#64
  let s := setQueue s fn q { x with qhead := h }
  if x.qheada == 0#64 then s
  else if !tokenOk s fn x.qheada.toNat 8 then stopQueue s fn q 0x13
  else memWrite s (tokenFlat s fn x.qheada.toNat) (leBytes 8 h.toNat)

/-! ### The start of a walk (R143-R145) -/

/-- A node obeys R144 and R145. -/
def nodeOk (nnode i : Nat) (b : List Byte) : Bool :=
  let kind := nodeKind b
  let zero (off n : Nat) : Bool := fieldAt b off n == 0
  let branch := kind == 2 || kind == 3
  let shape :=
    if kind == 15 then i == 0 && zero 6 26
    else if kind == 0 then zero 4 28
    else if kind == 1 || kind == 2 || kind == 5 then zero 4 4 && zero 16 16
    else if kind == 3 then zero 4 4 && zero 20 12
    else if kind == 4 then zero 4 4 && zero 24 8
    else kind == 6 && zero 4 4 && zero 20 12 && decide (1 ≤ fieldAt b 16 4) && decide (fieldAt b 16 4 ≤ 64)
  let align := if kind == 1 || kind == 6 then fieldAt b 8 8 % 128 == 0
    else kind == 0 || kind == 15 || fieldAt b 8 8 % 8 == 0
  shape && align && fld (fieldAt b 0 4) 30 2 == 0 && (branch || (nodeAlt b == 0 && nodePred b == 0))
    && decide (nodeNext b < nnode) && decide (nodeAlt b < nnode) && (i != 0 || kind == 15)

/-- The checks of every node at the walk's start (R145). -/
def graphOk (s : State) (fn : Nat) (w : Walk) (x : SealedSlot) : Bool :=
  decide (2 ≤ w.nnode) && decide (w.nnode ≤ 4096) && decide (w.first + w.nnode ≤ x.len)
    && (List.range w.nnode).all (fun i => nodeOk w.nnode i (nodeBytes s fn w i))

/-- A GRAPH record sets only the fields that R143 lists. -/
def graphForm (r : LaunchRec) : Bool :=
  let used := r.entry + 2 ^ 27 * r.prio
  r.ctl.toNat == used && fld r.widw.toNat 0 48 == 0 && r.counts == 0#64 && r.counts2 == 0#32

/-- The checks of a GRAPH record, in order, and the walk that it starts (R143, R145). -/
def startWalk (s : State) (fn q : Nat) (r : LaunchRec) : Except Nat Walk :=
  match handleSlot s fn r.codeh with
  | none => .error 0x01
  | some (n, x) =>
    if x.entries.length ≤ r.entry then .error 0x02
    else if bitAt (recordEntry x r).1.toNat 11 && fn != pfFn then .error 0x03
    else if !recordForm r || !recordReach s fn r || !graphForm r then .error 0x0B
    else
      let first := (recordEntry x r).2
      let w0 : Walk := { lrec := r, fn := fn, queue := q, slot := n, first := first }
      let w : Walk := { w0 with nnode := fieldAt (nodeBytes s fn w0 0) 4 2 }
      if graphOk s fn w x then .ok w else .error 0x0F

/-- The record at the head of the chosen queue is read once, checked, and starts a walk or a task (R60,
R140, R143). -/
def dispatchHead (s : State) (fn q : Nat) : State :=
  match headBytes s fn ((s.func fn).queue q) with
  | none => stopQueue s fn q 0x13
  | some b =>
    let r := parseRecord b
    if r.graph then
      if masked s fn 6 then stopQueue s fn q 0x12
      else
        match startWalk s fn q r with
        | .error code => stopQueue s fn q code
        | .ok w =>
          consume (s.modFunc fn (fun f => { f with walk := some { w with tsnext := r.tstamp } })) fn q
    else
      match recordCode s fn (clampStamp s fn r.tstamp).2 r, dispatchSlot s fn with
      | some code, _ => stopQueue s fn q code
      | none, none => s
      | none, some slot =>
        let c := clampStamp s fn r.tstamp
        consume (createTask c.1 { fn := fn, queue := q } slot c.2 r) fn q

/-- May a partition's dispatcher consume a record now (R139, R485)? -/
def mayDispatch (s : State) (p : Nat) : Bool :=
  dispatcherOpen s p && decide ((s.part p).nextDispatch ≤ s.now)
    && (p != freePart || !(partCores s p).isEmpty)

/-- DISPATCH_RECORD (R60, R139). -/
def execDispatchRecord (part : Nat) (s : State) : Host.Outcome State Fault Refusal :=
  match running s part with
  | none => .next s
  | some fn =>
    if !mayDispatch s part then .next s
    else
      match chosenQueue s part fn with
      | none => .next s
      | some (q, level) =>
        let s := s.modPart part (fun p =>
          { p with nextDispatch := s.now + 32, dispPtr := Tab.set p.dispPtr level ((q + 1) % 64) })
        .next (dispatchHead s fn q)

/-! ### Wait tokens (R63) -/

/-- A token in host memory that cannot be translated. -/
def badToken (s : State) (fn : Nat) (r : LaunchRec) : Option Nat :=
  (r.waita.find? (fun w => w != 0#64 && !tokenOk s fn w.toNat 8)).map (fun w => w.toNat / 8 * 8)

/-- TASK_TOKENS_HOLD (R63, R133): the task leaves Waiting, or takes TENSOR_INVALID before any crew of it
is placed (R252). -/
def execTaskTokensHold (task : Nat) (s : State) : Host.Outcome State Fault Refusal :=
  match Tab.find s.tasks task with
  | none => .next s
  | some k =>
    if k.phase != .waiting || k.restart || !runs s k.fn then .next s
    else
      match badToken s k.fn k.lrec with
      | some a => .next (stopTask s task 0#64 0 k.entryPc { code := .tensorInvalid, addr := a })
      | none =>
        if tokensHold s k.fn k.lrec then .next (s.setTask task { k with phase := .admitting }) else .next s

end Sys2Proof.Machine
end

