-- ==== Sys2Proof/Machine/Restore.lean ====
section
/-! DEFINITION. The reading of a saved block (R253-R259). A saved task's teams and crews stay in State; a restore takes
every section whose bytes have changed since the save from memory. -/

namespace Sys2Proof.Machine

open Sys2Proof

def cut (b : List Byte) (off n : Nat) : List Byte := (b.drop off).take n

/-- Has a range of an area changed since the device wrote it? -/
def changed (own got : List Byte) (off n : Nat) : Bool := cut own off n != cut got off n

/-! ### A context area (R256, R257) -/

/-- The lengths of the sections after the header. -/
def sectionLens (tm : Team) : List Nat :=
  let p := tm.words
  [256, 2080 * p, 60 * p, 32, 1024, 2304 + 384 * p, tm.nregs / 2, 128 * p * tm.nregs, 256 * tm.accLim, 256]

/-- Where section i begins, and its length. -/
def sectionAt (tm : Team) (i : Nat) : Nat × Nat :=
  (256 + (((sectionLens tm).take i).map (fun n => (n + 127) / 128 * 128)).foldl (· + ·) 0, (sectionLens tm).getD i 0)

def PathKind.ofCode (n : Nat) : PathKind :=
  if n == 0 then .root else if n == 1 then .split else if n == 2 then .parked else if n == 3 then .debug else .detached

def Slot.ofCode (n : Nat) : Slot := if n == 0 then .v else if n == 1 then .m else if n == 2 then .x else .c

def maskAt (b : List Byte) (off p : Nat) : Mask := BitVec.ofNat 1024 (fieldAt b off (4 * p))

/-- An entry of the path table with its mask stack and PC; what the image does not hold stays. -/
def readPath (entry stack : List Byte) (p pc : Nat) (old : Path) : Option Path :=
  let w := fieldAt entry 0 4
  if w % 2 == 0 then none
  else
    let merge := (fieldAt entry 8 8, fieldAt entry 16 2)
    some { old with
      kind := PathKind.ofCode (fld w 1 3), parent := fld w 4 3, pc := pc
      replay := if bitAt w 7 then some (Slot.ofCode (fld w 8 2)) else none
      readyAt := fld w 17 5, stall := fld w 22 5, held := bitAt w 27
      mergeAt := if merge == (0, 0) then none else some merge
      base := maskAt stack 0 p, stack := (List.range (fld w 10 7)).reverse.map (fun i => maskAt stack (4 * p * (i + 1)) p) }

/-- The paths of a team: those of which the entry, the masks or the PC have changed are read. -/
def readPaths (tm : Team) (own got : List Byte) : Tab Path :=
  let p := tm.words
  let entry := (sectionAt tm 0).1
  let stack := (sectionAt tm 1).1
  (List.range 8).filterMap (fun i =>
    let a := entry + 32 * i
    let b := stack + 260 * p * i
    let old := Tab.find tm.paths i
    if changed own got a 32 || changed own got b (260 * p) || changed own got (0x48 + 8 * i) 8 then
      (readPath (cut got a 32) (cut got b (260 * p)) p (fieldAt got (0x48 + 8 * i) 8) (old.getD {})).map (fun x => (i, x))
    else old.map (fun x => (i, x)))

/-- 32-bit words of the lanes of a team, from an offset on. -/
def lanesAt (b : List Byte) (off p : Nat) : Tab Word32 :=
  (List.range (32 * p)).map (fun l => (l, BitVec.ofNat 32 (fieldAt b (off + 4 * l) 4)))

/-- An entry of the frozen latch image (R246); one for a predicate names no register. -/
def readFliEntry (e : List Byte) : Option PendRes :=
  let w := fieldAt e 0 8
  let word := fld w 11 5
  let slot := Slot.ofCode (fld w 22 2)
  let lanes : List (Nat × Word64) := (bitsBelow 32 (fld w 32 32)).map (fun j =>
    (32 * word + j, BitVec.ofNat 64 (fieldAt e (16 + 4 * j) 4)))
  let latch := match slot with | .v => LatchId.bv | .m => .bm | _ => .bx
  let r : PendRes := { due := max 1 (fld w 16 6), dest := .nothing, word := word, vals := lanes, slot := slot
                       tag := some (Fmt.ofCode (fld w 25 4)), latch := some latch }
  if !bitAt w 24 then none
  else match opd (fld w 0 11) with
    | .v i => some { r with dest := .vreg i }
    | .s n => some { r with dest := .sreg n, vals := [(0, BitVec.ofNat 64 (fieldAt e 16 8))], tag := none, latch := none }
    | .bv => some { r with dest := .latchOnly }
    | _ => none

/-- The frozen latch image and the latches. -/
def readFli (tm : Team) (own got : List Byte) : Team :=
  let a := (sectionAt tm 5).1
  let p := tm.words
  let fixed (e : PendRes) : Bool := match e.dest with | .pred _ | .nothing => true | _ => false
  let latch (i : Nat) (x : Latch) : Latch :=
    let off := a + 2304 + 128 * p * i
    if changed own got off (128 * p) then { x with vals := lanesAt got off p } else x
  { tm with
    fli := if changed own got a 2304 then
        (List.range 16).filterMap (fun i => readFliEntry (cut got (a + 144 * i) 144)) ++ tm.fli.filter fixed
      else tm.fli
    bv := latch 0 tm.bv, bm := latch 1 tm.bm, bx := latch 2 tm.bx }

def readPort (b : List Byte) (old : Port) : Port :=
  { old with cfg := (List.range 4).map (fun i => BitVec.ofNat 64 (fieldAt b (8 * i) 8)), pos := fieldAt b 32 8
             configured := bitAt (fieldAt b 40 1) 0 }

/-- A section that is read when it has changed. -/
def readSection {α : Type} (tm : Team) (own got : List Byte) (i : Nat) (old : α) (get : List Byte → α) : α :=
  let a := sectionAt tm i
  if changed own got a.1 a.2 then get (cut got a.1 a.2) else old

/-- The registers that a context area holds (R256, R257). -/
def readRegs (tm : Team) (own got : List Byte) : Team :=
  let p := tm.words
  let head {α : Type} (off n : Nat) (old : α) (get : Nat → α) : α :=
    if changed own got off n then get (fieldAt got off n) else old
  let sect {α : Type} (i : Nat) (old : α) (get : List Byte → α) : α := readSection tm own got i old get
  { tm with
    accBase := head 0x28 4 tm.accBase id, lineBase := head 0x30 4 tm.lineBase id
    status := head 0x38 8 tm.status (BitVec.ofNat 64)
    wdogLimit := head 0x40 2 tm.wdogLimit (BitVec.ofNat 16), ycycles := head 0x44 2 tm.ycycles (1024 * ·)
    preds := sect 2 tm.preds (fun b => (List.range 15).map (fun i => (i + 1, maskAt b (4 * p * i) p)))
    flagSet := sect 3 tm.flagSet (fun b => BitVec.ofNat 16 (fieldAt b 0 2))
    flagCount := sect 3 tm.flagCount (fun b => (List.range 16).map (fun i => (i, fieldAt b (16 + i) 1)))
    sregs := sect 4 tm.sregs (fun b => (List.range 128).map (fun i => (i, BitVec.ofNat 64 (fieldAt b (8 * i) 8))))
    tags := sect 6 tm.tags (fun b => (List.range tm.nregs).map (fun i => (i, Fmt.ofCode (fld (fieldAt b (i / 2) 1) (4 * (i % 2)) 4))))
    vregs := sect 7 tm.vregs (fun b => (List.range tm.nregs).map (fun r => (r, lanesAt b (128 * p * r) p)))
    ports := sect 9 tm.ports (fun b => (List.range 4).map (fun i => (i, readPort (cut b (64 * i) 64) (Tab.get tm.ports i {})))) }

def readTeam (tm : Team) (own got : List Byte) : Team :=
  { readFli (readRegs tm own got) own got with paths := readPaths tm own got }

/-- The accumulator rows of a team's window. -/
def readAcc (cr : Crew) (tm : Team) (own got : List Byte) : Crew :=
  let a := sectionAt tm 8
  if changed own got a.1 a.2 then
    { cr with acc := Tab.setAll cr.acc ((List.range (64 * tm.accLim)).map (fun i =>
        (64 * tm.accBase + i, BitVec.ofNat 32 (fieldAt got (a.1 + 4 * i) 4)))) }
  else cr

/-! ### A crew area (R258) -/

/-- A ring as its image gives it (R62). -/
def ringOfImage (b : List Byte) : Ring :=
  let w := fieldAt b 6 2
  { base := fieldAt b 0 4, slotsz := fieldAt b 4 2, slots := fld w 0 12, fmt := Fmt.ofCode (fld w 12 4) }

def readRing (b : List Byte) (old : Ring) : Ring :=
  let r := ringOfImage b
  { old with base := r.base, slotsz := r.slotsz, slots := r.slots, fmt := r.fmt
             producer := BitVec.ofNat 32 (fieldAt b 16 4), consumer := BitVec.ofNat 32 (fieldAt b 20 4) }

def readChannel (b : List Byte) (old : Channel) : Channel :=
  let head (c : CopyCmd) : CopyCmd :=
    { c with done := fieldAt b 8 8
             desc := (List.range (max 6 c.desc.length)).map (fun i =>
               if i < 6 then BitVec.ofNat 64 (fieldAt b (16 + 8 * i) 8) else c.desc.getD i 0#64) }
  { cwp := BitVec.ofNat 64 (fieldAt b 0 8)
    queue := match old.queue with | c :: q => head c :: q | [] => [] }

/-- Entries of a table that lie from an offset on, n bytes each: those that have changed are read. -/
def readTable {α : Type} (own got : List Byte) (off n count : Nat) (old : Tab α) (fallback : α) (get : List Byte → α → α) :
    Tab α :=
  (List.range count).foldl (fun t i =>
    if changed own got (off + n * i) n then Tab.set t i (get (cut got (off + n * i) n) (Tab.get t i fallback)) else t) old

def readCrew (cr : Crew) (own got : List Byte) : Crew :=
  { cr with
    sash := if changed own got 7 1 then fieldAt got 7 1 else cr.sash
    bars := readTable own got 0x20 4 16 cr.bars {} (fun b x => { x with arrived := bitsBelow 16 (fieldAt b 1 2) })
    rings := readTable own got 0x80 32 cr.nrings cr.rings {} readRing
    chans := readTable own got 0x380 64 16 cr.chans {} readChannel
    shm := if changed own got 0x780 cr.shmBytes then Memory.write [] 0 (cut got 0x780 cr.shmBytes) else cr.shm }

/-! ### The areas of a block (R254, R259) -/

/-- Live teams of a crew in ascending TIX, by their numbers in the machine. -/
def teamIds (s : State) (cr : Crew) : List Nat :=
  (List.range 16).filterMap (fun x => cr.teams.find? (fun t => (s.team t).tix == x && !(s.team t).retired))

/-- The areas of some crews in a block: offset, length, crew, and the team of a context area. -/
structure Area where
  off : Nat
  len : Nat
  crew : Nat
  team : Option Nat

def areasOf (s : State) (k : Nat) (cs : List Nat) : List Area :=
  let pad (n : Nat) : Nat := (n + 127) / 128 * 128
  let one (a : Nat × List Area) (c len : Nat) (t : Option Nat) : Nat × List Area :=
    (a.1 + pad len, a.2 ++ [⟨a.1, len, c, t⟩])
  let crew (a : Nat × List Area) (c : Nat) : Nat × List Area :=
    let cr := s.crew c
    (teamIds s cr).foldl (fun a t => one a c (contextArea (s.task k) cr (s.team t)).length (some t))
      (one a c (crewArea s cr).length none)
  (cs.foldl crew (128, [])).2

/-- A header that this core can restore (R259). -/
def headerOk (b : List Byte) : Bool :=
  fieldAt b 0 4 == 0x58544353 && fieldAt b 4 2 == 1 && decide (fieldAt b 8 4 ≤ 20480)
    && decide (fieldAt b 0x0C 1 ≤ 8) && decide (fieldAt b 0x0D 1 ≤ 64) && decide (fieldAt b 0x0E 1 ≤ 16)
    && decide (fieldAt b 0x10 2 ≤ 1024) && decide (fieldAt b 0x12 2 ≤ 1536)

/-- The block of a task as memory holds it. -/
def blockNow (s : State) (k : Nat) : List Byte :=
  let tk := s.task k
  Memory.bytes s.mem (ctxFlat s tk.fn tk.block) tk.blockLen

def headersOk (s : State) (k : Nat) (cs : List Nat) : Bool :=
  let b := blockNow s k
  (areasOf s k cs).all (fun a => a.team.isNone || headerOk (cut b a.off 256))

/-- What has changed in an area is read. -/
def readArea (own got : List Byte) (s : State) (a : Area) : State :=
  let o := cut own a.off a.len
  let g := cut got a.off a.len
  match a.team with
  | none => s.modCrew a.crew (fun cr => readCrew cr o g)
  | some t =>
    let s := s.modCrew a.crew (fun cr => readAcc cr (s.team t) o g)
    let s := s.modTask (s.team t).task (fun k =>
      { k with ovrlim := if changed o g 0x46 1 then fieldAt g 0x46 1 else k.ovrlim
               ovrs := if changed o g 0x47 1 then fieldAt g 0x47 1 else k.ovrs })
    s.modTeam t (fun tm => readTeam tm o g)

/-- The saved state of some crews of a task is read back (R253). -/
def readBlock (s : State) (k : Nat) (cs : List Nat) : State :=
  (areasOf s k cs).foldl (readArea (s.task k).image (blockNow s k)) s

end Sys2Proof.Machine
end

