-- ==== Sys2Proof/Machine/Place.lean ====
section
/-! DEFINITION. Crews on cores: admission and placement (R134-R137, R149-R153), migration (R156-R158), the
watchdog (R160-R163), and the save and the restore of whole tasks (R241, R253, R259). -/

namespace Sys2Proof.Machine

open Sys2Proof

/-! ### Resources of a core (R135, R219) -/

/-- What a crew takes. -/
structure Need where
  teams : Nat
  rows : Nat
  shm : Nat
  acc : Nat

def LaunchRec.need (r : LaunchRec) : Need :=
  { teams := r.teams, rows := r.teams * r.rows, shm := 256 * r.shmUnits, acc := r.accRows }

/-- Crews that hold resources of a core. -/
def crewsOnCore (s : State) (core : Nat) : List Crew :=
  (s.crews.filter (fun e => !e.2.saved && e.2.core == core)).map Prod.snd

/-- Crews that are on their way to a core (R157). -/
def crewsComing (s : State) (core : Nat) : List Crew :=
  (s.crews.filter (fun e => !e.2.saved && e.2.moving.any (fun m => m.core == core))).map Prod.snd

/-- The offsets at which a range of n units fits between those of a list: the start, or the end of one. -/
def gapsFor (used : List (Nat × Nat)) (size n : Nat) : List Nat :=
  (0 :: used.map (fun u => u.1 + u.2)).filter (fun a =>
    decide (a + n ≤ size) && used.all (fun u => apart a n u.1 u.2))

def shmGaps (s : State) (core n : Nat) : List Nat :=
  let coming := (crewsComing s core).map (fun c => ((c.moving.map Moving.shmAt).getD 0, c.shmBytes))
  gapsFor ((crewsOnCore s core).map (fun c => (c.shmAt, c.shmBytes)) ++ coming) 393216 n

def accGaps (s : State) (core n : Nat) : List Nat :=
  let coming := (crewsComing s core).map (fun c => ((c.moving.map Moving.accAt).getD 0, c.accRows))
  gapsFor ((crewsOnCore s core).map (fun c => (c.accAt, c.accRows)) ++ coming) 1024 n

/-- The teams that hold places on a core: its own, and those on their way to it (R135, R157). -/
def teamsPlaced (s : State) (core : Nat) : List Team :=
  (teamsOnCore s core).map Prod.snd ++ (crewsComing s core).flatMap (fun c => (liveTeams s c).map s.team)

def rowsOnCore (s : State) (core : Nat) : Nat := (teamsPlaced s core).foldl (fun n tm => n + tm.rows) 0

/-- A core has free what a crew needs (R135). -/
def coreFits (s : State) (core : Nat) (n : Need) : Bool :=
  decide (rowsOnCore s core + n.rows ≤ 20480) && decide ((teamsPlaced s core).length + n.teams ≤ 64)
    && !(shmGaps s core n.shm).isEmpty && !(accGaps s core n.acc).isEmpty

/-- One of the ranges that fit; which one is open (log 5). -/
def someGap (s : State) (l : List Nat) : Nat := l.getD (Config.freeNat s.free % l.length) 0

/-! ### The choice of a core (R149, R150) -/

/-- Droop events of a core in the last 1 ms. -/
def recentDroops (s : State) (core : Nat) : Nat :=
  ((s.core core).droopTimes.filter (fun t => decide (s.now < t + us 1000))).length

/-- The first core of a list with the least droop count. -/
def leastDroops (s : State) : List (Nat × Nat) → Option (Nat × Nat)
  | [] => none
  | e :: l =>
    match leastDroops s l with
    | none => some e
    | some d => if recentDroops s d.2 < recentDroops s e.2 then some d else some e

/-- The place of a core in the rotation of a partition: its relative number; among the free bays, which come and go, its
module logical number, counted from bay 31 (R150, R485; log 91). -/
def placeKey (s : State) (p core rel : Nat) : Nat :=
  if p == freePart then (((s.core core).logical.getD 0) + 12) % 384 else rel

/-- A core has taken a crew: the pointer starts after it (R150). -/
def tookCrew (s : State) (p core : Nat) : State :=
  match (partCores s p).find? (fun e => e.2 == core) with
  | some e => s.modPart p (fun x => { x with placePtr := placeKey s p core e.1 + 1 })
  | none => s

/-- A core of a partition for a crew, by relative number and physical core: not HOT first, then by droops,
then by the rotating pointer; a core that is being repaired takes none. -/
def chooseCore (s : State) (p : Nat) (n : Need) (avoid : List Nat) (mayHot : Bool) : Option (Nat × Nat) :=
  let start := (s.part p).placePtr
  let key (e : Nat × Nat) : Nat := placeKey s p e.2 e.1
  let all := partCores s p
  let all := all.filter (fun e => decide (key e < 12)) ++ all.filter (fun e => decide (12 ≤ key e))
  let order := all.filter (fun e => decide (start ≤ key e)) ++ all.filter (fun e => decide (key e < start))
  let fit := order.filter (fun e => !avoid.contains e.2 && !(s.core e.2).failing && coreFits s e.2 n)
  match leastDroops s (fit.filter (fun e => !(s.core e.2).hot)) with
  | some e => some e
  | none => if mayHot then leastDroops s fit else none

/-! ### Placement (R135, R136, R151) -/

/-- The crew number of the i-th crew of a task, in WID fields 2 to 5 (R130, R131, R134). -/
def crewNumber (r : LaunchRec) (i : Nat) : Nat :=
  let c2 := i % r.ncrew
  let c3 := i / r.ncrew % r.level 3
  let c4 := i / (r.ncrew * r.level 3) % r.level 4
  let c5 := i / (r.ncrew * r.level 3 * r.level 4)
  let w2 := r.width 2
  let w3 := r.width 3
  let w4 := r.width 4
  c2 + 2 ^ w2 * c3 + 2 ^ (w2 + w3) * c4 + 2 ^ (w2 + w3 + w4) * c5

/-- The WID of a lane as created (R130). -/
def widOf (r : LaunchRec) (number tix lane : Nat) : Word64 :=
  BitVec.ofNat 64 (lane + 2 ^ r.width 0 * tix + 2 ^ (r.width 0 + r.width 1) * number)

/-- A team at its start (R136, R160, R260). -/
def newTeam (k : Task) (task crew number tix : Nat) : Team :=
  let w := 32 * 2 ^ k.lrec.twk
  { task := task, crew := crew, tix := tix, words := 2 ^ k.lrec.twk, nregs := 16 * k.lrec.ndiv
    paths := [(0, { base := maskUpTo w, pc := k.entryPc })]
    sregs := (List.range 16).map (fun i => (i, k.args.getD i 0#64))
    lineBase := if k.lining then fld k.header.toNat 19 11 else 0
    wids := (List.range w).map (fun l => (l, widOf k.lrec number tix l))
    wid0 := widOf k.lrec number tix 0 }

/-- A free team place of a core (R135, R219); which one is open (log 61). -/
def freePlace (s : State) (core t : Nat) : Nat :=
  let used := ((teamsOnCore s core).filter (fun e => e.1 != t)).map (fun e => e.2.place)
  let free := (List.range 64).filter (fun n => !used.contains n)
  free.getD (Config.choose s.free (5000 + t) % free.length) 0

/-- A team takes a place and a context of its core, or joins the standby queue (R151, R152). -/
def settleTeam (s : State) (core t busyTo : Nat) : State :=
  let tm := { s.team t with place := freePlace s core t }
  match contextFor s core tm with
  | some c =>
    s.setTeam t { tm with residence := if busyTo ≤ s.now then .active c else .exchanging busyTo (some c) }
  | none =>
    if busyTo ≤ s.now then
      (s.setTeam t { tm with residence := .standby }).modCore core (fun co => { co with standby := co.standby ++ [t] })
    else s.setTeam t { tm with residence := .exchanging busyTo none }

/-- A team of a crew is made and settled. -/
def addTeam (s : State) (task crew core number tix : Nat) : State :=
  let (t, s) := s.newId
  let s := s.setTeam t (newTeam (s.task task) task crew number tix)
  settleTeam (s.modCrew crew (fun cr => { cr with teams := cr.teams ++ [t] })) core t s.now

/-- The entry of the signal table for a wait token in device memory (R142). -/
def tokenEntry (s : State) (k : Task) (w : Word64) : Option SigEntry :=
  if w == 0#64 || bitAt w.toNat 0 then none
  else (s.part k.part).signals.find? (fun e => e.addr == tokenFlat s k.fn w.toNat)

/-- The scope at which a crew on a core acquires what a present wait token guards: the narrowest of CORE, DIE and PART
that encloses the signalling task's cores, or SYS (R141, R142, R192). -/
def tokenScope (s : State) (k : Task) (core : Nat) (w : Word64) : Nat :=
  if w == 0#64 then 0
  else
    match tokenEntry s k w with
    | none => 5
    | some e => if e.cores.all (· == core) then 2 else if e.cores.all (fun c => dieOf c == dieOf core) then 3 else 4

/-- The scope of the acquire that a crew makes at its admission. -/
def acquireScope (s : State) (k : Task) (core : Nat) : Nat :=
  (k.lrec.waita.map (tokenScope s k core)).foldl max 0

/-- The entries that an acquire finds are the most recently used (R142). -/
def useSignals (s : State) (k : Task) : State :=
  let used := k.lrec.waita.filterMap (tokenEntry s k)
  s.modPart k.part (fun p => { p with signals := used.eraseDups ++ p.signals.filter (fun e => !used.contains e) })

/-- The next crew of a task is placed on a core (R135, R136), where it acquires through the task's wait tokens (R141);
on a HOT core a crew that may migrate asks
to (R156). -/
def placeCrew (s : State) (task : Nat) (rel core : Nat) : State :=
  let k := s.task task
  let r := k.lrec
  let n := r.need
  let number := crewNumber r k.nextCrew
  let ptr := placeKey s k.part core rel + 1
  let shmAt := someGap s (shmGaps s core n.shm)
  let accAt := someGap s.bump (accGaps s core n.acc)
  let s := s.bump.bump
  let (c, s) := s.newId
  let cr : Crew :=
    { task := task, number := number, core := core, lcore := rel, shmBytes := n.shm, accRows := n.acc
      shmAt := shmAt, accAt := accAt, nrings := r.rings
      rings := (List.range r.rings).map (fun i => (i, ringOfImage (k.ringImgs.getD i [])))
      acqScope := acquireScope s k core
      migrate := k.migratable && (s.core core).hot }
  let s := useSignals s k
  let s := (List.range r.teams).foldl (fun s tix => addTeam s task c core number tix) (s.setCrew c cr)
  let next := k.nextCrew + 1
  let s := s.modTask task (fun k => { k with
    nextCrew := next, phase := if next == k.crewTotal then .running else .admitting
    unplacedSince := none, ranOn := if k.ranOn.contains core then k.ranOn else core :: k.ranOn })
  traceCrew (s.modPart k.part (fun p => { p with placePtr := ptr })) c .placed

/-! ### Admission (R134, R168, R183) -/

/-- A task with a crew to admit. -/
def wantsCrew (s : State) (k : Task) : Bool :=
  (k.phase == .admitting) && !k.restart && !k.saved && !k.faulted && !k.suspended && !k.walkStop && k.stopping.isNone
    && (!frontierOnly s k || !isSpeculative s k)

/-- The order of admission: frontier first, then by timestamp, then by creation. -/
def admitBefore (s : State) (a b : Nat × Task) : Bool :=
  let fa := isFrontier s a.2
  let fb := isFrontier s b.2
  (fa && !fb) || (fa == fb && (decide (a.2.ts.toNat < b.2.ts.toNat)
    || (a.2.ts == b.2.ts && decide (a.1 < b.1))))

def insertAdmit (s : State) (e : Nat × Task) : List (Nat × Task) → List (Nat × Task)
  | [] => [e]
  | d :: l => if admitBefore s e d then e :: d :: l else d :: insertAdmit s e l

/-- The tasks of a function that have crews to admit, in order. -/
def admitOrder (s : State) (fn : Nat) : List (Nat × Task) :=
  ((tasksOf s fn).filter (fun e => wantsCrew s e.2)).foldl (fun l e => insertAdmit s e l) []

/-- The first crew that can be placed: a crew of the frontier cohort that fits nowhere holds back all. -/
def nextPlacement (s : State) (p : Nat) : List (Nat × Task) → Option (Nat × Nat × Nat)
  | [] => none
  | e :: l =>
    match chooseCore s p e.2.lrec.need e.2.avoid true with
    | some c => some (e.1, c)
    | none => if isFrontier s e.2 then none else nextPlacement s p l

/-- Crews are admitted while the running function is not draining (R92). -/
def mayAdmit (s : State) (p : Nat) : Bool := p == freePart || ((s.part p).isOpen && !(s.part p).draining)

/-- CREW_PLACEMENT (R134, R135). -/
def execCrewPlacement (part : Nat) (s : State) : Host.Outcome State Fault Refusal :=
  match running s part with
  | none => .next s
  | some fn =>
    if !mayAdmit s part then .next s
    else
      match nextPlacement s part (admitOrder s fn) with
      | none => .next s
      | some (task, rel, core) => .next (placeCrew s task rel core)

/-- The crew of the frontier cohort that is next in a partition and fits nowhere. -/
def unplaced (s : State) (part : Nat) : Option Nat :=
  match running s part with
  | none => none
  | some fn =>
    match (admitOrder s fn).head? with
    | none => none
    | some e =>
      if mayAdmit s part && isFrontier s e.2 && (chooseCore s part e.2.lrec.need e.2.avoid true).isNone then some e.1
      else none

/-- The youngest task of a partition with a crew on a core, outside the frontier cohort (R134, R175). -/
def youngestResident (s : State) (fn : Nat) : Option Task :=
  ((tasksOf s fn).filter (fun e => !isFrontier s e.2 && !(crewsOfTask s e.1).isEmpty)).foldl
    (fun b e => match b with
      | none => some e.2
      | some d => if d.ts.toNat < e.2.ts.toNat then some e.2 else some d) none

/-- The frontier's crew has been unplaced for 100 µs. -/
def placementLate (s : State) (part : Nat) : Option Nat :=
  match unplaced s part with
  | some k => if (s.task k).unplacedSince.any (fun t => decide (t + us 100 ≤ s.now)) then some k else none
  | none => none

/-- PLACEMENT_TIMEOUT (R134): repeated every 100 µs. -/
def execPlacementTimeout (part : Nat) (s : State) : Host.Outcome State Fault Refusal :=
  match placementLate s part with
  | none => .next s
  | some k =>
    let s := s.modTask k (fun x => { x with unplacedSince := some s.now })
    match youngestResident s (s.task k).fn with
    | some y => .next (abortCohort s y.fn y.ts .capacity)
    | none => .next s

/-! ### The end of a crew (R137, R262) -/

/-- Nothing that the crew has issued is outstanding. -/
def crewIdle (s : State) (c : Nat) : Bool :=
  let cr := s.crew c
  let mine (t : Nat) : Bool := cr.teams.contains t
  cr.chans.all (fun ch => ch.2.queue.isEmpty) && !(mxCommands s).any (fun m => m.crew == c)
    && !s.accesses.any (fun a => mine a.2.team)
    && !s.ops.any (fun o => match o.2 with
      | .rel t _ _ _ _ _ _ _ => mine t
      | .spawn t _ _ _ _ _ _ _ => mine t
      | .coll t _ _ _ _ _ _ _ => mine t
      | .radv t _ _ _ _ => mine t
      | _ => false)

/-- A core is found to fail: its retirement joins the repairs (R40, R262). -/
def coreFails (fn : Nat) (s : State) (c : Nat) : State :=
  if (s.core c).failing || (s.core c).cstate != 0#2 then s
  else { s.modCore c (fun co => { co with failing := true, blame := some fn }) with repairs := s.repairs ++ [.core c] }

/-- The core on which a task last mismatched is retired when the task finishes elsewhere; a task that
finishes has its history cleared (R262). -/
def finishTask (s : State) (k : Nat) : State :=
  let tk := s.task k
  let s := s.setTask k { tk with phase := .finished, lastMiss := none, avoid := [], moved := false }
  if tk.moved then tk.avoid.foldl (coreFails tk.fn) s else s

/-- CREW_RETIRE (R137). -/
def execCrewRetire (crew : Nat) (s : State) : Host.Outcome State Fault Refusal :=
  match Tab.find s.crews crew with
  | none => .next s
  | some cr =>
    if cr.teams.isEmpty || !cr.teams.all (fun t => (s.team t).retired) || !crewIdle s crew then .next s
    else
      let mine (t : Nat) : Bool := cr.teams.contains t
      let op (o : Nat × PendOp) : Bool := match o.2 with
        | .acq t _ _ _ _ _ _ _ | .lvreq t _ _ _ => !mine t
        | _ => true
      let s := traceCrew s crew .retired
      let s := { s with crews := Tab.erase s.crews crew, teams := s.teams.filter (fun e => !mine e.1)
                        ops := s.ops.filter op }
      let s := s.modTask cr.task (fun k => { k with crewsRetired := k.crewsRetired + 1 })
      let k := s.task cr.task
      .next (if k.crewsRetired == k.crewTotal then finishTask s cr.task else s)

/-! ### Yields (R152, R153) -/

/-- A yield with standby teams queued: the exchange, or the move out when the head would not fit. The team joins the
tail of the queue when its move ends. -/
def yieldTeam (s : State) (t : Nat) : State :=
  let tm := s.team t
  let core := (s.crew tm.crew).core
  match tm.residence, (s.core core).standby with
  | .active c, h :: rest =>
    let hd := s.team h
    let n := max (moveCycles tm) (moveCycles hd)
    let fits := fastRows s core + hd.rows ≤ 4096 + tm.rows
    let out (n : Nat) (s : State) : State := s.setTeam t { tm with residence := .exchanging (s.now + n) none, atYield := false }
    if fits then
      let s := (out n s).setTeam h { hd with residence := .exchanging (s.now + n) (some c) }
      s.modCore core (fun co => { co with standby := rest })
    else out (moveCycles tm) s
  | _, _ => s.setTeam t { tm with atYield := false }

/-- A team at a yield while others stand by. -/
def yieldDue (s : State) (t : Nat) : Bool :=
  let tm := s.team t
  let active := match tm.residence with | .active _ => true | _ => false
  tm.atYield && active && !tm.retired && !(s.core (s.crew tm.crew).core).standby.isEmpty

/-- YIELD_EXCHANGE (R153). -/
def execYieldExchange (team : Nat) (s : State) : Host.Outcome State Fault Refusal :=
  if yieldDue s team then .next (yieldTeam s team) else .next s

/-! ### Crews that move (R156-R158, R241, R253) -/

/-- Bytes of a team's state that a migration moves: what the team has, without the room that a saved image keeps (R157,
R482; log 92). -/
def teamBytes (tm : Team) : Nat :=
  let path (e : Nat × Path) : Nat := 32 + 4 * tm.words * (1 + e.2.stack.length)
  let latch (x : Latch) : Nat := if x.vals.isEmpty then 0 else 128 * tm.words
  let port (e : Nat × Port) : Nat := if e.2.configured then 64 else 0
  128 * tm.rows + tm.nregs / 2 + 1024 + 60 * tm.words + 32 + 24 + (tm.paths.map path).foldl (· + ·) 0
    + 144 * rowsOf tm.fli + latch tm.bv + latch tm.bm + latch tm.bx + 256 * tm.accLim + (tm.ports.map port).foldl (· + ·) 0

/-- Bytes of a crew and its teams that a migration moves. -/
def moveBytes (s : State) (c : Nat) : Nat :=
  let cr := s.crew c
  let chan (e : Nat × Channel) : Nat := if e.2.queue.isEmpty && e.2.cwp == 0#64 then 0 else 64
  (liveTeams s cr).foldl (fun n t => n + teamBytes (s.team t))
    (cr.shmBytes + 32 * cr.nrings + 4 * cr.bars.length + 1 + (cr.chans.map chan).foldl (· + ·) 0)

/-- Bytes that the state of a crew and its teams takes in a saved image (R256-R258). -/
def crewBytes (s : State) (c : Nat) : Nat :=
  let cr := s.crew c
  (pad128 (crewArea s cr)).length + (teamsInOrder s cr).foldl (fun n tm =>
    n + (pad128 (contextArea (s.task cr.task) cr tm)).length) 0

/-- A crew's teams take places on a core from a cycle on. -/
def seatTeams (s : State) (c core busyTo : Nat) : State :=
  let live := (s.crew c).teams.filter (fun t => !(s.team t).retired)
  let off (s : State) (t : Nat) : State := s.modTeam t (fun tm => { tm with residence := .saved })
  live.foldl (fun s t => settleTeam s core t busyTo) (live.foldl off s)

/-- A crew comes to a core: its ranges are placed there (R135). -/
def seatCrew (s : State) (c core : Nat) : State :=
  let cr := s.crew c
  let s := tookCrew s (s.task cr.task).part core
  let shmAt := someGap s (shmGaps s core cr.shmBytes)
  let accAt := someGap s.bump (accGaps s core cr.accRows)
  let s := s.bump.bump.setCrew c { cr with core := core, shmAt := shmAt, accAt := accAt, saved := false }
  s.modTask cr.task (fun k => { k with ranOn := if k.ranOn.contains core then k.ranOn else core :: k.ranOn })

/-- The leave of a crew's copy channels, and of the matrix engine it leaves idle, moves with it (R157). -/
def moveLeave (s : State) (c old new : Nat) : State :=
  let mxMoves := !(s.core old).matrix.any (fun m => m.crew != c)
  let mine (x : Leave) : Bool := (x.engine % 3 == 1 && x.engine / 3 / 16 == c) || (mxMoves && x.engine == mxEngine old)
  let shift (x : Leave) : Leave :=
    { x with core := new, engine := if x.engine == mxEngine old then mxEngine new else x.engine }
  let a := s.die (dieOf old)
  let g := (a.granted.filter mine).map shift
  let q := (a.queue.filter mine).map shift
  let s := s.setDie (dieOf old) ({ a with granted := a.granted.filter (fun x => !mine x)
                                          queue := a.queue.filter (fun x => !mine x) }.note s.now)
  let b := s.die (dieOf new)
  s.setDie (dieOf new) ({ b with granted := b.granted ++ g, queue := b.queue ++ q }.note s.now)

/-- Commands of a crew that have not started go to the new core's matrix engine (R157). -/
def moveMatrix (s : State) (c old new : Nat) : State :=
  let mine := (s.core old).matrix.filter (fun m => m.crew == c)
  let s := s.modCore old (fun co => { co with matrix := co.matrix.filter (fun m => m.crew != c) })
  s.modCore new (fun co => { co with matrix := co.matrix ++ mine })

/-- The transfer of a crew's state begins (R157, steps 1 to 4): from the next cycle on, 1 KiB per cycle within a die, 512 B
between dies. The crew holds its ranges on the target, and its room on the old core until the transfer has ended. -/
def migrateCrew (s : State) (c core : Nat) : State :=
  let cr := s.crew c
  let old := cr.core
  let s := quiesceTeams s (liveTeams s cr)
  let n := ceilDiv (moveBytes s c) (if dieOf old == dieOf core then 1024 else 512)
  let s := tookCrew s (s.task cr.task).part core
  let target : Moving :=
    { core := core, until_ := s.now + 1 + n, shmAt := someGap s (shmGaps s core cr.shmBytes)
      accAt := someGap s.bump (accGaps s core cr.accRows) }
  let s := s.bump.bump.modCore old (fun co => { co with standby := co.standby.filter (fun t => !cr.teams.contains t) })
  s.modCrew c (fun cr => { cr with moving := some target })

/-- A transfer whose time is over. -/
def transferOver (s : State) (cr : Crew) : Bool := !cr.saved && cr.moving.any (fun m => decide (m.until_ ≤ s.now))

/-- The end of a migration (R157, steps 5 to 7): engines and leave follow, the old core's room is free, and the teams
take places on the target, where they issue from the next cycle on. -/
def finishMove (s : State) (c : Nat) : State :=
  let cr := s.crew c
  match cr.moving with
  | none => s
  | some m =>
    let old := cr.core
    let s := moveMatrix (moveLeave s c old m.core) c old m.core
    let s := s.setCrew c { cr with core := m.core, shmAt := m.shmAt, accAt := m.accAt, moving := none, migrate := false
                                   syncing := false, syncLeft := [] }
    let s := s.modTask cr.task (fun k => { k with ranOn := if k.ranOn.contains m.core then k.ranOn else m.core :: k.ranOn })
    let s := s.modCore old (fun co => { co with standby := co.standby.filter (fun t => !cr.teams.contains t) })
    fillContexts (traceCrew (seatTeams s c m.core (s.now + 1)) c .migration) old 64

/-- Every team of a crew has issued the bundle of its synchronous yield (R156). -/
def syncOver (s : State) (c : Nat) : Bool :=
  match Tab.find s.crews c with
  | some cr => cr.syncing && cr.syncLeft.isEmpty && !cr.saved && cr.moving.isNone
  | none => false

/-- No migration starts after the drain start of a crew's partition (R156). -/
def tooLate (s : State) (c : Nat) : Bool :=
  let k := s.task (s.crew c).task
  k.part != freePart && (s.part k.part).draining

/-- The request of a crew is honoured or stays: what its teams have issued is performed first (R218, R422). -/
def migrationDue (s : State) (c : Nat) : Bool :=
  syncOver s c && (tooLate s c || quietable s (liveTeams s (s.crew c)))

/-- MIGRATION (R156, R157): to a core that is not HOT; without one the request stays. -/
def execMigration (crew : Nat) (s : State) : Host.Outcome State Fault Refusal :=
  if !migrationDue s crew then .next s
  else
    let cr := s.crew crew
    let k := s.task cr.task
    let stay := s.setCrew crew { cr with syncing := false, syncLeft := [] }
    let n : Need := { teams := (liveTeams s cr).length, rows := (liveTeams s cr).foldl (fun n t => n + (s.team t).rows) 0
                      shm := cr.shmBytes, acc := cr.accRows }
    if tooLate s crew then .next stay
    else
      match chooseCore s k.part n (cr.core :: k.avoid) false with
      | none => .next stay
      | some (_, core) => .next (migrateCrew s crew core)

/-! ### The watchdog (R160-R163) -/

/-- WATCHDOG of a task, named by a team and a path of it. -/
def watchdogTask (s : State) (t p : Nat) : State :=
  let tm := s.team t
  let k := s.task tm.task
  if isSpeculative s k then abortTasks s k.fn .watchdog (cohortTasks s k.fn k.ts) [] [tm.task]
  else stopTask s tm.task tm.wid0 p (tm.path p).pc { code := .watchdog }

/-- YCOUNT has reached a nonzero LIMIT. -/
def watchdogDue (s : State) (t : Nat) : Bool :=
  match Tab.find s.teams t with
  | some tm =>
    tm.wdogLimit != 0#16 && decide (tm.wdogLimit.toNat ≤ ycount tm) && !tm.retired && tm.residence != .saved
  | none => false

/-- WATCHDOG (R162, R163): the record names the path that issued last. -/
def execWatchdog (team : Nat) (s : State) : Host.Outcome State Fault Refusal :=
  if watchdogDue s team then .next (watchdogTask s team (s.team team).lastPath) else .next s

/-! ### The save of a stuck task (R241) -/

/-- The path waits at a WAITF that does not hold. -/
def atFlag (s : State) (tm : Team) (pa : Path) : Bool :=
  match (decodeBundle (fetchWord s (s.task tm.task) pa.pc)).c with
  | some (.waitf m any) => pa.replay.isNone && !waitfHolds tm m any
  | _ => false

/-- A command of a matrix engine that some teams have issued can still complete: none of theirs before it is held by a
fault or waits for data. -/
def mxLive (s : State) (ts : List Nat) (q : List MxCmd) : Bool :=
  let halts (m : MxCmd) : Bool :=
    ts.contains m.team && (m.fault.isSome || (m.start.isNone && !mxData (s.crew m.crew) m))
  (q.takeWhile (fun m => !halts m)).any (fun m => ts.contains m.team)

/-- Work of a task that may still set a flag. -/
def taskBusy (s : State) (k : Nat) : Bool :=
  let ts := teamsOfTask s k
  s.accesses.any (fun a => ts.contains a.2.team)
    || s.ops.any (fun o => match o.2 with
      | .acq t _ _ _ _ _ _ _ => ts.contains t
      | .rel t _ _ _ _ _ _ _ => ts.contains t
      | .signal t _ _ _ _ _ => ts.contains t
      | .spawn t _ _ _ _ _ _ f => ts.contains t && f.isNone
      | .coll t _ _ _ _ _ _ f => ts.contains t && f.isNone
      | .walk w => w.task == k
      | .lvreq t _ _ _ => ts.contains t
      | .radv t _ _ _ _ => ts.contains t)
    || s.crews.any (fun c => c.2.task == k && c.2.chans.any (fun ch =>
        match ch.2.queue with
        | q :: _ => q.fault.isNone && (q.started || copyRoom c.2 q (copyLen s q))
        | [] => false))
    || s.cores.any (fun c => mxLive s ts c.2.matrix)

/-- The path cannot go on until a parked path does: it is parked, waits at a merge point or a JOIN, or waits for a
flag that nothing under way will set (R241). -/
def pathStuck (s : State) (tm : Team) (pa : Path) : Bool :=
  pa.parked || pa.arrived || pa.stall == 11 || (atFlag s tm pa && !taskBusy s tm.task)

/-- No path of any team of the task can go on, and some path is parked. -/
def taskStuck (s : State) (k : Nat) : Bool :=
  let ts := teamsOfTask s k
  let tk := s.task k
  !tk.saved && !tk.suspended && !tk.walkStop && tk.phase != .finished
    && ts.any (fun t => (s.team t).paths.any (fun e => e.2.parked))
    && ts.all (fun t => (s.team t).paths.all (fun e => pathStuck s (s.team t) e.2))

/-- The task has been stuck for 20 µs, and what it has issued can be brought to the point of a save. -/
def parkSaveDue (s : State) (k : Nat) : Bool :=
  match Tab.find s.tasks k with
  | some tk => taskStuck s k && tk.stuckSince.any (fun t => decide (t + us 20 ≤ s.now)) && tk.stopping.isNone
      && quietable s (teamsOfTask s k)
  | none => false

/-- PARKED_TASK_SAVE (R241). -/
def execParkedTaskSave (task : Nat) (s : State) : Host.Outcome State Fault Refusal :=
  if parkSaveDue s task then
    let s := saveTask s task
    .next (if (Tab.find s.tasks task).isSome then
        s.modTask task (fun k => { k with parkSaved := true, stuckSince := none }) else s)
  else .next s

/-! ### The restore (R241, R253, R259) -/

/-- The core for a crew: the one that `pref` gives for its old core, if it fits there, or by R150. -/
def seatCore (s : State) (p : Nat) (n : Need) (avoid : List Nat) (want : Option Nat) : Option Nat :=
  match want with
  | some c => if coreFits s c n then some c else (chooseCore s p n avoid true).map Prod.snd
  | none => (chooseCore s p n avoid true).map Prod.snd

/-- Some saved crews take cores from a cycle on, one by one; none when one of them fits nowhere. -/
def seatAll (s : State) (p from_ : Nat) (avoid : List Nat) (pref : Nat → Option Nat) : List Nat → Option State
  | [] => some s
  | c :: cs =>
    let cr := s.crew c
    let live := liveTeams s cr
    let n : Need := { teams := live.length, rows := live.foldl (fun n t => n + (s.team t).rows) 0
                      shm := cr.shmBytes, acc := cr.accRows }
    match seatCore s p n avoid (pref cr.core) with
    | none => none
    | some core =>
      let busyTo := from_ + ceilDiv (crewBytes s c) 512
      let s := seatTeams (seatCrew s c core) c core busyTo
      let s := s.modCore core (fun co => { co with matrix := co.matrix ++ cr.waiting })
      seatAll (s.modCrew c (fun x => { x with waiting := [] })) p from_ avoid pref cs

/-- The team of lowest WID of a task. -/
def lowestTeam (s : State) (k : Nat) : Nat :=
  let ts := teamsOfTask s k
  ts.foldl (fun b t => if (s.team t).wid0.toNat < (s.team b).wid0.toNat then t else b) (ts.headD 0)

/-- The task stays saved and is reported (R252, R259). -/
def refuseRestore (s : State) (k : Nat) : State :=
  let tk := s.task k
  let t := lowestTeam s k
  let tm := s.team t
  let rec_ := faultRecord tk.taskid tm.wid0 0 (tm.path 0).pc { code := .restoreCapacity } false
  let s := s.setTask k { tk with faulted := true, frec := rec_ }
  let s := memWrite s (ctxFlat s tk.fn tk.block) rec_
  let s := dropTaskWork (writeDirectory s k) k
  stopQueue (s.modTask k (fun x => { x with phase := .finished })) tk.fn tk.queue 0x10

/-- LVREQs whose requests went with a flush ask again, for the engines of the team's new core (R29, R95). -/
def askAgain (s : State) (k : Nat) : State :=
  let ts := teamsOfTask s k
  let ask (s : State) (o : Nat × PendOp) : State :=
    match o.2 with
    | .lvreq t e fl cost =>
      let core := (s.crew (s.team t).crew).core
      let e' := if e % 3 == 0 then mxEngine core else if e % 3 == 2 then collEngine (dieOf core) else e
      let d := s.die (dieOf core)
      if !ts.contains t || d.queue.any (fun x => x.op == some o.1) then s
      else
        let r : Leave := { engine := e', core := core, cost := cost, op := some o.1, reservation := true, at_ := s.now }
        { s with ops := Tab.set s.ops o.1 (.lvreq t e' fl cost) }.setDie (dieOf core) (enqueueLeave d r)
    | _ => s
  s.ops.foldl ask s

/-- Engine commands whose page requests are gone try again, unless a deferred fault or a stopped walk holds
them (R125, R412). -/
def retryEngines (s : State) (k : Nat) : State :=
  let kept (id : Nat) : Bool :=
    s.pages.any (fun r => r.engines.contains id) || s.ops.any (fun o => match o.2 with
      | .walk w => w.stopped && w.path == enginePath id
      | _ => false)
  if (s.task k).suspended then s
  else ((heldCommands s k).filter (fun id => !kept id)).foldl (fun s id => setEngineFault s id none) s

/-- After a restore: parked paths whose requests are gone replay, and teams go on unless the task is
suspended or its walk stopped. -/
def awake (s : State) (k : Nat) : State :=
  let s := retryEngines s k
  let tk := s.task k
  let waits (t p : Nat) : Bool := s.pages.any (fun r => r.parked.contains (t, p))
  let path (t : Nat) (e : Nat × Path) : Nat × Path :=
    (e.1, if e.2.parked && !waits t e.1 then { e.2 with parked := false, stall := 1 } else e.2)
  { s with teams := s.teams.map (fun e =>
      (e.1, if e.2.task == k then
          { e.2 with stopped := tk.suspended || tk.walkStop || tk.stopping.isSome, paths := e.2.paths.map (path e.1) } else e.2)) }

/-- The saved crews of a task by their numbers in the machine, in the order of the block (R254). -/
def savedCrews (s : State) (k : Nat) : List Nat :=
  (crewsInOrder s k).filterMap (fun c =>
    (s.crews.find? (fun e => e.2.task == k && e.2.number == c.number && e.2.saved)).map Prod.fst)

/-- The saved crews of a task come back from a cycle on: their headers are checked, they take cores, and what has changed
in the block is read (R253, R259); the state stays when they fit nowhere. -/
def bringBack (s : State) (k from_ : Nat) (pref : Nat → Option Nat) : Option State :=
  let tk := s.task k
  let cs := savedCrews s k
  let flat := ctxFlat s tk.fn tk.block
  let bad := (eccHit s flat tk.blockLen).map (fun b => (ctxArea s tk.fn).1 + tk.block + (b - flat))
  (seatAll (readBlock s k cs) tk.part from_ tk.avoid pref cs).map (fun s =>
    let s := clearDirectory s tk.fn tk.slot
    let s := s.modTask k (fun x =>
      { x with saved := false, parkSaved := false, block := 0, blockLen := 0, image := [], badArgs := x.badArgs.or bad })
    askAgain (awake s k) k)

/-- A saved task comes back; its OVRS is checked (R162). -/
def restoreTask (s : State) (k : Nat) : State :=
  if !headersOk s k (savedCrews s k) then refuseRestore s k
  else
    match bringBack s k s.now (fun _ => none) with
    | none => s
    | some s =>
      let tk := s.task k
      let s := traceTask s tk .restore 0
      if tk.ovrlim != 0 && tk.ovrlim ≤ min tk.ovrs 0xFF then watchdogTask s (lowestTeam s k) 0 else s

/-- A saved task may come back: its function runs, and no page request parks its paths (R241). -/
def restoreDue (s : State) (k : Nat) : Bool :=
  match Tab.find s.tasks k with
  | some tk =>
    let ts := teamsOfTask s k
    tk.saved && !tk.faulted && tk.phase != .finished && runs s tk.fn && mayAdmit s tk.part
      && !s.pages.any (fun r => r.parked.any (fun q => ts.contains q.1))
  | none => false

/-- Some crews of a task are saved while the others run on: they may come back (R36). -/
def crewsAway (s : State) (k : Nat) : Bool :=
  match Tab.find s.tasks k with
  | some tk =>
    !tk.saved && !tk.faulted && tk.phase != .finished && tk.stopping.isNone && runs s tk.fn && mayAdmit s tk.part
      && s.crews.any (fun e => e.2.task == k && e.2.saved)
  | none => false

/-- They come back, or the task stops for a header that no core can restore (R36, R259). -/
def returnCrews (s : State) (k from_ : Nat) (pref : Nat → Option Nat) : Option State :=
  if !crewsAway s k then none
  else if headersOk s k (savedCrews s k) then bringBack s k from_ pref
  else
    let tm := s.team (lowestTeam s k)
    some (stopTask s k tm.wid0 0 (tm.path 0).pc { code := .restoreCapacity })

/-- PARKED_TASK_RESTORE (R241, R253). -/
def execParkedTaskRestore (task : Nat) (s : State) : Host.Outcome State Fault Refusal :=
  if restoreDue s task then .next (restoreTask s task) else .next s

end Sys2Proof.Machine
end

