-- ==== Sys2Proof/Machine/Commit.lean ====
section
/-! DEFINITION. The commit of a cohort (R174), the time limits of capacity and of SPAWN (R178, R182), the
replay of deferred faults (R180), and the start of irrevocable operations (R181, R466). -/

namespace Sys2Proof.Machine

open Sys2Proof

/-! ### Commit (R141, R142, R174) -/

/-- An entry of the signal table: the most recent first, 256 at most (R142). -/
def noteSignal (s : State) (p flat : Nat) (cores : List Nat) : State :=
  s.modPart p (fun x =>
    { x with signals := (⟨flat, cores⟩ :: x.signals.filter (fun e => e.addr != flat)).take 256 })

/-- A commit adds 1 to the word at SIGA: other entries of the signal table are not touched (R63, R142). -/
def signalAdd (s : State) (k : Task) : State :=
  let w := k.lrec.siga.toNat
  if k.lrec.siga == 0#64 then s
  else if !tokenOk s k.fn w 8 then stopQueue s k.fn k.queue 0x14
  else
    let flat := tokenFlat s k.fn w
    let v := (leNat (Memory.bytes s.mem flat 8) + 1) % 2 ^ 64
    noteSignal { s with mem := Memory.write s.mem flat (leBytes 8 v) } k.part flat k.ranOn

/-- Step 4 for one task: nothing but the count for a FAULTED one (R174, R252). -/
def commitTask (s : State) (id : Nat) : State :=
  let k := s.task id
  let s := s.modFunc k.fn (fun f => { f with spCommit := f.spCommit + 1#64 })
  let s := traceTask s k .commit 0
  let s : State :=
    if k.faulted then
      if k.block == 0 then s
      else s.modFunc k.fn (fun f =>
        { f with faultBlocks := f.faultBlocks ++ [⟨k.queue, k.slot, k.taskid, k.block, k.blockLen⟩] })
    else
      let s := signalAdd s k
      let x := (s.func k.fn).queue k.queue
      let s := if k.walked then s else setQueue s k.fn k.queue { x with qdone := x.qdone + 1#64 }
      if k.lrec.flag 49 then s.irq k.fn 1 else s
  { s with tasks := Tab.erase s.tasks id }

/-- The frontier cohort may commit: it has tasks, and all are Finished and not predicted (R168, R174). -/
def commitDue (s : State) (fn : Nat) : Bool :=
  let ks := cohortTasks s fn (hem s fn)
  !ks.isEmpty && ks.all (fun id => (s.task id).phase == .finished && (s.task id).predicted.isEmpty)

/-- A cohort that may commit is sealed: no task joins it any more (R166, R174). -/
def sealDue (s : State) (fn : Nat) : Bool := runs s fn && (s.func fn).sealedAt.isNone && commitDue s fn

def sealCohort (s : State) (fn : Nat) : State := s.modFunc fn (fun f => { f with sealedAt := some s.now })

/-- The longest time that a commit takes: 200 cycles, and 1 cycle for every 16 entries that the cohort holds in its
busiest slice (R174). -/
def commitCycles (s : State) (fn : Nat) : Nat :=
  let slices := ((cohortAt s fn (hem s fn)).lines).map (fun l => homeSetOf s fn l / 4096)
  200 + (slices.map (fun x => slices.count x)).foldl max 0 / 16

/-- The commit of a sealed cohort has taken the longest time that it may. -/
def commitLate (s : State) (fn : Nat) : Bool :=
  commitDue s fn && runs s fn && (s.func fn).sealedAt.any (fun t => decide (t + commitCycles s fn ≤ s.now))

/-- The commit, as one step (R174). -/
def commitCohort (s : State) (fn : Nat) : State :=
  let ts := hem s fn
  let bytes := (cohortAt s fn ts).bytes
  let ids := cohortTasks s fn ts
  let s := bytes.foldl (fun s b => memWrite s b.1 [b.2]) s
  let s := ids.foldl commitTask (dropCohort s fn ts)
  updateHem (s.modFunc fn (fun f => { f with highest := some ts, sealedAt := none })) fn

/-- COHORT_COMMIT (R174). -/
def execCohortCommit (fn : Nat) (s : State) : Host.Outcome State Fault Refusal :=
  if commitDue s fn && runs s fn then .next (commitCohort s fn) else .next s

/-! ### Capacity (R182) -/

/-- The function of what waits for an entry, since when, and the entry's line. -/
def fullWait (s : State) (id : Nat) : Option (Nat × Nat × Nat) :=
  let fnOf (t : Nat) : Nat := (s.task (s.team t).task).fn
  match Tab.find s.accesses id, Tab.find s.fulls id with
  | some a, _ => a.fullSince.map (fun t => (fnOf a.team, t, a.fullLine))
  | none, some (since, line) =>
    match engineOwner s id, Tab.find s.ops id with
    | some (t, _, _), _ => some (fnOf t, since, line)
    | none, some (.acq t _ _ _ _ _ _ _) => some (fnOf t, since, line)
    | none, some (.rel t _ _ _ _ _ _ _) => some (fnOf t, since, line)
    | none, _ => none
  | none, none => none

/-- A new 50 µs is counted. -/
def restartFull (s : State) (id : Nat) : State :=
  let s : State := match Tab.find s.accesses id with
    | some a => { s with accesses := Tab.set s.accesses id { a with fullSince := some s.now } }
    | none => s
  match Tab.find s.fulls id with
  | some (_, line) => { s with fulls := Tab.set s.fulls id (s.now, line) }
  | none => s

/-- Something has waited 50 µs for an entry. -/
def fullDue (s : State) (id : Nat) : Bool :=
  match fullWait s id with
  | some (_, t, _) => decide (t + us 50 ≤ s.now)
  | none => false

/-- CAPACITY_TIMEOUT (R182). -/
def execCapacityTimeout (acc : Nat) (s : State) : Host.Outcome State Fault Refusal :=
  match fullWait s acc with
  | none => .next (clearFull s acc)
  | some (fn, _, line) =>
    if !fullDue s acc then .next s
    else
      let s := restartFull s acc
      match youngest ((setHolders s fn line).filter (fun c => c.ts != hem s fn)) with
      | some c => .next (abortCohort s fn c.ts .capacity)
      | none => .next s

/-! ### SPAWN without a slot (R178) -/

/-- A frontier SPAWN that has waited 50 µs for a slot. -/
def spawnLate (s : State) (fn : Nat) : Option Nat :=
  if !(freeSlots s fn).isEmpty then none
  else
    ((waitingSpawns s fn).find? (fun e => frontierSpawn s e.2 && (match Tab.find s.ops e.1 with
      | some (.spawn _ _ _ _ _ _ since _) => decide (since + us 50 ≤ s.now)
      | _ => false))).map Prod.fst

/-- The youngest task of a function that holds a slot, outside the frontier cohort (R175, R178). -/
def youngestSlotted (s : State) (fn : Nat) : Option Task :=
  ((tasksOf s fn).filter (fun e => !e.2.restart && !isFrontier s e.2)).foldl
    (fun b e => match b with
      | none => some e.2
      | some d => if d.ts.toNat < e.2.ts.toNat then some e.2 else some d) none

/-- SPAWN_SLOT_TIMEOUT (R178): repeated every 50 µs. -/
def execSpawnSlotTimeout (part : Nat) (s : State) : Host.Outcome State Fault Refusal :=
  match running s part with
  | none => .next s
  | some fn =>
    match spawnLate s fn with
    | none => .next s
    | some id =>
      let s : State := match Tab.find s.ops id with
        | some (.spawn t p a b fl pc _ f) => { s with ops := Tab.set s.ops id (.spawn t p a b fl pc s.now f) }
        | _ => s
      match youngestSlotted s fn with
      | some y => .next (abortCohort s fn y.ts .capacity)
      | none => .next s

/-! ### Deferred faults (R180) -/

/-- A Suspended task is the frontier's and unpredicted. -/
def replayDue (s : State) (k : Nat) : Bool :=
  match Tab.find s.tasks k with
  | some tk => tk.suspended && !isSpeculative s tk && !tk.saved
  | none => false

/-- DEFERRED_FAULT_REPLAY (R180). -/
def execDeferredFaultReplay (task : Nat) (s : State) : Host.Outcome State Fault Refusal :=
  if !replayDue s task then .next s
  else
    let s := (heldCommands s task).foldl (fun s id => setEngineFault s id none) s
    let s := (teamsOfTask s task).foldl replayDeferred s
    let s := s.modTask task (fun k => { k with suspended := false })
    .next (if (s.task task).walkStop then s else resumeTeams s task)

/-! ### Irrevocable operations (R181, R466) -/

/-- The path that a SIGNAL holds goes on. -/
def releaseSignal (s : State) (id t p : Nat) : State :=
  { s with ops := Tab.erase s.ops id }.modPath t p (fun pa => { pa with heldBy := none, stall := 1 })

/-- SIGNAL's add: one atomic, tracked like another global atomic when the word lies in device memory. -/
def signalNow (s : State) (id t p : Nat) (addr value : Word64) : State :=
  let k := s.task (s.team t).task
  let a := addr.toNat
  if !tokenOk s k.fn a 8 then
    let pc := ((s.team t).path p).pc - 32
    takeFault (releaseSignal s id t p) t p pc
      { code := .segmentBound, slot := .c, addr := a / 8 * 8, lanes := ((s.team t).path p).active }
  else
    let flat := tokenFlat s k.fn a
    let r : Track := if bitAt a 0 || k.fn == pfFn then .ok s
      else match trackRead s k.fn k.ts flat 8 with
        | .ok s => trackWrite s k.fn k.ts flat 8
        | r => r
    match r with
    | .ok s =>
      if (eccHit s flat 8).isSome then
        let pc := ((s.team t).path p).pc - 32
        takeFault (releaseSignal s id t p) t p pc
          { code := .memUncorrectable, slot := .c, addr := a / 8 * 8, lanes := ((s.team t).path p).active }
      else
      let v := (leNat (Memory.bytes s.mem flat 8) + value.toNat) % 2 ^ 64
      releaseSignal (memWrite s flat (leBytes 8 v)) id t p
    | _ => s

/-- SIGNAL starts at the frontier, and adds once the path's earlier writes, and its earlier accesses of the word
(R188), are performed. -/
def signalStart (s : State) (id t p : Nat) (addr value : Word64) (waits : List Nat) : State :=
  let k := s.task (s.team t).task
  if !onCore s t || !mayIrrevocable s k then s
  else
    let s := enterWriteThrough s k.fn k.ts
    let s : State := { s with ops := Tab.set s.ops id (.signal t p addr value waits true) }
    let s := s.modPath t p (fun pa => { pa with stall := 16 })
    if waits.any (fun i => (Tab.find s.accesses i).isSome)
        || wordHeld s t p id (tokenFlat s k.fn addr.toNat) true then s
    else signalNow s id t p addr value

/-- An irrevocable operation that may start, starts. -/
def irrevocable (s : State) (id : Nat) : State :=
  match Tab.find s.accesses id, Tab.find s.ops id with
  | some a, _ => accessStart s id a
  | none, some (.signal t p addr value waits _) => signalStart s id t p addr value waits
  | none, some (.coll _ _ _ _ _ _ _ _) => collStart s id
  | none, _ => s

/-- IRREVOCABLE_START (R181). -/
def execIrrevocableStart (op : Nat) (s : State) : Host.Outcome State Fault Refusal := .next (irrevocable s op)

end Sys2Proof.Machine
end

