-- ==== Sys2Proof/Machine/Walker.lean ====
section
/-! DEFINITION. The graph walker (R143-R148) and the children of SPAWN (R464). -/

namespace Sys2Proof.Machine

open Sys2Proof

/-! ### The position -/

def setWalk (s : State) (fn : Nat) (w : Option Walk) : State := s.modFunc fn (fun f => { f with walk := w })

def Walk.goto (w : Walk) (i : Nat) : Walk := { w with pos := i, spawned := 0 }

/-- The walk that a partition's walker may advance, at a node of a kind, with the node's bytes: its record's
tokens hold, and no drain has begun (R92). -/
def walkAt (s : State) (part kind : Nat) : Option (Nat × Walk × List Byte) :=
  match running s part with
  | none => none
  | some fn =>
    match (s.func fn).walk with
    | none => none
    | some w =>
      let b := nodeBytes s fn w w.pos
      if dispatcherOpen s part && !w.ended && nodeKind b == kind && tokensHold s fn w.lrec then some (fn, w, b)
      else none

/-- The walk ends with a code, which stops its queue (R56, R146). -/
def failWalk (s : State) (fn : Nat) (w : Walk) (code : Nat) : State :=
  stopQueue (setWalk s fn none) fn w.queue code

/-! ### LAUNCH and SPAWNSET (R146) -/

/-- The record that a template gives at the walk's TSNEXT. -/
def templateRecord (s : State) (fn : Nat) (w : Walk) (a : Nat) : LaunchRec :=
  { parseRecord (gBytes s fn a 128) with codeh := w.lrec.codeh, tstamp := w.tsnext }

/-- The code with which a template fails, if it does; one that cannot be read fails check 0x0B (log 8). -/
def templateCode (s : State) (fn : Nat) (w : Walk) (a : Nat) : Option Nat :=
  if !inSeg s fn a 128 then some 0x0B
  else
    let r := templateRecord s fn w a
    match recordCode s fn (clampStamp s fn r.tstamp).2 r with
    | some c => some c
    | none => if r.graph then some 0x0B else none

/-- One task of a template takes a slot. -/
def launchOne (s : State) (fn : Nat) (w : Walk) (a : Nat) (arg : Option Word64) : State :=
  match slotFor s fn 3 with
  | none => s
  | some slot =>
    let r := templateRecord s fn w a
    let c := clampStamp s fn r.tstamp
    createTask c.1 { fn := fn, queue := w.queue, walked := true, byWalker := true, node := w.pos
                     walkPrev := w.assigned, predicted := w.predicts.map Predict.id, arg15 := arg } slot c.2 r

/-- A launch on a predicted side waits where it would join a cohort that cannot be rolled back (R181; log 94). -/
def predictedJoin (s : State) (fn : Nat) (w : Walk) : Bool :=
  !w.predicts.isEmpty && (cohortAt s fn (clampStamp s fn w.tsnext).2).writeThrough

/-- Tasks that the node may create now (R146, R147, R166, R178, R181). -/
def launchRoom (s : State) (fn : Nat) (w : Walk) (b : List Byte) : Nat :=
  let n := nodeBatch s fn w b
  let free := (freeSlots s fn).length - claimsBefore s fn 3
  if stampWaits s fn w.tsnext || predictedJoin s fn w then 0
  else if n ≤ free then n
  else if fieldAt b 16 4 ≤ 48 then 0 else free

/-- The walk after tasks at its TSNEXT: their timestamp is the highest it has assigned (R146). -/
def Walk.launched (w : Walk) (s : State) : Walk := { w with assigned := some (clampStamp s w.fn w.tsnext).2 }

/-- LAUNCH_NODE (R146). -/
def execLaunchNode (part : Nat) (s : State) : Host.Outcome State Fault Refusal :=
  match walkAt s part 1 with
  | none => .next s
  | some (fn, w, b) =>
    let a := fieldAt b 8 8
    if launchRoom s fn w b == 0 then .next s
    else
      match templateCode s fn w a with
      | some code => .next (failWalk s fn w code)
      | none =>
        let w' := (w.launched s).goto (nodeNext b)
        .next (setWalk (launchOne s fn w a none) fn (some { w' with tsnext := w.tsnext + 1#64 }))

/-- SPAWNSET_NODE (R146): its K tasks are created together; more than 48 come in parts, and the last one ends the
node (R147; log 44). -/
def execSpawnsetNode (part : Nat) (s : State) : Host.Outcome State Fault Refusal :=
  match walkAt s part 6 with
  | none => .next s
  | some (fn, w, b) =>
    let a := fieldAt b 8 8
    let n := launchRoom s fn w b
    if n == 0 then .next s
    else
      match templateCode s fn w a with
      | some code => .next (failWalk s fn w code)
      | none =>
        let js := (List.range n).map (w.spawned + ·)
        let w' := w.launched s
        let s := js.foldl (fun s j => launchOne s fn w a (some (BitVec.ofNat 64 j))) s
        let w := w'
        let w := if w.spawned + n == fieldAt b 16 4 then { w.goto (nodeNext b) with tsnext := w.tsnext + 1#64 }
          else { w with spawned := w.spawned + n }
        .next (setWalk s fn (some w))

/-! ### COND and WHILE (R146, R147) -/

/-- The 64-bit word at a node's address, reached through tensor 0 of the walk's function (R115). -/
def nodeWord (s : State) (fn a : Nat) : Option Nat := if inSeg s fn a 8 then some (gNat s fn a 8) else none

/-- The walk on one side of a branch node; a WHILE counts the times it goes to NEXT. -/
def Walk.branch (w : Walk) (node : Nat) (b : List Byte) (taken : Bool) : Walk :=
  let counts := if nodeKind b == 3 && taken then Tab.set w.counts node (Tab.get w.counts node 0 + 1) else w.counts
  { w.goto (if taken then nodeNext b else nodeAlt b) with counts := counts }

/-- The side that a node predicts: PRED 3 takes the last outcome, taken at first (R144). -/
def predictedSide (w : Walk) (b : List Byte) : Bool :=
  if nodePred b == 1 then true else if nodePred b == 2 then false else Tab.get w.outcomes w.pos 1 == 1

/-- A branch node: it resolves at the frontier, or is predicted while fewer than 4 predictions stand. -/
def branchNode (s : State) (fn : Nat) (w : Walk) (b : List Byte) : State :=
  if w.tsnext.toNat ≤ (hem s fn).toNat then
    match nodeWord s fn (fieldAt b 8 8) with
    | none => failWalk s fn w 0x0B
    | some v =>
      let taken := v != 0
      let w := { w.branch w.pos b taken with outcomes := Tab.set w.outcomes w.pos (b2n taken) }
      setWalk s fn (some w)
  else if nodePred b == 0 || 4 ≤ w.predicts.length then s
  else
    let taken := predictedSide w b
    let (id, s) := s.newId
    let p : Predict := { id := id, node := w.pos, tsnext := w.tsnext, taken := taken, counts := w.counts, assigned := w.assigned }
    setWalk s fn (some { w.branch w.pos b taken with predicts := w.predicts ++ [p] })

/-- COND_NODE (R146). -/
def execCondNode (part : Nat) (s : State) : Host.Outcome State Fault Refusal :=
  match walkAt s part 2 with
  | none => .next s
  | some (fn, w, b) => .next (branchNode s fn w b)

/-- WHILE_NODE (R146): a count that has reached MAXIT sends the walk to ALT. -/
def execWhileNode (part : Nat) (s : State) : Host.Outcome State Fault Refusal :=
  match walkAt s part 3 with
  | none => .next s
  | some (fn, w, b) =>
    let cap := fieldAt b 16 4
    if cap != 0 && decide (cap ≤ Tab.get w.counts w.pos 0) then
      .next (setWalk s fn (some { w.goto (nodeAlt b) with counts := Tab.set w.counts w.pos 0 }))
    else .next (branchNode s fn w b)

/-- A prediction that held: nothing depends on it any more. -/
def predictionHeld (s : State) (fn : Nat) (w : Walk) (p : Predict) : State :=
  let free (k : Task) : Task := if k.fn == fn then { k with predicted := k.predicted.filter (· != p.id) } else k
  let w := { w with predicts := w.predicts.filter (fun q => q.id != p.id)
                    outcomes := Tab.set w.outcomes p.node (b2n p.taken)
                    sigtoks := w.sigtoks.map (fun x => { x with under := x.under.filter (· != p.id) }) }
  setWalk { s with tasks := s.tasks.map (fun e => (e.1, free e.2)) } fn (some w)

/-- A wrong prediction: what followed it is aborted, and the walk goes on at the other side. -/
def predictionWrong (s : State) (fn : Nat) (w : Walk) (p : Predict) : State :=
  let b := nodeBytes s fn w p.node
  let ks := ((walkTasks s fn).filter (fun e => decide (p.tsnext.toNat ≤ e.2.lrec.tstamp.toNat))).map Prod.fst
  let s := if ks.isEmpty then s else abortTasks s fn .prediction ks ks []
  let w := { w with predicts := w.predicts.filter (fun q => decide (q.id < p.id)), tsnext := p.tsnext
                    counts := p.counts, assigned := p.assigned, ended := false
                    outcomes := Tab.set w.outcomes p.node (b2n (!p.taken))
                    sigtoks := w.sigtoks.filter (fun x => !x.under.contains p.id) }
  setWalk s fn (some (w.branch p.node b (!p.taken)))

/-- COND_RESOLVE (R147): the oldest prediction, once HEMLINE has reached its node's TSNEXT. -/
def execCondResolve (part : Nat) (s : State) : Host.Outcome State Fault Refusal :=
  match running s part with
  | none => .next s
  | some fn =>
    match (s.func fn).walk with
    | none => .next s
    | some w =>
      match w.predicts.head? with
      | none => .next s
      | some p =>
        if (hem s fn).toNat < p.tsnext.toNat then .next s
        else
          match nodeWord s fn (fieldAt (nodeBytes s fn w p.node) 8 8) with
          | none => .next (failWalk s fn w 0x0B)
          | some v =>
            .next (if (v != 0) == p.taken then predictionHeld s fn w p else predictionWrong s fn w p)

/-! ### WAITTOK, SIGTOK and END (R146) -/

/-- WAITTOK_NODE (R146): no prediction crosses it. -/
def execWaittokNode (part : Nat) (s : State) : Host.Outcome State Fault Refusal :=
  match walkAt s part 4 with
  | none => .next s
  | some (fn, w, b) =>
    match nodeWord s fn (fieldAt b 8 8) with
    | none => .next (failWalk s fn w 0x0B)
    | some v =>
      if w.predicts.isEmpty && decide (fieldAt b 16 8 ≤ v) then .next (setWalk s fn (some (w.goto (nodeNext b))))
      else .next s

/-- SIGTOK_NODE (R146). -/
def execSigtokNode (part : Nat) (s : State) : Host.Outcome State Fault Refusal :=
  match walkAt s part 5 with
  | none => .next s
  | some (fn, w, b) =>
    let x : SigTok := { addr := fieldAt b 8 8, tsnext := w.tsnext, above := w.assigned, under := w.predicts.map Predict.id }
    .next (setWalk s fn (some { w.goto (nodeNext b) with sigtoks := w.sigtoks ++ [x] }))

/-- HEMLINE exceeds every timestamp that the walk assigned before a SIGTOK node, and no prediction stands over it
(R146). -/
def SigTok.due (x : SigTok) (h : Word64) : Bool := x.under.isEmpty && x.above.all (fun t => decide (t.toNat < h.toNat))

/-- SIGTOK_ADD (R146): 1 is added to the word; no add is made under a prediction that stands. -/
def execSigtokAdd (part : Nat) (s : State) : Host.Outcome State Fault Refusal :=
  match running s part with
  | none => .next s
  | some fn =>
    match (s.func fn).walk with
    | none => .next s
    | some w =>
      match w.sigtoks.find? (fun x => x.due (hem s fn)) with
      | none => .next s
      | some x =>
        match nodeWord s fn x.addr with
        | none => .next (failWalk s fn w 0x0B)
        | some v =>
          let s := memWrite s (flatOf s fn x.addr) (leBytes 8 ((v + 1) % 2 ^ 64))
          .next (setWalk s fn (some { w with sigtoks := w.sigtoks.erase x }))

/-- END_NODE (R146). -/
def execEndNode (part : Nat) (s : State) : Host.Outcome State Fault Refusal :=
  match walkAt s part 0 with
  | none => .next s
  | some (fn, w, _) => .next (setWalk s fn (some { w with ended := true }))

/-- WALK_END_COMPLETE (R146). -/
def execWalkEndComplete (part : Nat) (s : State) : Host.Outcome State Fault Refusal :=
  match running s part with
  | none => .next s
  | some fn =>
    match (s.func fn).walk with
    | none => .next s
    | some w =>
      if !w.ended || !w.predicts.isEmpty || !w.sigtoks.isEmpty || !(walkTasks s fn).isEmpty then .next s
      else
        let x := (s.func fn).queue w.queue
        let s := setQueue (setWalk s fn none) fn w.queue { x with qdone := x.qdone + 1#64 }
        let a := w.lrec.siga.toNat
        if w.lrec.siga == 0#64 then .next s
        else if !tokenOk s fn a 8 then .next (stopQueue s fn w.queue 0x14)
        else
          let flat := tokenFlat s fn a
          .next (memWrite s flat (leBytes 8 ((leNat (Memory.bytes s.mem flat 8) + 1) % 2 ^ 64)))

/-! ### SPAWN (R464, R165) -/

/-- The record of a SPAWN's template, or the fault that it raises, in the order of R464. -/
def spawnRecord (s : State) (k : Task) (ts : Word64) (templ : Nat) : Except FaultInfo LaunchRec :=
  let bad (code : FaultCode) : Except FaultInfo LaunchRec := .error { code := code, slot := .c, addr := templ }
  if templ % 128 != 0 then bad .align
  else if !inSeg s k.fn templ 128 then bad .segmentBound
  else
    let r := parseRecord (fnBytes s k.fn k.ts templ 128)
    if r.graph || (recordCode s k.fn ts r).isSome then bad .tensorInvalid else .ok r

/-- The slot that a SPAWN may take: one of the frontier cohort comes before the restart list (R178). -/
def spawnSlot (s : State) (fn t : Nat) : Option Nat := slotFor s fn (if frontierSpawn s t then 0 else 2)

/-- The timestamp of a child: the one that was asked for, and at least the parent's (R165). -/
def childStamp (k : Task) (ts : Word64) : Word64 := if ts.toNat < k.ts.toNat then k.ts else ts

/-- The child of a SPAWN enters Waiting, and the flag's count falls. -/
def spawnChild (s : State) (op t slot : Nat) (ts : Word64) (flag : Nat) (r : LaunchRec) : State :=
  let id := (s.team t).task
  let k := s.task id
  let low := decide (ts.toNat < k.ts.toNat)
  let s := if low then s.modTeam t (fun tm => { tm with status := tm.status ||| 0x200#64 }) else s
  let s := createTask s { fn := k.fn, queue := k.queue, creator := some id, walked := k.walked
                          predicted := k.predicted } slot (childStamp k ts) r
  flagDone { s with ops := Tab.erase s.ops op } t (some flag)

/-- SPAWN_CHILD_CREATE (R464). -/
def execSpawnChildCreate (op : Nat) (s : State) : Host.Outcome State Fault Refusal :=
  match Tab.find s.ops op with
  | some (.spawn t _ templ ts flag _ _ none) =>
    let k := s.task (s.team t).task
    if !onCore s t || !runs s k.fn || (s.orderOf op).any (fun i => (Tab.find s.accesses i).isSome) then .next s
    else
      match spawnSlot s k.fn t with
      | none => .next s
      | some slot =>
        match spawnRecord s k (childStamp k ts) templ.toNat with
        | .error f => .next (engineFault s op f)
        | .ok r =>
          match trackRead s k.fn k.ts (flatOf s k.fn templ.toNat) 128 with
          | .ok s => .next (spawnChild s op t slot ts flag r)
          | .stall => .next s
          | .full l => .next (noteFull s op l)
  | _ => .next s

end Sys2Proof.Machine
end

