-- ==== Sys2Proof/Machine/Tenancy.lean ====
section
/-! DEFINITION. The registers of partitions, of VFs and of the link Pattern (R76-R104, R485-R487). -/

namespace Sys2Proof.Machine

open Sys2Proof

/-! ### Partitions (R79-R81, R486) -/

/-- A write of PBAYS: ignored while EN is 1, with CFGERR as it was, the model's choice (log 98); every clean bit clears. -/
def pbaysSet (s : State) (p : Nat) (val : Word64) : State :=
  s.modPart p (fun x => if x.en then x else { x with bays := val.setWidth 32, clean := 0#384 })

/-- PBAYS_WRITE (R81). -/
def execPbaysWrite (part : Nat) (val : Word64) (s : State) : Host.Outcome State Fault Refusal :=
  .next (pbaysSet s part val)

/-- VFs bound to a partition. -/
def boundVfs (s : State) (p : Nat) : List Nat :=
  (s.funcs.filter (fun e => decide (e.1 < 192) && e.2.en && e.2.part.toNat == p)).map Prod.fst

/-- A VF that a slot may name: 0xFF, or enabled and bound to the partition (R89). -/
def slotVfOk (s : State) (p : Nat) (v : Byte) : Bool := v == 0xFF#8 || (boundVfs s p).contains v.toNat

/-- One shadow slot passes the COMMIT checks (R89). -/
def slotOk (s : State) (p : Nat) (otb : Nat) (x : PSlot) : Bool :=
  decide (20 ≤ x.len.toNat) && decide (x.len.toNat ≤ 10000) && decide (2 ≤ x.drain.toNat)
    && decide (x.drain.toNat ≤ 1000) && decide (otb ≤ x.drain.toNat) && decide (x.drain.toNat + 10 ≤ x.len.toNat)
    && slotVfOk s p x.owner && slotVfOk s p x.donee

/-- Shadow slots 0 to NSLOTM1. -/
def shadowSlots (x : Part) : List PSlot := (List.range (x.nslotm1.toNat + 1)).map (fun i => Tab.get x.shadow i {})

def shadowOk (s : State) (p : Nat) (x : Part) : Bool := (shadowSlots x).all (slotOk s p x.otb.toNat)

/-- COMMIT (R89). -/
def pctlCommitNow (s : State) (p : Nat) : State :=
  let x := s.part p
  if !shadowOk s p x then s.setPart p { x with cfgErr := true }
  else if x.en then s.setPart p { x with nextLive := some (shadowSlots x), cfgErr := false }
  else s.setPart p { x with live := shadowSlots x, cfgErr := false }

/-- The bays of a core that holds a crew of the PF (R485). -/
def pfBays (s : State) : List Nat :=
  (s.crews.filter (fun e => (s.task e.2.task).fn == pfFn && !e.2.saved)).map (fun e => e.2.core / 13)

/-- What EN asks for (R81, R485). -/
def mayEnablePart (s : State) (p : Nat) (x : Part) : Bool :=
  let bays := bitsBelow 32 x.bays.toNat
  !bays.isEmpty
    && !s.parts.any (fun e => e.1 != p && e.2.en && bays.any (fun b => e.2.bays.getLsbD b))
    && (List.range (granules bays.length)).all (fun g => x.clean.getLsbD g)
    && shadowOk s p x && !(pfBays s).any (fun b => bays.contains b)

/-- Bytes of memory, and words with errors, move to other flat addresses. -/
def relocate (s : State) (dst : Nat → Option Nat) : State :=
  let moved := s.mem.filterMap (fun c => (dst c.1).map (fun a => (a, c.2)))
  { s with mem := moved.foldl (fun m c => Memory.write m c.1 [c.2]) (Memory.without s.mem (fun a => (dst a).isSome))
           eccBad := s.eccBad.map (fun w => ((dst (32 * w)).map (· / 32)).getD w) }

/-- A partition that becomes enabled finds what its bays' HBM holds, and leaves it there when it goes off (R78). -/
def mapPart (s : State) (p : Nat) : State :=
  let bays := bitsBelow 32 (s.part p).bays.toNat
  relocate s (fun a => if spaceOf a == bareSpace then (addrOf bays a).map (spaceBase p + ·) else none)

def unmapPart (s : State) (p : Nat) : State :=
  let bays := bitsBelow 32 (s.part p).bays.toNat
  relocate s (fun a => if spaceOf a == p then some (bareOf bays (a % 2 ^ 64)) else none)

/-- The lowest common way of a slice: neither a speculation way nor private nor retired (R38, R86). -/
def commonWay (s : State) (p bay : Nat) (private_ : Nat) : Option Nat :=
  (List.range 24).find? (fun w => !(List.range (s.part p).specWays.toNat).contains w && !bitAt private_ w
    && !(specSet s p bay).contains w && !(retiredWays s bay).contains w)

/-- Common ways stand in for the speculation ways that a slice has lost, while it has any (R38). -/
def refillWays (s : State) (p bay private_ : Nat) : Nat → State
  | 0 => s
  | fuel + 1 =>
    if (specSet s p bay).length < (s.part p).specWays.toNat then
      match commonWay s p bay private_ with
      | some w => refillWays (s.modPart p (fun x => { x with swaps := x.swaps ++ [(bay, w)] })) p bay private_ fuel
      | none => s
    else s

/-- Frame 0 starts at PSTART, or at the next whole microsecond when that is past (R90). -/
def frameZero (s : State) (x : Part) : Nat :=
  if dtime s ≤ x.pstart.toNat then x.pstart.toNat else (dtime s / 1000 + 1) * 1000

/-- A partition as its enable leaves it: relative numbers are fixed, the shadow set is live (R79, R81). Frame 0 is fixed
here, and a later write of PSTART does not move it: the model's choice (R90; log 100). -/
def enablePart (s : State) (x : Part) : Part :=
  let at_ := frameZero s x
  { x with en := true, cfgErr := false, lcores := activeLogicals s (bitsBelow 32 x.bays.toNat)
           live := shadowSlots x, nextLive := none, frameAt := at_, slotAt := at_, started := false, curSlot := 0
           runVf := none, draining := false, donated := false, edgeStep := .none, isOpen := false, swaps := [], edgeX := none
           edgeY := none, frames := 0#32, placePtr := 0 }

/-- EN goes to 1. -/
def partOn (s : State) (p : Nat) : State :=
  let s := mapPart (s.setPart p (enablePart s (s.part p))) p
  (bitsBelow 32 (s.part p).bays.toNat).foldl (fun s bay => refillWays s p bay 0 8) s

/-- EN goes to 0: the granules become unclean (R81). -/
def partOff (s : State) (p : Nat) : State :=
  (unmapPart s p).modPart p (fun x =>
    { x with en := false, clean := 0#384, runVf := none, isOpen := false, started := false, edgeStep := .none })

/-- A write of PCTL: the other fields are taken first, but a write that would clear EN while a VF is bound is ignored
(R80, R81, R486). SPECWAYS and NSLOTM1 are ignored while EN is 1 and leave CFGERR clear: the model's choice (log 98). -/
def pctlWrite (s : State) (p : Nat) (val : Word64) : State :=
  let v := val.toNat
  if !bitAt v 0 && (s.part p).en && !(boundVfs s p).isEmpty then s.modPart p (fun x => { x with cfgErr := true })
  else
  let x := { s.part p with otb := BitVec.ofNat 10 (fld v 5 10), cfgErr := false }
  let x := if x.en then x else { x with specWays := BitVec.ofNat 4 (fld v 1 4), nslotm1 := BitVec.ofNat 4 (fld v 16 4) }
  let s := s.setPart p x
  let s := if bitAt v 15 then pctlCommitNow s p else s
  let x := s.part p
  if bitAt v 0 && !x.en then
    if mayEnablePart s p x then partOn s p else s.setPart p { x with cfgErr := true }
  else if !bitAt v 0 && x.en then partOff s p
  else s

/-- PARTITION_ENABLE (R81). -/
def execPartitionEnable (part : Nat) (val : Word64) (s : State) : Host.Outcome State Fault Refusal :=
  .next (pctlWrite s part val)

/-- PARTITION_DISABLE (R81). -/
def execPartitionDisable (part : Nat) (val : Word64) (s : State) : Host.Outcome State Fault Refusal :=
  .next (pctlWrite s part val)

/-- PCTL_COMMIT (R89). -/
def execPctlCommit (part : Nat) (val : Word64) (s : State) : Host.Outcome State Fault Refusal :=
  .next (pctlWrite s part val)

/-- A write of a shadow slot (R88). -/
def pslotWrite (s : State) (p i : Nat) (val : Word64) : State :=
  let v := val.toNat
  let x : PSlot := { owner := BitVec.ofNat 8 v, len := BitVec.ofNat 14 (fld v 8 14)
                     drain := BitVec.ofNat 10 (fld v 22 10), donee := BitVec.ofNat 8 (fld v 32 8) }
  s.modPart p (fun q => { q with shadow := Tab.set q.shadow i x })

/-! ### Granules (R85, R487) -/

/-- Granules of a VF's segment. -/
def Func.hasGranule (f : Func) (g : Nat) : Bool :=
  decide (f.segBase.toNat ≤ g) && decide (g < f.segBase.toNat + f.segCount.toNat)

def granuleCount (s : State) (p : Nat) : Nat := granules (partBays s p).length

/-- A VF other than one to which a granule of a partition is bound. -/
def granuleBound (s : State) (p g : Nat) (but : Nat) : Bool :=
  (boundVfs s p).any (fun v => v != but && (s.func v).hasGranule g)

/-- A write of PSCRUB (R85, R487). -/
def pscrubWrite (s : State) (p : Nat) (val : Word64) : State :=
  let v := val.toNat
  let x := s.part p
  let g := fld v 0 9
  if !bitAt v 16 then (if x.scrubBusy then s else s.setPart p { x with scrubGran := BitVec.ofNat 9 g })
  else if x.scrubBusy then s.setPart p { x with scrubErr := true }
  else if granuleCount s p ≤ g || granuleBound s p g 192 then
    s.setPart p { x with scrubErr := true, scrubGran := BitVec.ofNat 9 g }
  else s.setPart p { x with scrubErr := false, scrubBusy := true, scrubGran := BitVec.ofNat 9 g }

/-- SCRUB (R85). -/
def execScrub (part : Nat) (val : Word64) (s : State) : Host.Outcome State Fault Refusal :=
  .next (pscrubWrite s part val)

/-- Cached copies of a range of a partition leave its cores (R85). -/
def dropCached (s : State) (p flat n : Nat) : State :=
  let cores := (partCores s p).map Prod.snd
  let keepT (e : TtbEntry) : Bool := apart (flatOf s e.fn e.entry) 16 flat n
  let keepR (r : RoLine) : Bool := apart (r.line * 128) 128 flat n
  { s with cores := s.cores.map (fun c =>
      (c.1, if cores.contains c.1 then { c.2 with ttb := c.2.ttb.filter keepT, ro := c.2.ro.filter keepR } else c.2)) }

/-- A flat address lies in a granule of a partition, as its bays' HBM is numbered. -/
def inGranule (s : State) (p g flat : Nat) : Bool :=
  ((bareAt s flat).bind (addrOf (partBays s p))).any (fun a => a / 2 ^ 30 == g)

/-- The bytes of a granule become zero; those of a partition that is not enabled lie where its bays' HBM is mapped, or in
the bare space (R78, R85). -/
def zeroGranule (s : State) (p g : Nat) : State :=
  let flat := spaceBase p + g * 2 ^ 30
  let heal (w : Nat) : Bool := if (s.part p).en then apart (32 * w) 32 flat (2 ^ 30) else !inGranule s p g (32 * w)
  { s with mem := if (s.part p).en then Memory.zero s.mem flat (2 ^ 30) else Memory.without s.mem (inGranule s p g)
           eccBad := s.eccBad.filter heal }

def Part.slot (x : Part) : PSlot := x.live.getD x.curSlot {}

/-- The current frame lies in a profiling lease of a VF. -/
def leased (s : State) (p v : Nat) : Bool :=
  (s.part p).leases.any (fun l => l.2.2 == v && decide (l.1 ≤ (s.part p).frames.toNat) && decide ((s.part p).frames.toNat < l.1 + l.2.1))

/-- The current slot lies under a profiling lease, of its owner or of the VF to which it is donated (R102). -/
def slotLeased (s : State) (p : Nat) : Bool :=
  let x := s.part p
  x.started && (leased s p x.slot.owner.toNat || x.runVf.any (leased s p))

/-- SCRUB_COMPLETE (R85): the granule is zero and clean. Under a profiling lease the scrub is put off
(R102). The granule is that of the bays as PBAYS gives them now: the model's choice (log 102). -/
def execScrubComplete (part : Nat) (s : State) : Host.Outcome State Fault Refusal :=
  let x := s.part part
  if !x.scrubBusy then .next s
  else if slotLeased s part then .next (s.later (.scrubComplete part))
  else
    let flat := spaceBase part + x.scrubGran.toNat * 2 ^ 30
    let s := dropCached (dropSignals s flat (2 ^ 30)) part flat (2 ^ 30)
    let s := zeroGranule s part x.scrubGran.toNat
    .next (s.modPart part (fun q => { q with
      scrubBusy := false, clean := q.clean ||| BitVec.ofNat 384 (2 ^ q.scrubGran.toNat) }))

/-! ### VFs (R82-R84, R86, R87) -/

/-- Private ways of the other VFs bound to a partition. -/
def otherWays (s : State) (p v : Nat) : Nat :=
  (boundVfs s p).foldl (fun m u => if u == v then m else m ||| (s.func u).ways.toNat) 0

/-- The ways of a slice that are no common ways: speculation ways, those that stand in for them, private ways of a mask,
and retired ones (R38, R86). -/
def takenWays (s : State) (p bay private_ : Nat) : List Nat :=
  (List.range 24).filter (fun w => decide (w < (s.part p).specWays.toNat) || bitAt private_ w
    || (s.part p).swaps.contains (bay, w) || (retiredWays s bay).contains w)

/-- The mask of private ways is allowed: no speculation way, no way of another VF, 4 common ways left in every slice. -/
def waysOk (s : State) (p v : Nat) (ways : Nat) : Bool :=
  let spec := 2 ^ (s.part p).specWays.toNat - 1
  let others := otherWays s p v
  ways &&& spec == 0 && ways &&& others == 0 && !(s.part p).swaps.any (fun e => bitAt ways e.2)
    && (partBays s p).all (fun bay => decide (4 ≤ 24 - (takenWays s p bay (ways ||| others)).length))

/-- The ways of a mask that no slice of a partition has lost (R38). At a VF's enable VFWAYS keeps these alone: the model's
choice (log 99). -/
def soundWays (s : State) (p : Nat) (ways : BitVec 24) : BitVec 24 :=
  (partBays s p).foldl (fun m bay => (retiredWays s bay).foldl (fun m w => m &&& ~~~(BitVec.ofNat 24 (2 ^ w))) m) ways

/-- What EN of a VF asks for (R83). -/
def mayEnableVf (s : State) (v : Nat) (f : Func) : Bool :=
  let p := f.part.toNat
  let base := f.segBase.toNat
  let count := f.segCount.toNat
  let ctx := fld f.ctxb.toNat 12 36 * 4096
  let ctxLen := fld f.ctxb.toNat 48 16 * 2 ^ 20
  let codeLen := f.codeMb.toNat * 2 ^ 20
  (s.part p).en && decide ((boundVfs s p).length < 16)
    && decide (base + count ≤ granuleCount s p)
    && (List.range count).all (fun i => (s.part p).clean.getLsbD (base + i) && !granuleBound s p (base + i) v)
    && decide (ctx + ctxLen ≤ count * 2 ^ 30) && decide (codeLen ≤ count * 2 ^ 30)
    && apart ctx ctxLen (count * 2 ^ 30 - codeLen) codeLen
    && decide (2 ^ 20 ≤ ctxLen) && waysOk s p v f.ways.toNat

/-- A VF as its enable leaves it: MCODE, OVRCNT, the debit, the counters, HEMLINE and the task numbers start
again, and it holds no sealed slot (R75, R83, R167, R185, R263, R468). The slots' generations go on: the model's choice
(R69; log 79). -/
def enableVf (f : Func) : Func :=
  { f with en := true, cfgErr := false, countAtEnable := f.segCount.toNat, mcode := List.replicate 64 0#8
           ovrCnt := 0#16, owed := 0, last := 0, savedTasks := 0, spCommit := 0#64, spAbortC := 0#64
           spAbortD := 0#64, spAbortK := 0#64, spAbortP := 0#64, spAbortE := 0#64, spDefer := 0#64
           spWthru := 0#64, lnAbort := 0#64, lnMove := 0#64, lnStop := 0#64, lnRetire := 0#64
           hemline := 0#64, highest := none, sealedAt := none, nextTaskid := 0, walk := none, spilled := [], faultBlocks := []
           slots := f.slots.map (fun e => (e.1, { e.2 with live := false, releasing := false })) }

/-- The tasks of a function, with all they hold, leave the machine. -/
def dropTasks (s : State) (fn : Nat) : State :=
  let s := (tasksOf s fn).foldl (fun s e => dropTaskWork s e.1) s
  { s with tasks := s.tasks.filter (fun e => e.2.fn != fn), cohorts := s.cohorts.filter (fun c => c.fn != fn) }

/-- A VF goes off: its granules become unbound and unclean (R83). -/
def disableVf (s : State) (v : Nat) : State :=
  let f := s.func v
  let s := endDebug (dropTasks s v) v
  let mask := (List.range f.segCount.toNat).foldl (fun m i => m ||| 2 ^ (f.segBase.toNat + i)) 0
  let s := s.modFunc v (fun f => { f with en := false, cfgErr := false, walk := none, dbgLease := false
                                          profLease := false, sealBusy := false })
  s.modPart f.part.toNat (fun p => { p with clean := p.clean &&& ~~~(BitVec.ofNat 384 mask)
                                            leases := p.leases.filter (fun l => l.2.2 != v) })

/-! ### Pause (R99, R100) -/

/-- PAUSED goes to 1: GTIME is kept in VFGTIME. -/
def pauseNow (s : State) (v : Nat) : State :=
  let g : Word64 := BitVec.ofNat 64 (gtime s v)
  s.modFunc v (fun f => { f with paused := true, gtime := g, pausedAt := dtime s })

/-- PAUSE goes to 1: at once when the VF is not running, and no edge is stopping its work. -/
def pauseAsk (s : State) (v : Nat) : State :=
  let p := s.part (s.func v).part.toNat
  let s := s.modFunc v (fun f => { f with pause := true })
  if p.runVf == some v || (p.edgeStep != .none && p.edgeX == some v) then s else pauseNow s v

/-- PAUSE goes to 0: VFGTOFF is set so that GTIME continues. -/
def unpause (s : State) (v : Nat) : State :=
  let f := s.func v
  if !f.paused then s.setFunc v { f with pause := false }
  else
    let d : Nat := if f.hidePause then dtime s else f.pausedAt
    s.setFunc v { f with pause := false, paused := false, gtoff := f.gtime - BitVec.ofNat 64 d }

/-- A write of VFCTL: the policy fields are taken first, then EN and PAUSE (R82, R83, R99, R486). PART is
ignored while EN is 1 and leaves CFGERR clear: the model's choice (log 98). -/
def vfctlWrite (s : State) (v : Nat) (val : Word64) : State :=
  let w := val.toNat
  let f := s.func v
  let f := { f with donateOut := bitAt w 16, donateIn := bitAt w 17, hidePause := bitAt w 18, scopeCap := bitAt w 19
                    cfgErr := false, part := if f.en then f.part else BitVec.ofNat 5 (fld w 8 5) }
  let s := s.setFunc v f
  let s := if bitAt w 1 && !f.pause then pauseAsk s v else if !bitAt w 1 && f.pause then unpause s v else s
  let f := s.func v
  if bitAt w 0 && !f.en then
    if mayEnableVf s v f then s.setFunc v (enableVf { f with ways := soundWays s f.part.toNat f.ways }) else s.setFunc v { f with cfgErr := true }
  else if !bitAt w 0 && f.en then
    if f.paused then disableVf s v else s.setFunc v { f with cfgErr := true }
  else s

/-- VF_ENABLE (R83). -/
def execVfEnable (vf : Nat) (val : Word64) (s : State) : Host.Outcome State Fault Refusal :=
  .next (vfctlWrite s vf val)

/-- VF_DISABLE (R83). -/
def execVfDisable (vf : Nat) (val : Word64) (s : State) : Host.Outcome State Fault Refusal :=
  .next (vfctlWrite s vf val)

/-- VF_PAUSE (R99). -/
def execVfPause (vf : Nat) (val : Word64) (s : State) : Host.Outcome State Fault Refusal :=
  .next (vfctlWrite s vf val)

/-- VF_UNPAUSE (R99, R100). -/
def execVfUnpause (vf : Nat) (val : Word64) (s : State) : Host.Outcome State Fault Refusal :=
  .next (vfctlWrite s vf val)

/-- A write of VFGTIME: taken while PAUSED, never lower than what is held (R100). -/
def gtimeWrite (s : State) (v : Nat) (val : Word64) : State :=
  s.modFunc v (fun f =>
    if f.paused then { f with gtime := if f.gtime.toNat ≤ val.toNat then val else f.gtime, cfgErr := false }
    else { f with cfgErr := true })

/-- A write of VFGTOFF: ignored while PAUSED (R100). -/
def gtoffWrite (s : State) (v : Nat) (val : Word64) : State :=
  s.modFunc v (fun f => if f.paused then { f with cfgErr := true } else { f with gtoff := val, cfgErr := false })

/-- VFGTIME_WRITE (R100). -/
def execVfgtimeWrite (vf : Nat) (val : Word64) (s : State) : Host.Outcome State Fault Refusal :=
  .next (gtimeWrite s vf val)

/-- A write of VFSEG (R83, R84). -/
def vfsegWrite (s : State) (v : Nat) (val : Word64) : State :=
  let w := val.toNat
  let f := s.func v
  let base := fld w 0 9
  let count := fld w 16 9
  let set : Func := { f with segBase := BitVec.ofNat 9 base, segCount := BitVec.ofNat 9 count, cfgErr := false }
  if !f.en then s.setFunc v set
  else
    let p := f.part.toNat
    let old := f.segCount.toNat
    let added := (List.range (count - old)).map (fun i => base + old + i)
    let grows := base == f.segBase.toNat && decide (old < count) && decide (base + count ≤ granuleCount s p)
    if grows && added.all (fun g => (s.part p).clean.getLsbD g && !granuleBound s p g v) then s.setFunc v set
    else if base == f.segBase.toNat && count == old then s.setFunc v { f with cfgErr := false }
    else s.setFunc v { f with cfgErr := true }

/-- VFSEG_GROW (R84). -/
def execVfsegGrow (vf : Nat) (val : Word64) (s : State) : Host.Outcome State Fault Refusal :=
  .next (vfsegWrite s vf val)

/-- A write of VFWAYS: while EN is 1 bits may only clear (R86, R87). -/
def vfwaysWrite (s : State) (v : Nat) (val : Word64) : State :=
  let f := s.func v
  let w : BitVec 24 := val.setWidth 24
  if !f.en || w &&& ~~~f.ways == 0#24 then s.setFunc v { f with ways := w, cfgErr := false }
  else s.setFunc v { f with cfgErr := true }

/-- VFWAYS_CLEAR (R87). -/
def execVfwaysClear (vf : Nat) (val : Word64) (s : State) : Host.Outcome State Fault Refusal :=
  .next (vfwaysWrite s vf val)

/-- A write of VFQUOTA, and of VFCTXB: refused while EN is 1 (R82, R83). -/
def vfquotaWrite (s : State) (v : Nat) (val : Word64) : State :=
  let w := val.toNat
  s.modFunc v (fun f => if f.en then { f with cfgErr := true } else { f with
    qmax := BitVec.ofNat 7 w, sealMax := BitVec.ofNat 9 (fld w 8 9), codeMb := BitVec.ofNat 12 (fld w 32 12), cfgErr := false })

def vfctxbWrite (s : State) (v : Nat) (val : Word64) : State :=
  s.modFunc v (fun f => if f.en then { f with cfgErr := true }
    else { f with ctxb := BitVec.ofNat 64 (val.toNat / 4096 * 4096), cfgErr := false })

/-- A write of VFFEAT (R101). -/
def vffeatWrite (s : State) (v : Nat) (val : Word64) : State :=
  s.modFunc v (fun f => { f with feat := val.setWidth 14, cfgErr := false })

/-! ### The link Pattern (R103) -/

/-- A write of LPCTL. -/
def lpctlWrite (s : State) (val : Word64) : State :=
  let n : BitVec 6 := BitVec.ofNat 6 val.toNat
  let s := { s with lpLenM1 := n }
  if bitAt val.toNat 6 then { s with lpatLive := s.lpat, lpLenLive := n } else s

/-- LPCTL_COMMIT (R103). -/
def execLpctlCommit (val : Word64) (s : State) : Host.Outcome State Fault Refusal := .next (lpctlWrite s val)

/-- A write of LPATk. -/
def lpatWrite (s : State) (k : Nat) (val : Word64) : State :=
  let v := val.toNat
  { s with lpat := Tab.set s.lpat k { part := BitVec.ofNat 5 v, isOpen := bitAt v 5, share := bitAt v 6 } }

end Sys2Proof.Machine
end

