-- ==== Sys2Proof/Machine/Edge.lean ====
section
/-! DEFINITION. Slot edges (R88-R99), donation (R97, R98), the steps of R184, and the VF state block (R255). -/

namespace Sys2Proof.Machine

open Sys2Proof

/-! ### Slots and their times (R88, R90) -/

/-- Device time of the next edge. -/
def Part.nextEdge (x : Part) : Nat := if x.started then x.slotAt + 1000 * x.slot.len.toNat else x.frameAt

/-- The slot that starts at the next edge, and the set it is taken from. -/
def Part.nextSlot (x : Part) : Nat := if x.started && decide (x.curSlot + 1 < x.live.length) then x.curSlot + 1 else 0
def Part.nextSet (x : Part) : List PSlot := if x.nextSlot == 0 then x.nextLive.getD x.live else x.live
def Part.coming (x : Part) : PSlot := x.nextSet.getD x.nextSlot {}

/-- The first cycle at which DTIME has reached a time. -/
def cycleAt (ns : Nat) : Nat := ceilDiv (19 * ns) 10

/-- The cycle of a slot's drain start. -/
def Part.drainAt (x : Part) : Nat := cycleAt x.nextEdge - us x.slot.drain.toNat

/-- The partition enters the next slot. -/
def Part.advance (x : Part) : Part :=
  let y : Part := { x with slotAt := x.nextEdge, curSlot := x.nextSlot, started := true, donated := false, draining := false }
  if x.nextSlot == 0 then
    { y with frameAt := x.nextEdge, frames := if x.started then x.frames + 1#32 else x.frames, live := x.nextSet, nextLive := none }
  else y

/-! ### Who runs a slot (R97-R99) -/

/-- A VF that may run in a partition: bound to it, and not paused. -/
def mayRun (s : State) (p v : Nat) : Bool := (boundVfs s p).contains v && !(s.func v).paused

/-- The VF that runs a slot from its edge: its owner, or the donee of an OPEN slot. -/
def slotRunner (s : State) (p : Nat) (x : PSlot) : Option Nat :=
  if x.owner == 0xFF#8 then
    if mayRun s p x.donee.toNat && (s.func x.donee.toNat).donateIn then some x.donee.toNat else none
  else if mayRun s p x.owner.toNat then some x.owner.toNat
  else none

/-- The work that stops and the work that starts at the next edge; the edge is silent when both are the
same, unless a pause is pending. -/
def edgeSides (s : State) (p : Nat) : Option Nat × Option Nat :=
  let x := s.part p
  let y := slotRunner s p x.coming
  if x.runVf == y && x.runVf.any (fun v => (s.func v).pause) then (x.runVf, none) else (x.runVf, y)

def edgeSilent (s : State) (p : Nat) : Bool :=
  let e := edgeSides s p
  e.1 == e.2 && (s.part p).edgeStep == .none

/-! ### The drain (R92) -/

def drainDue (s : State) (p : Nat) : Bool :=
  let x := s.part p
  x.en && x.started && !x.draining && decide (x.drainAt ≤ s.now) && decide (s.now < cycleAt x.nextEdge) && !edgeSilent s p

/-- DRAIN_START (R92, R183): the dispatcher, the walker and admission stop. -/
def execDrainStart (part : Nat) (s : State) : Host.Outcome State Fault Refusal :=
  if drainDue s part then .next (s.modPart part (fun x => { x with draining := true })) else .next s

/-! ### The steps of R184 -/

/-- The teams of a function that are on cores. -/
def residentTeams (s : State) (fn : Nat) : List Nat :=
  (s.teams.filter (fun e => (s.task e.2.task).fn == fn && e.2.residence != .saved)).map Prod.fst

/-- The resident teams of a function at c+63: walks that their accesses wait for have ended, started matrix commands are
complete, and a team whose latch image can be taken takes it; the others follow as their results land (R92, R245). -/
def landTeams (s : State) (fn : Nat) : State :=
  let s := settleTeams s (residentTeams s fn)
  let teams := residentTeams s fn
  let s := mxFinishTeams s teams
  let take (e : Nat × Team) : Nat × Team :=
    (e.1, if teams.contains e.1 && fliFits e.2 s.now then takeFli e.2 s.free s.now else e.2)
  { s with teams := s.teams.map take, free := s.free + 1 }

/-- Cohorts commit while the frontier cohort is Done; with the state goes a bound of the cycles they take
(R174). -/
def commitAll (s : State) (fn : Nat) : Nat → State × Nat
  | 0 => (s, 0)
  | fuel + 1 =>
    if commitDue s fn then
      let n := commitCycles s fn
      let r := commitAll (commitCohort s fn) fn fuel
      (r.1, r.2 + n)
    else (s, 0)

/-- The tasks that an edge aborts (R184): above HEMLINE or predicted, and not yet on the restart list unless
the walker launched them. -/
def edgeVictims (s : State) (fn : Nat) : List Nat :=
  ((tasksOf s fn).filter (fun e => (!e.2.restart || e.2.launchedByWalker)
    && (decide ((hem s fn).toNat < e.2.ts.toNat) || !e.2.predicted.isEmpty))).map Prod.fst

/-- The oldest of some tasks of a walk. -/
def oldestTask : List (Nat × Task) → Option Task
  | [] => none
  | e :: l =>
    match oldestTask l with
    | none => some e.2
    | some d => if d.lrec.tstamp.toNat < e.2.lrec.tstamp.toNat then some d else some e.2

/-- The walk goes back to a node: predictions are discarded, and adds that follow it are not made. -/
def Walk.rewind (w : Walk) (node : Nat) (ts : Word64) (counts : Tab Nat) (assigned : Option Word64) : Walk :=
  { w.goto node with tsnext := ts, counts := counts, assigned := assigned, predicts := [], ended := false
                     sigtoks := w.sigtoks.filter (fun x => x.under.isEmpty && decide (x.tsnext.toNat ≤ ts.toNat)) }

/-- The walk after an edge (R148): back to the oldest node that launched a discarded task, and to the oldest
prediction. -/
def rewindWalk (s : State) (fn : Nat) (before : List (Nat × Task)) : State :=
  match (s.func fn).walk with
  | none => s
  | some w =>
    let gone := before.filter (fun e => (Tab.find s.tasks e.1).isNone)
    match oldestTask gone, w.predicts.head? with
    | none, none => s
    | some k, none => setWalk s fn (some (w.rewind k.node k.lrec.tstamp w.counts k.walkPrev))
    | none, some p => setWalk s fn (some (w.rewind p.node p.tsnext p.counts p.assigned))
    | some k, some p =>
      if k.lrec.tstamp.toNat < p.tsnext.toNat then setWalk s fn (some (w.rewind k.node k.lrec.tstamp p.counts k.walkPrev))
      else setWalk s fn (some (w.rewind p.node p.tsnext p.counts p.assigned))

/-- A Waiting task of the frontier cohort goes onto the restart list (R140). -/
def shelveTask (s : State) (k : Nat) : State :=
  let tk := s.task k
  let s := traceTask (s.setTask k (tk.again false (decide (64 ≤ (listed s tk.fn).length)))) tk .abort AbortCause.edge.code
  s.modFunc tk.fn (fun f => { f with spAbortE := f.spAbortE + 1#64 })

/-- The path waits on a debug stop, a page request, a walk fault or HEMLINE. -/
def excusedPath (pa : Path) : Bool := pa.held || pa.stepHeld || pa.parked || pa.stall == 25 || (pa.stall == 21 && pa.heldBy.isNone)

/-- A command of some teams waits on a page request or a walk fault (R412). -/
def engineWaits (s : State) (ts : List Nat) : Bool :=
  s.crews.any (fun c => c.2.chans.any (fun ch => ch.2.queue.any (fun q => ts.contains q.team && q.fault.isSome)))
    || (mxCommands s).any (fun m => ts.contains m.team && m.fault.isSome)

/-- The task is held only by what R93 excuses: by it some path or command waits, and the others wait for these. -/
def excused (s : State) (k : Nat) : Bool :=
  let ts := teamsOfTask s k
  let all (f : Team → Path → Bool) : Bool := ts.all (fun t => (s.team t).paths.all (fun e => f (s.team t) e.2))
  (s.task k).walkStop
    || ((engineWaits s ts || ts.any (fun t => (s.team t).paths.any (fun e => excusedPath e.2)))
      && all (fun tm pa => excusedPath pa || pa.atBar || pathStuck s tm pa))

/-- SLOT_OVERRUN is charged for a task (R93). -/
def chargeOverrun (s : State) (k : Nat) : State :=
  let s := s.modTask k (fun x => { x with ovrs := x.ovrs + 1 })
  s.modFunc (s.task k).fn (fun f => { f with overrun := true, ovrCnt := if f.ovrCnt == 0xFFFF#16 then f.ovrCnt else f.ovrCnt + 1#16 })

/-- The irrevocable accesses of a task may start. -/
def startHeld (s : State) (k : Nat) : State :=
  ((s.accesses.filter (fun a => (s.team a.2.team).task == k)).map Prod.fst).foldl irrevocable s

/-- What R184 comes to, before the saves. -/
structure EdgeWork where
  s : State
  /-- a bound of the cycles of the commits -/
  commits : Nat := 0
  /-- the tasks to save, and how many of them are charged (R93) -/
  saves : List Nat := []
  charged : Nat := 0

/-- The steps of R184 up to the saves: commits, aborts, and write-through mode for what is left of the frontier cohort,
whose tasks are charged. -/
def edgeWork (s : State) (fn : Nat) : EdgeWork :=
  let r := commitAll s fn s.tasks.length
  let s := r.1
  let before := walkTasks s fn
  let victims := edgeVictims s fn
  let s := if victims.isEmpty then s else abortTasks s fn .edge victims [] []
  let s := rewindWalk s fn before
  let front := (cohortTasks s fn (hem s fn)).filter (fun k => !(s.task k).restart)
  let wait := front.filter (fun k => (s.task k).phase == .waiting)
  let s := wait.foldl shelveTask s
  let left := front.filter (fun k => (s.task k).phase != .waiting)
  let live := left.filter (fun k => (s.task k).phase != .finished)
  let mustWrite := !left.isEmpty && !(live.isEmpty && wait.isEmpty)
  let s := if mustWrite then enterWriteThrough s fn (hem s fn) else s
  let saves := live.filter (fun k => !(s.task k).saved)
  let charged := saves.filter (fun k => !excused s k && (s.task k).stopping.isNone)
  { s := saves.foldl startHeld (charged.foldl chargeOverrun s), commits := r.2, saves := saves, charged := charged.length }

/-- A task that an edge has still to save. -/
def edgeTask (s : State) (k : Nat) : Bool :=
  match Tab.find s.tasks k with
  | some tk => !tk.saved && tk.phase != .finished
  | none => false

/-- Tasks of a function that a fault has stopped and that are still to be saved (R252). -/
def stopsLeft (s : State) (fn : Option Nat) : List Nat :=
  (s.tasks.filter (fun e => some e.2.fn == fn && e.2.stopping.isSome)).map Prod.fst

/-- Its save may begin: what it has issued can be performed, no follow-on is on its way, and its latch images are taken. -/
def edgeSaveReady (s : State) (k : Nat) : Bool :=
  let ts := teamsOfTask s k
  quietable s ts && ts.all (fun t => (s.team t).fliTaken || (s.team t).residence == .saved)

/-- A task is force-saved, or saved for the fault that has stopped it; the saves of one core follow one another, at 512 B
per cycle (R92, R252, R253). -/
def edgeSave (s : State) (p k : Nat) : State :=
  let ends := (partCores s p).foldl (fun (ends : Tab Nat) c =>
    let n := ceilDiv (saveBytes s k c.2) 512
    if n == 0 then ends else Tab.set ends c.2 (max s.now (Tab.get ends c.2 0) + n)) (s.part p).saveEnd
  (if (s.task k).stopping.isSome then makeStop s k else saveTask s k).modPart p (fun x => { x with saveEnd := ends, toSave := x.toSave.filter (· != k) })

/-! ### The VF state block (R255) -/

/-- The 128 bytes of a launch record (R58). -/
def recordBytes (r : LaunchRec) : List Byte :=
  let w (x : Word64) : List Byte := leBytes 8 x.toNat
  leBytes 16 r.codeh.toNat ++ w r.ctl ++ w r.widw ++ w r.counts ++ leBytes 4 r.counts2.toNat
    ++ leBytes 4 r.arglen.toNat ++ w r.ttbase ++ w r.argbase ++ w r.tstamp
    ++ (List.range 4).flatMap (fun i => w (r.waita.getD i 0#64)) ++ w r.siga
    ++ (List.range 4).flatMap (fun i => leBytes 4 (r.waitv.getD i 0#32).toNat)

/-- QCTL as it reads. -/
def Queue.ctl (x : Queue) : Word64 := BitVec.ofNat 64 (b2n x.en + 2 * x.logsz.toNat + 32 * b2n x.irq)

/-- The eight registers of a queue, in offset order (R53). -/
def Queue.regs (x : Queue) : List Word64 :=
  [x.qbase, x.ctl, x.qtaila, x.qheada, x.qhead, x.qtailv, x.qerr, x.qdone]

/-- The counters of R185 and of R263, in offset order. -/
def Func.spCounters (f : Func) : List Word64 :=
  [f.spCommit, f.spAbortC, f.spAbortD, f.spAbortK, f.spAbortP, f.spAbortE, f.spDefer, f.spWthru]
def Func.lnCounters (f : Func) : List Word64 := [f.lnAbort, f.lnMove, f.lnStop, f.lnRetire]

/-- An entry of the restart list. -/
def restartEntry (k : Task) : List Byte :=
  recordBytes { k.lrec with tstamp := k.ts } ++ leBytes 8 k.taskid
    ++ leBytes 8 (1 + 2 * b2n k.creator.isSome + 4 * b2n k.wasWaiting)
    ++ leBytes 8 (if k.creator.isSome then k.creatorId else 2 ^ 64 - 1) ++ leBytes 104 0

/-- The walker's part of the block, with the bytes from 0x5340 to 0x5400 that no field takes. -/
def walkBytes : Option Walk → List Byte
  | none => leBytes (256 + 512 + 16384 + 192) 0
  | some w =>
    recordBytes w.lrec ++ leBytes 8 (w.pos % 4096 + 2 ^ 63) ++ leBytes 8 w.tsnext.toNat ++ leBytes 112 0
      ++ leBytes 512 (packElems 1 ((List.range 4096).map (fun i => if i < w.nnode then Tab.get w.outcomes i 1 else 0)))
      ++ (List.range 4096).flatMap (fun i => leBytes 4 (Tab.get w.counts i 0)) ++ leBytes 192 0

/-- The block of 64 KiB. -/
def stateBlock (s : State) (fn : Nat) : List Byte :=
  let f := s.func fn
  let words (l : List Word64) : List Byte := l.flatMap (fun w => leBytes 8 w.toNat)
  let rs := (restartList s fn).take 64
  leBytes 4 0x45544153 ++ leBytes 2 1 ++ leBytes 2 0 ++ leBytes 8 f.hemline.toNat
    ++ leBytes 8 (f.highest.getD 0#64).toNat ++ leBytes 8 (2 ^ 63 * b2n f.highest.isNone) ++ leBytes 32 0
    ++ (List.range 64).flatMap (fun q => words (f.queue q).regs) ++ walkBytes f.walk
    ++ rs.flatMap (fun e => restartEntry e.2) ++ leBytes ((64 - rs.length) * 256) 0
    ++ words f.spCounters ++ words f.lnCounters ++ leBytes 32 0
    ++ words ((List.range 8).map (fun i => Tab.get f.pmSel i 0#64) ++ (List.range 8).map (fun i => Tab.get f.pmCnt i 0#64))
    ++ leBytes 27392 0

/-- Where the block lies. -/
def blockFlat (s : State) (fn : Nat) : Nat := ctxFlat s fn ((ctxArea s fn).2 - 65536)

/-- The counters that an edge saves and clears (R95, R185, R263, R282). -/
def clearCounters (f : Func) : Func :=
  { f with spCommit := 0#64, spAbortC := 0#64, spAbortD := 0#64, spAbortK := 0#64, spAbortP := 0#64, spAbortE := 0#64
           spDefer := 0#64, spWthru := 0#64, lnAbort := 0#64, lnMove := 0#64, lnStop := 0#64, lnRetire := 0#64, pmCnt := [] }

/-- The block is written to the end of the context-save area, and the counters are cleared. -/
def writeStateBlock (s : State) (fn : Nat) : State :=
  let b := stateBlock s fn
  (memWrite s (blockFlat s fn) b).modFunc fn (fun f => { clearCounters f with spilled := b })

/-- The counters come back; what was counted meanwhile is added to them. -/
def readCounters (b : List Byte) (f : Func) : Func :=
  let w (off : Nat) (x : Word64) : Word64 := BitVec.ofNat 64 (fieldAt b off 8) + x
  { f with
    spCommit := w 0x9400 f.spCommit, spAbortC := w 0x9408 f.spAbortC, spAbortD := w 0x9410 f.spAbortD
    spAbortK := w 0x9418 f.spAbortK, spAbortP := w 0x9420 f.spAbortP, spAbortE := w 0x9428 f.spAbortE
    spDefer := w 0x9430 f.spDefer, spWthru := w 0x9438 f.spWthru
    lnAbort := w 0x9440 f.lnAbort, lnMove := w 0x9448 f.lnMove, lnStop := w 0x9450 f.lnStop, lnRetire := w 0x9458 f.lnRetire
    pmCnt := (List.range 8).map (fun i => (i, w (0x94C0 + 8 * i) (Tab.get f.pmCnt i 0#64))) }

/-- HEMLINE and the highest committed timestamp. -/
def readOrder (b : List Byte) (f : Func) : Func :=
  { f with hemline := BitVec.ofNat 64 (fieldAt b 8 8)
           highest := if bitAt (fieldAt b 0x18 8) 63 then none else some (BitVec.ofNat 64 (fieldAt b 0x10 8)) }

/-- The walker: its record, its place, and the outcomes and counts of its nodes. -/
def readWalk (b : List Byte) (w : Walk) : Option Walk :=
  let place := fieldAt b 0x10C0 8
  if !bitAt place 63 then none
  else some { w with
    lrec := parseRecord (cut b 0x1040 128), pos := fld place 0 12, tsnext := BitVec.ofNat 64 (fieldAt b 0x10C8 8)
    outcomes := (List.range w.nnode).map (fun i => (i, fld (fieldAt b (0x1140 + i / 8) 1) (i % 8) 1))
    counts := (List.range 4096).filterMap (fun i =>
      let n := fieldAt b (0x1340 + 4 * i) 4
      if n == 0 then none else some (i, n)) }

/-- An entry of the restart list: its task as the entry gives it. -/
def readRestart (b : List Byte) (k : Task) : Task :=
  let r := parseRecord (cut b 0 128)
  { k with lrec := { r with tstamp := k.lrec.tstamp }, ts := r.tstamp, taskid := fieldAt b 128 8
           wasWaiting := bitAt (fieldAt b 136 1) 2, creatorId := if bitAt (fieldAt b 136 1) 1 then fieldAt b 144 8 else k.creatorId }

/-- The restart list: an entry that is no longer VALID is no task any more. -/
def readRestarts (s : State) (fn : Nat) (own b : List Byte) : State :=
  (List.range 64).foldl (fun s i =>
    let off := 0x5400 + 256 * i
    match (restartList s fn).find? (fun e => e.2.taskid == fieldAt own (off + 128) 8) with
    | none => s
    | some (k, tk) =>
      if !bitAt (fieldAt own (off + 136) 1) 0 || !changed own b off 256 then s
      else if bitAt (fieldAt b (off + 136) 1) 0 then s.setTask k (readRestart (cut b off 256) tk)
      else { s with tasks := Tab.erase s.tasks k }) s

/-- A queue's image: its eight registers (R53). -/
def readQueue (b : List Byte) (x : Queue) : Queue :=
  let w (i : Nat) : Word64 := BitVec.ofNat 64 (fieldAt b (8 * i) 8)
  let ctl := (w 1).toNat
  { x with qbase := w 0, en := bitAt ctl 0, logsz := BitVec.ofNat 4 (fld ctl 1 4), irq := bitAt ctl 5, qtaila := w 2
           qheada := w 3, qhead := w 4, qtailv := w 5, qerr := w 6, qdone := w 7 }

/-- The queues whose images have changed. -/
def readQueues (own b : List Byte) (f : Func) : Func :=
  (List.range 64).foldl (fun f q =>
    let off := 0x40 + 64 * q
    if changed own b off 64 then { f with queues := Tab.set f.queues q (readQueue (cut b off 64) (f.queue q)) } else f) f

/-- The block is read back when its VF next runs (R255): the counters, and of the rest what has changed in memory. A
register that the VF's pages have written meanwhile stays so, where its image is unchanged (R96; log 26). -/
def readStateBlock (s : State) (fn : Nat) : State :=
  let own := (s.func fn).spilled
  if own.isEmpty then s
  else
    let b := Memory.bytes s.mem (blockFlat s fn) 65536
    let order := changed own b 8 24
    let walk := changed own b 0x1040 17152
    let sel := changed own b 0x9480 64
    let s := readRestarts s fn own b
    s.modFunc fn (fun f =>
      let f := readQueues own b f
      let f := if sel then { f with pmSel := (List.range 8).map (fun i => (i, BitVec.ofNat 64 (fieldAt b (0x9480 + 8 * i) 8))) } else f
      let f := if order then readOrder b f else f
      let f := if walk then { f with walk := f.walk.bind (readWalk b) } else f
      readCounters b f)

/-! ### The flush (R95, R125) -/

/-- Nothing of the old work stays on the cores of a partition. -/
def flushCores (s : State) (p : Nat) : State :=
  let cs := (partCores s p).map Prod.snd
  let clean (c : Core) : Core :=
    { c with ttb := [], ro := [], standby := [], lastCtx := 7, lastPlace := 63, copyPtr := 0, copyTurns := [] }
  let s := cs.foldl (fun s c => s.modCore c clean) s
  let mine (x : Leave) : Bool := cs.contains x.core && leaveGoes s x
  let die (e : Nat × Die) : Nat × Die :=
    (e.1, { e.2 with granted := e.2.granted.filter (fun x => !mine x), queue := e.2.queue.filter (fun x => !mine x) }.note s.now)
  { s with dies := s.dies.map die }

/-- The outgoing VF's page requests are discarded, and its walks that go on are made again (R125). -/
def flushRequests (s : State) (fn : Nat) : State :=
  let walk (o : Nat × PendOp) : Bool := match o.2 with
    | .walk w => !w.stopped && (s.task w.task).fn == fn
    | _ => false
  releaseRequest { s with ops := s.ops.filter (fun o => !walk o) } (fun r => r.fn == fn)

/-! ### The edge and the hand-over (R92, R93, R97) -/

/-- The charges of an edge are booked (R93). -/
def bookDebit (s : State) (fn charged time : Nat) : State :=
  if charged == 0 then s
  else
    let last := ceilDiv time 1900
    s.modFunc fn (fun f => { f with savedTasks := charged, last := last, owed := f.owed + last })

/-- The work of X stops. The steps of R184 come 64 cycles later, at an edge and at a hand-over, which skips what comes
before them; the flush ends 15,136 cycles and S after them, and then Y runs (R92, R97, R491). An edge that falls in
another's flush only names a new Y. -/
def stopWork (s : State) (p : Nat) (first : EdgeStep) (x y : Option Nat) : State :=
  let q := s.part p
  let last := s.now + 15200
  if q.edgeStep != .none then s.setPart p { q with edgeY := y, edgeLast := max q.edgeLast last, flushTo := max q.flushTo last }
  else
    s.setPart p { q with runVf := none, isOpen := false, edgeX := x, edgeY := y, edgeLast := last, toSave := [], charged := 0
                         saveEnd := [], edgeStep := first, edgeAt := s.now + (if first == .stopping then 63 else 64) }

/-- c+64: the steps of R184 up to the saves. Without X the flush begins. The time of the commits is open within its
bound. -/
def edgeCommits (s : State) (p : Nat) : State :=
  match (s.part p).edgeX with
  | none => s.modPart p (fun q => { q with edgeStep := .saving, edgeFrom := s.now, edgeAt := s.now })
  | some fn =>
    let w := edgeWork s fn
    let n := if w.commits == 0 then 0 else Config.freeNat w.s.free % (w.commits + 1)
    w.s.bump.modPart p (fun q => { q with
      edgeStep := .saving, edgeFrom := s.now, edgeAt := s.now + n, toSave := w.saves, charged := w.charged })

/-- Speculation ways keep nothing across an edge (R95, R184). -/
def flushWays (s : State) (fn : Option Nat) : State :=
  { s with cohorts := s.cohorts.map (fun c => if some c.fn == fn then { c with lines := [], reads := [], writes := [] } else c) }

/-- A crew of a function is on its way to another core: an edge freezes it when it has arrived (R156). -/
def crewMoves (s : State) (fn : Option Nat) : Bool :=
  s.crews.any (fun e => some (s.task e.2.task).fn == fn && e.2.moving.isSome && !e.2.saved)

/-- c+64+S: Done tasks are recorded, the debit is booked, the state block is written, and the flush begins. -/
def beginFlush (s : State) (p : Nat) : State :=
  let q := s.part p
  let s := match q.edgeX with
    | none => s
    | some fn =>
      let done := (cohortTasks s fn (hem s fn)).filter (fun k => !(s.task k).restart && (s.task k).phase == .finished)
      let s := updateHem (done.foldl writeDirectory s) fn
      flushRequests (writeStateBlock (bookDebit s fn q.charged (s.now - q.edgeFrom)) fn) fn
  (flushWays (flushCores s p) q.edgeX).modPart p (fun q => { q with
    edgeStep := .flushing, flushTo := max q.edgeLast (s.now + 15136), signals := [], dispPtr := [], placePtr := 0
    nextDispatch := 0, toSave := [], saveEnd := [] })

/-- The next step of an edge that is under way, when its time has come (R92). -/
def edgeGo (s : State) (p : Nat) : Option State :=
  let q := s.part p
  if s.now < q.edgeAt then none
  else match q.edgeStep with
    | .none | .flushing => none
    | .stopping =>
      if crewMoves s q.edgeX then none else
      let s := match q.edgeX with | some fn => landTeams s fn | none => s
      some (s.modPart p (fun q => { q with edgeStep := .frozen, edgeAt := q.edgeAt + 1 }))
    | .frozen => some (edgeCommits s p)
    | .saving =>
      let left := (q.toSave ++ stopsLeft s q.edgeX).eraseDups.filter (edgeTask s)
      match left.find? (edgeSaveReady s) with
      | some k => some (edgeSave s p k)
      | none => if left.isEmpty && q.saveEnd.all (fun e => decide (e.2 ≤ s.now)) then some (beginFlush s p) else none

def edgeDue (s : State) (p : Nat) : Bool := (s.part p).en && decide (cycleAt (s.part p).nextEdge ≤ s.now)

/-- SLOT_EDGE (R92). -/
def execSlotEdge (part : Nat) (s : State) : Host.Outcome State Fault Refusal :=
  if !edgeDue s part then .next s
  else
    let e := edgeSides s part
    let silent := edgeSilent s part
    let s := s.modPart part Part.advance
    .next (if silent then s else stopWork s part .stopping e.1 e.2)

/-! ### The end of the flush, and of the debit (R92, R94) -/

/-- µs that remain before the next drain start. -/
def usLeft (s : State) (p : Nat) : Nat := ((s.part p).drainAt - s.now) / 1900

/-- A VF becomes the running one: its state block is read (R255). -/
def runNext (s : State) (p : Nat) (y : Option Nat) (openAt : Nat) : State :=
  let s := match y with | some v => readStateBlock s v | none => s
  s.modPart p (fun x => { x with runVf := y, openAt := openAt })

/-- The flush ends: X's pause takes effect, Y becomes the running VF and pays its debit. -/
def endFlush (s : State) (p : Nat) : State :=
  let x := s.part p
  let s := match x.edgeX with
    | some v => if (s.func v).pause && !(s.func v).paused then pauseNow s v else s
    | none => s
  let y := x.edgeY.filter (mayRun s p)
  let hold := match y with | some v => min (s.func v).owed (usLeft s p) | none => 0
  let s := match y with | some v => s.modFunc v (fun f => { f with owed := f.owed - hold }) | none => s
  runNext (s.setPart p { x with edgeStep := .none, edgeX := none, edgeY := none }) p y (s.now + us hold)

/-- The dispatcher opens for the running VF: tails are read again (R57), and saved tasks and the restart list
retake their slots (R184). -/
def openSlot (s : State) (p fn : Nat) : State :=
  let s := s.modPart p (fun x => { x with isOpen := true })
  let s := (List.range 64).foldl (fun s q => readTail s fn q) s
  let done := (tasksOf s fn).filter (fun e => e.2.phase == .finished && !e.2.faulted)
  let s := done.foldl (fun s e => clearDirectory s fn e.2.slot) s
  let s := (Tab.keys s.tasks).foldl (fun s k => if restoreDue s k && (s.task k).fn == fn then restoreTask s k else s) s
  updateHem (retakeSlots s fn 64) fn

/-- A slot that runs idle becomes its owner's again, when the owner may run: it is no longer paused (R97, R99). -/
def idleOwner (s : State) (p : Nat) : Option Nat :=
  let x := s.part p
  let o := x.slot.owner.toNat
  if x.en && x.started && x.edgeStep == .none && x.runVf.isNone && !x.donated && x.slot.owner != 0xFF#8 && mayRun s p o
      && !(s.func o).pause then some o
  else none

def openDue (s : State) (p : Nat) : Bool :=
  let x := s.part p
  x.edgeStep == .none && x.runVf.isSome && !x.isOpen && decide (x.openAt ≤ s.now)

def flushDone (s : State) (p : Nat) : Bool := (s.part p).edgeStep == .flushing && decide ((s.part p).flushTo ≤ s.now)

def openPart (s : State) (p : Nat) : State :=
  match (s.part p).runVf with
  | some fn => if openDue s p then openSlot s p fn else s
  | none => s

def holdDue (s : State) (p : Nat) : Bool := (s.part p).en && (flushDone s p || openDue s p)

/-- DEBIT_HOLD_END (R92, R94): the end of the flush, and the opening of the dispatcher after the debit. -/
def execDebitHoldEnd (part : Nat) (s : State) : Host.Outcome State Fault Refusal :=
  if !holdDue s part then .next s
  else .next (openPart (if flushDone s part then endFlush s part else s) part)

/-! ### Donation (R97, R102) -/

/-- No resident task, none to admit, and no record to consume. -/
def ownerIdle (s : State) (fn : Nat) : Bool :=
  let f := s.func fn
  (tasksOf s fn).all (fun e => e.2.phase == .finished || (e.2.saved && !restoreDue s e.1))
    && (List.range 64).all (fun q => !(f.queue q).en || decide ((f.queue q).qtailv.toNat ≤ (f.queue q).qhead.toNat))

/-- The owner of the current slot has nothing to run: it is idle, or paused. One with a debit is so only when its hold is
over: the model's choice (log 101). -/
def slotIdle (s : State) (p : Nat) : Bool :=
  let x := s.part p
  let o := x.slot.owner.toNat
  (x.runVf == some o && x.isOpen && ownerIdle s o) || (x.runVf.isNone && (boundVfs s p).contains o && (s.func o).paused)

/-- The slot may be handed over now (R97); a slot whose DONEE is its OWNER never is: the model's choice (log 101). -/
def donationDue (s : State) (p : Nat) : Bool :=
  let x := s.part p
  let o := x.slot.owner.toNat
  let d := x.slot.donee.toNat
  x.en && x.started && x.edgeStep == .none && !x.donated && x.slot.owner != 0xFF#8 && slotIdle s p && (s.func o).donateOut
    && d != o && mayRun s p d && (s.func d).donateIn && !(s.func d).pause && !leased s p o
    && decide (s.now + us 18 ≤ x.drainAt)

/-- The hand-over: the sequence of R92 from c+64 on, 64 cycles from now, with the donee as Y (R97, R491). -/
def handOver (s : State) (p : Nat) : State :=
  let x := s.part p
  (stopWork s p .frozen x.runVf (some x.slot.donee.toNat)).modPart p (fun q => { q with donated := true })

/-- DONATION_HANDOVER (R97). -/
def execDonationHandover (part : Nat) (s : State) : Host.Outcome State Fault Refusal :=
  .next (if donationDue s part then handOver s part else s)

end Sys2Proof.Machine
end

