-- ==== Sys2Proof/Machine/DevRegs.lean ====
section
/-! DEFINITION. The device-level registers and their addresses (R76, R80, R82, R103, R129, R470), with RDSYS
and WRSYS. -/

namespace Sys2Proof.Machine

open Sys2Proof

/-! ### What the registers read -/

/-- PCTL, PSTAT and PSCRUB of a partition (R80, R85). -/
def Part.ctlWord (x : Part) : Nat :=
  b2n x.en + 2 * x.specWays.toNat + 2 ^ 5 * x.otb.toNat + 2 ^ 16 * x.nslotm1.toNat + 2 ^ 20 * b2n x.cfgErr

def statWord (s : State) (p : Nat) : Nat :=
  let x := s.part p
  let flushing := x.edgeStep == .flushing
  x.curSlot + 2 ^ 4 * x.runVf.getD 0xFF + 2 ^ 12 * b2n x.draining + 2 ^ 13 * b2n flushing + 2 ^ 14 * b2n x.donated
    + 2 ^ 15 * b2n (slotLeased s p) + 2 ^ 32 * x.frames.toNat

def Part.scrubWord (x : Part) : Nat := x.scrubGran.toNat + 2 ^ 17 * b2n x.scrubBusy + 2 ^ 18 * b2n x.scrubErr

def PSlot.word (x : PSlot) : Nat := x.owner.toNat + 2 ^ 8 * x.len.toNat + 2 ^ 22 * x.drain.toNat + 2 ^ 32 * x.donee.toNat

/-- A register of a partition block (R80). -/
def partRead (s : State) (p off : Nat) : Nat :=
  let x := s.part p
  if off == 0 then x.bays.toNat
  else if off == 0x08 then x.ctlWord
  else if off == 0x10 then statWord s p
  else if off == 0x18 then x.pstart.toNat
  else if off == 0x20 then x.scrubWord
  else if 0x28 ≤ off ∧ off ≤ 0x50 then fld x.clean.toNat (8 * (off - 0x28)) 64
  else if 0x80 ≤ off ∧ off ≤ 0xF8 then (Tab.get x.shadow ((off - 0x80) / 8) {}).word
  else 0

/-- VFCTL without its RO fields, and those fields (R82). -/
def Func.ctlWord (f : Func) (p : Nat) : Nat :=
  b2n f.en + 2 * b2n f.pause + 2 ^ 8 * p + 2 ^ 16 * b2n f.donateOut + 2 ^ 17 * b2n f.donateIn
    + 2 ^ 18 * b2n f.hidePause + 2 ^ 19 * b2n f.scopeCap
def Func.ctlRo (f : Func) : Nat := 4 * b2n f.paused + 8 * b2n f.cfgErr

/-- The first eight registers of a VF block, with RO fields as 0: what MCFG measures (R82). -/
def Func.config (f : Func) : List Nat :=
  [ f.ctlWord f.part.toNat, f.segBase.toNat + 2 ^ 16 * f.segCount.toNat, f.ways.toNat,
    f.qmax.toNat + 2 ^ 8 * f.sealMax.toNat + 2 ^ 32 * f.codeMb.toNat, f.feat.toNat, f.ctxb.toNat,
    f.gtoff.toNat, f.gtime.toNat ]

/-- A register of a VF block (R82). -/
def vfRead (s : State) (v off : Nat) : Nat :=
  let f := s.func v
  if off == 0 then f.config.headD 0 + f.ctlRo
  else if off < 0x40 then f.config.getD (off / 8) 0
  else if off == 0x40 then f.owed % 2 ^ 24 + 2 ^ 24 * (f.last % 2 ^ 24) + 2 ^ 48 * (f.savedTasks % 2 ^ 16)
  else 0

/-- The walk-fault queue (R129). -/
def wqRead (s : State) (off : Nat) : Nat :=
  if off == 0 then s.wqBase.toNat
  else if off == 8 then b2n s.wqEn + 2 * s.wqLogsz.toNat
  else if off == 0x10 then s.wqTail.toNat
  else if off == 0x18 then s.wqHead.toNat
  else 0

/-- LPATk (R103). -/
def Lpat.word (x : Lpat) : Nat := x.part.toNat + 2 ^ 5 * b2n x.isOpen + 2 ^ 6 * b2n x.share

/-- DLEAVE of a die (R30). -/
def Die.word (d : Die) : Nat :=
  d.ceil.toNat + 2 ^ 12 * d.ramp.toNat + 2 ^ 20 * (d.total / 10 % 2 ^ 12) + 2 ^ 32 * min d.queue.length 255

/-- CSENSE of a physical core (R34). -/
def Core.senseWord (c : Core) : Nat :=
  c.temp.toNat + 2 ^ 11 * b2n c.hot + 2 ^ 12 * b2n c.droop + 2 ^ 13 * b2n c.noLeave + 2 ^ 14 * c.cstate.toNat
    + 2 ^ 16 * c.droopCnt.toNat

/-- The register at an address; one that names none reads 0 (R470). -/
def devRead (s : State) (a : Nat) : Nat :=
  if 0x080000 ≤ a ∧ a < 0x084000 then partRead s ((a - 0x080000) / 0x200) ((a - 0x080000) % 0x200)
  else if a == 0x0C0000 then s.lpLenM1.toNat
  else if 0x0C0100 ≤ a ∧ a < 0x0C0300 then (Tab.get s.lpat ((a - 0x0C0100) / 8) {}).word
  else if a == 0x0C1000 then dtime s
  else if 0x0C2000 ≤ a ∧ a < 0x0C2028 then wqRead s (a - 0x0C2000)
  else if 0x0C3000 ≤ a ∧ a < 0x0C3020 then (s.die ((a - 0x0C3000) / 8)).word
  else if 0x0C4000 ≤ a ∧ a < 0x0C4D00 then (s.core ((a - 0x0C4000) / 8)).senseWord
  else if a == 0x0C5000 then s.pfCtxb.toNat
  else if a == 0x0C5008 then s.pfCodeb.toNat
  else if 0x100000 ≤ a ∧ a < 0x10C000 then vfRead s ((a - 0x100000) / 0x100) ((a - 0x100000) % 0x100)
  else 0

/-! ### Writes -/

/-- A write in a partition block (R80, R81). -/
def partWrite (s : State) (p off : Nat) (v : Word64) : State :=
  if off == 0 then pbaysSet s p v
  else if off == 0x08 then pctlWrite s p v
  else if off == 0x18 then s.modPart p (fun x => { x with pstart := v })
  else if off == 0x20 then pscrubWrite s p v
  else if 0x80 ≤ off ∧ off ≤ 0xF8 then pslotWrite s p ((off - 0x80) / 8) v
  else s

/-- A write in a VF block (R82-R84, R100). -/
def vfWrite (s : State) (v off : Nat) (val : Word64) : State :=
  if off == 0 then vfctlWrite s v val
  else if off == 0x08 then vfsegWrite s v val
  else if off == 0x10 then vfwaysWrite s v val
  else if off == 0x18 then vfquotaWrite s v val
  else if off == 0x20 then vffeatWrite s v val
  else if off == 0x28 then vfctxbWrite s v val
  else if off == 0x30 then gtoffWrite s v val
  else if off == 0x38 then gtimeWrite s v val
  else s

/-- A write to the walk-fault queue (R129): records that wait are written when they can be. -/
def wqWrite (s : State) (off : Nat) (v : Word64) : State :=
  let w := v.toNat
  if off == 0 then { s with wqBase := BitVec.ofNat 64 (w / 4096 * 4096) }
  else if off == 8 then writeWalkRecords { s with wqEn := bitAt w 0, wqLogsz := BitVec.ofNat 4 (fld w 1 4) }
  else if off == 0x18 then
    if w < s.wqHead.toNat then s else writeWalkRecords { s with wqHead := v }
  else if off == 0x20 then wqResolve s (fld w 0 32) (bitAt w 32)
  else s

/-- An area register, in the layout of VFCTXB. -/
def areaWord (v : Word64) : Word64 := BitVec.ofNat 64 (v.toNat / 4096 * 4096)

/-- The PF holds a sealed slot. -/
def pfSealed (s : State) : Bool := (s.func pfFn).slots.any (fun e => e.2.live)

/-- A write of the register at an address; one that names none is ignored (R470). -/
def devWrite (s : State) (a : Nat) (v : Word64) : State :=
  if 0x080000 ≤ a ∧ a < 0x084000 then partWrite s ((a - 0x080000) / 0x200) ((a - 0x080000) % 0x200) v
  else if a == 0x0C0000 then lpctlWrite s v
  else if 0x0C0100 ≤ a ∧ a < 0x0C0300 then lpatWrite s ((a - 0x0C0100) / 8) v
  else if 0x0C2000 ≤ a ∧ a < 0x0C2028 then wqWrite s (a - 0x0C2000) v
  else if 0x0C3000 ≤ a ∧ a < 0x0C3020 then
    s.modDie ((a - 0x0C3000) / 8) (fun d => { d with ceil := v.setWidth 12, ramp := BitVec.ofNat 8 (fld v.toNat 12 8) })
  else if 0x0C4000 ≤ a ∧ a < 0x0C4D00 then
    s.modCore ((a - 0x0C4000) / 8) (fun c => { c with droop := c.droop && !bitAt v.toNat 12 })
  else if a == 0x0C5000 then { s with pfCtxb := areaWord v }
  else if a == 0x0C5008 then if pfSealed s then s else { s with pfCodeb := areaWord v }
  else if 0x100000 ≤ a ∧ a < 0x10C000 then vfWrite s ((a - 0x100000) / 0x100) ((a - 0x100000) % 0x100) v
  else s

/-! ### RDSYS and WRSYS (R470) -/

/-- RDSYS (R470): the value lands when the access completes, which holds the path. -/
def execRdsys (d a : BitVec 7) (s : State) : Host.Outcome State Fault Refusal :=
  runControl s (fun c =>
    let addr := c.sreg a.toNat
    if addr % 8 != 0 then .error { code := .align, addr := addr }
    else .ok (holdFor s c (some d.toNat) (devRead s addr)))

/-- WRSYS (R470). -/
def execWrsys (a b : BitVec 7) (s : State) : Host.Outcome State Fault Refusal :=
  runControl s (fun c =>
    let addr := c.sreg a.toNat
    if addr % 8 != 0 then .error { code := .align, addr := addr }
    else .ok (devWrite (holdFor s c none 0) addr (BitVec.ofNat 64 (c.sreg b.toNat))))

end Sys2Proof.Machine
end

