-- ==== Sys2Proof/Machine/Steward.lean ====
section
/-! DEFINITION. Device reset, links, sensors, repairs and the steward's commands (R15, R21-R24, R32-R42,
R47, R149). -/

namespace Sys2Proof.Machine

open Sys2Proof

/-! ### The steward's image, and device reset (R15, R41, R42) -/

/-- The image that the steward runs, and the security version that it carries. -/
def runningImage (s : State) : List Byte := s.fwImage.getD Config.bootImage
def runningSvn (s : State) : Word64 := Config.imageSvn (runningImage s)

/-- Inputs still to come, counted from a reset. -/
def shiftAgenda (l : List (Nat × Instr)) (now : Nat) : List (Nat × Instr) := l.map (fun e => (e.1 - now, e.2))

/-- What HBM holds, with no partition over it. -/
def unmapAll (s : State) : State := ((s.parts.filter (fun e => e.2.en)).map Prod.fst).foldl unmapPart s

/-- DEVICE_RESET (R41): an image that fails the boot ROM's check is not run, and the device is in recovery. Memory, and
what lies outside the module, is not part of it (logs 30, 70). -/
def execDeviceReset (s : State) : Host.Outcome State Fault Refusal :=
  .next { State.reset with
    recovery := !Config.imageOk (runningImage s), mem := (unmapAll s).mem, eccBad := (unmapAll s).eccBad
    hostBad := s.hostBad, sent := s.sent, irqs := s.irqs, free := s.free + 1
    fwImage := s.fwImage, agenda := shiftAgenda s.agenda s.now }

/-! ### The management page's events (R47) -/

/-- A bit of DEVSTAT [4:2] becomes set: PF vector 4. -/
def noteRepair (s : State) : State := if s.repair then s else { s with repair := true }.irq pfFn 4
def noteReduced (s : State) : State := if s.reduced then s else { s with reduced := true }.irq pfFn 4
def noteThermal (s : State) : State := if s.thermal then s else { s with thermal := true }.irq pfFn 4

/-- A clean retry is logged as a transient event (R35). -/
def noteTransient (s : State) (x : Repair) : State := { s with transients := (s.now, x) :: s.transients }

/-! ### Links (R21-R24) -/

/-- LINK_TRAIN (R21). -/
def execLinkTrain (full : Bool) (s : State) : Host.Outcome State Fault Refusal := .next { s with linkDeg := !full }

/-- A lane of a port is out of service: the spare, two lanes, and the end of the port (R23). -/
def laneFails (x : LinkPort) : LinkPort := { badLanes := x.badLanes + 1, down := x.down || decide (2 ≤ x.badLanes) }

/-- The access has units in a peer's memory and may be under way. -/
def isRemote (a : Access) : Bool :=
  !a.irrevocable && a.todo.any (fun u => u.addr.any (fun x => decide (hostSpace < spaceOf x)))

/-- A copy that moves bytes of a REMOTE tensor. -/
def copyRemote (s : State) (q : CopyCmd) : Bool :=
  let far (tid : Nat) : Bool := (descOf s (s.team q.team).task tid).any (fun d => d.remote)
  (q.srcGlobal && far q.tids) || (q.dstGlobal && far q.tidd)

/-- A matrix step whose tile fetch unit reads a REMOTE tensor (R432). -/
def mxRemote (s : State) (m : MxCmd) : Bool :=
  let far (tid : Nat) : Bool := (descOf s (s.team m.team).task tid).any (fun d => d.remote)
  m.isMma && ((m.srcA && far (m.e 0 13 8)) || (m.srcB && far (m.e 0 21 8)))

/-- An engine command that is under way between accelerators: a remote copy, a matrix step that reads remote operands, or
a COLL that has sent its source. -/
def engineRemote (s : State) (id : Nat) : Bool :=
  s.crews.any (fun e => e.2.chans.any (fun ch => ch.2.queue.any (fun q =>
      q.id == id && q.started && q.fault.isNone && copyRemote s q)))
    || s.cores.any (fun e => e.2.matrix.any (fun m =>
      m.id == id && m.start.isSome && !m.consDone && m.fault.isNone && mxRemote s m))
    || (match Tab.find s.ops id with
      | some (.coll _ _ _ _ _ _ src fault) => src.isSome && fault.isNone
      | _ => false)

/-- A path of a team that stands: the given one, or the lowest. -/
def standingPath (tm : Team) (p : Nat) : Nat :=
  if (Tab.find tm.paths p).isSome then p else ((List.range 8).find? (fun i => (Tab.find tm.paths i).isSome)).getD p

/-- An access ends without its effect: its flag's count falls, and the flag stays clear. -/
def cancelAccess (s : State) (id : Nat) (a : Access) : State :=
  let s := { s with accesses := Tab.erase s.accesses id }
  match a.flag with
  | none => s
  | some k => s.modTeam a.team (fun tm => { tm with flagCount := Tab.set tm.flagCount k (Tab.get tm.flagCount k 0 - 1) })

/-- The lost port's LINK_ERROR for one operation (R24). -/
def linkLost (s : State) (id : Nat) : State :=
  match Tab.find s.accesses id with
  | some a =>
    if !isRemote a then s
    else
      let lanes := maskOf (a.todo.map MUnit.lane).eraseDups
      let p := standingPath (s.team a.team) a.path
      takeFault (cancelAccess s id a) a.team p a.pc { code := .linkError, slot := .m, tensor := a.tensor, lanes := lanes }
  | none => if engineRemote s id then engineFault s id { code := .linkError, slot := .x } else s

/-- Operations between accelerators that are not complete. -/
def remoteOps (s : State) : List Nat :=
  (s.accesses.filter (fun e => isRemote e.2 && onCore s e.2.team)).map Prod.fst
    ++ (s.crews.flatMap (fun e => e.2.chans.flatMap (fun ch => ch.2.queue.map CopyCmd.id))
      ++ s.cores.flatMap (fun e => e.2.matrix.map MxCmd.id) ++ Tab.keys s.ops).filter (engineRemote s)

/-- The operations that use a port: which of them do is open (logs 5, 83). -/
def opsOnPort (s : State) (port : Nat) : List Nat := (remoteOps s).filter (fun id => Config.pick s.free port id)

/-- LINK_CRC_ERROR (R23): a resend that succeeds is a transient event; a third lane that fails takes the port down. -/
def execLinkCrcError (port failedResends : Nat) (s : State) : Host.Outcome State Fault Refusal :=
  if 12 ≤ port then .next s
  else if failedResends < 3 then .next (noteTransient s (.lane port))
  else
    let old := Tab.get s.ports port {}
    let x := laneFails old
    let s := noteRepair { s with ports := Tab.set s.ports port x }
    .next (if x.down && !old.down then (opsOnPort s port).foldl linkLost s.bump else s)

/-- PORT_DOWN (R24): the remote operations that used the port and are not complete. -/
def execPortDown (port : Nat) (ops : List Nat) (s : State) : Host.Outcome State Fault Refusal :=
  let x := Tab.get s.ports port {}
  if 12 ≤ port then .next s
  else .next (ops.foldl linkLost { s with ports := Tab.set s.ports port { x with down := true } })

/-- With every port down no remote operation can complete (R24). -/
def strandedOp (s : State) : Option Nat :=
  if (List.range 12).all (fun p => (Tab.get s.ports p {}).down) then (remoteOps s).head? else none

/-! ### Sensors (R32-R34, R149, R156) -/

/-- A core is sampled every 10 µs, from its first sample on (R32). -/
def sampleTime (s : State) (c : Core) : Bool :=
  match c.senseAt with
  | none => true
  | some t => decide (t < s.now) && (s.now - t) % us 10 == 0

/-- HOT after a sample: 20 samples in a row above 95 °C, and 200 below 88 °C. Runs are of samples 10 µs apart (log 84). -/
def senseCore (c : Core) (now : Nat) (temp : BitVec 11) : Core :=
  let t := temp.toNat
  let next := c.senseAt == some (now - us 10)
  let up := if 380 < t then (if next then c.hotRun else 0) + 1 else 0
  let down := if t < 352 then (if next then c.coolRun else 0) + 1 else 0
  { c with temp := temp, hotRun := up, coolRun := down, senseAt := some now
           hot := (c.hot || decide (20 ≤ up)) && !decide (200 ≤ down)
           noLeave := if 420 ≤ t then true else if t < 400 then false else c.noLeave }

/-- The crews of a HOT core that may migrate ask to (R156). -/
def askMigrations (s : State) (core : Nat) : State :=
  let ask (e : Nat × Crew) : Nat × Crew :=
    (e.1, if e.2.core == core && !e.2.saved && (s.task e.2.task).migratable then { e.2 with migrate := true } else e.2)
  if (s.core core).hot then { s with crews := s.crews.map ask } else s

/-- SENSOR_SAMPLE (R32): at 115 °C the die stops (R33). A sample comes only when its 10 µs are over. -/
def execSensorSample (core : Nat) (temp : BitVec 11) (s : State) : Host.Outcome State Fault Refusal :=
  if !sampleTime s (s.core core) then .next s
  else
    let s := askMigrations (s.modCore core (fun c => senseCore c s.now temp)) core
    if 460 ≤ temp.toNat then .next (noteThermal (s.modDie (dieOf core) (fun d => { d with stopped := true })))
    else .next s

/-- DROOP_EVENT (R32, R34). -/
def execDroopEvent (core : Nat) (s : State) : Host.Outcome State Fault Refusal :=
  .next (s.modCore core (fun c =>
    { c with droop := true, droopCnt := if c.droopCnt == 0xFFFF#16 then c.droopCnt else c.droopCnt + 1#16
             droopTimes := s.now :: c.droopTimes.filter (fun t => decide (s.now < t + us 1000)) }))

/-! ### The order of repairs (R40) -/

/-- The partition that holds a bay, if one is enabled. -/
def partOfBay (s : State) (bay : Nat) : Option Nat :=
  (s.parts.find? (fun e => e.2.en && e.2.bays.getLsbD bay)).map Prod.fst

/-- The bay in which a part lies. -/
def Repair.bay : Repair → Nat
  | .core c => c / 13
  | .row ch | .channel ch => ch / 64
  | .way slice _ => slice
  | .lane _ => 0

/-- The crews that a core's retirement moves: those that are on it. -/
def crewsToMove (s : State) (core : Nat) : List Nat :=
  (s.crews.filter (fun e => e.2.core == core && !e.2.saved)).map Prod.fst

/-- The teams of some crews. -/
def teamsOfCrews (s : State) (cs : List Nat) : List Nat := cs.flatMap (fun c => liveTeams s (s.crew c))

/-- A migration from or to a core is under way (R157). -/
def coreMoving (s : State) (core : Nat) : Bool :=
  s.crews.any (fun e => e.2.moving.any (fun m => m.core == core || e.2.core == core))

/-- A bay lies in a slot under a profiling lease: the steward defers its own traffic there (R102). -/
def bayLeased (s : State) (bay : Nat) : Bool := (partOfBay s bay).any (slotLeased s)

/-- A repair waits for the one under way, and for the drain window, the flush or the lease of its partition (R40,
R102); in recovery nobody makes it (R41). -/
def repairWaits (s : State) (bay : Nat) : Bool :=
  s.recovery || !s.chanCopy.isEmpty || bayLeased s bay || (match partOfBay s bay with
    | some p => (s.part p).draining || (s.part p).edgeStep != .none
    | none => false)

/-- A scrub holds the repair of HBM back that touches its granule: a granule lies in every pseudo-channel of its
partition's bays, be the partition enabled or not (R78, R85). -/
def scrubHolds (s : State) (r : Repair) : Bool :=
  match r with
  | .row ch | .channel ch => s.parts.any (fun e => e.2.scrubBusy && e.2.bays.getLsbD (ch / 64))
  | .core _ | .way _ _ | .lane _ => false

/-- A repair cannot be carried out now. -/
def repairHeld (s : State) (r : Repair) : Bool := repairWaits s r.bay || scrubHolds s r

/-! ### Memory and L2 (R35, R37, R38) -/

/-- A pseudo-channel goes to the repair reserve, while its stack's reserve lasts; then the steward asks the PF for a
granule (R37; log 82). -/
def retireChannel (s : State) (chan : Nat) : State :=
  let stack := chan / 256
  if Tab.get s.reserveUsed stack 0 < 5 then
    { s with chanCopy := s.chanCopy ++ [chan], reserveUsed := Tab.set s.reserveUsed stack (Tab.get s.reserveUsed stack 0 + 1) }
  else noteRepair { s with releaseAsked := Tab.set s.releaseAsked stack true }

/-- A row is remapped, or its channel retires when the remap table is full (R18, R35). -/
def retireRow (s : State) (chan : Nat) : State :=
  let n := Tab.get s.rowsUsed chan 0
  if n < 32 then noteRepair { s with rowsUsed := Tab.set s.rowsUsed chan (n + 1) } else retireChannel s chan

/-- A private way that is retired leaves its VF's mask (R38, R87). -/
def clearWay (s : State) (p way : Nat) : State :=
  (boundVfs s p).foldl (fun s v => s.modFunc v (fun f => { f with ways := f.ways &&& ~~~(BitVec.ofNat 24 (2 ^ way)) })) s

/-- The youngest speculative cohort that holds entries in a slice may have used the way (log 5). -/
def abortWay (s : State) (slice way fn : Nat) : State :=
  let inSlice (c : Cohort) : Bool := c.lines.any (fun l => sliceOf s fn l == slice)
  match youngest (s.cohorts.filter (fun c => c.fn == fn && inSlice c && c.ts != hem s fn)) with
  | some c => if Config.pick s.free slice way then abortCohort s.bump fn c.ts .capacity else s.bump
  | none => s

/-- A set of a slice holds more entries than the slice has speculation ways. -/
def overfull (s : State) (fn slice : Nat) (c : Cohort) : Bool :=
  c.lines.any (fun l => sliceOf s fn l == slice && decide (setWays s fn l < (setHolders s fn l).length))

/-- Cohorts that no longer fit a slice abort, the youngest first. -/
def shrinkSlice (s : State) (slice fn : Nat) : Nat → State
  | 0 => s
  | fuel + 1 =>
    match youngest (s.cohorts.filter (fun c => c.fn == fn && c.ts != hem s fn && overfull s fn slice c)) with
    | some c => shrinkSlice (abortCohort s fn c.ts .capacity) slice fn fuel
    | none => s

/-- An L2 way is retired (R38): a speculation way is replaced from the common ways, a private one leaves its mask, and
without a common way in its place the slice tracks less. -/
def retireWay (s : State) (slice way : Nat) : State :=
  let spec := match partOfBay s slice with
    | some p => (specSet s p slice).contains way
    | none => false
  let s := noteRepair { s with waysRetired := (slice, way) :: s.waysRetired.filter (· != (slice, way)) }
  match partOfBay s slice with
  | none => s
  | some p =>
    if !spec then clearWay s p way
    else
      let private_ := (boundVfs s p).foldl (fun m v => m ||| (s.func v).ways.toNat) 0
      let s := match running s p with | some fn => abortWay s slice way fn | none => s
      let s := refillWays s p slice private_ 8
      match running s p with
      | some fn => shrinkSlice s slice fn s.cohorts.length
      | none => s

/-! ### Cores (R36) -/

/-- The spare of a core's bay (R13, R34). -/
def spareOf (s : State) (core : Nat) : Option Nat :=
  ((List.range 13).map (13 * (core / 13) + ·)).find? (fun c => (s.core c).cstate == 1#2)

/-- The core is retired; the spare takes its logical number, or the number becomes vacant (R36). -/
def swapCore (s : State) (core : Nat) (spare : Option Nat) : State :=
  let l := (s.core core).logical
  let s := s.modCore core (fun c =>
    { c with cstate := 2#2, logical := none, failing := false, blame := none, ttb := [], ro := [], standby := [], matrix := [] })
  match spare with
  | some c => noteRepair (s.modCore c (fun x => { x with cstate := 0#2, logical := l }))
  | none => noteReduced (noteRepair { s with vacant := s.vacant ++ l.toList })

/-- What a core's engines hold and have asked for of leave goes; the die's collective engine keeps what another core's
command needs (R26). -/
def dropLeave (s : State) (core : Nat) : State :=
  let mine (x : Leave) : Bool := x.core == core && leaveGoes s x
  s.modDie (dieOf core) (fun d =>
    { d with granted := d.granted.filter (fun x => !mine x), queue := d.queue.filter (fun x => !mine x) }.note s.now)

/-- The function whose task showed that a core fails counts its retirement (R263). -/
def countRetire (s : State) (core : Nat) : State :=
  match (s.core core).blame with
  | some fn => s.modFunc fn (fun f => { f with lnRetire := f.lnRetire + 1#64 })
  | none => s

/-- The retirement of a core: the crews on it are saved, and come back on the spare as the core with its logical number;
without a spare they come back where R135 and R150 let them. Other cores run on (R36). -/
def retireCore (s : State) (core : Nat) : State :=
  let cs := crewsToMove s core
  let ks := (cs.map (fun c => (s.crew c).task)).eraseDups
  let spare := spareOf s core
  let ends := s.now + ceilDiv ((cs.map (crewBytes s)).foldl (· + ·) 0) 512
  let save (s : State) (k : Nat) : State := saveCrews s k (cs.filter (fun c => (s.crew c).task == k))
  let s := swapCore (dropLeave (countRetire (ks.foldl save s) core) core) core spare
  let back (c : Nat) : Option Nat := if c == core then spare else some c
  ks.foldl (fun s k => (returnCrews s k ends back).getD s) s

/-- Crews that a retirement has left without a core take one as soon as they fit (R36). -/
def strayCrews (s : State) : Option State :=
  (Tab.keys s.tasks).findSome? (fun k => returnCrews s k s.now (fun _ => none))

/-! ### The queue of repairs (R40) -/

/-- The teams of a failing core have all come to the point of a save. -/
def coreQuiet (s : State) (core : Nat) : Bool :=
  let ts := teamsOfCrews s (crewsToMove s core)
  ts.all (fun t => (s.team t).stopped) && quietable s ts

/-- The next act of a repair that need not wait: the teams of a failing core stop first. -/
def carryOut (s : State) : Repair → Option State
  | .core c =>
    let ts := teamsOfCrews s (crewsToMove s c)
    if !(s.core c).failing then some s
    else if coreMoving s c then none
    else if coreQuiet s c then some (retireCore s c)
    else if ts.all (fun t => (s.team t).stopped) then none
    else some (ts.foldl (fun s t => s.modTeam t (fun tm => { tm with stopped := true })) { s with repairs := .core c :: s.repairs })
  | .row ch => some (retireRow s ch)
  | .channel ch => some (retireChannel s ch)
  | .way slice way => some (retireWay s slice way)
  | .lane _ => some s

/-- The repair that was detected first is carried out, when it need not wait. -/
def repairNext (s : State) : Option State :=
  match s.repairs with
  | [] => none
  | r :: rest => if repairHeld s r then none else carryOut { s with repairs := rest } r

/-- A repair is detected: it joins the others, and is carried out at once when it is the first and need not wait. -/
def detect (s : State) (r : Repair) : State :=
  let t := { s with repairs := s.repairs ++ [r] }
  if s.repairs.isEmpty then (repairNext t).getD t else t

/-- HBM_CORRECTABLE_ERROR (R35): a clean re-read is a transient event; an error on the re-read remaps the row, or
retires the channel when the remap table is full. -/
def execHbmCorrectableError (chan : Nat) (again : Bool) (s : State) : Host.Outcome State Fault Refusal :=
  .next (if again then detect s (.row chan) else noteTransient s (.row chan))

/-- PSEUDO_CHANNEL_RETIRE (R37): the copy begins, and the channel stays in service. -/
def execPseudoChannelRetire (chan : Nat) (s : State) : Host.Outcome State Fault Refusal :=
  .next (detect s (.channel chan))

/-- The reserve takes a channel's place, and none of its rows is remapped (R37). -/
def replaceChannel (s : State) (chan : Nat) : State :=
  noteRepair { s with chanCopy := s.chanCopy.filter (· != chan), chanHeld := s.chanHeld.filter (· != chan)
                      chanRetired := chan :: s.chanRetired, rowsUsed := Tab.set s.rowsUsed chan 0 }

/-- CHANNEL_COPY_DONE (R37). Through leased slots the copy does not go on (R102; log 62). -/
def execChannelCopyDone (chan : Nat) (s : State) : Host.Outcome State Fault Refusal :=
  if !s.chanCopy.contains chan then .next s
  else if bayLeased s (chan / 64) then .next { s with chanHeld := chan :: s.chanHeld.filter (· != chan) }
  else .next (replaceChannel s chan)

/-- A copy that a lease has held up is complete once no lease holds it (R102). -/
def channelNext (s : State) : Option State :=
  (s.chanHeld.find? (fun chan => !bayLeased s (chan / 64))).map (replaceChannel s)

/-- L2_WAY_RETIRE (R35, R38): a correctable error in a way, which a re-read confirms or not. -/
def execL2WayRetire (slice way : Nat) (again : Bool) (s : State) : Host.Outcome State Fault Refusal :=
  .next (if again then detect s (.way slice way) else noteTransient s (.way slice way))

/-- CORE_RETIREMENT (R36), of a core that a lining mismatch has shown to fail (R35, R262). -/
def execCoreRetirement (core : Nat) (s : State) : Host.Outcome State Fault Refusal :=
  if !(s.core core).failing || s.repairs.contains (.core core) then .next s else .next (detect s (.core core))

/-! ### Steward commands (R42, R47) -/

/-- A command is over. -/
def endCommand (s : State) (result : Nat) : State := { s with stCmd := none, stResult := BitVec.ofNat 8 result }

/-- A posted request reaches the PF (R51). -/
def deliverMail (s : State) (vf : Nat) : State := (s.modFunc vf (fun f => { f with mbHeld := false })).irq pfFn 0

/-- The image that STSRC and STLEN name. -/
def stagedImage (s : State) : List Byte := Memory.bytes s.mem (hostFlat s.stSrc.toNat) s.stLen.toNat

/-- What becomes of the staged image: it can be reached, its signature holds, and its security version is not below that
of the fuses (R41, R42). -/
def imageResult (s : State) : Nat :=
  if !hostOk s s.stSrc.toNat s.stLen.toNat then 4
  else if !Config.imageOk (stagedImage s) then 1
  else if (Config.imageSvn (stagedImage s)).toNat < Config.fwSvn.toNat then 2
  else 0

/-- The command is complete, and the staged image runs when it passed. -/
def swapImage (s : State) : State :=
  let r := imageResult s
  endCommand (if r == 0 then { s with fwImage := some (stagedImage s), recovery := false } else s) r

/-- STCMD_READ (R47): the register at STADDR as the command's completion finds both (log 66). -/
def execStcmdRead (s : State) : Host.Outcome State Fault Refusal :=
  if s.stCmd != some 2 then .next s
  else if s.stAddr.toNat % 8 != 0 then .next (endCommand s 3)
  else .next (endCommand { s with stData := BitVec.ofNat 64 (devRead s s.stAddr.toNat) } 0)

/-- STCMD_WRITE (R47): STADDR and STDATA as the command's completion finds them (log 66). -/
def execStcmdWrite (s : State) : Host.Outcome State Fault Refusal :=
  if s.stCmd != some 3 then .next s
  else if s.stAddr.toNat % 8 != 0 then .next (endCommand s 3)
  else .next (endCommand (devWrite s s.stAddr.toNat s.stData) 0)

end Sys2Proof.Machine
end

