-- ==== Sys2Proof/Machine/SysReg.lean ====
section
/-! DEFINITION. The system registers (R468, R469), read by RDSR and written by WRSR. -/

namespace Sys2Proof.Machine

open Sys2Proof

/-- STATUS with the flags of results that have landed by a cycle (R304). -/
def statusAt (tm : Team) (cyc : Nat) : Word64 :=
  (tm.pending.filter (fun e => e.flag.isNone && decide (e.due ≤ cyc))).foldl
    (fun (w : Word64) e => w ||| BitVec.setWidth 64 e.flags) tm.status

/-- The bits of STATUS that a write of 1 clears (R248). -/
def statusW1c : Word64 := 0x33F#64

/-- STATUS after a write: a bit that a result raised in the same cycle stays set (R304). -/
def statusWrite (tm : Team) (cyc : Nat) (v : Word64) : Word64 :=
  let kept : BitVec 6 := if tm.raisedAt == cyc then tm.raised else 0#6
  (tm.status &&& ~~~(v &&& statusW1c)) ||| BitVec.setWidth 64 kept

/-- The features that are not masked (R101, R468). -/
def featOf (s : State) (fn : Nat) : Nat := (~~~(s.func fn).feat).toNat

/-- The window word of team t (R469). -/
def accwWord (cr : Crew) (t : Nat) : Word64 := Tab.get cr.accw t 0#64

/-- A system register as the issuing path reads it (R468). -/
def readSysReg (s : State) (c : Ctx) (n : Nat) : Nat :=
  let k := c.tk s
  let tm := s.team c.t
  let cr := c.crew s
  if n == 0 then (statusAt tm c.cyc).toNat
  else if n == 1 then wdogWord k tm
  else if n == 2 then tm.accBase
  else if n == 3 then tm.accLim
  else if n == 4 then tm.lineBase
  else if n == 5 then (hem s k.fn).toNat
  else if n == 6 then k.ts.toNat
  else if n == 7 then k.taskid
  else if n == 8 then fld k.lrec.widw.toNat 0 36
  else if n == 9 then gtime s k.fn
  else if n == 10 then s.now
  else if n == 11 then cr.lcore
  else if n == 12 then (if k.fn == pfFn then 0 else (s.func k.fn).part.toNat)
  else if n == 13 then featOf s k.fn
  else if n == 14 then c.pa.stack.length
  else if n == 15 then c.p
  else if n == 16 then cr.sash
  else if 0x20 ≤ n ∧ n ≤ 0x2F then (cr.chan (n - 0x20)).cwp.toNat
  else if 0x100 ≤ n ∧ n ≤ 0x10F then (accwWord cr (n - 0x100)).toNat
  else 0

/-- The leader sets the window of team t (R469). -/
def writeAccw (s : State) (c : Ctx) (t : Nat) (v : Word64) : Except FaultInfo State :=
  let base := fld v.toNat 0 11
  let lim := fld v.toNat 16 11
  let cr := c.crew s
  if c.tm.tix != 0 then .error (flt .illegalOperand)
  else if teamCount s cr ≤ t then .ok s
  else if cr.accRows < base + lim then .error (flt .illegalOperand)
  else
    let w : Word64 := BitVec.ofNat 64 (base + 2 ^ 16 * lim)
    let s := s.setCrew c.tm.crew { cr with accw := Tab.set cr.accw t w }
    match cr.teams.find? (fun x => (s.team x).tix == t) with
    | some x => .ok (s.modTeam x (fun tm => { tm with accBase := base, accLim := lim }))
    | none => .ok s

/-- A write of a system register (R160, R248, R260, R468, R469); read-only registers keep their value. -/
def writeSysReg (s : State) (c : Ctx) (n : Nat) (v : Word64) : Except FaultInfo State :=
  if n == 0 then .ok (s.modTeam c.t (fun tm => { tm with status := statusWrite tm c.cyc v }))
  else if n == 1 then
    let s := s.modTeam c.t (fun tm => { tm with wdogLimit := v.setWidth 16 })
    .ok (s.modTask c.tm.task (fun k => { k with ovrlim := fld v.toNat 48 8 }))
  else if n == 4 then
    if v.toNat % 16 != 0 || decide (512 < v.toNat) then .error (flt .illegalOperand)
    else .ok (s.modTeam c.t (fun tm => { tm with lineBase := v.toNat }))
  else if 0x100 ≤ n ∧ n ≤ 0x10F then writeAccw s c (n - 0x100) v
  else .ok s

/-- RDSR (R468). -/
def execRdsr (d : BitVec 7) (imm : BitVec 16) (s : State) : Host.Outcome State Fault Refusal :=
  runControl s (fun c =>
    .ok (s.land c.t [sResult c d.toNat 2 (BitVec.ofNat 64 (readSysReg s c imm.toNat))]))

/-- WRSR (R468). -/
def execWrsr (d : BitVec 7) (imm : BitVec 16) (s : State) : Host.Outcome State Fault Refusal :=
  runControl s (fun c =>
    match writeSysReg s c imm.toNat (BitVec.ofNat 64 (c.sreg d.toNat)) with
    | .ok s => .ok s.bump
    | .error e => .error e)

end Sys2Proof.Machine
end

