-- ==== Sys2Proof/Machine/HostIf.lean ====
section
/-! DEFINITION. What the host sees and does: mailbox and leases (R46, R50-R52, R102, R276), sealing
(R64-R72, R492), attestation (R74, R75), writes from peers (R142), and every register of the BAR pages
(R44-R53, R66, R74, R126, R127, R265, R278-R282). -/

namespace Sys2Proof.Machine

open Sys2Proof

/-! ### The mailbox (R50-R52) -/

/-- A request is answered: BUSY clears, MBDONE is set, and vector 0 is raised. -/
def answerMail (s : State) (vf status : Nat) : State :=
  (s.modFunc vf (fun f => { f with mbBusy := false, mbHeld := false, mbDone := true, mbStatus := BitVec.ofNat 8 status })).irq vf 0

/-- A code that the device answers itself: an unknown one with 2, a masked lease with 1 (R52, R101). -/
def deviceAnswer (s : State) (vf code : Nat) : Option Nat :=
  if 0x8000 ≤ code then none
  else if code == 0 || 5 < code then some 2
  else if (code == 4 && masked s vf 12) || (code == 3 && masked s vf 13) then some 1
  else none

/-- A posted request is answered by the device, or goes to the PF. -/
def passMail (s : State) (vf : Nat) : State :=
  match deviceAnswer s vf (s.func vf).mbCode with
  | some status => answerMail s vf status
  | none => deliverMail s vf

/-- SEND: the request is kept as posted, and goes on; during a firmware swap it waits (R42). -/
def sendMail (s : State) (vf : Nat) : State :=
  let f := s.func vf
  let code := fld (Tab.get f.msg 0 0#64).toNat 0 16
  if f.mbBusy || 192 ≤ vf then s
  else
    let s := s.setFunc vf { f with mbBusy := true, posted := f.msg, mbCode := code, mbArg := (Tab.get f.msg 1 0#64).toNat
                                   mbHeld := s.stCmd == some 1 }
    if s.stCmd == some 1 then s else passMail s vf

/-- Requests that waited for a swap go on (R42). -/
def releaseMail (s : State) : State :=
  ((s.funcs.filter (fun e => e.2.mbHeld)).map Prod.fst).foldl passMail s

/-- STCMD_SWAP_IMAGE (R42): the staged image is checked, and runs when it passes; requests that waited go on. -/
def execStcmdSwapImage (s : State) : Host.Outcome State Fault Refusal :=
  if s.stCmd != some 1 then .next s else .next (releaseMail (swapImage s))

/-- MAILBOX_SEND (R51). -/
def execMailboxSend (vf : Nat) (s : State) : Host.Outcome State Fault Refusal := .next (sendMail s vf)

/-- A profiling lease ends (R102). -/
def endProfiling (s : State) (vf : Nat) : State :=
  let p := (s.func vf).part.toNat
  (s.modPart p (fun x => { x with leases := x.leases.filter (fun l => l.2.2 != vf) })).modFunc vf (fun f => { f with profLease := false })

/-- What a request that the PF has granted does in the device: leases begin and end (R52, R102, R264, R276). -/
def grantMail (s : State) (vf : Nat) : State :=
  let f := s.func vf
  if f.mbCode == 3 then
    let first := (Tab.get f.msg 1 0#64).toNat
    (s.modPart f.part.toNat (fun x => { x with leases := x.leases ++ [(first, f.mbArg, vf)] })).modFunc vf
      (fun f => { f with profLease := true })
  else if f.mbCode == 4 then s.setFunc vf { f with dbgLease := true }
  else if f.mbCode == 5 && f.mbArg == 3 then endProfiling s vf
  else if f.mbCode == 5 && f.mbArg == 4 then (endDebug s vf).modFunc vf (fun f => { f with dbgLease := false })
  else s

/-- REPLY (R51): ignored while no request is posted. -/
def replyMail (s : State) (vf : Nat) (status : Byte) : State :=
  if !(s.func vf).mbBusy || (s.func vf).mbHeld then s
  else answerMail (if status == 0#8 then grantMail s vf else s) vf status.toNat

/-- MAILBOX_REPLY (R51). -/
def execMailboxReply (vf : Nat) (status : Byte) (s : State) : Host.Outcome State Fault Refusal :=
  .next (replyMail s vf status)

/-- The frames of a VF's lease are over. -/
def leaseOver (s : State) (vf : Nat) : Bool :=
  let x := s.part (s.func vf).part.toNat
  x.leases.any (fun l => l.2.2 == vf) && x.leases.all (fun l => l.2.2 != vf || decide (l.1 + l.2.1 ≤ x.frames.toNat))

/-- PROFILING_LEASE_END (R102). -/
def execProfilingLeaseEnd (vf : Nat) (s : State) : Host.Outcome State Fault Refusal :=
  if leaseOver s vf then .next (endProfiling s vf) else .next s

/-! ### Sealing (R64-R72, R492) -/

/-- Offsets and lengths of an image (R65). -/
def imageShape (img : List Byte) : Bool :=
  let len := img.length
  let f (off n : Nat) : Nat := fieldAt img off n
  let nent := f 0x18 4
  let nb := f 0x1C 4
  decide (0x40 ≤ len) && decide (1 ≤ nent) && decide (nent ≤ 65535) && decide (1 ≤ nb) && decide (nb < 2 ^ 24)
    && decide (f 0x20 4 + 16 * nent ≤ len) && f 0x24 4 % 32 == 0 && decide (f 0x24 4 + 32 * nb ≤ len)
    && (f 0x28 4 == 0 || decide (f 0x28 4 + f 0x2C 4 ≤ len))
    && (List.range nent).all (fun i => decide (f (f 0x20 4 + 16 * i + 8) 4 < nb))

/-- A kernel header word that a seal takes (R64). In an S5 image a clear CG16 is a matter of the stamp (R72, R481;
log 93). -/
def headerWordOk (s5 : Bool) (h : Nat) : Bool :=
  (fld h 0 8 == 1 || fld h 0 8 == 2) && (fld h 0 8 != 1 || bitAt h 8 || s5) && fld h 30 34 == 0
    && (!bitAt h 9 || (fld h 19 11 % 16 == 0 && decide (fld h 19 11 ≤ 512)))

/-- Entry i of an image: its header word and its first bundle. -/
def imageEntry (img : List Byte) (i : Nat) : Word64 × Nat :=
  let a := fieldAt img 0x20 4 + 16 * i
  (BitVec.ofNat 64 (fieldAt img a 8), fieldAt img (a + 8) 4)

def imageEntries (img : List Byte) : List (Word64 × Nat) := (List.range (fieldAt img 0x18 4)).map (imageEntry img)

/-- The stamp of an image (R65). -/
def stampOf (img : List Byte) : BitVec 128 := BitVec.ofNat 128 (fieldAt img 8 16)

/-- Reserved fields and header words. -/
def imageFields (img : List Byte) : Bool :=
  fieldAt img 6 2 == 0 && fieldAt img 0x30 16 == 0 && (imageEntries img).all (fun e => headerWordOk (stampOf img == Config.stampS5) e.1.toNat)
    && (List.range (fieldAt img 0x18 4)).all (fun i => fieldAt img (fieldAt img 0x20 4 + 16 * i + 12) 4 == 0)

/-- The stamp is the device's; an S5 image in which every entry sets CG16 is taken too (R72). -/
def imageStamp (img : List Byte) : Bool :=
  stampOf img == Config.stampS7 || (stampOf img == Config.stampS5
    && (imageEntries img).all (fun e => fld e.1.toNat 0 8 == 1 && bitAt e.1.toNat 8))

/-- 32-byte units that an object takes in the code area: its body, and its entry table after it (R67). -/
def objectUnits (len entries : Nat) : Nat := len + ceilDiv entries 2

/-- Sealed slots that a function may hold (R82, R492). -/
def sealLimit (s : State) (fn : Nat) : Nat := if fn == pfFn then 256 else (s.func fn).sealMax.toNat

/-- The gaps of the code area for an object. -/
def codeGaps (s : State) (fn units : Nat) : List Nat :=
  let held := ((s.func fn).slots.filter (fun e => e.2.live)).map (fun e => (e.2.base, objectUnits e.2.len e.2.entries.length))
  gapsFor held ((codeArea s fn).2 / 32) units

/-- The image that a seal names, when it can be read. -/
def sealImage (s : State) (fn : Nat) : Option (List Byte) :=
  let f := s.func fn
  let a := f.sealSrc.toNat
  let n := f.sealLen.toNat
  if (fn == pfFn || f.en) && inSeg s fn a n then some (gBytes s fn a n) else none

/-- The checks of a seal, in order (R66): the result of the first that fails. -/
def sealCode (s : State) (fn : Nat) : Nat :=
  match sealImage s fn with
  | none => 6
  | some img =>
    let live := ((s.func fn).slots.filter (fun e => e.2.live)).length
    if fieldAt img 0 4 != 0x4F544332 || fieldAt img 4 2 != 1 then 1
    else if !imageShape img then 3
    else if !imageFields img then 1
    else if !imageStamp img then 2
    else if sealLimit s fn ≤ live then 4
    else if (codeGaps s fn (objectUnits (fieldAt img 0x1C 4) (fieldAt img 0x18 4))).isEmpty then 5
    else 0

/-- The measurement of the sealed code (R75). -/
def Func.measure (f : Func) : List Byte := if f.mcode.isEmpty then List.replicate 64 0#8 else f.mcode

/-- The object is copied; where it lies in the area is open (log 5). A page of the PF's area that does not translate takes
it all the same: the model's choice (log 97). -/
def sealObject (s : State) (fn : Nat) (img : List Byte) : State :=
  let f := s.func fn
  let nb := fieldAt img 0x1C 4
  let es := imageEntries img
  let n := ((List.range (sealLimit s fn)).find? (fun i => !(Tab.get f.slots i {}).live)).getD 0
  let base := someGap s (codeGaps s fn (objectUnits nb es.length))
  let body := (img.drop (fieldAt img 0x24 4)).take (32 * nb)
  let x : SealedSlot := { live := true, gen := (Tab.get f.slots n {}).gen, base := base, len := nb, entries := es, body := body }
  let table := (img.drop (fieldAt img 0x20 4)).take (16 * es.length)
  let at_ := flatOf s fn ((codeArea s fn).1 + 32 * base)
  let m := f.measure ++ leBytes 64 (Config.sha512 img).toNat
  let f : Func := { f with slots := Tab.set f.slots n x, sealH := handleOf fn n x, mcode := leBytes 64 (Config.sha512 m).toNat }
  (memWrite (s.setFunc fn f) at_ (body ++ table)).bump

def setSealResult (s : State) (fn code : Nat) : State := s.modFunc fn (fun f => { f with sealResult := BitVec.ofNat 8 code })

/-- SEALCMD 1 (R66). -/
def sealNow (s : State) (fn : Nat) : State :=
  if (s.func fn).sealBusy then s
  else
    let code := sealCode s fn
    match sealImage s fn with
    | some img => setSealResult (if code == 0 then sealObject s fn img else s) fn code
    | none => setSealResult s fn code

/-- SEAL (R66). -/
def execSealStart (fn : Nat) (s : State) : Host.Outcome State Fault Refusal := .next (sealNow s fn)

/-- SEALCMD 2 (R70): the handle is valid no more. -/
def releaseNow (s : State) (fn : Nat) : State :=
  let f := s.func fn
  if f.sealBusy then s
  else
    match handleSlot s fn f.sealH with
    | none => setSealResult s fn 7
    | some (n, x) => s.setFunc fn { f with sealBusy := true, slots := Tab.set f.slots n { x with releasing := true } }

/-- SEAL_RELEASE (R70). -/
def execSealRelease (fn : Nat) (s : State) : Host.Outcome State Fault Refusal := .next (releaseNow s fn)

/-- A task or a walk of a sealed object stands. -/
def objectUsed (s : State) (fn n : Nat) : Bool :=
  (tasksOf s fn).any (fun e => e.2.codeSlot == n) || (s.func fn).walk.any (fun w => w.slot == n)

/-- The area of a released object is freed, and its slot's generation goes on (R70). -/
def releaseEnd (s : State) (fn : Nat) : State :=
  let f := s.func fn
  match f.slots.find? (fun e => e.2.releasing) with
  | none => s.setFunc fn { f with sealBusy := false }
  | some (n, x) =>
    if objectUsed s fn n then s
    else
      let x : SealedSlot := { x with live := false, releasing := false, gen := x.gen + 1#16 }
      s.setFunc fn { f with sealBusy := false, sealResult := 0#8, slots := Tab.set f.slots n x }

/-- SEAL_RELEASE_DONE (R70). -/
def execSealReleaseDone (fn : Nat) (s : State) : Host.Outcome State Fault Refusal :=
  if (s.func fn).sealBusy then .next (releaseEnd s fn) else .next s

/-! ### Attestation (R74) -/

/-- Bytes 0x000 to 0x11F of a report. MCFG of a report of the PF is that of its own entry: the model's choice (log 95). -/
def reportBody (s : State) (fn : Nat) : List Byte :=
  let f := s.func fn
  leBytes 4 0x41545352 ++ leBytes 2 1 ++ leBytes 2 (if fn == pfFn then 0xFFFF else fn) ++ leBytes 8 (gtime s fn)
    ++ (List.range 4).flatMap (fun i => leBytes 8 (Tab.get f.nonce i 0#64).toNat)
    ++ leBytes 64 (Config.sha512 (runningImage s)).toNat
    ++ leBytes 64 (Config.sha512 (f.config.flatMap (leBytes 8))).toNat
    ++ f.measure ++ leBytes 4 (runningSvn s).toNat ++ leBytes 12 0 ++ leBytes 32 Config.idKey.toNat

/-- A report, with its signature. -/
def report (s : State) (fn : Nat) : List Byte :=
  let b := reportBody s fn
  b ++ leBytes 64 (Config.sign b).toNat

/-- The report is written where the function can reach. ATTDONE is set also where it cannot: the model's choice (R74; log 80). -/
def attestNow (s : State) (fn : Nat) : State :=
  let f := s.func fn
  let a := f.attAddr.toNat / 512 * 512
  let r := report s fn
  let s := if (fn == pfFn || f.en) && inSeg s fn a r.length then memWrite s (flatOf s fn a) r else s
  s.modFunc fn (fun f => { f with attDone := true })

/-- ATTGO (R74). -/
def execAttgo (fn : Nat) (s : State) : Host.Outcome State Fault Refusal := .next (attestNow s fn)

/-! ### Writes from outside (R113, R142) -/

/-- PEER_WRITE (R142): bytes arrive in a space; signal-table entries of the words go. A message that only
reads brings none. -/
def execPeerWrite (space addr : Nat) (bytes : List Byte) (s : State) : Host.Outcome State Fault Refusal :=
  let flat := spaceBase space + addr
  .next { dropSignals s flat bytes.length with
    mem := Memory.write s.mem flat bytes
    eccBad := healWords s.eccBad (fun a => decide (flat ≤ a) && decide (a < flat + bytes.length)) }

/-! ### The pages of a function, as the host reads them -/

/-- The identity page (R48). -/
def identRead (s : State) (fn off : Nat) : Nat :=
  let f := s.func fn
  if off == 0 then 0x5307
  else if off == 8 then (if fn == pfFn then 0xFFFF else fn)
  else if off == 0x10 then (if fn != pfFn && f.en then f.part.toNat else 0xFF)
  else if off == 0x18 then featOf s fn
  else if 0x20 ≤ off ∧ off < 0x30 then fld Config.stampS7.toNat (8 * (off - 0x20)) 64
  else if off == 0x30 then (runningSvn s).toNat
  else if 0x40 ≤ off ∧ off < 0x60 then fld Config.idKey.toNat (8 * (off - 0x40)) 64
  else 0

/-- VFSTAT (R49). -/
def vfstat (s : State) (f : Func) : Nat :=
  b2n f.mbDone + 2 * b2n f.qStop + 4 * b2n f.prq + 8 * b2n f.overrun + 16 * b2n f.tsClamp + 32 * b2n f.attDone
    + 64 * b2n f.dbgLease + 128 * b2n f.profLease + 256 * b2n s.linkDeg + 2 ^ 16 * f.ovrCnt.toNat

/-- The status page (R49, R185, R263). -/
def statusRead (s : State) (fn off : Nat) : Nat :=
  let f := s.func fn
  if off == 0 then vfstat s f
  else if 0x40 ≤ off ∧ off < 0xA0 then ((f.spCounters ++ f.lnCounters).getD ((off - 0x40) / 8) 0#64).toNat
  else 0

/-- The mailbox page: the request as posted while BUSY is 1 (R50, R51). -/
def mailRead (f : Func) (off : Nat) : Nat :=
  if off < 0x80 then (Tab.get (if f.mbBusy then f.posted else f.msg) (off / 8) 0#64).toNat
  else if off == 0x80 then 2 * b2n f.mbBusy + 2 ^ 8 * f.mbStatus.toNat
  else 0

/-- The code sealing page (R66). -/
def sealRead (f : Func) (off : Nat) : Nat :=
  if off == 0 then f.sealSrc.toNat
  else if off == 8 then f.sealLen.toNat
  else if off == 0x18 then b2n f.sealBusy + 2 ^ 8 * f.sealResult.toNat
  else if off == 0x20 || off == 0x28 then fld f.sealH.toNat (8 * (off - 0x20)) 64
  else 0

/-- The attestation page (R74). -/
def attRead (f : Func) (off : Nat) : Nat :=
  if off < 0x20 then (Tab.get f.nonce (off / 8) 0#64).toNat else if off == 0x20 then f.attAddr.toNat else 0

/-- The page-request page (R126). -/
def prRead (s : State) (fn off : Nat) : Nat :=
  let f := s.func fn
  let waiting := (s.pages.filter (fun p => p.fn == fn && p.pool.isNone)).length
  if off == 0 then f.prBase.toNat
  else if off == 8 then b2n f.prEn + 2 * f.prLogsz.toNat + 32 * b2n f.prErr
  else if off == 0x10 then f.prTail.toNat
  else if off == 0x18 then f.prHead.toNat
  else if off == 0x28 then poolHeld s fn % 128 + 2 ^ 8 * (waiting % 128)
  else if off == 0x30 then f.tinva.toNat
  else if off == 0x38 then f.tinvn.toNat
  else if off == 0x40 then 2 * b2n f.tinvBusy
  else if off == 0x48 then f.prWin.toNat
  else 0

/-- The debug window (R265): without a lease it reads 0. -/
def dbgRead (s : State) (fn : Nat) (off : Nat) : Nat :=
  let own := s.func fn
  let f := s.func (dbgSubject s fn)
  if fn != pfFn && !own.dbgLease then 0
  else if off == 0 then f.dbgCtl.toNat
  else if off == 8 then own.dbgSel.toNat
  else if off == 0x18 then b2n (dbgBusy s own) + 2 ^ 4 * own.dbgResult.toNat + 2 ^ 16 * b2n f.dbgOvf
  else if off == 0x20 then own.dbgArg.toNat
  else if off == 0x28 then own.dbgCrew.toNat
  else if off == 0x30 then own.dbgArg2.toNat
  else if 0x40 ≤ off ∧ off < 0x80 then (Tab.get f.bkpt ((off - 0x40) / 8) 0#64).toNat
  else if 0x100 ≤ off ∧ off < 0x200 then (Tab.get f.wpt ((off - 0x100) / 8) 0#64).toNat
  else if 0x200 ≤ off ∧ off < 0x300 then fld (Tab.get f.stopEv ((off - 0x200) / 16) 0#128).toNat (off % 16 * 8) 64
  else if off == 0x300 then f.stopTail.toNat
  else if off == 0x308 then f.stopHead.toNat
  else 0

/-- A function's BAR index 0 below 64 KiB (R44). -/
def viewRead (s : State) (fn off : Nat) : Nat :=
  let f := s.func fn
  if off < 0x1000 then identRead s fn off
  else if off < 0x2000 then statusRead s fn (off - 0x1000)
  else if off < 0x3000 then mailRead f (off - 0x2000)
  else if off < 0x4000 then ((f.queue ((off - 0x3000) / 64)).regs.getD (off % 64 / 8) 0#64).toNat
  else if off < 0x5000 then sealRead f (off - 0x4000)
  else if off < 0x6000 then attRead f (off - 0x5000)
  else if off < 0x7000 then prRead s fn (off - 0x6000)
  else if off < 0x8000 then 0
  else dbgRead s fn (off - 0x8000)

/-- The mailbox block that the PF has of a VF (R46). -/
def pfMailRead (f : Func) (off : Nat) : Nat :=
  if off < 0x80 then (Tab.get f.msg (off / 8) 0#64).toNat else if off == 0x80 then 2 * b2n f.mbBusy else 0

/-- A VF has a request posted (R47). -/
def pendingBit (s : State) (v : Nat) : Nat := b2n ((s.func v).mbBusy && !(s.func v).mbHeld)

/-- Herwen's certificate: 4,096 bytes at most (R45, R47). -/
def certificate : List Byte := Config.certificate.take 4096

/-- The management page (R47). -/
def mgmtRead (s : State) (off : Nat) : Nat :=
  if off == 0 then b2n s.linkDeg + 2 * b2n s.recovery + 4 * b2n s.thermal + 8 * b2n s.repair + 16 * b2n s.reduced
  else if 8 ≤ off ∧ off < 0x20 then
    (List.range 64).foldl (fun n j => n + 2 ^ j * pendingBit s (8 * (off - 8) + j)) 0
  else if off == 0x20 then s.stSrc.toNat
  else if off == 0x28 then s.stLen.toNat
  else if off == 0x30 then s.stAddr.toNat
  else if off == 0x38 then s.stData.toNat
  else if off == 0x48 then b2n s.stCmd.isSome + 2 ^ 8 * s.stResult.toNat
  else if off == 0x50 then (certificate).length
  else 0

/-- Address of a byte of a ring's window, when it lies in the ring and the function can reach it (R127, R278). -/
def ringByte (s : State) (fn base bytes a n : Nat) : Option Nat :=
  if a + n ≤ bytes && a % 8 == 0 && inSeg s fn (base + a) n then some (flatOf s fn (base + a)) else none

/-- The flat address behind an offset of the page-request window (R127). -/
def prWindow (s : State) (fn off : Nat) : Option Nat :=
  let f := s.func fn
  if f.prEn then ringByte s fn (f.prBase.toNat / 4096 * 4096) (32 * 2 ^ f.prLogsz.toNat) (f.prWin.toNat * 65536 + off) 8
  else none

/-- The sampling and trace block (R278, R281, R282). -/
def profRead (s : State) (fn off : Nat) : Nat :=
  let f := s.func fn
  let w (l : List Word64) (i : Nat) : Nat := (l.getD i 0#64).toNat
  if off < 0x28 then w [f.smpBase, f.smpCtl, f.smpTail, f.smpHead, f.smpDrop] (off / 8)
  else if 0x40 ≤ off ∧ off < 0x68 then w [f.trcBase, f.trcCtl, f.trcTail, f.trcHead, f.trcDrop] ((off - 0x40) / 8)
  else if 0x80 ≤ off ∧ off < 0xC0 then (Tab.get f.pmSel ((off - 0x80) / 8) 0#64).toNat
  else if 0xC0 ≤ off ∧ off < 0x100 then (Tab.get f.pmCnt ((off - 0xC0) / 8) 0#64).toNat
  else 0

/-- BAR index 2 (R44, R127, R278). -/
def bar2Read (s : State) (fn off : Nat) : Nat :=
  let f := s.func fn
  let word (a : Option Nat) : Nat := match a with | some x => leNat (Memory.bytes s.mem x 8) | none => 0
  if off < 0x10000 then word (prWindow s fn off)
  else if off < 0x20000 then profRead s fn (off - 0x10000)
  else word (ringByte s fn (f.smpBase.toNat / 4096 * 4096) (32 * 2 ^ (fld f.smpCtl.toNat 6 4 + 10)) (off - 0x20000) 8)

/-- What the host reads at an 8-byte offset of a BAR of a function; reading changes nothing (R9, R44, R45). An offset that
is no multiple of 8 reads 0: the model's choice (log 67). -/
def hostRead (s : State) (fn bar off : Nat) : Nat :=
  if off % 8 != 0 then 0
  else if bar == 2 then bar2Read s fn off
  else if bar != 0 then 0
  else if off < 0x10000 then viewRead s fn off
  else if fn != pfFn then 0
  else if off < 0x40000 then pfMailRead (s.func ((off - 0x10000) / 0x400)) ((off - 0x10000) % 0x400)
  else if off < 0x41000 then mgmtRead s (off - 0x40000)
  else if off < 0x42000 then leNat ((certificate.drop (off - 0x41000)).take 8)
  else 0

/-! ### Writes -/

/-- VFSTAT: W1C (R49). -/
def statusWriteReg (f : Func) (v : Nat) : Func :=
  { f with mbDone := f.mbDone && !bitAt v 0, qStop := f.qStop && !bitAt v 1, prq := f.prq && !bitAt v 2
           overrun := f.overrun && !bitAt v 3, tsClamp := f.tsClamp && !bitAt v 4, attDone := f.attDone && !bitAt v 5 }

/-- The mailbox page (R50, R51). -/
def mailWrite (s : State) (fn off : Nat) (v : Word64) : State :=
  let f := s.func fn
  if f.mbBusy then s
  else if off < 0x80 then s.setFunc fn { f with msg := Tab.set f.msg (off / 8) v }
  else if off == 0x80 && bitAt v.toNat 0 then sendMail s fn
  else s

/-- A queue's block: the address registers are taken while EN is 0 (R53, R54). -/
def queueWrite (s : State) (fn q reg : Nat) (v : Word64) : State :=
  let x := (s.func fn).queue q
  if reg == 1 then qctlWrite s fn q v
  else if x.en then s
  else if reg == 0 then setQueue s fn q { x with qbase := keepRing v }
  else if reg == 2 then setQueue s fn q { x with qtaila := keepWord v }
  else if reg == 3 then setQueue s fn q { x with qheada := keepWord v }
  else s

/-- The code sealing page (R66). A SEALCMD other than 1 and 2 does nothing: the model's choice (log 77). -/
def sealWrite (s : State) (fn off : Nat) (v : Word64) : State :=
  let f := s.func fn
  let h := f.sealH.toNat
  if f.sealBusy then s
  else if off == 0 then s.setFunc fn { f with sealSrc := v }
  else if off == 8 then s.setFunc fn { f with sealLen := v }
  else if off == 0x10 then
    if v == 1#64 then sealNow s fn else if v == 2#64 then releaseNow s fn else s
  else if off == 0x20 then s.setFunc fn { f with sealH := BitVec.ofNat 128 (v.toNat + h / 2 ^ 64 * 2 ^ 64) }
  else if off == 0x28 then s.setFunc fn { f with sealH := BitVec.ofNat 128 (h % 2 ^ 64 + v.toNat * 2 ^ 64) }
  else s

/-- The attestation page (R74). -/
def attWrite (s : State) (fn off : Nat) (v : Word64) : State :=
  let f := s.func fn
  if off < 0x20 then s.setFunc fn { f with nonce := Tab.set f.nonce (off / 8) v }
  else if off == 0x20 then s.setFunc fn { f with attAddr := BitVec.ofNat 64 (v.toNat / 512 * 512) }
  else if off == 0x28 && v == 1#64 then attestNow s fn
  else s

/-- The page-request page (R119, R126). -/
def prWrite (s : State) (fn off : Nat) (v : Word64) : State :=
  let f := s.func fn
  if off == 0 then if f.prEn then s else s.setFunc fn { f with prBase := BitVec.ofNat 64 (v.toNat / 4096 * 4096) }
  else if off == 8 then prctlWrite s fn v
  else if off == 0x18 then prheadSet s fn v
  else if off == 0x20 then prcplWrite s fn v.toNat
  else if off == 0x30 then s.setFunc fn { f with tinva := BitVec.ofNat 64 (v.toNat / 16 * 16) }
  else if off == 0x38 then s.setFunc fn { f with tinvn := BitVec.ofNat 64 (v.toNat % 2 ^ 32) }
  else if off == 0x40 then if bitAt v.toNat 0 then tinvGo s fn else s
  else if off == 0x48 then s.setFunc fn { f with prWin := BitVec.ofNat 4 v.toNat }
  else s

/-- A watchpoint's words as they hold a write: WCTL has 18 bits, and the last two words are reserved (R268). -/
def wptMask (n w : Nat) : Nat := if n % 8 == 0 then w % 2 ^ 18 else if n % 8 < 6 then w else 0

/-- What a write of a debug context sets: DBGCTL, OVF, breakpoints, watchpoints and STOPHEAD (R265-R268). -/
def contextWrite (f : Func) (off : Nat) (v : Word64) : Func :=
  let w := v.toNat
  if off == 0 then { f with dbgCtl := v.setWidth 4 }
  else if off == 0x18 then { f with dbgOvf := f.dbgOvf && !bitAt w 16 }
  else if 0x40 ≤ off ∧ off < 0x80 then { f with bkpt := Tab.set f.bkpt ((off - 0x40) / 8) (BitVec.ofNat 64 (w % 2 ^ 40)) }
  else if 0x100 ≤ off ∧ off < 0x200 then
    let n := (off - 0x100) / 8
    { f with wpt := Tab.set f.wpt n (BitVec.ofNat 64 (wptMask n w)) }
  else if off == 0x308 then if w < f.stopHead.toNat then f else { f with stopHead := v }
  else f

/-- The debug window (R264, R265): the target and the command are the window's own, the rest is the context of the
function on which it acts. -/
def dbgWrite (s : State) (fn off : Nat) (v : Word64) : State :=
  let f := s.func fn
  if fn != pfFn && !f.dbgLease then s
  else if off == 8 then s.setFunc fn { f with dbgSel := v &&& 0xFF3FFF#64 }
  else if off == 0x10 then dbgWindow s fn (v.toNat % 256)
  else if off == 0x20 then s.setFunc fn { f with dbgArg := v }
  else if off == 0x28 then s.setFunc fn { f with dbgCrew := v }
  else if off == 0x30 then s.setFunc fn { f with dbgArg2 := BitVec.ofNat 64 (v.toNat % 2 ^ 21) }
  else s.modFunc (dbgSubject s fn) (fun f => contextWrite f off v)

/-- A function's BAR index 0 below 64 KiB (R44). -/
def viewWrite (s : State) (fn off : Nat) (v : Word64) : State :=
  if off < 0x1000 then s
  else if off < 0x2000 then if off == 0x1000 then s.modFunc fn (fun f => statusWriteReg f v.toNat) else s
  else if off < 0x3000 then mailWrite s fn (off - 0x2000) v
  else if off < 0x4000 then queueWrite s fn ((off - 0x3000) / 64) (off % 64 / 8) v
  else if off < 0x5000 then sealWrite s fn (off - 0x4000) v
  else if off < 0x6000 then attWrite s fn (off - 0x5000) v
  else if off < 0x7000 then prWrite s fn (off - 0x6000) v
  else if off < 0x8000 then s
  else dbgWrite s fn (off - 0x8000) v

/-- The PF's block of a VF's mailbox: taken only while BUSY is 1 (R46, R51). -/
def pfMailWrite (s : State) (v off : Nat) (val : Word64) : State :=
  let f := s.func v
  if !f.mbBusy then s
  else if off < 0x80 then s.setFunc v { f with msg := Tab.set f.msg (off / 8) val }
  else if off == 0x80 && bitAt val.toNat 0 then replyMail s v (BitVec.ofNat 8 (fld val.toNat 8 8))
  else s

/-- The management page (R47). -/
def mgmtWrite (s : State) (off : Nat) (v : Word64) : State :=
  let w := v.toNat
  if off == 0 then { s with thermal := s.thermal && !bitAt w 2, repair := s.repair && !bitAt w 3, reduced := s.reduced && !bitAt w 4 }
  else if off == 0x20 then { s with stSrc := BitVec.ofNat 64 (w / 4096 * 4096) }
  else if off == 0x28 then { s with stLen := v }
  else if off == 0x30 then { s with stAddr := v }
  else if off == 0x38 then { s with stData := v }
  else if off == 0x40 then
    if s.stCmd.isSome || (s.recovery && w % 256 != 1) then s
    else if 1 ≤ w % 256 ∧ w % 256 ≤ 3 then { s with stCmd := some (w % 256) }
    else { s with stResult := 3#8 }
  else s

/-- SMPCTL and TRCCTL: LOGSZ is taken while EN is 0, and a write that sets EN with K outside 10 to 20 is
ignored (R278, R281). -/
def smpCtl (old v : Nat) : Nat :=
  let k := fld v 1 5
  if bitAt v 0 && (decide (k < 10) || decide (20 < k)) then old
  else b2n (bitAt v 0) + 2 * k + 2 ^ 6 * (if bitAt old 0 then fld old 6 4 else fld v 6 4)

def trcCtl (old v : Nat) : Nat :=
  b2n (bitAt v 0) + 2 * (if bitAt old 0 then fld old 1 4 else fld v 1 4) + 2 ^ 16 * fld v 16 16

/-- The sampling and trace block (R278, R281, R282). A PMSEL keeps all 64 bits, and
writes of the counters PMCNT are ignored: the model's choices (log 72). -/
def profWrite (s : State) (fn off : Nat) (v : Word64) : State :=
  let f := s.func fn
  let w := v.toNat
  let page : Word64 := BitVec.ofNat 64 (w / 4096 * 4096)
  if off == 0 then if bitAt f.smpCtl.toNat 0 then s else s.setFunc fn { f with smpBase := page }
  else if off == 8 then s.setFunc fn { f with smpCtl := BitVec.ofNat 64 (smpCtl f.smpCtl.toNat w) }
  else if off == 0x18 then if w < f.smpHead.toNat then s else s.setFunc fn { f with smpHead := v }
  else if off == 0x40 then if bitAt f.trcCtl.toNat 0 then s else s.setFunc fn { f with trcBase := page }
  else if off == 0x48 then s.setFunc fn { f with trcCtl := BitVec.ofNat 64 (trcCtl f.trcCtl.toNat w) }
  else if off == 0x58 then if w < f.trcHead.toNat then s else s.setFunc fn { f with trcHead := v }
  else if 0x80 ≤ off ∧ off < 0xC0 then s.setFunc fn { f with pmSel := Tab.set f.pmSel ((off - 0x80) / 8) v }
  else s

/-- BAR index 2 (R127, R278). -/
def bar2Write (s : State) (fn off : Nat) (v : Word64) : State :=
  if off < 0x10000 then
    match prWindow s fn off with
    | some flat => memWrite s flat (leBytes 8 v.toNat)
    | none => s
  else if off < 0x20000 then profWrite s fn (off - 0x10000) v
  else s

/-- A write of the host at an 8-byte offset of a BAR of a function; reserved offsets ignore it (R9, R44, R45), and so do
offsets that are no multiple of 8: the model's choice (log 67). -/
def hostWrite (s : State) (fn bar off : Nat) (v : Word64) : State :=
  if off % 8 != 0 then s
  else if bar == 2 then bar2Write s fn off v
  else if bar != 0 then s
  else if off < 0x10000 then viewWrite s fn off v
  else if fn != pfFn then s
  else if off < 0x40000 then pfMailWrite s ((off - 0x10000) / 0x400) ((off - 0x10000) % 0x400) v
  else if off < 0x41000 then mgmtWrite s (off - 0x40000) v
  else s

/-- REGISTER_WRITE (R9, R44). -/
def execRegisterWrite (fn bar off : Nat) (val : Word64) (s : State) : Host.Outcome State Fault Refusal :=
  .next (hostWrite s fn bar off val)

end Sys2Proof.Machine
end

