-- ==== Sys2Proof/Machine/Flags.lean ====
section
/-! DEFINITION. The flag computations of the vector slot (R300, R303): what each element raises, and
how the elements of a lane and the lanes of a pass join. -/

namespace Sys2Proof.Machine

open Sys2Proof

def flagIf (b : Bool) (f : Flags) : Flags := if b then f else 0#6

/-- The flags of several elements or lanes together (R303). -/
def joinFlags (l : List Flags) : Flags := l.foldl (· ||| ·) 0#6

/-- NV of an operation: it is invalid, or a source is a signalling NaN (R300). -/
def nvFlags (invalid : Bool) (srcs : List FVal) : Flags := flagIf (invalid || srcs.any FVal.isSNaN) flNV

/-- A value from E elements, each computed with its flags (R339, R358). -/
def mapElems (f : Fmt) (g : Nat → Nat × Flags) : Nat × Flags :=
  let es := (List.range f.elems).map g
  (packElems f.width (es.map Prod.fst), joinFlags (es.map Prod.snd))

end Sys2Proof.Machine
end

