-- ==== Sys2Proof/Machine/Vec.lean ====
section
/-! DEFINITION. How a vector instruction runs (R338, R339): the checks at issue, each lane's result,
and what lands. -/

namespace Sys2Proof.Machine

open Sys2Proof

/-- What one lane computes: the value for D, the flags it raises, and a predicate. -/
structure LaneOut where
  val : Nat := 0
  flags : Flags := 0#6
  pred : Option Bool := none
  /-- the lane writes D: a VPERM to which no lane sends keeps its value (R376) -/
  wr : Bool := true
  deriving DecidableEq, Repr

/-- What a lane's computation may use: the context, the crew, the pass, the lane, its three source
values, and a source of another lane by its position. -/
structure LaneIn where
  c : Ctx
  p : Pass
  l : Nat
  a : Nat
  b : Nat
  z : Nat
  /-- the value of operand A in another lane -/
  aOf : Nat → Nat
  /-- the value of operand B in another lane -/
  bOf : Nat → Nat
  /-- the lanes of the whole bundle in which the slot acts -/
  all : List Nat

/-- The predicate k in the lane, as the pass reads it. -/
def LaneIn.pred (x : LaneIn) (k : Nat) : Bool := readP x.c.tm x.c.fr x.p.start k x.l

/-- The source at a position 1, 2 or 3, in a lane; 0 for a position that is not used. -/
def vecSource (c : Ctx) (cr : Crew) (p : Pass) (srcs : List (Nat × Nat × Fmt × Bool)) (pos l : Nat) : Nat :=
  match srcs.find? (fun q => q.1 == pos) with
  | some q => c.source cr p q.2.2.1 q.2.2.2 q.2.1 l
  | none => 0

/-- The first fault that the slot raises at issue (R328). -/
def vecFault (c : Ctx) (cr : Crew) (i : Instr) (sp : VSpec) : Option FaultInfo :=
  let f := vFieldsOf i
  let pair := f.fmt == .int64
  let regs := if pair then 2 else 1
  let dst : List (Bool × FaultCode) :=
    if sp.useD && !f.lat then
      [(c.vregIs f.d.toNat regs pair .illegalOperand, .illegalOperand),
       (c.vregIs f.d.toNat regs pair .regBounds, .regBounds)]
    else []
  mergeFaults (dst :: (vSources f sp).map (fun q =>
    c.sourceFaults cr q.2.1 q.2.2.1 q.2.2.2 (evenSource f q) sp.checked))

/-- The lanes of a pass with what each computes. -/
def vecLanes (c : Ctx) (cr : Crew) (i : Instr) (sp : VSpec) (op : LaneIn → LaneOut) (all : List Nat)
    (p : Pass) : List (Nat × LaneOut) :=
  let src := vecSource c cr p (vSources (vFieldsOf i) sp)
  p.lanes.map (fun l =>
    (l, op { c := c, p := p, l := l, a := src 1 l, b := src 2 l, z := src 3 l
             aOf := src 1, bOf := src 2, all := all }))

/-- The results of one pass: the register or S register named by D, and a predicate. -/
def vecResults (c : Ctx) (cr : Crew) (i : Instr) (sp : VSpec) (tag : Fmt) (pd : Nat)
    (op : LaneIn → LaneOut) (all : List Nat) (lowest : Bool) (p : Pass) : List PendRes :=
  let f := vFieldsOf i
  let outs := vecLanes c cr i sp op all p
  let flags := joinFlags (outs.map (fun o => o.2.flags))
  let vals := (outs.filter (fun o => o.2.wr)).map (fun o => (o.1, BitVec.ofNat 64 o.2.val))
  let first := lowest && (outs.head?.map (fun o => o.2.wr)).getD false
  let d : List PendRes :=
    if sp.useD then
      vResult c p f.d.toNat (f.fmt == .int64) f.lat first (some tag) sp.lat vals flags .v (some .bv)
    else []
  d ++ pResult p pd sp.lat (outs.filterMap (fun o => o.2.pred.map (fun b => (o.1, b)))) .v

/-- The passes of an instruction that reads across lanes: sources are read at the first pass, and every
result lands from the last (R372). -/
def acrossPasses (ps : List Pass) : List Pass :=
  let first := ((ps.head?).map Pass.start).getD 0
  let last := ((ps.getLast?).map Pass.base).getD 0
  ps.map (fun p => { p with start := first, base := last })

/-- The state after a vector instruction that raises no fault. -/
def vecNext (s : State) (c : Ctx) (i : Instr) (sp : VSpec) (tag : Fmt) (pd : Nat) (across : Bool)
    (op : LaneIn → LaneOut) : State :=
  let cr := c.crew s
  let ps := if across then acrossPasses c.vPasses else c.vPasses
  let low := firstPass ps
  let rs := ps.flatMap (fun p => vecResults c cr i sp tag pd op (passLanes ps) (low == some p) p)
  (popPorts (s.land c.t rs) c.t ((vSources (vFieldsOf i) sp).map (fun q => q.2.1))).bump

/-- A vector instruction with a tag that the issue decides and a predicate result. -/
def vecRun (s : State) (i : Instr) (tagOf : Ctx → Crew → VSpec → Fmt) (pd : Nat) (across : Bool)
    (op : LaneIn → LaneOut) : Host.Outcome State Fault Refusal :=
  runSlot s .v (fun c =>
    match vSpec c.width i with
    | none => .ok s
    | some sp =>
      if idle c.vPasses then .ok s
      else
        match vecFault c (c.crew s) i sp with
        | some e => .error e
        | none => .ok (vecNext s c i sp (tagOf c (c.crew s) sp) pd across op))

def rowTag (_ : Ctx) (_ : Crew) (sp : VSpec) : Fmt := sp.tag

/-- A vector instruction that writes D with the tag of its row. -/
def vecOp (s : State) (i : Instr) (op : LaneIn → LaneOut) : Host.Outcome State Fault Refusal :=
  vecRun s i rowTag 0 false op

/-- A vector instruction that writes D with the tag of its row and the predicate pd. -/
def vecOpP (s : State) (i : Instr) (pd : Nat) (op : LaneIn → LaneOut) : Host.Outcome State Fault Refusal :=
  vecRun s i rowTag pd false op

def outOf (r : Nat × Flags) : LaneOut := { val := r.1, flags := r.2 }

end Sys2Proof.Machine
end

