-- ==== Sys2Proof/Machine/VecLogic.lean ====
section
/-! DEFINITION. Logic, bit manipulation, integer compare, select, classify and move (R347-R356). -/

namespace Sys2Proof.Machine

open Sys2Proof

/-- The bits on which whole-word logic acts: 32, or 64 under INT64 (R347). -/
def logicBits (f : VFields) : Nat := srcBits f.fmt

def allOnes (w : Nat) : Nat := 2 ^ w - 1

def notBits (w x : Nat) : Nat := allOnes w - x % 2 ^ w

/-- A function of the whole word. -/
def wordOp (op : Nat → Nat → Nat → Nat) (x : LaneIn) : LaneOut := { val := op x.a x.b x.z }

/-- VAND (R347). -/
def execVand (f : VFields) (s : State) : Host.Outcome State Fault Refusal :=
  vecOp s (.vand f) (wordOp (fun a b _ => a &&& b))

/-- VOR (R347). -/
def execVor (f : VFields) (s : State) : Host.Outcome State Fault Refusal :=
  vecOp s (.vor f) (wordOp (fun a b _ => a ||| b))

/-- VXOR (R347). -/
def execVxor (f : VFields) (s : State) : Host.Outcome State Fault Refusal :=
  vecOp s (.vxor f) (wordOp (fun a b _ => a ^^^ b))

/-- VANDN (R347). -/
def execVandn (f : VFields) (s : State) : Host.Outcome State Fault Refusal :=
  vecOp s (.vandn f) (wordOp (fun a b _ => a &&& notBits (logicBits f) b))

/-- VNOT (R347). -/
def execVnot (f : VFields) (s : State) : Host.Outcome State Fault Refusal :=
  vecOp s (.vnot f) (wordOp (fun a _ _ => notBits (logicBits f) a))

/-- A function of each element's bits (R348, R350). -/
def bitElems (f : VFields) (op : Nat → Nat → Nat → Nat) (x : LaneIn) : LaneOut :=
  outOf (mapElems f.fmt (fun i => (op f.fmt.width (elemAt f.fmt x.a i) (elemAt f.fmt x.b i), 0#6)))

def shl (w x n : Nat) : Nat := if w ≤ n then 0 else x * 2 ^ n % 2 ^ w

def shr (w x n : Nat) : Nat := if w ≤ n then 0 else x / 2 ^ n

def sar (w x n : Nat) : Nat :=
  if bitAt x (w - 1) then
    (if w ≤ n then allOnes w else x / 2 ^ n + (2 ^ w - 2 ^ (w - n)))
  else shr w x n

def rot (w x n : Nat) : Nat :=
  let k := n % w
  (x * 2 ^ k + x / 2 ^ (w - k)) % 2 ^ w

/-- VSHL (R348). -/
def execVshl (f : VFields) (s : State) : Host.Outcome State Fault Refusal :=
  vecOp s (.vshl f) (bitElems f shl)

/-- VSHR (R348). -/
def execVshr (f : VFields) (s : State) : Host.Outcome State Fault Refusal :=
  vecOp s (.vshr f) (bitElems f shr)

/-- VSAR (R348). -/
def execVsar (f : VFields) (s : State) : Host.Outcome State Fault Refusal :=
  vecOp s (.vsar f) (bitElems f sar)

/-- VROT (R348). -/
def execVrot (f : VFields) (s : State) : Host.Outcome State Fault Refusal :=
  vecOp s (.vrot f) (bitElems f rot)

/-- Position and used length of a field (R349). -/
def fieldPos (b : Nat) : Nat := fld b 0 5

def fieldLen (b : Nat) : Nat := min (fld b 8 6) (32 - fieldPos b)

/-- VBFX (R349). -/
def execVbfx (f : VFields) (s : State) : Host.Outcome State Fault Refusal :=
  vecOp s (.vbfx f) (wordOp (fun a b _ =>
    let m := fieldLen b
    let v := fld a (fieldPos b) m
    if f.fmt == .int32 && m != 0 && bitAt v (m - 1) then v + (2 ^ 32 - 2 ^ m) else v))

/-- VBFI (R349). -/
def execVbfi (f : VFields) (s : State) : Host.Outcome State Fault Refusal :=
  vecOp s (.vbfi f) (wordOp (fun a b z =>
    let mask := allOnes (fieldLen b) * 2 ^ fieldPos b
    (z &&& notBits 32 mask) ||| ((a * 2 ^ fieldPos b) &&& mask)))

/-- The number of 1 bits below w. -/
def popCount (w x : Nat) : Nat := (bitsBelow w x).length

/-- Leading zeros of an element (R350). -/
def leadingZeros (w x : Nat) : Nat := if x % 2 ^ w == 0 then w else w - 1 - Nat.log2 (x % 2 ^ w)

def bitReverse (w x : Nat) : Nat := (bitsBelow w x).foldl (fun r j => r + 2 ^ (w - 1 - j)) 0

/-- VPOPC (R350). -/
def execVpopc (f : VFields) (s : State) : Host.Outcome State Fault Refusal :=
  vecOp s (.vpopc f) (bitElems f (fun w x _ => popCount w x))

/-- VCLZ (R350). -/
def execVclz (f : VFields) (s : State) : Host.Outcome State Fault Refusal :=
  vecOp s (.vclz f) (bitElems f (fun w x _ => leadingZeros w x))

/-- VBREV (R350). -/
def execVbrev (f : VFields) (s : State) : Host.Outcome State Fault Refusal :=
  vecOp s (.vbrev f) (bitElems f (fun w x _ => bitReverse w x))

/-- Any function of three bits, at every position (R351). -/
def lop3 (w tt a b z : Nat) : Nat :=
  (List.range w).foldl (fun r j =>
    if bitAt tt (fld a j 1 * 4 + fld b j 1 * 2 + fld z j 1) then r + 2 ^ j else r) 0

/-- VLOP3 (R351). -/
def execVlop3 (f : VFields) (s : State) : Host.Outcome State Fault Refusal :=
  vecOp s (.vlop3 f) (wordOp (lop3 (logicBits f) f.aux.toNat))

/-- An element mask and the lane's predicate: any element, or every one (R352). -/
def compareOut (fmt : Fmt) (any : Bool) (h : Nat → Bool) (flags : Flags) : LaneOut :=
  let es := (List.range fmt.elems).map h
  { val := packElems fmt.width (es.map (fun b => if b then allOnes fmt.width else 0))
    flags := flags
    pred := some (if any then es.any (· == true) else es.all (· == true)) }

/-- The integer conditions (R352). -/
def intCond (cond : Nat) (x y : Int) (ex ey : Nat) : Bool :=
  match cond with
  | 0 => x == y
  | 1 => x != y
  | 2 => decide (x < y)
  | 3 => decide (x ≤ y)
  | 4 => decide (y < x)
  | 5 => decide (y ≤ x)
  | _ => ex &&& ey != 0

/-- VCMP (R352): AUX [3:0] Pd, [6:4] COND, [7] ANY. -/
def execVcmp (f : VFields) (s : State) : Host.Outcome State Fault Refusal :=
  vecOpP s (.vcmp f) (fld f.aux.toNat 0 4) (fun x =>
    compareOut f.fmt (bitAt f.aux.toNat 7) (fun i =>
      let ex := elemAt f.fmt x.a i
      let ey := elemAt f.fmt x.b i
      intCond (fld f.aux.toNat 4 3) (intVal f.fmt ex) (intVal f.fmt ey) ex ey) 0#6)

/-- The tag of a select: A's, else B's, else FMT (R353). -/
def selTag (f : VFields) (c : Ctx) (cr : Crew) (_ : VSpec) : Fmt :=
  match c.tagOf cr f.a.toNat, c.tagOf cr f.b.toNat with
  | some t, _ => t
  | none, some t => t
  | none, none => f.fmt

/-- VSEL (R353): AUX [3:0] Ps, [4] NEG. -/
def execVsel (f : VFields) (s : State) : Host.Outcome State Fault Refusal :=
  vecRun s (.vsel f) (selTag f) 0 false (fun x =>
    { val := if x.pred (fld f.aux.toNat 0 4) != bitAt f.aux.toNat 4 then x.a else x.b })

/-- The class of an element (R356). -/
def classOf (f : Fmt) (v : FVal) : Nat :=
  match v with
  | .nan s => if s then 0 else 1
  | .inf s => if s then 2 else 9
  | .fin s m _ =>
    if m == 0 then (if s then 5 else 6)
    else if v.isSubnormal f then (if s then 4 else 7)
    else if s then 3 else 8

/-- A floating-point source element prepared: flushed, made absolute, negated (R358). -/
def prepF (f : VFields) (fmt : Fmt) (neg : Nat) (e : Nat) : FVal :=
  let v := flushIn f.fzi fmt (decodeF fmt e)
  let v := if bitAt f.mod.toNat 3 then v.abs else v
  if bitAt f.mod.toNat neg then v.neg else v

/-- VFCLASS (R356). -/
def execVfclass (f : VFields) (s : State) : Host.Outcome State Fault Refusal :=
  vecOp s (.vfclass f) (fun x =>
    outOf (mapElems f.fmt (fun i => (classOf f.fmt (prepF f f.fmt 0 (elemAt f.fmt x.a i)), 0#6))))

/-- The tag of a move: A's, else FMT (R354). -/
def movTag (f : VFields) (c : Ctx) (cr : Crew) (_ : VSpec) : Fmt := (c.tagOf cr f.a.toNat).getD f.fmt

/-- VMOV (R354). -/
def execVmov (f : VFields) (s : State) : Host.Outcome State Fault Refusal :=
  vecRun s (.vmov f) (movTag f) 0 false (fun x => { val := x.a })

/-- VMOVP (R355): a predicate to D, or A to a predicate. -/
def execVmovp (f : VFields) (s : State) : Host.Outcome State Fault Refusal :=
  let k := fld f.aux.toNat 0 4
  if bitAt f.aux.toNat 4 then
    vecOpP s (.vmovp f) k (fun x => { pred := some (x.a % 2 ^ 32 != 0) })
  else vecOp s (.vmovp f) (fun x => { val := if x.pred k then 1 else 0 })

end Sys2Proof.Machine
end

