-- ==== Sys2Proof/Machine/VecFloat.lean ====
section
/-! DEFINITION. Floating-point arithmetic, compare and dot products (R357-R361). -/

namespace Sys2Proof.Machine

open Sys2Proof

/-- One rounding into FMT, with the flags of R303. -/
def roundF (f : VFields) (r : FVal × Bool) (srcs : List FVal) : Nat × Flags :=
  let q := encodeF f.fmt f.rnd f.fzo f.sat r.1
  (q.1, q.2 ||| nvFlags r.2 srcs)

/-- A floating-point operation per element (R358, R359). -/
def floatElems (f : VFields) (op : FVal → FVal → FVal → FVal × Bool) (useC : Bool) (x : LaneIn) : LaneOut :=
  outOf (mapElems f.fmt (fun i =>
    let a := prepF f f.fmt 0 (elemAt f.fmt x.a i)
    let b := prepF f f.fmt 1 (elemAt f.fmt x.b i)
    let z := prepF f f.fmt 2 (elemAt f.fmt x.z i)
    roundF f (op a b z) (if useC then [a, b, z] else [a, b])))

/-- VFADD (R359). -/
def execVfadd (f : VFields) (s : State) : Host.Outcome State Fault Refusal :=
  vecOp s (.vfadd f) (floatElems f (fun a b _ => addV f.rnd a b) false)

/-- VFSUB (R359). -/
def execVfsub (f : VFields) (s : State) : Host.Outcome State Fault Refusal :=
  vecOp s (.vfsub f) (floatElems f (fun a b _ => addV f.rnd a b.neg) false)

/-- VFMUL (R359). -/
def execVfmul (f : VFields) (s : State) : Host.Outcome State Fault Refusal :=
  vecOp s (.vfmul f) (floatElems f (fun a b _ => mulV a b) false)

/-- VFMA (R359). -/
def execVfma (f : VFields) (s : State) : Host.Outcome State Fault Refusal :=
  vecOp s (.vfma f) (floatElems f (fun a b z => fmaV f.rnd a b z) true)

/-- VFMIN (R359). -/
def execVfmin (f : VFields) (s : State) : Host.Outcome State Fault Refusal :=
  vecOp s (.vfmin f) (floatElems f (fun a b _ => (minV a b, false)) false)

/-- VFMAX (R359). -/
def execVfmax (f : VFields) (s : State) : Host.Outcome State Fault Refusal :=
  vecOp s (.vfmax f) (floatElems f (fun a b _ => (maxV a b, false)) false)

/-- The floating-point conditions (R360). -/
def floatCond (cond : Nat) (a b : FVal) : Bool :=
  let un := a.isNaN || b.isNaN
  let lt (x y : FVal) : Bool := ltV x y && !eqV x y
  match cond with
  | 0 => !un && eqV a b
  | 1 => un || !eqV a b
  | 2 => !un && lt a b
  | 3 => !un && (lt a b || eqV a b)
  | 4 => !un && lt b a
  | 5 => !un && (lt b a || eqV a b)
  | 6 => un
  | _ => !un

/-- NV of a compare: any NaN under an ordering condition, else a signalling one (R360). -/
def compareNV (cond : Nat) (a b : FVal) : Flags :=
  nvFlags (decide (2 ≤ cond ∧ cond ≤ 5) && (a.isNaN || b.isNaN)) [a, b]

/-- VFCMP (R360). -/
def execVfcmp (f : VFields) (s : State) : Host.Outcome State Fault Refusal :=
  vecOpP s (.vfcmp f) (fld f.aux.toNat 0 4) (fun x =>
    let cond := fld f.aux.toNat 4 3
    let a (i : Nat) := prepF f f.fmt 0 (elemAt f.fmt x.a i)
    let b (i : Nat) := prepF f f.fmt 1 (elemAt f.fmt x.b i)
    compareOut f.fmt (bitAt f.aux.toNat 7) (fun i => floatCond cond (a i) (b i))
      (joinFlags ((List.range f.fmt.elems).map (fun i => compareNV cond (a i) (b i)))))

/-- The exact sum of C and the products, with the invalid cases judged over all terms (R361). A zero
sum takes its sign from the zero rule of R359, term by term (log 9). -/
def dotSum (rnd : Rnd) (z : FVal) (ps : List (FVal × Bool)) : FVal × Bool :=
  let terms := z :: ps.map Prod.fst
  let invalid := ps.any Prod.snd || (terms.any (· == .inf false) && terms.any (· == .inf true))
  if invalid || terms.any FVal.isNaN then (.nan false, invalid)
  else ((ps.map Prod.fst).foldl (fun t p => (addV rnd t p).1) z, false)

/-- A dot product of n elements into FP32 (R361). -/
def floatDot (f : VFields) (fb : Fmt) (n : Nat) (x : LaneIn) : LaneOut :=
  let as := (List.range n).map (fun i => prepF f f.fmt 0 (elemAt f.fmt x.a i))
  let bs := (List.range n).map (fun i => prepF f fb 1 (elemAt fb x.b i))
  let z := prepF f .fp32 2 x.z
  outOf (roundF { f with fmt := .fp32 } (dotSum f.rnd z (List.zipWith mulV as bs)) (z :: (as ++ bs)))

/-- VFDOT2 (R361). -/
def execVfdot2 (f : VFields) (s : State) : Host.Outcome State Fault Refusal :=
  vecOp s (.vfdot2 f) (floatDot f f.fmt 2)

/-- VFDOT4 (R361). -/
def execVfdot4 (f : VFields) (s : State) : Host.Outcome State Fault Refusal :=
  vecOp s (.vfdot4 f) (floatDot f (fmtXB f) 4)

end Sys2Proof.Machine
end

