-- ==== Sys2Proof/Machine/VecInt.lean ====
section
/-! DEFINITION. Integer arithmetic of the vector slot (R343-R346). -/

namespace Sys2Proof.Machine

open Sys2Proof

/-- One exact integer operation per element, wrapped or clamped (R302, R344). -/
def intElems (f : VFields) (op : Int → Int → Int → Int) (x : LaneIn) : LaneOut :=
  let v (w i : Nat) : Int := intVal f.fmt (elemAt f.fmt w i)
  outOf (mapElems f.fmt (fun i => intInto f.fmt f.sat (op (v x.a i) (v x.b i) (v x.z i))))

/-- VADD (R344). -/
def execVadd (f : VFields) (s : State) : Host.Outcome State Fault Refusal :=
  vecOp s (.vadd f) (intElems f (fun x y _ => x + y))

/-- VSUB (R344). -/
def execVsub (f : VFields) (s : State) : Host.Outcome State Fault Refusal :=
  vecOp s (.vsub f) (intElems f (fun x y _ => x - y))

/-- VMUL (R344). -/
def execVmul (f : VFields) (s : State) : Host.Outcome State Fault Refusal :=
  vecOp s (.vmul f) (intElems f (fun x y _ => x * y))

/-- VMULH (R344): the upper w bits of the exact product. -/
def execVmulh (f : VFields) (s : State) : Host.Outcome State Fault Refusal :=
  vecOp s (.vmulh f) (intElems f (fun x y _ => x * y / (2 ^ f.fmt.width : Nat)))

/-- VMAD (R344). -/
def execVmad (f : VFields) (s : State) : Host.Outcome State Fault Refusal :=
  vecOp s (.vmad f) (intElems f (fun x y z => x * y + z))

/-- VMIN (R344). -/
def execVmin (f : VFields) (s : State) : Host.Outcome State Fault Refusal :=
  vecOp s (.vmin f) (intElems f (fun x y _ => min x y))

/-- VMAX (R344). -/
def execVmax (f : VFields) (s : State) : Host.Outcome State Fault Refusal :=
  vecOp s (.vmax f) (intElems f (fun x y _ => max x y))

/-- VABSD (R344). -/
def execVabsd (f : VFields) (s : State) : Host.Outcome State Fault Refusal :=
  vecOp s (.vabsd f) (intElems f (fun x y _ => ((x - y).natAbs : Int)))

/-- The carry-in of VADDC and VSUBB (R345). -/
def carryIn (f : VFields) (x : LaneIn) : Nat :=
  let k := fld f.aux.toNat 0 4
  if k != 0 && x.pred k then 1 else 0

/-- VADDC (R345): AUX [3:0] names the carry in, [7:4] the carry out. -/
def execVaddc (f : VFields) (s : State) : Host.Outcome State Fault Refusal :=
  vecOpP s (.vaddc f) (fld f.aux.toNat 4 4) (fun x =>
    let t := x.a + x.b + carryIn f x
    { val := t % 2 ^ 32, pred := some (decide (2 ^ 32 ≤ t)) })

/-- VSUBB (R345). -/
def execVsubb (f : VFields) (s : State) : Host.Outcome State Fault Refusal :=
  vecOpP s (.vsubb f) (fld f.aux.toNat 4 4) (fun x =>
    let t : Int := (x.a : Int) - x.b - carryIn f x
    { val := wrapBits 32 t, pred := some (decide (t < 0)) })

/-- The sum of products of VDOT4, exact (R346). -/
def dot4 (f : VFields) (x : LaneIn) : Int :=
  let fb := fmtXB f
  (List.range 4).foldl (fun t i =>
    t + intVal f.fmt (elemAt f.fmt x.a i) * intVal fb (elemAt fb x.b i)) (intVal .int32 x.z)

/-- VDOT4 (R346). -/
def execVdot4 (f : VFields) (s : State) : Host.Outcome State Fault Refusal :=
  vecOp s (.vdot4 f) (fun x => outOf (intInto .int32 f.sat (dot4 f x)))

end Sys2Proof.Machine
end

