-- ==== Sys2Proof/Machine/Lining.lean ====
section
/-! DEFINITION. Lining duplicates and LCMP (R260, R261, R441-R443, R471). -/

namespace Sys2Proof.Machine

open Sys2Proof

/-- The format of a class (R441). -/
def liningFloat (cls : BitVec 2) : Fmt := if cls == 0 then .fp32 else if cls == 1 then .bf16 else .fp16
def liningInt (cls : BitVec 2) : Fmt := if cls == 0 then .int32 else if cls == 1 then .int16 else .int8

/-- The vector fields of a duplicate's counterpart: RNE, no flush, no saturation, no modifier (R442). -/
def liningFields (fmt : Fmt) : VFields :=
  { d := 0#11, a := 0#11, b := 0#11, c := 0#11, fmt := fmt, rnd := .rne, fzi := false, fzo := false
    sat := false, keep := 0#2, lat := false, mod := 0#4, aux := 0#8 }

/-- A floating-point operation on the elements of 32 bits (R358, R359). -/
def liningElems (fmt : Fmt) (op : FVal → FVal → FVal → FVal × Bool) (x y z : Nat) : Nat :=
  (mapElems fmt (fun i =>
    let v (w : Nat) : FVal := decodeF fmt (elemAt fmt w i)
    roundF (liningFields fmt) (op (v x) (v y) (v z)) [])).1

/-- An integer operation on the elements of 32 bits, wrapping (R344). -/
def liningInts (fmt : Fmt) (op : Int → Int → Int) (x y : Nat) : Nat :=
  (mapElems fmt (fun i =>
    intInto fmt false (op (intVal fmt (elemAt fmt x i)) (intVal fmt (elemAt fmt y i))))).1

/-- The registers that a duplicate names: D, A, B, and C where it is used. -/
def liningRegs (f : LFields) (useC : Bool) : List Nat :=
  [f.d.toNat, f.a.toNat, f.b.toNat] ++ (if useC then [f.c.toNat] else [])

/-- A duplicate (R260, R442, R443): each pass computes on the shadow registers and writes one. -/
def liningRun (s : State) (f : LFields) (useC : Bool) (latency : Nat) (op : Nat → Nat → Nat → Nat) :
    Host.Outcome State Fault Refusal :=
  runSlot s .x (fun c =>
    let base := c.tm.lineBase
    if !(c.tk s).lining || idle c.xPasses then .ok s
    else if (liningRegs f useC).any (fun r => decide (c.tm.nregs ≤ r + base)) then .error (flt .regBounds)
    else
      let rd (p : Pass) (r l : Nat) : Nat := readV c.tm c.fr p.start (r + base) l
      let rs : List PendRes := c.xPasses.filterMap (fun p =>
        if p.lanes.isEmpty then none
        else some { due := p.base + latency, from_ := p.start, dest := .vreg (f.d.toNat + base), word := p.w
                    vals := p.lanes.map (fun l => (l, BitVec.ofNat 64
                      (op (rd p f.a.toNat l) (rd p f.b.toNat l) (rd p f.c.toNat l))))
                    latch := some .bx, slot := .x })
      .ok (s.land c.t rs).bump)

/-- LFMA (R441, R442). -/
def execLfma (f : LFields) (s : State) : Host.Outcome State Fault Refusal :=
  liningRun s f true 5 (liningElems (liningFloat f.cls) (fun a b z => fmaV .rne a b z))

/-- LADD (R441, R442). -/
def execLadd (f : LFields) (s : State) : Host.Outcome State Fault Refusal :=
  liningRun s f false 5 (liningElems (liningFloat f.cls) (fun a b _ => addV .rne a b))

/-- LMUL (R441, R442). -/
def execLmul (f : LFields) (s : State) : Host.Outcome State Fault Refusal :=
  liningRun s f false 5 (liningElems (liningFloat f.cls) (fun a b _ => mulV a b))

/-- LIADD (R441, R442). -/
def execLiadd (f : LFields) (s : State) : Host.Outcome State Fault Refusal :=
  liningRun s f false 3 (fun x y _ => liningInts (liningInt f.cls) (fun a b => a + b) x y)

/-- LIMUL (R441, R442). -/
def execLimul (f : LFields) (s : State) : Host.Outcome State Fault Refusal :=
  liningRun s f false 4 (fun x y _ => liningInts (liningInt f.cls) (fun a b => a * b) x y)

/-- The logic operation of a class (R441, R347). -/
def liningLogic (cls : BitVec 2) (x y : Nat) : Nat :=
  if cls == 0 then x &&& y
  else if cls == 1 then x ||| y
  else if cls == 2 then x ^^^ y
  else x &&& (y ^^^ 0xFFFFFFFF)

/-- LLOGIC (R441, R442). -/
def execLlogic (f : LFields) (s : State) : Host.Outcome State Fault Refusal :=
  liningRun s f false 3 (fun x y _ => liningLogic f.cls x y)

/-- LCMP (R261, R471): the lowest active lane in which a register and its shadow differ. -/
def execLcmp (v : BitVec 11) (s : State) : Host.Outcome State Fault Refusal :=
  runControl s (fun c =>
    let k := v.toNat
    let base := c.tm.lineBase
    if !(c.tk s).lining then .ok s
    else if c.tm.nregs ≤ k + base then .error (flt .regBounds)
    else
      match (maskLanes c.pa.active).find? (fun l =>
        readV c.tm c.fr c.cyc k l != readV c.tm c.fr c.cyc (k + base) l) with
      | some l => .error { code := .liningMismatch, lane := l }
      | none => .ok s.bump)

end Sys2Proof.Machine
end

