-- ==== Sys2Proof/Machine/TaskOps.lean ====
section
/-! DEFINITION. SPAWN, WAITHEM, SIGNAL, TRAP and BKPT (R464-R467, R267, R169, R181). -/

namespace Sys2Proof.Machine

open Sys2Proof

/-- SPAWN (R464): the request goes out; the child is created by another step, once the path's accesses before it are
performed. -/
def execSpawn (k : BitVec 4) (a b : BitVec 7) (s : State) : Host.Outcome State Fault Refusal :=
  runControl s (fun c =>
    let s := flagIssue s c.t (some k.toNat)
    .ok (issueOp s.bump c.t c.p
      (.spawn c.t c.p (BitVec.ofNat 64 (c.sreg a.toNat)) (BitVec.ofNat 64 (c.sreg b.toNat)) k.toNat c.pc s.now none)))

/-- WAITHEM (R465, R169). -/
def execWaithem (a : BitVec 7) (s : State) : Host.Outcome State Fault Refusal :=
  runControl s (fun c =>
    let ok := decide (c.sreg a.toNat ≤ (hem s (c.tk s).fn).toNat)
    .ok (if ok then s else holdPath s c 21).bump)

/-- The writes of a path that are not performed. -/
def pathWrites (s : State) (t p : Nat) : List Nat :=
  (pathAccesses s t p).filter (fun i => match Tab.find s.accesses i with
    | some a => a.kind.writes | none => false)

/-- SIGNAL (R466): the bundle issues and the path is held; the add is made at the frontier, once the
path's earlier writes are performed. -/
def execSignal (a b : BitVec 7) (s : State) : Host.Outcome State Fault Refusal :=
  runControl s (fun c =>
    let s := (clampScope s c.t 5).1
    let id := s.nextId
    let op : PendOp := .signal c.t c.p (BitVec.ofNat 64 (c.sreg a.toNat)) (BitVec.ofNat 64 (c.sreg b.toNat))
      (pathWrites s c.t c.p) false
    .ok ((issueOp s.bump c.t c.p op).modPath c.t c.p (fun pa => { pa with heldBy := some id, stall := 21 })))

/-- TRAP (R467). -/
def execTrap (n : BitVec 8) (s : State) : Host.Outcome State Fault Refusal :=
  runControl s (fun _ => .error { code := .softwareTrap, addr := n.toNat })

/-- BKPT (R267): the path stops after its bundle when breakpoints are enabled and the task is debugged. -/
def execBkpt (s : State) : Host.Outcome State Fault Refusal :=
  runControl s (fun c =>
    let k := c.tk s
    if (s.func k.fn).bpEn && debugEnabled s k then .ok (stopLater s c.t c.p 0x0D 0) else .ok s)

end Sys2Proof.Machine
end

