-- ==== Sys2Proof/Machine/Waits.lean ====
section
/-! DEFINITION. What the completion of a flag waits for, as samples show it (R28, R172, R181, R182, R409, R460), and
WAITF. -/

namespace Sys2Proof.Machine

open Sys2Proof

/-- The operations of a team that a flag awaits, with their numbers. -/
def flagOps (s : State) (t k : Nat) : List (Nat × PendOp) :=
  s.ops.filter (fun o => match o.2 with
    | .acq t' _ _ _ _ _ f _ | .spawn t' _ _ _ f _ _ _ | .lvreq t' _ f _ => t' == t && f == k
    | .rel t' _ _ _ _ f _ _ | .coll t' _ _ f _ _ _ _ => t' == t && f == some k
    | _ => false)

/-- The copies at the heads of their channels that it awaits. -/
def flagCopies (s : State) (t k : Nat) : List (Nat × CopyCmd) :=
  (s.crew (s.team t).crew).chans.filterMap (fun ch => match ch.2.queue with
    | q :: _ => if q.team == t && q.flag == some k then some (ch.1, q) else none
    | [] => none)

/-- The matrix commands that it awaits and that have not started. -/
def flagMx (s : State) (t k : Nat) : List MxCmd :=
  (s.core (s.crew (s.team t).crew).core).matrix.filter (fun m => m.team == t && m.flag == some k && m.start.isNone)

/-- A command awaits leave (R28). -/
def awaitsLeave (s : State) (t k : Nat) : Bool :=
  let cr := s.crew (s.team t).crew
  (flagOps s t k).any (fun o => match o.2 with
      | .lvreq _ _ _ _ => true
      | .coll _ _ _ _ _ _ none none => !hasLeave s cr.core (collEngine (dieOf cr.core)) collCost
      | _ => false)
    || (flagCopies s t k).any (fun h => !copyLeave s cr.core (s.team t).crew h.1 h.2)
    || (flagMx s t k).any (fun m => m.isMma && !hasLeave s cr.core (mxEngine cr.core) (mxCost m.fmtA.width))

/-- The granules that the next unit of a copy reads under tracking (R171). -/
def copyNextReads (s : State) (core : Nat) (q : CopyCmd) : List Nat :=
  let es := unitElems q (copyLen s q) (copyBits s q)
  let of (tid : Nat) (req : Req) (es : List Nat) : List Nat :=
    match descOf s (s.team q.team).task tid with
    | some d => if untracked d then []
      else (copyUnits s q core tid d req es []).flatMap (fun u => (u.addr.map (fun a => unitsOf 64 a u.bytes)).getD [])
    | none => []
  let fn := (s.task (s.team q.team).task).fn
  if !q.started then []
  else (if q.srcGlobal && q.buf.isNone then of q.tids { versioned := q.atom } (if q.atom then List.range q.count else es) else [])
    ++ (if q.kind == 3 && q.dstGlobal then of q.tidd { write := true } es else [])
    ++ (atomTiles s core q).flatMap (fun e => unitsOf 64 (versionFlat s fn e) 8)

/-- What an operation or a command that the flag awaits reads was written by an older cohort that has not committed
(R172). -/
def awaitsOlder (s : State) (t k : Nat) : Bool :=
  let tk := s.task (s.team t).task
  let core := (s.crew (s.team t).crew).core
  let older (gs : List Nat) : Bool := olderWrote s tk.fn tk.ts gs
  let reads (a : Access) : Bool := a.tracked && a.kind.reads
  s.accesses.any (fun a => a.2.team == t && a.2.flag == some k && reads a.2
      && a.2.todo.any (fun u => u.addr.any (fun x => older (unitsOf 64 x u.bytes))))
    || (flagOps s t k).any (fun o => match o.2 with
      | .acq _ _ _ soba _ _ _ _ | .rel _ _ _ soba _ _ _ _ => older (unitsOf 64 (flatOf s tk.fn soba) 8)
      | .spawn _ _ templ _ _ _ _ _ => older (unitsOf 64 (flatOf s tk.fn templ.toNat) 128)
      | _ => false)
    || (flagCopies s t k).any (fun h => older (copyNextReads s core h.2))
    || (flagMx s t k).any (fun m => older (mxTouches s core m).granules)

/-- One of them waits for a speculation entry (R182). -/
def awaitsEntry (s : State) (t k : Nat) : Bool :=
  let full (id : Nat) : Bool := (Tab.find s.fulls id).isSome
  s.accesses.any (fun a => a.2.team == t && a.2.flag == some k && a.2.fullSince.isSome)
    || (flagOps s t k).any (fun o => full o.1) || (flagCopies s t k).any (fun h => full h.2.id)
    || (flagMx s t k).any (fun m => full m.id)

/-- One of them waits for the frontier (R181). -/
def awaitsFrontier (s : State) (t k : Nat) : Bool :=
  s.accesses.any (fun a => a.2.team == t && a.2.flag == some k && a.2.irrevocable)
    || (!mayIrrevocable s (s.task (s.team t).task)
      && ((flagOps s t k).any (fun o => match o.2 with | .coll _ _ _ _ _ _ none none => true | _ => false)
        || (flagCopies s t k).any (fun h => !h.2.started && copyIrrevocable s h.2)))

/-- What the completion of a flag waits for, as samples show it: leave, an older cohort, an entry, an ACQ, or the
frontier (R28, R172, R181, R182, R409), and else the flag itself (R460). -/
def flagReason (s : State) (t k : Nat) : Nat :=
  if awaitsLeave s t k then 9
  else if awaitsOlder s t k then 14
  else if awaitsEntry s t k then 15
  else if (flagOps s t k).any (fun o => match o.2 with | .acq _ _ _ _ _ _ _ _ => true | _ => false) then 16
  else if awaitsFrontier s t k then 21
  else 2

/-- The lowest of some reasons. -/
def lowestReason : List Nat → Option Nat
  | [] => none
  | r :: l => match lowestReason l with
    | none => some r
    | some q => some (min r q)

/-- The reason with which a WAITF waits: the lowest of those of its unset flags (R277; log 13). -/
def waitfReason (s : State) (t : Nat) (m : BitVec 16) : Nat :=
  (lowestReason (((flagsNamed m).filter (fun k => !flagIsSet (s.team t) k)).map (flagReason s t))).getD 2

/-- WAITF (R460). -/
def execWaitf (m : BitVec 16) (any : Bool) (s : State) : Host.Outcome State Fault Refusal :=
  runControl s (fun c =>
    if waitfHolds (s.team c.t) m any then
      .ok (s.modTeam c.t (fun tm => observeFlags tm s.free m)).bump
    else .ok (holdPath s c (waitfReason s c.t m)))

end Sys2Proof.Machine
end

