-- ==== Sys2Proof/Machine/Issue.lean ====
section
/-! DEFINITION. When a path may issue its bundle and what it waits for (R155, R238, R447), the time a
bundle takes (R221, R223, R227-R229), and the bundles that run no slot: EMPTY_DELAY_BUNDLE and
ILLEGAL_OP (R309, R327). -/

namespace Sys2Proof.Machine

open Sys2Proof

/-! ### The bundle at a path's PC -/

/-- The launch constants that decode faults depend on (R327). -/
def launchOf (s : State) (tm : Team) : Launch :=
  let k := s.task tm.task
  { n := tm.nregs, w := 32 * tm.words, cg16 := k.cg16, priv := k.priv, lining := k.lining
    migratable := k.migratable, mask := if k.fn == pfFn then 0#14 else (s.func k.fn).feat, first := tm.fresh }

/-- A fetch inside the task's object (R71). -/
def fetchInside (k : Task) (pc : Nat) : Bool :=
  decide (k.codeBase ≤ pc) && decide (pc + 32 ≤ k.codeBase + k.codeLen)

/-- An address with an error that the ECC cannot correct: in the bundle at a PC, or in what the device has read for the
task, which consumes it with its first bundle (R39; log 57). -/
def fetchBad (s : State) (tm : Team) (pc : Nat) : Option Nat :=
  let k := s.task tm.task
  ((eccHit s (flatOf s k.fn pc) 32).map (fun b => pc + (b - flatOf s k.fn pc))).or (k.badArgs.or k.badTable)

/-- The fault of a fetch: ILLEGAL_OP outside the object, MEM_UNCORRECTABLE for bytes that cannot be read, else the decode
fault of the bundle (R39, R71, R327). -/
def fetchFault (s : State) (tm : Team) (pc : Nat) : Option (FaultCode × Slot) :=
  let k := s.task tm.task
  if !fetchInside k pc then some (.illegalOp, .none)
  else if (fetchBad s tm pc).isSome then some (.memUncorrectable, .none)
  else decodeFault (launchOf s tm) (fetchWord s k pc)

/-- The bundle at a path's PC. -/
def fetchBundle (s : State) (tm : Team) (pc : Nat) : Bundle := decodeBundle (fetchWord s (s.task tm.task) pc)

/-- The issue of the bundle at a path's PC: a replay executes one slot, for the lanes that faulted (R180,
R239). -/
def issueAt (s : State) (t p : Nat) (hdr : Header) (extra : List Nat) : Issue :=
  let tm := s.team t
  let pa := tm.path p
  let lanes : Option Mask := match pa.replay with
    | some .c | none => none
    | some _ => some pa.rmask
  { team := t, path := p, pc := pa.pc, hdr := hdr, extra := extra, only := pa.replay, lanes := lanes
    seen := some tm.pending.length }

/-- The state in which the issue is evaluated. -/
def tentative (s : State) (t p : Nat) : State :=
  { s with issue := some (issueAt s t p (fetchBundle s (s.team t) ((s.team t).path p).pc).hdr []) }

/-- The slots of a bundle that an issue executes. -/
def pickSlots (b : Bundle) : Option Slot → Bundle
  | none => b
  | some .v => { b with m := none, x := none, c := none }
  | some .m => { b with v := none, x := none, c := none }
  | some .x => { b with v := none, m := none, c := none }
  | some _ => { b with v := none, m := none, x := none }

/-- The slots that the path's next issue executes. -/
def nextSlots (s : State) (t p : Nat) : Bundle :=
  let pa := (s.team t).path p
  pickSlots (fetchBundle s (s.team t) pa.pc) pa.replay

/-! ### Which slots act (R226, R227) -/

def actsV (c : Ctx) (b : Bundle) : Bool := b.v.isSome && !idle c.vPasses
def actsM (c : Ctx) (b : Bundle) : Bool := b.m.isSome && !idle c.mPasses
def actsX (c : Ctx) (b : Bundle) : Bool := b.x.isSome && !idle c.xPasses
def actsC (c : Ctx) (b : Bundle) : Bool := b.c.isSome && c.controlGuard

/-- No slot of the bundle would act (R227). -/
def nullified (c : Ctx) (b : Bundle) : Bool := !(actsV c b || actsM c b || actsX c b || actsC c b)

/-! ### Register-bank stretches (R228, R229) -/

/-- The V registers that a source operand reads; a V[Sn] that resolves to none of the team's reads none. -/
def sourceRegs (c : Ctx) (code : Nat) (pair : Bool) : List Nat :=
  if (opd code).isV then
    let r := c.vregD code
    if c.tm.nregs ≤ r then [] else if pair then [r, r + 1] else [r]
  else []

/-- Those of the vector slot. -/
def vReads (c : Ctx) (i : Instr) : List Nat :=
  match vSpec c.width i with
  | some sp => (vSources (vFieldsOf i) sp).flatMap (fun q => sourceRegs c q.2.1 q.2.2.2)
  | none => []

/-- Those of the memory slot: A, and the data registers of what writes (R228). -/
def mReads (c : Ctx) (i : Instr) : List Nat :=
  match mSpec i with
  | some sp =>
    let f := mFieldsOf i
    let n := f.values * (if f.pair then 2 else 1) * (if sp.twoVals then 2 else 1)
    let writes := sp.twoVals || !sp.isLoad || (match i with
      | .aadd _ | .afadd _ | .amin _ | .amax _ | .aand _ | .aor _ | .axor _ | .axchg _ | .saadd _ | .safadd _
      | .samin _ | .samax _ | .saand _ | .saor _ | .saxor _ | .saxchg _ => true
      | _ => false)
    let data := if writes && sp.dsV then (sourceRegs c f.ds.toNat false).flatMap (fun r => (List.range n).map (r + ·)) else []
    (if sp.aV then sourceRegs c f.a.toNat false else []) ++ data
  | none => []

/-- Those of a lining duplicate: shadow registers, in a kernel with LINING (R443). -/
def xReads (c : Ctx) (lining : Bool) (i : Instr) : List Nat :=
  match lOpcode i with
  | some (o, f) =>
    if lining then ([f.a.toNat, f.b.toNat] ++ (if o == 0x20 then [f.c.toNat] else [])).map (· + c.tm.lineBase)
    else []
  | none => []

/-- Those of LCMP, in a kernel with LINING (R471). -/
def cReads (c : Ctx) (lining : Bool) : Instr → List Nat
  | .lcmp v => if lining then [v.toNat, v.toNat + c.tm.lineBase] else []
  | _ => []

/-- A read that the operand buffer serves for a mask word (R229). -/
def keepServes (s : State) (c : Ctx) (r w : Nat) : Bool :=
  c.pa.keep.any (fun k => k.1 == r && Nat.testBit k.2 w) && !hasPending s c.t (.vreg r)

/-- Extra cycles of a pass that reads some registers (R228). -/
def bankExtra (rs : List Nat) : Nat :=
  sumL ((List.range 4).map (fun b => (rs.filter (fun r => r % 4 == b)).length - 1))

/-- The extra cycles of each pass. -/
def stretches (s : State) (c : Ctx) (lining : Bool) (b : Bundle) : List Nat :=
  let reads := ((b.v.map (vReads c)).getD []) ++ ((b.m.map (mReads c)).getD [])
    ++ ((b.x.map (xReads c lining)).getD [])
  let first := (b.c.map (cReads c lining)).getD []
  let ws := maskWords c.tm.words c.lanes
  let one (k w : Nat) : Nat :=
    bankExtra ((reads ++ (if k == 0 then first else [])).filter (fun r => !keepServes s c r w))
  (List.range ws.length).map (fun k => one k (ws.getD k 0))

/-- What KEEP retains for the next bundle: the registers of the named source, and the words as a set (R229). -/
def keepOf (c : Ctx) (b : Bundle) : List (Nat × Nat) :=
  match b.v with
  | none => []
  | some i =>
    let f := vFieldsOf i
    let words := (maskWords c.tm.words c.lanes).foldl (fun n w => n ||| 2 ^ w) 0
    match vSpec c.width i with
    | none => []
    | some sp =>
      ((vSources f sp).filter (fun q => q.1 == f.keep.toNat)).flatMap (fun q =>
        (sourceRegs c q.2.1 q.2.2.2).map (fun r => (r, words)))

/-! ### What a bundle waits for (R447, R404, R405, R403, R413, R427, R233) -/

/-- The wait count of the ring reads of a vector instruction: AUX where AUX has no other meaning (R313). -/
def ringCount (sp : VSpec) (f : VFields) : Nat := if sp.aux.isNone then fld f.aux.toNat 0 4 + 1 else 1

/-- A ring that the vector slot reads holds too few slots (R404). -/
def ringEmpty (s : State) (c : Ctx) (i : Instr) : Bool :=
  match vSpec c.width i with
  | none => false
  | some sp =>
    let f := vFieldsOf i
    (vSources f sp).any (fun q => match opd q.2.1 with
      | .h r => decide (r < (c.crew s).nrings) && decide (((c.crew s).ring r).filled < ringCount sp f)
      | _ => false)

/-- A producer advance that finds no room (R405). -/
def ringFull (s : State) (c : Ctx) (i : Instr) : Bool :=
  match i with
  | .radv f =>
    let h := f.off.toNat % 16
    let r := (c.crew s).ring h
    let a := c.countOf f c.mPasses
    !bitAt f.off.toNat 4 && decide (h < (c.crew s).nrings) && a != 0 && decide (a ≤ r.slots)
      && !r.room (a + radvPending s c.tm.crew h true)
  | _ => false

/-- A shared-memory access that must follow a shared atomic whose implied fence is not over yet (R188, R398). -/
def atomicAhead (s : State) (c : Ctx) (i : Instr) : Bool :=
  match i with
  | .sld f | .sst f => atomicsWait s c.t c.p (some (touchedBytes c f))
  | _ => false

/-- The flags that the acting slots of a bundle name (R233). -/
def flagsIssued (c : Ctx) (b : Bundle) : List Nat :=
  let m := match b.m with
    | some i => if actsM c b then ((mFieldsOf i).flagOf).toList else []
    | none => []
  let x := match b.x with
    | some i => if actsX c b && (xFieldsOf i).fe then [(xFieldsOf i).flag.toNat] else []
    | none => []
  let k := match b.c with
    | some (.spawn k _ _) => if c.controlGuard then [k.toNat] else []
    | _ => []
  m ++ x ++ k

/-- A pending count would pass 255. -/
def flagFull (c : Ctx) (b : Bundle) : Bool :=
  let fs := flagsIssued c b
  fs.any (fun k => decide (255 < Tab.get c.tm.flagCount k 0 + (fs.filter (· == k)).length))

/-- The window rows that commands of the team own (R403, R428). -/
def rowsOwned (s : State) (t : Nat) : List Nat :=
  let cr := s.crew (s.team t).crew
  (mxCommands s).flatMap (fun m => if m.team == t && !m.rowsDone then m.rows else [])
    ++ cr.chans.flatMap (fun ch => ch.2.queue.flatMap (fun q => if q.team == t then q.rows else []))

/-- An accumulator access that touches an owned row (R403). -/
def accOwned (s : State) (c : Ctx) (i : Instr) : Bool :=
  match i with
  | .accld f | .accst f =>
    let own := rowsOwned s c.t
    (accTouches c f c.mPasses).any (fun q => own.contains ((64 * c.tm.accBase + q.2.2) / 64))
  | _ => false

/-- COLL commands of a core that are not complete (R436). -/
def collsOn (s : State) (core : Nat) : Nat :=
  (s.ops.filter (fun o => match o.2 with
    | .coll t _ _ _ _ _ _ _ => collHere s t && (s.crew (s.team t).crew).core == core
    | _ => false)).length

/-- The reason of an engine whose queue is full: 17 or 18 (R413, R427, R436). -/
def engineFull (s : State) (c : Ctx) (i : Instr) : Option Nat :=
  let waiting := ((s.core (c.core s)).matrix.filter (fun m => m.start.isNone)).length
  match i with
  | .copy f | .copyg f | .copys f | .fill f =>
    let ch := (c.crew s).chanOf (fld (c.sreg f.sd.toNat) 0 4)
    if 8 ≤ ch.queue.length then some 17 else none
  | .mma _ | .mmas _ | .accz _ | .accout _ => if 4 ≤ waiting then some 18 else none
  | .coll _ => if 4 ≤ collsOn s (c.core s) then some 18 else none
  | _ => none

/-- What the slots of a bundle wait for, but for the conditions of R447. -/
def slotWaits (s : State) (c : Ctx) (b : Bundle) : List Nat :=
  (if flagFull c b then [2] else [])
    ++ (if b.v.any (ringEmpty s c) then [3] else [])
    ++ (if actsM c b && b.m.any (ringFull s c) then [4] else [])
    ++ (if actsM c b && b.m.any (accOwned s c) then [8] else [])
    ++ (if actsM c b && b.m.any (atomicAhead s c) then [16] else [])
    ++ (if actsX c b then ((b.x.bind (engineFull s c)).toList) else [])

/-- What an instruction of R447 waits for, when its guard holds. -/
def controlWait (s : State) (c : Ctx) (i : Instr) : Option Nat :=
  let tm := s.team c.t
  match i with
  | .waitf m any =>
    if waitfHolds tm m any then none else some (waitfReason s c.t m)
  | .waitc n k => if waitcValue c k ≤ ((c.crew s).chan n.toNat).cwp.toNat then none else some 2
  | .bar b count =>
    if c.pa.barPass then none
    else match barArrive s c b.toNat count.toNat with
      | .ok _ => some 5
      | .error _ => none
  | .sasht => if c.sashOpen s then none else some 6
  | .join => if joinReady tm c.p then none else some 11
  | .waithem a => if c.sreg a.toNat ≤ (hem s (c.tk s).fn).toNat then none else some 21
  | _ => none

/-- Everything that the bundle of a context waits for. -/
def bundleWait (s : State) (c : Ctx) (b : Bundle) : Option Nat :=
  match slotWaits s c b with
  | [] => if actsC c b then b.c.bind (controlWait s c) else none
  | r :: l => lowestReason (r :: l)

/-! ### Readiness (R155) -/

/-- The work of a task may issue in its partition now. -/
def openFor (s : State) (k : Task) : Bool :=
  k.part == freePart || ((s.part k.part).isOpen && running s k.part == some k.fn)

/-- The team may issue: it holds a context, is not stopped, and its crew does not move (R151, R157). -/
def teamReady (s : State) (t : Nat) (tm : Team) : Bool :=
  let cr := s.crew tm.crew
  let active := match tm.residence with | .active _ => true | _ => false
  active && !tm.stopped && !tm.retired && openFor s (s.task tm.task)
    && !(s.die (dieOf cr.core)).stopped && (!cr.syncing || cr.syncLeft.contains t)

/-- The path's accesses that a FENCE waits for are performed (R194). -/
def fenceDone (s : State) (pa : Path) : Bool := pa.fence.all (fun i => (Tab.find s.accesses i).isNone)

/-- The path is at a bundle that it may issue: nothing holds it, and its gap is over. -/
def pathReady (s : State) (pa : Path) : Bool :=
  decide (pa.readyAt ≤ s.now) && !pa.parked && !pa.arrived && !pa.held && !pa.stepHeld && !pa.stepped
    && pa.heldBy.isNone && !pa.waitStep.any (stepRuns s) && fenceDone s pa

/-- A bundle that is a reconvergence mark for its path (R238): a guard that is false takes the mark away
with the instruction. A replay of another slot passes no mark. -/
def isMark (c : Ctx) (b : Bundle) : Bool :=
  let ctl := match b.c with
    | some .popm | some .join | some (.bar _ _) | some .exit => c.controlGuard
    | _ => false
  match c.pa.replay with
  | none => c.hdr.yld || ctl
  | some .c => ctl
  | some _ => false

/-- What stands between a path and the issue of its bundle. -/
inductive Verdict where
  /-- the path is not ready -/
  | no
  /-- its bundle waits, for a reason -/
  | wait (reason : Nat)
  /-- something happens to the path first -/
  | act (s : State)
  /-- it issues, or raises its decode fault -/
  | go
  deriving DecidableEq, Repr

/-- The BAR at which a path waits begins with its arrival; a WAITC takes the value it waits for (R461,
R462). -/
def arriveAct (s : State) (c : Ctx) (b : Bundle) : Option State :=
  match b.c with
  | some (.bar n count) =>
    if c.pa.barPass || (c.pa.atBar && !barOpen s c n.toNat) then none
    else match barArrive s c n.toNat count.toNat with
      | .ok s' => some { s' with issue := none }
      | .error _ => none
  | some (.waitc _ k) =>
    if c.pa.waitVal.isSome then none
    else some { s.modPath c.t c.p (fun pa => { pa with waitVal := some (BitVec.ofNat 64 (waitcValue c k)) }) with
      issue := none, free := s.free + 1 }
  | _ => none

/-- A bundle with YLD in which a path waits puts its team at a yield: under reasons 2 to 6 and 16 (R153), and whatever
the reason shown where the instruction that waits is one of R447. -/
def waitAct (s : State) (c : Ctx) (r : Nat) (control : Bool) : Option State :=
  let yields := c.hdr.yld && (control || decide (2 ≤ r ∧ r ≤ 6) || r == 16)
    && !(s.core (c.core s)).standby.isEmpty && !(s.team c.t).atYield
  if c.pa.stall == r && !yields then none
  else
    let s := s.modPath c.t c.p (fun pa => { pa with stall := r })
    some { s.modTeam c.t (fun tm => { tm with atYield := tm.atYield || yields }) with issue := none }

/-- The wait of a bundle as a verdict. -/
def waitVerdict (s : State) (c : Ctx) (b : Bundle) : Verdict :=
  match bundleWait s c b with
  | none => .go
  | some r =>
    let control := slotWaits s c b == [] && actsC c b
    let arrive := if control then arriveAct s c b else none
    match arrive, waitAct s c r control with
    | some s', _ => .act s'
    | none, some s' => .act s'
    | none, none => .wait r

/-- A path that is ready under R155 but for what its bundle asks. -/
def bundleVerdict (s : State) (t p : Nat) : Verdict :=
  let pc := ((s.team t).path p).pc
  if (fetchFault s (s.team t) pc).isSome then .go
  else
    let b := nextSlots s t p
    match ctxOf (tentative s t p) with
    | none => .no
    | some c =>
      let m := if isMark c b then reachMark s t p pc else (s, true)
      if m.1.team t != s.team t then .act m.1
      else if !m.2 then .wait 11
      else waitVerdict (tentative s t p) c b

/-- A breakpoint stands at the bundle that a path may issue. -/
def atHit (s : State) (t p : Nat) : Bool :=
  let tm := s.team t
  teamReady s t tm && !tm.fliTaken && pathReady s (tm.path p)
    && fetchInside (s.task tm.task) (tm.path p).pc && (hitOf s t p).isSome

/-- A breakpoint that a ready path hits, once its bundle would issue (R155, R267). -/
def hitDue (s : State) (t p : Nat) : Bool := atHit s t p && bundleVerdict s t p == .go

/-- The breakpoint that a path hits in the cycle in which a HALT has held it (R270). -/
def haltedHit (s : State) (t p : Nat) : Option Nat :=
  let s := s.modPath t p (fun pa => { pa with held := false })
  if hitDue s t p then hitOf s t p else none

/-- A HALT and a breakpoint that stop a path in one cycle write one record, with the breakpoint's code (R270). -/
def joinHits (s : State) : State :=
  let hit (x : Stop) : Option Nat := if x.code == 0 then haltedHit s x.team x.path else none
  let mark (s : State) (x : Stop) : State :=
    if (hit x).isSome then s.modPath x.team x.path (fun pa => { pa with hitDone := true }) else s
  let one (x : Stop) : Stop := match hit x with
    | some n => { x with code := 0x0D, idx := n }
    | none => x
  s.stops.foldl mark { s with stops := s.stops.map one }

/-- What the path of a team may do now. -/
def verdict (s : State) (t p : Nat) : Verdict :=
  let tm := s.team t
  if !(teamReady s t tm && !tm.fliTaken && pathReady s (tm.path p)) || hitDue s t p then .no
  else bundleVerdict s t p

/-! ### The order of issue (R155) -/

/-- Numbers below n in rotation, from the one after `last`. -/
def rotation (n last : Nat) : List Nat := (List.range n).map (fun i => (last + 1 + i) % n)

/-- The paths of a core in the order in which the issue stage takes them, with their teams. -/
def issueOrder (s : State) (core : Nat) : List (Nat × Nat) :=
  let here := teamsOnCore s core
  (rotation 8 (s.core core).lastCtx).flatMap (fun x =>
    (here.filter (fun e => e.2.residence == .active x)).flatMap (fun e =>
      ((rotation 8 e.2.lastPath).filter (fun p => (Tab.find e.2.paths p).isSome)).map (fun p => (e.1, p))))

/-- The cores that hold crews, each once. -/
def coresInUse (s : State) : List Nat := (s.crews.map (fun e => e.2.core)).eraseDups

/-- The first thing that happens to a path before it may issue. -/
def pathAct (s : State) : Option State :=
  (coresInUse s).findSome? (fun core => (issueOrder s core).findSome? (fun q =>
    match verdict s q.1 q.2 with
    | .act s' => some s'
    | _ => none))

/-- The bundle that a path would issue is nullified: it occupies no cycle of the issue stage (R227). -/
def instant (s : State) (t p : Nat) : Bool :=
  (fetchFault s (s.team t) ((s.team t).path p).pc).isNone
    && (match ctxOf (tentative s t p) with
      | some c => nullified c (nextSlots s t p)
      | none => false)

/-- The path whose bundle a core starts in this cycle: nullified ones do not wait for the issue stage. -/
def corePick (s : State) (core : Nat) : Option (Nat × Nat) :=
  let ready := (issueOrder s core).filter (fun q => verdict s q.1 q.2 == .go)
  match ready.find? (fun q => instant s q.1 q.2) with
  | some q => some q
  | none => if s.now < (s.core core).busyUntil then none else ready.head?

/-- The next bundle to start in this cycle: cores are taken in order. -/
def issuePick (s : State) : Option (Nat × Nat) := (coresInUse s).findSome? (corePick s)

/-! ### The start of a bundle -/

/-- The path's place after the bundle: the next one, or what its replay says (R180, R239). -/
def Path.passed (pa : Path) : Path :=
  match pa.replay with
  | none => { pa with pc := (pa.pc + 32) % 2 ^ 64 }
  | some _ =>
    match pa.replayNext with
    | none => { pa with pc := pa.after, replay := none }
    | some n => { pa with replay := some n, replayNext := none }

/-- What every issue changes in its team (R101, R155, R161): the first bundle has issued, and YLD ends the
count towards YCOUNT. -/
def Team.issued (tm : Team) (p : Nat) (yld : Bool) : Team :=
  { tm with fresh := false, lastPath := p, ycycles := if yld then 0 else tm.ycycles }

/-- A team that has issued a bundle with YLD while others stand by is at a yield (R153). -/
def noteYield (s : State) (t : Nat) : State :=
  match Tab.find s.teams t with
  | none => s
  | some tm =>
    let queued := !(s.core (s.crew tm.crew).core).standby.isEmpty
    let active := match tm.residence with | .active _ => true | _ => false
    if queued && active && !tm.retired then s.setTeam t { tm with atYield := true } else s

/-- A nullified bundle (R227): no pass and no cycle of the issue stage, but its gap. -/
def nullify (s : State) (c : Ctx) : State :=
  let gap := c.hdr.gap.toNat + 1
  let back (pa : Path) : Path :=
    { pa.passed with readyAt := c.cyc + gap, gapTo := c.cyc + gap, gapReason := 23, passes := [], stretchTo := 0
                     yld := c.hdr.yld, keep := [], stall := 1, hitDone := false, hitWas := pa.hitDone, stepped := pa.stepping
                     deferReplay := false, stepping := false, waitStep := none }
  let s := s.modTeam c.t (fun tm => (tm.issued c.p c.hdr.yld).modPath c.p back)
  let s := pmCount s (c.tk s).fn 0x03 1
  let s := if c.hdr.yld then noteYield s c.t else s
  { s.bump with issue := none }

/-- The issue stage takes a bundle with its passes (R155, R221, R223, R228): the path moves on, and the
bundle's slots see the state before it. -/
def startBundle (s : State) (c : Ctx) (b : Bundle) : State :=
  let st := stretches s c (c.tk s).lining b
  let words := maskWords c.tm.words c.lanes
  let n := max 1 words.length
  let last := c.cyc + (n - 1) + sumL st
  let next := last + c.hdr.gap.toNat + 1
  let keep := keepOf c b
  let yld := c.hdr.yld && c.pa.replay.isNone
  let back (pa : Path) : Path :=
    { pa.passed with readyAt := next, gapTo := next, gapReason := if words.isEmpty then 22 else 1
                     passes := (List.range n).map (fun k => c.cyc + k + sumL (st.take k)), stretchTo := last
                     yld := yld, keep := keep, stall := 1, hitWas := pa.hitDone, waitStep := none
                     hitDone := pa.replay.isSome && pa.replayNext.isSome }
  let s := s.modTeam c.t (fun tm => (tm.issued c.p yld).modPath c.p back)
  let ctx := match c.tm.residence with | .active x => x | _ => 7
  let s := s.modCore (c.core s) (fun co => { co with lastCtx := ctx, busyUntil := last + 1 })
  let fn := (c.tk s).fn
  let s := pmCount (pmCount s fn 0x01 n) fn 0x02 1
  let many := decide (1 < (b.v.toList ++ b.m.toList ++ b.x.toList ++ b.c.toList).length)
  { s with issue := s.issue.map (fun i => { i with extra := st, collect := many }) }

/-! ### The end of a bundle -/

/-- Several slots of a bundle have faulted, or one: the first is the bundle's fault (R328). A memory fault
that others accompany parks nothing (R239) and stops the task. -/
def bundleFault (s : State) (i : Issue) : State :=
  match i.faults with
  | [] => s
  | [f] => takeFault s i.team i.path i.pc f
  | f :: _ =>
    let tm := s.team i.team
    let k := s.task tm.task
    let odd := f.code == .tileNotPresent || f.code == .walkSegment
    if odd && !isSpeculative s k then stopTask s tm.task tm.wid0 i.path i.pc f
    else takeFault s i.team i.path i.pc f

/-- A stepped bundle has issued: the path waits for its gap, or the step ends with a fault or with the path
(R273). -/
def stepIssued (s : State) (i : Issue) : State :=
  match Tab.find s.teams i.team with
  | none => s
  | some tm =>
    if !tm.paths.any (fun e => e.2.stepHeld || e.2.stepping) then s
    else
      match Tab.find tm.paths i.path with
      | none => endStep s i.team
      | some pa =>
        if !pa.stepping then s
        else if !i.faults.isEmpty then endStep s i.team
        else s.setTeam i.team (tm.setPath i.path { pa with stepping := false, stepped := true })

/-- The end of a bundle's issue: faults are taken, a BKPT or a watchpoint stops the path (R267, R268), a step's end is
noted, and YLD makes a yield. -/
def endBundle (s : State) : State :=
  match s.issue with
  | none => s.bump
  | some i =>
    let s := if i.collect then bundleFault s i else s
    let s := stepIssued (takeStops s i.team i.path) i
    let s := match Tab.find s.teams i.team with
      | some tm =>
        match Tab.find tm.paths i.path with
        | some pa => s.setTeam i.team (tm.setPath i.path { pa with deferReplay := false })
        | none => s
      | none => s
    let s := if i.hdr.yld && i.only.isNone then noteYield s i.team else s
    { s.bump with issue := none }

/-! ### Bundles that run no slot -/

/-- EMPTY_DELAY_BUNDLE (R309): a bundle without slots is nullified, and its gap elapses. -/
def execEmptyDelayBundle (_ : BitVec 32) (s : State) : Host.Outcome State Fault Refusal :=
  match ctxOf s with
  | none => .fault .noIssuingPath
  | some c => .next (nullify s c)

/-- A decode fault, or the fault of the fetch, of the issuing path (R39, R327): no slot executes, and its YLD has no effect. -/
def decodeRaise (s : State) (c : Ctx) (code : FaultCode) (slot : Slot) : State :=
  let addr := if code == .memUncorrectable then (fetchBad s (s.team c.t) c.pc).getD 0 else 0
  let s := takeFault s c.t c.p c.pc { code := code, slot := slot, addr := addr, lanes := c.lanes }
  let s := match Tab.find s.teams c.t with
    | some tm => if tm.paths.any (fun e => e.2.stepping || e.2.stepHeld) then endStep s c.t else s
    | none => s
  { s.bump with issue := none }

/-- ILLEGAL_OP (R71, R309, R323-R327): a fetch outside the object has no slot; an opcode has its own. -/
def execIllegalOp (s : State) : Host.Outcome State Fault Refusal :=
  match ctxOf s with
  | none => .fault .noIssuingPath
  | some c =>
    match fetchFault s (s.team c.t) c.pc with
    | some (.illegalOp, slot) => .next (decodeRaise s c .illegalOp slot)
    | _ => .next { s with issue := none }

end Sys2Proof.Machine
end

