-- ==== Sys2Proof/Machine/Profile.lean ====
section
/-! DEFINITION. Stall reasons (R277), samples of the profiler (R278-R280) and the stall counters of a VF
(R282). -/

namespace Sys2Proof.Machine

open Sys2Proof

/-! ### Why a path does not issue (R277) -/

/-- What keeps a path from issuing, but for the gap and the stretches of its last bundle; a ready path that another one's turn keeps back
shows a reason that the spec does not name (log 12). -/
def waitReasons (s : State) (t p : Nat) (tm : Team) (pa : Path) : List Nat :=
  let cr := s.crew tm.crew
  let k := s.task tm.task
  let place := match tm.residence with
    | .active _ => []
    | .standby => [13]
    | .exchanging _ _ => [19]
    | .saved => [20]
  let crew := if cr.syncing && !cr.syncLeft.contains t then [19] else []
  let stop := if tm.stopped then (if k.walkStop then [25] else if k.suspended then [21] else []) else []
  let closed := if openFor s k then [] else [20]
  let own := (if pa.held || pa.stepHeld then [24] else []) ++ (if pa.parked then [12] else [])
    ++ (if pa.arrived then [11] else []) ++ (if fenceDone s pa then [] else [16])
    ++ (if pa.heldBy.isSome then [pa.stall] else []) ++ (if pa.waitStep.any (stepRuns s) then [2] else [])
  let issue := match verdict s t p with
    | .wait r => [r]
    | _ => []
  place ++ crew ++ stop ++ closed ++ own ++ issue

/-- The stall reason of a path in this cycle, 0 when it issues a pass. -/
def stallReason (s : State) (t p : Nat) : Nat :=
  let tm := s.team t
  let pa := tm.path p
  let time := if s.now ≤ pa.stretchTo then [7] else if s.now < pa.gapTo then [pa.gapReason]
    else if s.now < pa.readyAt then [pa.stall] else []
  if pa.passes.contains s.now then 0
  else (lowestReason (time ++ waitReasons s t p tm pa)).getD (1 + Config.freeNat s.free % 25)

/-! ### Samples (R278-R280) -/

/-- SMPCTL fields (R278). -/
def Func.smpOn (f : Func) : Bool := bitAt f.smpCtl.toNat 0
def Func.smpPeriod (f : Func) : Nat := 2 ^ fld f.smpCtl.toNat 1 5
def Func.smpSize (f : Func) : Nat := 2 ^ (fld f.smpCtl.toNat 6 4 + 10)

/-- The function whose VF runs the partition that holds a core. -/
def runnerOf (s : State) (core : Nat) : Option Nat :=
  match (Tab.keys s.parts).find? (fun p => (partCores s p).any (fun e => e.2 == core)) with
  | some p => if (s.part p).isOpen then (s.part p).runVf else none
  | none => some pfFn

/-- The next resident team of a core in the rotation over its 64 places (R279). -/
def nextTeam (s : State) (core : Nat) : Option Nat :=
  let ts := (teamsOnCore s core).filter (fun e => !e.2.paths.isEmpty)
  (rotation 64 (s.core core).lastPlace).findSome? (fun n => (ts.find? (fun e => e.2.place == n)).map Prod.fst)

/-- The next live path of a team in its rotation. -/
def nextPath (tm : Team) : Nat := ((rotation 8 tm.sampled).find? (fun p => (Tab.find tm.paths p).isSome)).getD 0

/-- The summary word of a team's mask: bit k tells that word k of it is not empty (R220). -/
def maskSummary (tm : Team) : Nat :=
  (maskWords 32 (tm.paths.foldl (fun (m : Mask) e => m ||| e.2.active) 0#1024)).foldl (fun n w => n + 2 ^ w) 0

/-- The 32 bytes of a sample (R280). -/
def sampleBytes (s : State) (t p : Nat) : List Byte :=
  let tm := s.team t
  let cr := s.crew tm.crew
  let k := s.task tm.task
  let pa := tm.path p
  let r := stallReason s t p
  leBytes 8 k.taskid ++ leBytes 8 pa.pc ++ leBytes 4 (maskSummary tm)
    ++ leBytes 2 (cr.lcore % 1024 + 2 ^ 10 * (k.slot % 64))
    ++ leBytes 1 (tm.tix % 16 + 16 * (p % 8) + 128 * b2n (r == 0)) ++ leBytes 1 r
    ++ leBytes 4 cr.number ++ leBytes 4 s.now

/-- A sample goes to the ring of the function, or is lost when the ring is full. -/
def writeSample (s : State) (fn : Nat) (bs : List Byte) : State :=
  let f := s.func fn
  let addr := f.smpBase.toNat / 4096 * 4096 + 32 * (f.smpTail.toNat % f.smpSize)
  if f.smpSize ≤ f.smpTail.toNat - f.smpHead.toNat || !inSeg s fn addr 32 then
    s.setFunc fn { f with smpDrop := f.smpDrop + 1#64 }
  else memWrite (s.setFunc fn { f with smpTail := f.smpTail + 1#64 }) (flatOf s fn addr) bs

/-- The core takes a sample in this cycle (R279). -/
def sampleDue (s : State) (core : Nat) : Bool :=
  match runnerOf s core with
  | none => false
  | some fn =>
    let f := s.func fn
    f.smpOn && s.now % f.smpPeriod == 0 && decide ((s.core core).nextSample ≤ s.now) && (nextTeam s core).isSome

/-- SAMPLE (R279): one path of one resident team. -/
def execSample (core : Nat) (s : State) : Host.Outcome State Fault Refusal :=
  match sampleDue s core, runnerOf s core, nextTeam s core with
  | true, some fn, some t =>
    let p := nextPath (s.team t)
    let bs := sampleBytes s t p
    let s := s.modTeam t (fun tm => { tm with sampled := p })
    let s := s.modCore core (fun c => { c with lastPlace := (s.team t).place, nextSample := s.now + 1 })
    .next (writeSample s fn bs).bump
  | _, _, _ => .next s

/-! ### Counters of stalls (R282) -/

/-- Some counter of a function selects a stall reason. -/
def countsStalls (f : Func) : Bool :=
  (List.range 8).any (fun i =>
    let e := fld (Tab.get f.pmSel i 0#64).toNat 0 8
    decide (0x20 ≤ e) && decide (e ≤ 0x39))

/-- The path-cycles of this cycle are counted. -/
def countStalls (s : State) : State :=
  let on := (s.teams.filter (fun e =>
    e.2.residence != .saved && !e.2.retired && countsStalls (s.func (s.task e.2.task).fn)))
  let one (s : State) (t p : Nat) : State :=
    pmCount s (s.task (s.team t).task).fn (0x20 + stallReason s t p) 1
  on.foldl (fun s e => (Tab.keys e.2.paths).foldl (fun s p => one s e.1 p) s) s

/-- Some counter of a function selects an event of the shared units: hits, misses and bytes. -/
def countsShared (f : Func) : Bool :=
  (List.range 8).any (fun i =>
    let e := fld (Tab.get f.pmSel i 0#64).toNat 0 8
    decide (0x10 ≤ e) && decide (e ≤ 0x15))

/-- The events of the shared units in this cycle, for each function whose work runs: how many there are depends
on caches and links that the model leaves out, and is open (R282; log 5). -/
def countShared (s : State) : State :=
  let one (s : State) (fn : Nat) : State :=
    ((List.range 6).foldl (fun u i => pmCount u fn (0x10 + i) (Config.choose s.free (64 * fn + i))) s).bump
  (s.funcs.filter (fun e => runs s e.1 && countsShared e.2)).foldl (fun s e => one s e.1) s

end Sys2Proof.Machine
end

