-- ==== Sys2Proof/Machine/Scalar.lean ====
section
/-! DEFINITION. The scalar ALU (R457-R459). -/

namespace Sys2Proof.Machine

open Sys2Proof

/-- A scalar instruction: it reads its S registers at issue and lands its result after its latency. -/
def scalarRun (s : State) (d : BitVec 7) (latency : Nat) (op : Ctx → Word64) :
    Host.Outcome State Fault Refusal :=
  runControl s (fun c => .ok (s.land c.t [sResult c d.toNat latency (op c)]).bump)

/-- A register as the bundle reads it. -/
def Ctx.sword (c : Ctx) (n : BitVec 7) : Word64 := BitVec.ofNat 64 (c.sreg n.toNat)

/-- Two sources, latency 2. -/
def scalar2 (s : State) (d a b : BitVec 7) (op : Word64 → Word64 → Word64) :
    Host.Outcome State Fault Refusal :=
  scalarRun s d 2 (fun c => op (c.sword a) (c.sword b))

/-- One source and an immediate, latency 2. -/
def scalarI (s : State) (d a : BitVec 7) (op : Word64 → Word64) : Host.Outcome State Fault Refusal :=
  scalarRun s d 2 (fun c => op (c.sword a))

/-- SADD (R457). -/
def execSadd (d a b : BitVec 7) (s : State) : Host.Outcome State Fault Refusal :=
  scalar2 s d a b (fun x y => x + y)

/-- SSUB (R457). -/
def execSsub (d a b : BitVec 7) (s : State) : Host.Outcome State Fault Refusal :=
  scalar2 s d a b (fun x y => x - y)

/-- SMUL (R457). -/
def execSmul (d a b : BitVec 7) (s : State) : Host.Outcome State Fault Refusal :=
  scalarRun s d 4 (fun c => c.sword a * c.sword b)

/-- The high 64 bits of the product of 128 bits (R457). -/
def mulHigh (sgn : Bool) (x y : Word64) : Word64 :=
  if sgn then BitVec.ofInt 64 (x.toInt * y.toInt / ((2 ^ 64 : Nat) : Int))
  else BitVec.ofNat 64 (x.toNat * y.toNat / 2 ^ 64)

/-- SMULH (R457). -/
def execSmulh (d a b : BitVec 7) (sgn : Bool) (s : State) : Host.Outcome State Fault Refusal :=
  scalarRun s d 4 (fun c => mulHigh sgn (c.sword a) (c.sword b))

/-- SAND (R457). -/
def execSand (d a b : BitVec 7) (s : State) : Host.Outcome State Fault Refusal :=
  scalar2 s d a b (fun x y => x &&& y)

/-- SOR (R457). -/
def execSor (d a b : BitVec 7) (s : State) : Host.Outcome State Fault Refusal :=
  scalar2 s d a b (fun x y => x ||| y)

/-- SXOR (R457). -/
def execSxor (d a b : BitVec 7) (s : State) : Host.Outcome State Fault Refusal :=
  scalar2 s d a b (fun x y => x ^^^ y)

/-- SSHL (R457): 0 for 64 and more. -/
def execSshl (d a b : BitVec 7) (s : State) : Host.Outcome State Fault Refusal :=
  scalar2 s d a b (fun x y => if 64 ≤ y.toNat then 0#64 else x <<< y.toNat)

/-- SSHR (R457): 0 for 64 and more. -/
def execSshr (d a b : BitVec 7) (s : State) : Host.Outcome State Fault Refusal :=
  scalar2 s d a b (fun x y => if 64 ≤ y.toNat then 0#64 else x >>> y.toNat)

/-- SSAR (R457): copies of bit 63 for 64 and more. -/
def execSsar (d a b : BitVec 7) (s : State) : Host.Outcome State Fault Refusal :=
  scalar2 s d a b (fun x y => x.sshiftRight (min y.toNat 64))

/-- x is below y, signed or unsigned. -/
def wordLt (sgn : Bool) (x y : Word64) : Bool := if sgn then x.slt y else x.ult y

/-- SMIN (R457). -/
def execSmin (d a b : BitVec 7) (sgn : Bool) (s : State) : Host.Outcome State Fault Refusal :=
  scalar2 s d a b (fun x y => if wordLt sgn y x then y else x)

/-- SMAX (R457). -/
def execSmax (d a b : BitVec 7) (sgn : Bool) (s : State) : Host.Outcome State Fault Refusal :=
  scalar2 s d a b (fun x y => if wordLt sgn x y then y else x)

/-- The conditions of SCMP (R457). -/
def scmpCond (cond : BitVec 3) (x y : Word64) : Bool :=
  match cond.toNat with
  | 0 => x == y
  | 1 => x != y
  | 2 => x.slt y
  | 3 => x.sle y
  | 4 => x.ult y
  | 5 => x.ule y
  | _ => x &&& y != 0#64

/-- SCMP (R457). -/
def execScmp (d a b : BitVec 7) (cond : BitVec 3) (s : State) : Host.Outcome State Fault Refusal :=
  scalar2 s d a b (fun x y => if scmpCond cond x y then 1#64 else 0#64)

/-- SSEL (R457): the old destination is the condition. -/
def execSsel (d a b : BitVec 7) (s : State) : Host.Outcome State Fault Refusal :=
  scalarRun s d 2 (fun c => if c.sword d != 0#64 then c.sword a else c.sword b)

/-- SMOV (R457). -/
def execSmov (d a : BitVec 7) (s : State) : Host.Outcome State Fault Refusal :=
  scalarI s d a (fun x => x)

/-- Quotient or remainder; by 0 it is all ones, or the dividend (R457). -/
def divWord (rem : Bool) (x y : Word64) : Word64 :=
  if y == 0#64 then (if rem then x else 0xFFFFFFFFFFFFFFFF#64)
  else if rem then BitVec.ofNat 64 (x.toNat % y.toNat)
  else BitVec.ofNat 64 (x.toNat / y.toNat)

/-- SDIVU (R457). -/
def execSdivu (d a b : BitVec 7) (rem : Bool) (s : State) : Host.Outcome State Fault Refusal :=
  scalarRun s d 40 (fun c => divWord rem (c.sword a) (c.sword b))

/-- SADDI (R458). -/
def execSaddi (d a : BitVec 7) (imm : BitVec 10) (s : State) : Host.Outcome State Fault Refusal :=
  scalarI s d a (fun x => x + imm.signExtend 64)

/-- SANDI (R458). -/
def execSandi (d a : BitVec 7) (imm : BitVec 10) (s : State) : Host.Outcome State Fault Refusal :=
  scalarI s d a (fun x => x &&& imm.signExtend 64)

/-- SORI (R458). -/
def execSori (d a : BitVec 7) (imm : BitVec 10) (s : State) : Host.Outcome State Fault Refusal :=
  scalarI s d a (fun x => x ||| imm.signExtend 64)

/-- SSHLI (R458); an immediate outside 0 to 63 is a decode fault. -/
def execSshli (d a : BitVec 7) (imm : BitVec 10) (s : State) : Host.Outcome State Fault Refusal :=
  scalarI s d a (fun x => x <<< imm.toNat)

/-- SSHRI (R458); an immediate outside 0 to 63 is a decode fault. -/
def execSshri (d a : BitVec 7) (imm : BitVec 10) (s : State) : Host.Outcome State Fault Refusal :=
  scalarI s d a (fun x => x >>> imm.toNat)

/-- SLI (R459). -/
def execSli (d : BitVec 7) (imm : BitVec 16) (s : State) : Host.Outcome State Fault Refusal :=
  scalarRun s d 2 (fun _ => imm.signExtend 64)

/-- 16 bits of a word replaced. -/
def insert16 (old : Word64) (lo : Nat) (imm : BitVec 16) : Word64 :=
  (old &&& ~~~((0xFFFF#64) <<< lo)) ||| ((imm.setWidth 64) <<< lo)

/-- SLIH (R459). -/
def execSlih (d : BitVec 7) (imm : BitVec 16) (s : State) : Host.Outcome State Fault Refusal :=
  scalarRun s d 2 (fun c => insert16 (c.sword d) 16 imm)

/-- SLIX (R459). -/
def execSlix (d : BitVec 7) (imm : BitVec 16) (s : State) : Host.Outcome State Fault Refusal :=
  scalarRun s d 2 (fun c => insert16 (c.sword d) 32 imm)

/-- SLIY (R459). -/
def execSliy (d : BitVec 7) (imm : BitVec 16) (s : State) : Host.Outcome State Fault Refusal :=
  scalarRun s d 2 (fun c => insert16 (c.sword d) 48 imm)

end Sys2Proof.Machine
end

