-- ==== Sys2Proof/Machine/VecConv.lean ====
section
/-! DEFINITION. Conversions, scales and quantisation (R365-R371). -/

namespace Sys2Proof.Machine

open Sys2Proof

/-- The format by which an input of a conversion is flushed: an I4X outlier is an E4M3 value (R367). -/
def flushFmt (f : Fmt) : Fmt := if f == .i4x then .e4m3 else f

/-- Element i of a source in any format, decoded and flushed (R367). -/
def convIn (f : VFields) (sf : Fmt) (x i : Nat) : FVal :=
  let v := decodeElem sf x i
  if sf.isInt then v else flushIn f.fzi (flushFmt sf) v

/-- Conv of R367: integer to integer under R302, everything else under R301. -/
def conv (f : VFields) (sf : Fmt) (x i : Nat) : Nat × Flags :=
  let v := convIn f sf x i
  if sf.isInt && f.fmt.isInt then intInto f.fmt f.sat (intVal sf (elemAt sf x i))
  else
    let r := roundTo f.fmt f.rnd f.fzo f.sat v
    (r.1, r.2 ||| nvFlags false [v])

/-- VCVT (R367). -/
def execVcvt (f : VFields) (s : State) : Host.Outcome State Fault Refusal :=
  vecOp s (.vcvt f) (fun x => outOf (mapElems f.fmt (fun i => conv f (sfmtOf f) x.a i)))

/-- VUNPK (R367). -/
def execVunpk (f : VFields) (s : State) : Host.Outcome State Fault Refusal :=
  vecOp s (.vunpk f) (fun x =>
    outOf (mapElems f.fmt (fun i => conv f (sfmtOf f) x.a (partOf f * f.fmt.elems + i))))

/-- VPACK (R367): the other elements keep those of C. -/
def execVpack (f : VFields) (s : State) : Host.Outcome State Fault Refusal :=
  vecOp s (.vpack f) (fun x =>
    let es := (sfmtOf f).elems
    let first := partOf f * 2 * es
    outOf (mapElems f.fmt (fun i =>
      if i < first || first + 2 * es ≤ i then (elemAt f.fmt x.z i, 0#6)
      else if i < first + es then conv f (sfmtOf f) x.a (i - first)
      else conv f (sfmtOf f) x.b (i - first - es))))

/-- A product of two decoded inputs rounded once into FMT. -/
def scaledRound (f : VFields) (v b : FVal) : Nat × Flags :=
  let p := mulV v b
  let r := roundTo f.fmt f.rnd f.fzo f.sat p.1
  (r.1, r.2 ||| nvFlags p.2 [v, b])

/-- VSCALE (R368): byte SEL of A as an E5M3 scale, times B. -/
def execVscale (f : VFields) (s : State) : Host.Outcome State Fault Refusal :=
  vecOp s (.vscale f) (fun x =>
    let v := flushIn f.fzi .scale (decodeF .scale (elemAt .scale x.a (fld f.aux.toNat 0 2)))
    outOf (scaledRound f v (flushIn f.fzi .fp32 (decodeF .fp32 x.b))))

/-- VDEQ (R369). -/
def execVdeq (f : VFields) (s : State) : Host.Outcome State Fault Refusal :=
  vecOp s (.vdeq f) (fun x =>
    let b := flushIn f.fzi .fp32 (decodeF .fp32 x.b)
    outOf (mapElems f.fmt (fun i =>
      scaledRound f (convIn f (sfmtOf f) x.a (partOf f * f.fmt.elems + i)) b)))

/-! ### Quantisation (R370, R371) -/

/-- The k scaled source elements: those of A, then those of B, each with its invalid mark and inputs. -/
def quantIn (f : VFields) (x : LaneIn) : List (FVal × Bool × List FVal) :=
  let sf := sfmtOf f
  let c := flushIn f.fzi .fp32 (decodeF .fp32 x.z)
  let one (w i : Nat) : FVal × Bool × List FVal :=
    let v := convIn f sf w i
    let p := mulV v c
    (p.1, p.2, [v, c])
  (List.range sf.elems).map (one x.a) ++ (List.range sf.elems).map (one x.b)

/-- A value rounded to an integer, none when it is not finite (R371). -/
def nearInt (rnd : Rnd) (v : FVal) : Option Int :=
  match v with
  | .fin s m e =>
    let r := (roundAt rnd s m e 0 false).1
    some (if s then -(r : Int) else r)
  | _ => none

/-- The value is an integer. -/
def isWhole (v : FVal) : Bool :=
  match v with
  | .fin _ m e => decide (0 ≤ e) || m % 2 ^ (-e).toNat == 0
  | _ => false

/-- An element out of range at place 0 or 3 (R371). -/
def outlier (rnd : Rnd) (v : FVal) : Bool :=
  v.isInf || (match nearInt rnd v with | some n => decide (7 < n.natAbs) | none => false)

/-- |a| < |b| for values that are not NaN. -/
def absLt (a b : FVal) : Bool := ltV a.abs b.abs

/-- An ordinary nibble: 0 with NV for a NaN, else clamped to -7 to 7 (R371). -/
def ordinaryNibble (rnd : Rnd) (v : FVal) : Nat × Flags :=
  match v with
  | .nan _ => (0, flNV)
  | .inf s => (wrapBits 4 (if s then -7 else 7), flSATD)
  | .fin _ _ _ =>
    let n := (nearInt rnd v).getD 0
    if 7 < n then (7, flSATD)
    else if n < -7 then (wrapBits 4 (-7), flSATD)
    else (wrapBits 4 n, flagIf (!isWhole v) flNX)

/-- What the loss of element 1 or 2 raises (R371). -/
def lostFlags (rnd : Rnd) (v : FVal) : Flags :=
  match v with
  | .nan _ => flNV
  | .inf _ => flNX
  | .fin _ _ _ => flagIf (nearInt rnd v != some 0) flNX

/-- One quad of I4X as 16 bits (R371). -/
def i4xQuad (f : VFields) (xs : List FVal) : Nat × Flags :=
  let x (j : Nat) : FVal := xs.getD j (zeroV false)
  let c0 := outlier f.rnd (x 0)
  let c3 := outlier f.rnd (x 3)
  let ord (j : Nat) : Nat × Flags := ordinaryNibble f.rnd (x j)
  if !c0 && !c3 then
    let ns := (List.range 4).map ord
    (packElems 4 (ns.map Prod.fst), joinFlags (ns.map Prod.snd))
  else
    let o : Nat := if c0 && c3 then (if absLt (x 0) (x 3) then 3 else 0) else if c0 then 0 else 3
    let byte := encodeF .e4m3 f.rnd f.fzo f.sat (x o)
    let other := ord (3 - o)
    let n (j : Nat) : Nat :=
      if j == o then 8 else if j == 1 then byte.1 % 16 else if j == 2 then byte.1 / 16 else other.1
    (packElems 4 ((List.range 4).map n),
      joinFlags [byte.2, other.2, lostFlags f.rnd (x 1), lostFlags f.rnd (x 2)])

/-- VQUANT (R370, R371). -/
def execVquant (f : VFields) (s : State) : Host.Outcome State Fault Refusal :=
  vecOp s (.vquant f) (fun x =>
    let q := quantIn f x
    let nv := joinFlags (q.map (fun e => nvFlags e.2.1 e.2.2))
    if f.fmt == .i4x then
      let r := i4xQuad f (q.map Prod.fst)
      { val := r.1 * 2 ^ (16 * partOf f), flags := r.2 ||| nv }
    else
      let k := q.length
      let r := mapElems f.fmt (fun i =>
        if i < partOf f * k || (partOf f + 1) * k ≤ i then (0, 0#6)
        else roundTo f.fmt f.rnd f.fzo f.sat ((q.map Prod.fst).getD (i - partOf f * k) (zeroV false)))
      { val := r.1, flags := r.2 ||| nv })

end Sys2Proof.Machine
end

