-- ==== Sys2Proof/Machine/VecLanes.lean ====
section
/-! DEFINITION. Lane moves, reductions, scans, votes, indirect registers and predicates (R372-R382). -/

namespace Sys2Proof.Machine

open Sys2Proof

/-! ### Segments (R373) -/

/-- The segment size S. -/
def segSize (c : Ctx) (seg : Nat) : Nat :=
  let n := if seg == 0 then c.width else 2 ^ seg
  if c.cg16 then min n 16 else n

def segBase (size l : Nat) : Nat := l - l % size

/-- The tag of a lane move: A's, else FMT (R374). -/
def laneTag (f : VFields) (c : Ctx) (cr : Crew) (_ : VSpec) : Fmt := (c.tagOf cr f.a.toNat).getD f.fmt

/-- SEG of a move: AUX [5:2]. -/
def moveSeg (f : VFields) : Nat := fld f.aux.toNat 2 4

/-- The lane that a VSHUF pulls from (R375). -/
def shufSource (mode size l b : Nat) : Nat :=
  let base := segBase size l
  let src : Int := match mode with
    | 0 => (base : Int) + b
    | 1 => (l : Int) - b
    | 2 => (l : Int) + b
    | _ => ((l ^^^ b : Nat) : Int)
  if src < base || (base + size : Nat) ≤ src then l else src.toNat

/-- VSHUF (R375). -/
def execVshuf (f : VFields) (s : State) : Host.Outcome State Fault Refusal :=
  vecRun s (.vshuf f) (laneTag f) 0 true (fun x =>
    { val := x.aOf (shufSource (fld f.aux.toNat 0 2) (segSize x.c (moveSeg f)) x.l (x.b % 2 ^ 32)) })

/-- VPERM (R376): the highest lane that sends to this one; without one, nothing is written. -/
def execVperm (f : VFields) (s : State) : Host.Outcome State Fault Refusal :=
  vecRun s (.vperm f) (laneTag f) 0 true (fun x =>
    let size := segSize x.c (moveSeg f)
    let sends (l : Nat) : Bool :=
      let b := x.bOf l % 2 ^ 32
      decide (b < size) && segBase size l + b == x.l
    match (x.all.filter sends).getLast? with
    | some l => { val := x.aOf l }
    | none => { wr := false })

/-- VBCAST (R377). -/
def execVbcast (f : VFields) (s : State) : Host.Outcome State Fault Refusal :=
  vecRun s (.vbcast f) (laneTag f) 0 true (fun x =>
    let size := segSize x.c (moveSeg f)
    { val := x.aOf (segBase size x.l + x.b % 2 ^ 32 % size) })

/-! ### Reductions and scans (R378) -/

/-- SEG of a reduction: AUX [6:3]. -/
def redSeg (f : VFields) : Nat := fld f.aux.toNat 3 4

def redOp (f : VFields) : Nat := fld f.aux.toNat 0 3

/-- One floating-point combination of two prepared elements (R378). -/
def combFloat (f : VFields) (a b : Nat) : Nat × Flags :=
  let x := decodeF f.fmt a
  let y := decodeF f.fmt b
  match redOp f with
  | 0 => roundF f (addV f.rnd x y) [x, y]
  | 1 => roundF f (minV x y, false) [x, y]
  | _ => roundF f (maxV x y, false) [x, y]

/-- One integer combination of two elements; ADD is summed apart, exactly. -/
def combInt (f : VFields) (a b : Nat) : Nat :=
  let lt := decide (intVal f.fmt a < intVal f.fmt b)
  match redOp f with
  | 1 => if lt then a else b
  | 2 => if lt then b else a
  | 3 => a &&& b
  | 4 => a ||| b
  | _ => a ^^^ b

/-- An input of a reduction or scan: FZI flushes a subnormal element, and a NaN element becomes the canonical
NaN of the format (R298, R300, R378). -/
def redInput (f : VFields) (v : Nat) : Nat × Flags :=
  if f.fmt.isFloat then
    mapElems f.fmt (fun i =>
      let e := elemAt f.fmt v i
      let x := decodeF f.fmt e
      match x with
      | .nan _ => roundF f (x, false) [x]
      | _ => if f.fzi && x.isSubnormal f.fmt then (e &&& f.fmt.signBit, 0#6) else (e, 0#6))
  else (v, 0#6)

/-- Two registers combined element by element, with the flags so far. -/
def combReg (f : VFields) (a b : Nat × Flags) : Nat × Flags :=
  let r := mapElems f.fmt (fun i =>
    let x := elemAt f.fmt a.1 i
    let y := elemAt f.fmt b.1 i
    if f.fmt.isFloat then combFloat f x y else (combInt f x y, 0#6))
  (r.1, r.2 ||| a.2 ||| b.2)

/-- The exact sum of integer elements, wrapped or clamped once (R378). -/
def intSum (f : VFields) (vs : List Nat) : Nat × Flags :=
  mapElems f.fmt (fun i =>
    intInto f.fmt f.sat (vs.foldl (fun t v => t + intVal f.fmt (elemAt f.fmt v i)) 0))

/-- An absent operand passes the other through (R378). -/
def combOpt (f : VFields) (a b : Option (Nat × Flags)) : Option (Nat × Flags) :=
  match a, b with
  | some x, some y => some (combReg f x y)
  | some x, none => some x
  | none, y => y

/-- One level of the tree. -/
def treeLevel (f : VFields) : List (Option (Nat × Flags)) → List (Option (Nat × Flags))
  | a :: b :: r => combOpt f a b :: treeLevel f r
  | l => l

/-- The fixed tree over a segment: as many levels as leave one operand (R378). -/
def treeOf (f : VFields) : Nat → List (Option (Nat × Flags)) → Option (Nat × Flags)
  | 0, l => l.headD none
  | n + 1, l => treeOf f n (treeLevel f l)

def isIntAdd (f : VFields) : Bool := !f.fmt.isFloat && redOp f == 0

/-- VRED (R378). -/
def execVred (f : VFields) (s : State) : Host.Outcome State Fault Refusal :=
  vecRun s (.vred f) rowTag 0 true (fun x =>
    let size := segSize x.c (redSeg f)
    let base := segBase size x.l
    let vals := (List.range size).map (fun j =>
      if x.all.contains (base + j) then some (x.aOf (base + j)) else none)
    if isIntAdd f then outOf (intSum f (vals.filterMap id))
    else outOf ((treeOf f size (vals.map (fun v => v.map (redInput f)))).getD (0, 0#6)))

/-- The identity of an operation (R378). -/
def redIdentity (f : VFields) : Nat :=
  let w := f.fmt.width
  let e := match redOp f with
    | 1 => if f.fmt.isFloat then f.fmt.infBits else wrapBits w f.fmt.intMax
    | 2 => if f.fmt.isFloat then f.fmt.infBits + f.fmt.signBit else wrapBits w f.fmt.intMin
    | 3 => allOnes w
    | _ => 0
  packElems w (List.replicate f.fmt.elems e)

/-- Values combined from the left, one rounding a step (R378). -/
def scanFrom (f : VFields) : List Nat → Option (Nat × Flags)
  | [] => none
  | v :: vs => some (vs.foldl (fun acc w => combReg f acc (redInput f w)) (redInput f v))

/-- VSCAN (R378): AUX [7] leaves the lane itself out. -/
def execVscan (f : VFields) (s : State) : Host.Outcome State Fault Refusal :=
  vecRun s (.vscan f) rowTag 0 true (fun x =>
    let size := segSize x.c (redSeg f)
    let base := segBase size x.l
    let excl := bitAt f.aux.toNat 7
    let vs := ((List.range size).filter (fun j =>
      x.all.contains (base + j) && (decide (base + j < x.l) || (!excl && base + j == x.l)))).map
        (fun j => x.aOf (base + j))
    if vs.isEmpty then { val := redIdentity f }
    else if isIntAdd f then outOf (intSum f vs)
    else outOf ((scanFrom f vs).getD (0, 0#6)))

/-- VVOTE (R379): AUX [3:0] Ps, [4] NEG, [6:5] MODE. -/
def execVvote (f : VFields) (s : State) : Host.Outcome State Fault Refusal :=
  vecRun s (.vvote f) rowTag 0 true (fun x =>
    let k := fld f.aux.toNat 0 4
    let neg := bitAt f.aux.toNat 4
    let holds (l : Nat) : Bool := readP x.c.tm x.c.fr x.p.start k l != neg
    let group := if x.c.cg16 then 16 else 32
    let base := segBase group x.l
    let near := if x.c.cg16 then x.all.filter (fun l => segBase 16 l == base) else x.all
    let val := match fld f.aux.toNat 5 2 with
      | 0 => (List.range group).foldl (fun r j =>
          if x.all.contains (base + j) && holds (base + j) then r + 2 ^ j else r) 0
      | 1 => if near.any holds then 1 else 0
      | 2 => if near.all holds then 1 else 0
      | _ => (near.filter holds).length
    { val := val })

/-! ### Indirect registers (R380) -/

/-- The least lane of the passes whose index lies outside the window. -/
def badIndex (c : Ctx) (cr : Crew) (i : Instr) (sp : VSpec) (r : Nat) : Option Nat :=
  let bad (p : Pass) : List Nat :=
    p.lanes.filter (fun l => decide (r ≤ vecSource c cr p (vSources (vFieldsOf i) sp) 2 l % 2 ^ 32))
  (c.vPasses.flatMap bad).head?

/-- The frame of VGETI and VSETI: the checks at issue, then the effect. -/
def windowRun (s : State) (i : Instr) (next : Ctx → VSpec → State) : Host.Outcome State Fault Refusal :=
  runSlot s .v (fun c =>
    match vSpec c.width i with
    | none => .ok s
    | some sp =>
      let cr := c.crew s
      if idle c.vPasses then .ok s
      else
        match vecFault c cr i sp, badIndex c cr i sp ((vFieldsOf i).aux.toNat + 1) with
        | some e, _ => .error e
        | none, some l => .error { code := .regBounds, lane := l }
        | none, none => .ok (next c sp))

/-- VGETI (R380). -/
def execVgeti (f : VFields) (s : State) : Host.Outcome State Fault Refusal :=
  windowRun s (.vgeti f) (fun c sp =>
    vecNext s c (.vgeti f) sp f.fmt 0 false (fun x =>
      { val := readV x.c.tm x.c.fr x.p.start (f.a.toNat + x.b % 2 ^ 32) x.l }))

/-- The writes of one pass of a VSETI: one result for each register of the window that a lane names. -/
def setiResults (c : Ctx) (cr : Crew) (f : VFields) (sp : VSpec) (p : Pass) : List PendRes :=
  let src := vecSource c cr p (vSources f sp)
  (List.range (f.aux.toNat + 1)).filterMap (fun r =>
    let ls := p.lanes.filter (fun l => src 2 l % 2 ^ 32 == r)
    if ls.isEmpty then none
    else some { due := p.base + sp.lat, from_ := p.start, dest := .vreg (f.d.toNat + r), word := p.w
                vals := ls.map (fun l => (l, BitVec.ofNat 64 (src 1 l))), tag := some f.fmt })

/-- VSETI (R380). -/
def execVseti (f : VFields) (s : State) : Host.Outcome State Fault Refusal :=
  windowRun s (.vseti f) (fun c sp =>
    let cr := c.crew s
    let codes := (vSources f sp).map (fun q => q.2.1)
    (popPorts (s.land c.t (c.vPasses.flatMap (setiResults c cr f sp))) c.t codes).bump)

/-! ### Predicates (R381, R382) -/

/-- PLOGIC (R381): the S register names Pd, Pa, Pb and Pc. -/
def execPlogic (f : VFields) (s : State) : Host.Outcome State Fault Refusal :=
  runSlot s .v (fun c =>
    let k := c.sreg (f.a.toNat - 0x600)
    let pd := fld k 0 4
    if idle c.vPasses then .ok s
    else if 2 ^ 16 ≤ k || pd == 0 then .error (flt .illegalOperand)
    else
      let bit (p : Pass) (lo l : Nat) : Nat := if readP c.tm c.fr p.start (fld k lo 4) l then 1 else 0
      let one (p : Pass) : List PendRes :=
        pResult p pd 3 (p.lanes.map (fun l =>
          (l, bitAt f.aux.toNat (4 * bit p 4 l + 2 * bit p 8 l + bit p 12 l)))) .v
      .ok (s.land c.t (c.vPasses.flatMap one)).bump)

/-- PSETL (R382): AUX [3:0] Pd, [5:4] MODE. -/
def execPsetl (f : VFields) (s : State) : Host.Outcome State Fault Refusal :=
  vecOpP s (.psetl f) (fld f.aux.toNat 0 4) (fun x =>
    let a := intVal f.fmt x.a
    let p := match fld f.aux.toNat 4 2 with
      | 0 => decide ((x.l : Int) < a)
      | 1 => decide (a ≤ (x.l : Int))
      | _ => bitAt x.a (x.l % 32)
    { pred := some p })

end Sys2Proof.Machine
end

