-- ==== Sys2Proof/Machine/VecSpecial.lean ====
section
/-! DEFINITION. The special functions (R362-R364). VRCP, VRSQ and VSQRT are correctly rounded. The
others are exact where R363 and R364 say so; elsewhere the result is one of the values within the bound
of R363, chosen by a free constant (log 6). The bound is measured from a value computed to far more
bits than any format has. -/

namespace Sys2Proof.Machine

open Sys2Proof

/-! ### Correctly rounded functions -/

/-- floor of the square root, by bits from 2^b down. -/
def sqrtBits (n r : Nat) : Nat → Nat
  | 0 => r
  | b + 1 => if (r + 2 ^ b) * (r + 2 ^ b) ≤ n then sqrtBits n (r + 2 ^ b) b else sqrtBits n r b

def isqrt (n : Nat) : Nat := sqrtBits n 0 (Nat.log2 n / 2 + 1)

/-- A positive value as mantissa and exponent, with whether it is exact. -/
structure Approx where
  m : Nat
  e : Int
  sticky : Bool

/-- 1 / (m × 2^e) to 64 bits or more. -/
def recipApprox (m : Nat) (e : Int) : Approx :=
  let k := 64 + Nat.log2 m
  ⟨2 ^ k / m, -(k : Int) - e, 2 ^ k % m != 0⟩

/-- The square root of m × 2^e. -/
def sqrtApprox (m : Nat) (e : Int) : Approx :=
  let odd := e % 2 != 0
  let m' := (if odd then 2 * m else m) * 2 ^ 128
  let e' := (if odd then e - 1 else e) - 128
  let r := isqrt m'
  ⟨r, e' / 2, r * r != m'⟩

/-- 1 / sqrt (m × 2^e). -/
def rsqrtApprox (m : Nat) (e : Int) : Approx :=
  let odd := e % 2 != 0
  let m' := if odd then 2 * m else m
  let e' := if odd then e - 1 else e
  let k := 64 + Nat.log2 m'
  let r := isqrt (2 ^ (2 * k) / m')
  ⟨r, -(k : Int) - e' / 2, r * r * m' != 2 ^ (2 * k)⟩

/-- A finite result that saturation clamps differs from the exact one, which sets NX (R363). -/
def clampedNX (r : Nat × Flags) : Nat × Flags := (r.1, r.2 ||| flagIf (r.2 &&& flSATD != 0#6) flNX)

/-- An approximation rounded once. -/
def roundApprox (f : VFields) (neg : Bool) (a : Approx) : Nat × Flags :=
  clampedNX (encodeFin f.fmt f.rnd f.fzo f.sat neg a.m a.e a.sticky)

/-! ### The other functions, as values of high precision -/

/-- Fraction bits of the working precision. -/
def workBits : Nat := 256

def one_ : Nat := 2 ^ workBits

/-- Product of two fixed-point numbers. -/
def fixMul (x y : Nat) : Nat := x * y / one_

/-- artanh (1 / n). -/
def atanhInv (n : Nat) : Nat :=
  (List.range 90).foldl (fun s i => s + one_ / ((2 * i + 1) * n ^ (2 * i + 1))) 0

/-- arctan (1 / n). -/
def atanInv (n : Nat) : Nat :=
  let t (i : Nat) : Nat := one_ / ((2 * i + 1) * n ^ (2 * i + 1))
  ((List.range 120).foldl (fun (s : Int) i => if i % 2 == 0 then s + t i else s - t i) 0).toNat

/-- ln 2 = 2 artanh (1/3). -/
def lnTwo : Nat := 2 * atanhInv 3

/-- pi = 16 arctan (1/5) - 4 arctan (1/239). -/
def piFix : Nat := 16 * atanInv 5 - 4 * atanInv 239

/-- exp of a fixed-point number in [0, 1). -/
def expFix (x : Nat) : Nat :=
  ((List.range 60).foldl (fun (acc : Nat × Nat) i =>
    (acc.1 + acc.2, fixMul acc.2 x / (i + 1))) (0, one_)).1

/-- sin of a fixed-point number in [0, 2]. -/
def sinFix (x : Nat) : Nat :=
  let x2 := fixMul x x
  ((List.range 50).foldl (fun (acc : Int × Nat) i =>
    (if i % 2 == 0 then acc.1 + acc.2 else acc.1 - acc.2,
      fixMul acc.2 x2 / ((2 * i + 2) * (2 * i + 3)))) ((0 : Int), x)).1.toNat

/-- A dyadic number as fixed point, bits below the working precision dropped. -/
def toFix (d : Dy) : Int :=
  let p : Int := d.e + workBits
  if 0 ≤ p then d.m * (2 ^ p.toNat : Nat) else d.m / (2 ^ (-p).toNat : Nat)

/-- 2^x; beyond 400 in magnitude the nearest such power stands for it. -/
def exp2Val (d : Dy) : Dy :=
  if Dy.lt ⟨400, 0⟩ d then ⟨1, 400⟩
  else if Dy.lt d ⟨-400, 0⟩ then ⟨1, -400⟩
  else
    let x := toFix d
    let n := x / (one_ : Nat)
    let r := (x % (one_ : Nat)).toNat
    ⟨expFix (fixMul r lnTwo), n - workBits⟩

/-- Bits of log2 of a fixed-point number in [1, 2), by squaring. -/
def log2Bits_ (t : Nat) : Nat → Nat → Nat
  | 0, acc => acc
  | k + 1, acc =>
    let q := fixMul t t
    if 2 * one_ ≤ q then log2Bits_ (q / 2) k (2 * acc + 1) else log2Bits_ q k (2 * acc)

/-- log2 of m × 2^e, to 100 bits below the point. -/
def log2Val (m : Nat) (e : Int) : Dy :=
  let k := Nat.log2 m
  let t := m * one_ / 2 ^ k
  ⟨((k : Int) + e) * (2 ^ 100 : Nat) + (log2Bits_ t 100 0 : Nat), -100⟩

/-- A dyadic number modulo 2, as a numerator over 2^e for e < 0. -/
def modTwo (d : Dy) : Dy :=
  if 1 ≤ d.e then Dy.zero
  else ⟨d.m % (2 ^ ((-d.e).toNat + 1) : Nat), d.e⟩

/-- sin (pi x): x is reduced modulo 2, then to the first half turn. -/
def sinpVal (d : Dy) : Dy :=
  let x := (toFix (modTwo d)).toNat
  let neg := decide (one_ ≤ x)
  let y := if neg then x - one_ else x
  let z := if 2 * y ≤ one_ then y else one_ - y
  let v : Int := sinFix (fixMul z piFix)
  ⟨if neg then -v else v, -workBits⟩

/-- cos (pi x) = sin (pi (x + 1/2)). -/
def cospVal (d : Dy) : Dy := sinpVal (d.add ⟨1, -1⟩)

/-- tanh of a positive number. -/
def tanhVal (d : Dy) : Dy :=
  if Dy.lt ⟨64, 0⟩ d then ⟨(one_ : Nat) - 1, -workBits⟩
  else
    let x := (toFix d).toNat
    let h := x / 128
    -- exp (2x) = exp (x / 64) ^ 128, as exp - 1 to keep small arguments exact to many bits
    let e := (List.range 7).foldl (fun v _ => 2 * v + fixMul v v) (expFix (2 * h) - one_)
    ⟨e * one_ / (e + 2 * one_), -workBits⟩

/-! ### Choosing a result within the bound (R363) -/

/-- The mantissa has no more bits than the format's. -/
def fitsUnbounded (f : Fmt) (v : Dy) : Bool :=
  v.m == 0 ||
    (let n := v.m.natAbs
     let low := Nat.log2 n - f.layout.mb
     n % 2 ^ low == 0)

/-- The exponent of one ulp of the exact result (R363). -/
def ulpExp (f : Fmt) (y : Dy) : Int := max y.exponent (1 - (f.layout.bias : Int)) - f.layout.mb

/-- The values of the format, with an unbounded exponent above, that lie nearer than `bound` ulp. -/
def candidates (f : Fmt) (bound : Nat) (y : Dy) : List Dy :=
  let q := ulpExp f y
  let base : Int := if q - 1 ≤ y.e then y.at_ (q - 1) else y.m / (2 ^ (q - 1 - y.e).toNat : Nat)
  let grid := (List.range (4 * bound + 2)).map (fun i => (⟨base - 2 * bound + (i : Nat), q - 1⟩ : Dy))
  grid.filter (fun v =>
    let d := v.add y.neg
    let emin : Int := 1 - (f.layout.bias : Int)
    fitsUnbounded f v && Dy.lt ⟨d.m.natAbs, d.e⟩ ⟨bound, q⟩
      && (v.m == 0 || decide (emin ≤ v.exponent) || v.m % 2 == 0))

/-- The chosen value as a result: NX always, since the exact result is no number of the format; UF when
it is tiny; overflow by R301 (R363). -/
def chosenResult (f : VFields) (op e : Nat) (y : Dy) : Nat × Flags :=
  let cs := candidates f.fmt (if f.fmt == .fp32 then 2 else 1) y
  let pick := Config.specialPick op f.fmt f.rnd f.fzi f.fzo (BitVec.ofNat 32 e)
  let v := cs.getD (pick % cs.length) y
  let tiny := decide (v.exponent < 1 - (f.fmt.layout.bias : Int)) || v.m == 0
  let neg := decide (y.m < 0)
  if tiny then
    if f.fzo || v.m == 0 then (if neg then f.fmt.signBit else 0, flUF ||| flNX)
    else ((encodeFin f.fmt f.rnd false f.sat neg v.m.natAbs v.e).1, flUF ||| flNX)
  else
    let r := encodeFin f.fmt f.rnd f.fzo f.sat neg v.m.natAbs v.e
    (r.1, r.2 ||| flNX)

/-! ### The functions (R362, R364) -/

def nanNV (f : VFields) : Nat × Flags := (f.fmt.canonNaN, flNV)

def infOf (f : VFields) (neg : Bool) : Nat := f.fmt.infBits + (if neg then f.fmt.signBit else 0)

def zeroOf (f : VFields) (neg : Bool) : Nat := if neg then f.fmt.signBit else 0

/-- ±1 in the format. -/
def oneOf (f : VFields) (neg : Bool) : Nat :=
  f.fmt.layout.bias * 2 ^ f.fmt.layout.mb + (if neg then f.fmt.signBit else 0)

/-- A special function per element of its prepared input and that input's encoding: NaN inputs give the
canonical NaN, a signalling one sets NV (R362, R364). -/
def specialElems (f : VFields) (g : FVal → Nat → Nat × Flags) (x : LaneIn) : LaneOut :=
  outOf (mapElems f.fmt (fun i =>
    let v := prepF f f.fmt 0 (elemAt f.fmt x.a i)
    match v with
    | .nan s => (f.fmt.canonNaN, flagIf s flNV)
    | _ => g v (encodeF f.fmt .rne false false v).1))

/-- VRCP (R363, R364). -/
def execVrcp (f : VFields) (s : State) : Host.Outcome State Fault Refusal :=
  vecOp s (.vrcp f) (specialElems f (fun v _ =>
    match v with
    | .inf n => (zeroOf f n, 0#6)
    | .fin n m e => if m == 0 then (infOf f n, flDZ) else roundApprox f n (recipApprox m e)
    | .nan _ => nanNV f))

/-- VRSQ (R363, R364). -/
def execVrsq (f : VFields) (s : State) : Host.Outcome State Fault Refusal :=
  vecOp s (.vrsq f) (specialElems f (fun v _ =>
    match v with
    | .inf n => if n then nanNV f else (0, 0#6)
    | .fin n m e =>
      if m == 0 then (infOf f n, flDZ)
      else if n then nanNV f
      else roundApprox f false (rsqrtApprox m e)
    | .nan _ => nanNV f))

/-- VSQRT (R363, R364). -/
def execVsqrt (f : VFields) (s : State) : Host.Outcome State Fault Refusal :=
  vecOp s (.vsqrt f) (specialElems f (fun v _ =>
    match v with
    | .inf n => if n then nanNV f else (infOf f false, 0#6)
    | .fin n m e =>
      if m == 0 then (zeroOf f n, 0#6)
      else if n then nanNV f
      else roundApprox f false (sqrtApprox m e)
    | .nan _ => nanNV f))

/-- An integer value, if the number is one. -/
def intOf (d : Dy) : Option Int :=
  if 0 ≤ d.e then some (d.m * (2 ^ d.e.toNat : Nat))
  else if d.m % (2 ^ (-d.e).toNat : Nat) == 0 then some (d.m / (2 ^ (-d.e).toNat : Nat)) else none

/-- A number of moderate size: beyond it, powers of two leave every format. -/
def moderate (d : Dy) : Bool := Dy.lt ⟨d.m.natAbs, d.e⟩ ⟨400, 0⟩

/-- VEXP2 (R363, R364): exact at an integer whose power is representable; a power above every finite value
overflows. -/
def execVexp2 (f : VFields) (s : State) : Host.Outcome State Fault Refusal :=
  vecOp s (.vexp2 f) (specialElems f (fun v i =>
    match v with
    | .inf n => (if n then 0 else infOf f false, 0#6)
    | .fin n m e =>
      let d := (FVal.fin n m e).dy
      let whole := if moderate d then intOf d else none
      match whole with
      | some k =>
        if (exactIn f.fmt ⟨1, k⟩).isSome || decide ((f.fmt.layout.bias : Int) < k) then
          clampedNX (encodeFin f.fmt f.rnd f.fzo f.sat false 1 k)
        else chosenResult f 3 i (exp2Val d)
      | none => chosenResult f 3 i (exp2Val d)
    | .nan _ => nanNV f))

/-- VLOG2 (R363, R364): exact at a power of two. -/
def execVlog2 (f : VFields) (s : State) : Host.Outcome State Fault Refusal :=
  vecOp s (.vlog2 f) (specialElems f (fun v i =>
    match v with
    | .inf n => if n then nanNV f else (infOf f false, 0#6)
    | .fin n m e =>
      if m == 0 then (infOf f true, flDZ)
      else if n then nanNV f
      else if m == 2 ^ Nat.log2 m then
        let k : Int := (Nat.log2 m : Int) + e
        encodeF f.fmt f.rnd f.fzo f.sat (Dy.val ⟨k, 0⟩)
      else chosenResult f 4 i (log2Val m e)
    | .nan _ => nanNV f))

/-- Twice the number, if that is an integer. -/
def halvesOf (d : Dy) : Option Int := intOf ⟨d.m, d.e + 1⟩

/-- VSINP (R363, R364): exact at integers and half-integers. -/
def execVsinp (f : VFields) (s : State) : Host.Outcome State Fault Refusal :=
  vecOp s (.vsinp f) (specialElems f (fun v i =>
    match v with
    | .inf _ => nanNV f
    | .fin n m e =>
      let d := (FVal.fin n m e).dy
      match halvesOf (if 2 ≤ e then Dy.zero else d) with
      | some h =>
        if h % 2 == 0 then (zeroOf f n, 0#6)
        else (oneOf f (h % 4 == 3), 0#6)
      | none => chosenResult f 5 i (sinpVal d)
    | .nan _ => nanNV f))

/-- VCOSP (R363, R364). -/
def execVcosp (f : VFields) (s : State) : Host.Outcome State Fault Refusal :=
  vecOp s (.vcosp f) (specialElems f (fun v i =>
    match v with
    | .inf _ => nanNV f
    | .fin n m e =>
      let d := (FVal.fin n m e).dy
      match halvesOf (if 2 ≤ e then Dy.zero else d) with
      | some h =>
        if h % 2 == 0 then (oneOf f (h % 4 == 2), 0#6) else (0, 0#6)
      | none => chosenResult f 6 i (cospVal d)
    | .nan _ => nanNV f))

/-- VTANH (R363, R364). -/
def execVtanh (f : VFields) (s : State) : Host.Outcome State Fault Refusal :=
  vecOp s (.vtanh f) (specialElems f (fun v i =>
    match v with
    | .inf n => (oneOf f n, 0#6)
    | .fin n m e =>
      if m == 0 then (zeroOf f n, 0#6)
      else
        let y := tanhVal ⟨m, e⟩
        chosenResult f 7 i (if n then y.neg else y)
    | .nan _ => nanNV f))

end Sys2Proof.Machine
end

