-- ==== Sys2Proof/Machine/Dispatch.lean ====
section
/-! DEFINITION. One arm for every constructor of Instr: its meaning. -/

namespace Sys2Proof.Machine

open Sys2Proof

def exec (i : Instr) (s : State) : Host.Outcome State Fault Refusal :=
  match i with
  | .vadd f => Sys2Proof.Machine.execVadd f s
  | .vsub f => Sys2Proof.Machine.execVsub f s
  | .vmul f => Sys2Proof.Machine.execVmul f s
  | .vmulh f => Sys2Proof.Machine.execVmulh f s
  | .vmad f => Sys2Proof.Machine.execVmad f s
  | .vaddc f => Sys2Proof.Machine.execVaddc f s
  | .vsubb f => Sys2Proof.Machine.execVsubb f s
  | .vmin f => Sys2Proof.Machine.execVmin f s
  | .vmax f => Sys2Proof.Machine.execVmax f s
  | .vabsd f => Sys2Proof.Machine.execVabsd f s
  | .vdot4 f => Sys2Proof.Machine.execVdot4 f s
  | .vand f => Sys2Proof.Machine.execVand f s
  | .vor f => Sys2Proof.Machine.execVor f s
  | .vxor f => Sys2Proof.Machine.execVxor f s
  | .vandn f => Sys2Proof.Machine.execVandn f s
  | .vnot f => Sys2Proof.Machine.execVnot f s
  | .vshl f => Sys2Proof.Machine.execVshl f s
  | .vshr f => Sys2Proof.Machine.execVshr f s
  | .vsar f => Sys2Proof.Machine.execVsar f s
  | .vrot f => Sys2Proof.Machine.execVrot f s
  | .vbfx f => Sys2Proof.Machine.execVbfx f s
  | .vbfi f => Sys2Proof.Machine.execVbfi f s
  | .vpopc f => Sys2Proof.Machine.execVpopc f s
  | .vclz f => Sys2Proof.Machine.execVclz f s
  | .vbrev f => Sys2Proof.Machine.execVbrev f s
  | .vlop3 f => Sys2Proof.Machine.execVlop3 f s
  | .vcmp f => Sys2Proof.Machine.execVcmp f s
  | .vsel f => Sys2Proof.Machine.execVsel f s
  | .vfclass f => Sys2Proof.Machine.execVfclass f s
  | .vmov f => Sys2Proof.Machine.execVmov f s
  | .vmovp f => Sys2Proof.Machine.execVmovp f s
  | .vfadd f => Sys2Proof.Machine.execVfadd f s
  | .vfsub f => Sys2Proof.Machine.execVfsub f s
  | .vfmul f => Sys2Proof.Machine.execVfmul f s
  | .vfma f => Sys2Proof.Machine.execVfma f s
  | .vfmin f => Sys2Proof.Machine.execVfmin f s
  | .vfmax f => Sys2Proof.Machine.execVfmax f s
  | .vfcmp f => Sys2Proof.Machine.execVfcmp f s
  | .vfdot2 f => Sys2Proof.Machine.execVfdot2 f s
  | .vfdot4 f => Sys2Proof.Machine.execVfdot4 f s
  | .vrcp f => Sys2Proof.Machine.execVrcp f s
  | .vrsq f => Sys2Proof.Machine.execVrsq f s
  | .vsqrt f => Sys2Proof.Machine.execVsqrt f s
  | .vexp2 f => Sys2Proof.Machine.execVexp2 f s
  | .vlog2 f => Sys2Proof.Machine.execVlog2 f s
  | .vsinp f => Sys2Proof.Machine.execVsinp f s
  | .vcosp f => Sys2Proof.Machine.execVcosp f s
  | .vtanh f => Sys2Proof.Machine.execVtanh f s
  | .vcvt f => Sys2Proof.Machine.execVcvt f s
  | .vpack f => Sys2Proof.Machine.execVpack f s
  | .vunpk f => Sys2Proof.Machine.execVunpk f s
  | .vquant f => Sys2Proof.Machine.execVquant f s
  | .vdeq f => Sys2Proof.Machine.execVdeq f s
  | .vscale f => Sys2Proof.Machine.execVscale f s
  | .vshuf f => Sys2Proof.Machine.execVshuf f s
  | .vperm f => Sys2Proof.Machine.execVperm f s
  | .vbcast f => Sys2Proof.Machine.execVbcast f s
  | .vred f => Sys2Proof.Machine.execVred f s
  | .vscan f => Sys2Proof.Machine.execVscan f s
  | .vvote f => Sys2Proof.Machine.execVvote f s
  | .vgeti f => Sys2Proof.Machine.execVgeti f s
  | .vseti f => Sys2Proof.Machine.execVseti f s
  | .plogic f => Sys2Proof.Machine.execPlogic f s
  | .psetl f => Sys2Proof.Machine.execPsetl f s
  | .tld f => Sys2Proof.Machine.execTld f s
  | .tst f => Sys2Proof.Machine.execTst f s
  | .tred f => Sys2Proof.Machine.execTred f s
  | .rold f => Sys2Proof.Machine.execRold f s
  | .sld f => Sys2Proof.Machine.execSld f s
  | .sst f => Sys2Proof.Machine.execSst f s
  | .aadd f => Sys2Proof.Machine.execAadd f s
  | .afadd f => Sys2Proof.Machine.execAfadd f s
  | .amin f => Sys2Proof.Machine.execAmin f s
  | .amax f => Sys2Proof.Machine.execAmax f s
  | .aand f => Sys2Proof.Machine.execAand f s
  | .aor f => Sys2Proof.Machine.execAor f s
  | .axor f => Sys2Proof.Machine.execAxor f s
  | .axchg f => Sys2Proof.Machine.execAxchg f s
  | .acas f => Sys2Proof.Machine.execAcas f s
  | .saadd f => Sys2Proof.Machine.execSaadd f s
  | .safadd f => Sys2Proof.Machine.execSafadd f s
  | .samin f => Sys2Proof.Machine.execSamin f s
  | .samax f => Sys2Proof.Machine.execSamax f s
  | .saand f => Sys2Proof.Machine.execSaand f s
  | .saor f => Sys2Proof.Machine.execSaor f s
  | .saxor f => Sys2Proof.Machine.execSaxor f s
  | .saxchg f => Sys2Proof.Machine.execSaxchg f s
  | .sacas f => Sys2Proof.Machine.execSacas f s
  | .accld f => Sys2Proof.Machine.execAccld f s
  | .accst f => Sys2Proof.Machine.execAccst f s
  | .radv f => Sys2Proof.Machine.execRadv f s
  | .rstat f => Sys2Proof.Machine.execRstat f s
  | .gcfg f => Sys2Proof.Machine.execGcfg f s
  | .gskip f => Sys2Proof.Machine.execGskip f s
  | .acq f => Sys2Proof.Machine.execAcq f s
  | .rel f => Sys2Proof.Machine.execRel f s
  | .fence f => Sys2Proof.Machine.execFence f s
  | .invro f => Sys2Proof.Machine.execInvro f s
  | .copy f => Sys2Proof.Machine.execCopy f s
  | .copyg f => Sys2Proof.Machine.execCopyg f s
  | .copys f => Sys2Proof.Machine.execCopys f s
  | .fill f => Sys2Proof.Machine.execFill f s
  | .mma f => Sys2Proof.Machine.execMma f s
  | .mmas f => Sys2Proof.Machine.execMmas f s
  | .accz f => Sys2Proof.Machine.execAccz f s
  | .accout f => Sys2Proof.Machine.execAccout f s
  | .coll f => Sys2Proof.Machine.execColl f s
  | .lvreq f => Sys2Proof.Machine.execLvreq f s
  | .lfma f => Sys2Proof.Machine.execLfma f s
  | .ladd f => Sys2Proof.Machine.execLadd f s
  | .lmul f => Sys2Proof.Machine.execLmul f s
  | .liadd f => Sys2Proof.Machine.execLiadd f s
  | .limul f => Sys2Proof.Machine.execLimul f s
  | .llogic f => Sys2Proof.Machine.execLlogic f s
  | .br off => Sys2Proof.Machine.execBr off s
  | .brp k off => Sys2Proof.Machine.execBrp k off s
  | .brs k off => Sys2Proof.Machine.execBrs k off s
  | .brf k off => Sys2Proof.Machine.execBrf k off s
  | .brm off => Sys2Proof.Machine.execBrm off s
  | .call k off => Sys2Proof.Machine.execCall k off s
  | .ret a => Sys2Proof.Machine.execRet a s
  | .jmpi a b => Sys2Proof.Machine.execJmpi a b s
  | .loop k off => Sys2Proof.Machine.execLoop k off s
  | .pushm p neg => Sys2Proof.Machine.execPushm p neg s
  | .invm => Sys2Proof.Machine.execInvm s
  | .popm => Sys2Proof.Machine.execPopm s
  | .setm p neg => Sys2Proof.Machine.execSetm p neg s
  | .split k off => Sys2Proof.Machine.execSplit k off s
  | .join => Sys2Proof.Machine.execJoin s
  | .regroup d a => Sys2Proof.Machine.execRegroup d a s
  | .sadd d a b => Sys2Proof.Machine.execSadd d a b s
  | .ssub d a b => Sys2Proof.Machine.execSsub d a b s
  | .smul d a b => Sys2Proof.Machine.execSmul d a b s
  | .sand d a b => Sys2Proof.Machine.execSand d a b s
  | .sor d a b => Sys2Proof.Machine.execSor d a b s
  | .sxor d a b => Sys2Proof.Machine.execSxor d a b s
  | .sshl d a b => Sys2Proof.Machine.execSshl d a b s
  | .sshr d a b => Sys2Proof.Machine.execSshr d a b s
  | .ssar d a b => Sys2Proof.Machine.execSsar d a b s
  | .ssel d a b => Sys2Proof.Machine.execSsel d a b s
  | .smulh d a b sgn => Sys2Proof.Machine.execSmulh d a b sgn s
  | .smin d a b sgn => Sys2Proof.Machine.execSmin d a b sgn s
  | .smax d a b sgn => Sys2Proof.Machine.execSmax d a b sgn s
  | .scmp d a b cond => Sys2Proof.Machine.execScmp d a b cond s
  | .smov d a => Sys2Proof.Machine.execSmov d a s
  | .sdivu d a b rem => Sys2Proof.Machine.execSdivu d a b rem s
  | .saddi d a imm => Sys2Proof.Machine.execSaddi d a imm s
  | .sandi d a imm => Sys2Proof.Machine.execSandi d a imm s
  | .sori d a imm => Sys2Proof.Machine.execSori d a imm s
  | .sshli d a imm => Sys2Proof.Machine.execSshli d a imm s
  | .sshri d a imm => Sys2Proof.Machine.execSshri d a imm s
  | .sli d imm => Sys2Proof.Machine.execSli d imm s
  | .slih d imm => Sys2Proof.Machine.execSlih d imm s
  | .slix d imm => Sys2Proof.Machine.execSlix d imm s
  | .sliy d imm => Sys2Proof.Machine.execSliy d imm s
  | .rdsr d imm => Sys2Proof.Machine.execRdsr d imm s
  | .wrsr d imm => Sys2Proof.Machine.execWrsr d imm s
  | .waitf m any => Sys2Proof.Machine.execWaitf m any s
  | .clrf m => Sys2Proof.Machine.execClrf m s
  | .bar b count => Sys2Proof.Machine.execBar b count s
  | .sasht => Sys2Proof.Machine.execSasht s
  | .sashp t named => Sys2Proof.Machine.execSashp t named s
  | .waitc n k => Sys2Proof.Machine.execWaitc n k s
  | .spawn k a b => Sys2Proof.Machine.execSpawn k a b s
  | .exit => Sys2Proof.Machine.execExit s
  | .trap n => Sys2Proof.Machine.execTrap n s
  | .bkpt => Sys2Proof.Machine.execBkpt s
  | .rdsys d a => Sys2Proof.Machine.execRdsys d a s
  | .wrsys a b => Sys2Proof.Machine.execWrsys a b s
  | .lcmp v => Sys2Proof.Machine.execLcmp v s
  | .waithem a => Sys2Proof.Machine.execWaithem a s
  | .signal a b => Sys2Proof.Machine.execSignal a b s
  | .dbgsplit d a b => Sys2Proof.Machine.execDbgsplit d a b s
  | .step d a b => Sys2Proof.Machine.execStep d a b s
  | .dbgres d a b => Sys2Proof.Machine.execDbgres d a b s
  | .breakpointHit team path => Sys2Proof.Machine.execBreakpointHit team path s
  | .stepComplete team path => Sys2Proof.Machine.execStepComplete team path s
  | .matrixOperandsDone core => Sys2Proof.Machine.execMatrixOperandsDone core s
  | .matrixRowsWritten core => Sys2Proof.Machine.execMatrixRowsWritten core s
  | .drainStart part => Sys2Proof.Machine.execDrainStart part s
  | .slotEdge part => Sys2Proof.Machine.execSlotEdge part s
  | .debitHoldEnd part => Sys2Proof.Machine.execDebitHoldEnd part s
  | .emptyDelayBundle hdr => Sys2Proof.Machine.execEmptyDelayBundle hdr s
  | .sample core => Sys2Proof.Machine.execSample core s
  | .deviceReset => Sys2Proof.Machine.execDeviceReset s
  | .linkTrain full => Sys2Proof.Machine.execLinkTrain full s
  | .linkCrcError port failedResends => Sys2Proof.Machine.execLinkCrcError port failedResends s
  | .portDown port ops => Sys2Proof.Machine.execPortDown port ops s
  | .sensorSample core temp => Sys2Proof.Machine.execSensorSample core temp s
  | .droopEvent core => Sys2Proof.Machine.execDroopEvent core s
  | .hbmCorrectableError chan again => Sys2Proof.Machine.execHbmCorrectableError chan again s
  | .pseudoChannelRetire chan => Sys2Proof.Machine.execPseudoChannelRetire chan s
  | .l2WayRetire slice way again => Sys2Proof.Machine.execL2WayRetire slice way again s
  | .coreRetirement core => Sys2Proof.Machine.execCoreRetirement core s
  | .leaveGrant die => Sys2Proof.Machine.execLeaveGrant die s
  | .leaveRelease die engine => Sys2Proof.Machine.execLeaveRelease die engine s
  | .lvreqLapse die engine => Sys2Proof.Machine.execLvreqLapse die engine s
  | .stcmdSwapImage => Sys2Proof.Machine.execStcmdSwapImage s
  | .stcmdRead => Sys2Proof.Machine.execStcmdRead s
  | .stcmdWrite => Sys2Proof.Machine.execStcmdWrite s
  | .mailboxSend vf => Sys2Proof.Machine.execMailboxSend vf s
  | .mailboxReply vf status => Sys2Proof.Machine.execMailboxReply vf status s
  | .profilingLeaseEnd vf => Sys2Proof.Machine.execProfilingLeaseEnd vf s
  | .sealStart fn => Sys2Proof.Machine.execSealStart fn s
  | .sealRelease fn => Sys2Proof.Machine.execSealRelease fn s
  | .sealReleaseDone fn => Sys2Proof.Machine.execSealReleaseDone fn s
  | .attgo fn => Sys2Proof.Machine.execAttgo fn s
  | .queueEnable fn q val => Sys2Proof.Machine.execQueueEnable fn q val s
  | .queueDisable fn q val => Sys2Proof.Machine.execQueueDisable fn q val s
  | .dispatchRecord part => Sys2Proof.Machine.execDispatchRecord part s
  | .taskTokensHold task => Sys2Proof.Machine.execTaskTokensHold task s
  | .crewPlacement part => Sys2Proof.Machine.execCrewPlacement part s
  | .placementTimeout part => Sys2Proof.Machine.execPlacementTimeout part s
  | .crewRetire crew => Sys2Proof.Machine.execCrewRetire crew s
  | .yieldExchange team => Sys2Proof.Machine.execYieldExchange team s
  | .migration crew => Sys2Proof.Machine.execMigration crew s
  | .watchdog team => Sys2Proof.Machine.execWatchdog team s
  | .cohortCommit fn => Sys2Proof.Machine.execCohortCommit fn s
  | .capacityTimeout acc => Sys2Proof.Machine.execCapacityTimeout acc s
  | .spawnSlotTimeout part => Sys2Proof.Machine.execSpawnSlotTimeout part s
  | .deferredFaultReplay task => Sys2Proof.Machine.execDeferredFaultReplay task s
  | .irrevocableStart op => Sys2Proof.Machine.execIrrevocableStart op s
  | .parkedTaskSave task => Sys2Proof.Machine.execParkedTaskSave task s
  | .parkedTaskRestore task => Sys2Proof.Machine.execParkedTaskRestore task s
  | .fliCapture team => Sys2Proof.Machine.execFliCapture team s
  | .resultLanding team => Sys2Proof.Machine.execResultLanding team s
  | .globalAccessComplete acc units bad => Sys2Proof.Machine.execGlobalAccessComplete acc units bad s
  | .walkComplete walk bad => Sys2Proof.Machine.execWalkComplete walk bad s
  | .walkFaultResolve index invalid => Sys2Proof.Machine.execWalkFaultResolve index invalid s
  | .pageRequestComplete fn index => Sys2Proof.Machine.execPageRequestComplete fn index s
  | .prctlEnable fn val => Sys2Proof.Machine.execPrctlEnable fn val s
  | .prheadWrite fn val => Sys2Proof.Machine.execPrheadWrite fn val s
  | .tileInvalidate fn => Sys2Proof.Machine.execTileInvalidate fn s
  | .tileInvalidateDone fn => Sys2Proof.Machine.execTileInvalidateDone fn s
  | .pbaysWrite part val => Sys2Proof.Machine.execPbaysWrite part val s
  | .partitionEnable part val => Sys2Proof.Machine.execPartitionEnable part val s
  | .partitionDisable part val => Sys2Proof.Machine.execPartitionDisable part val s
  | .pctlCommit part val => Sys2Proof.Machine.execPctlCommit part val s
  | .scrub part val => Sys2Proof.Machine.execScrub part val s
  | .scrubComplete part => Sys2Proof.Machine.execScrubComplete part s
  | .vfEnable vf val => Sys2Proof.Machine.execVfEnable vf val s
  | .vfDisable vf val => Sys2Proof.Machine.execVfDisable vf val s
  | .vfPause vf val => Sys2Proof.Machine.execVfPause vf val s
  | .vfUnpause vf val => Sys2Proof.Machine.execVfUnpause vf val s
  | .vfgtimeWrite vf val => Sys2Proof.Machine.execVfgtimeWrite vf val s
  | .vfsegGrow vf val => Sys2Proof.Machine.execVfsegGrow vf val s
  | .vfwaysClear vf val => Sys2Proof.Machine.execVfwaysClear vf val s
  | .lpctlCommit val => Sys2Proof.Machine.execLpctlCommit val s
  | .donationHandover part => Sys2Proof.Machine.execDonationHandover part s
  | .launchNode part => Sys2Proof.Machine.execLaunchNode part s
  | .spawnsetNode part => Sys2Proof.Machine.execSpawnsetNode part s
  | .condNode part => Sys2Proof.Machine.execCondNode part s
  | .whileNode part => Sys2Proof.Machine.execWhileNode part s
  | .condResolve part => Sys2Proof.Machine.execCondResolve part s
  | .waittokNode part => Sys2Proof.Machine.execWaittokNode part s
  | .sigtokNode part => Sys2Proof.Machine.execSigtokNode part s
  | .sigtokAdd part => Sys2Proof.Machine.execSigtokAdd part s
  | .endNode part => Sys2Proof.Machine.execEndNode part s
  | .walkEndComplete part => Sys2Proof.Machine.execWalkEndComplete part s
  | .spawnChildCreate op => Sys2Proof.Machine.execSpawnChildCreate op s
  | .copyStart crew chan => Sys2Proof.Machine.execCopyStart crew chan s
  | .copyUnitLand crew chan bad => Sys2Proof.Machine.execCopyUnitLand crew chan bad s
  | .matrixStepStart core => Sys2Proof.Machine.execMatrixStepStart core s
  | .collComplete op peers => Sys2Proof.Machine.execCollComplete op peers s
  | .acqComplete op => Sys2Proof.Machine.execAcqComplete op s
  | .relComplete op => Sys2Proof.Machine.execRelComplete op s
  | .dbgHalt fn => Sys2Proof.Machine.execDbgHalt fn s
  | .dbgResume fn => Sys2Proof.Machine.execDbgResume fn s
  | .dbgStep fn => Sys2Proof.Machine.execDbgStep fn s
  | .dbgSplit fn => Sys2Proof.Machine.execDbgSplit fn s
  | .dbgSnapteam fn => Sys2Proof.Machine.execDbgSnapteam fn s
  | .dbgSnapcrew fn => Sys2Proof.Machine.execDbgSnapcrew fn s
  | .dbgPoke fn => Sys2Proof.Machine.execDbgPoke fn s
  | .registerWrite fn bar off val => Sys2Proof.Machine.execRegisterWrite fn bar off val s
  | .tailWordChange fn q val => Sys2Proof.Machine.execTailWordChange fn q val s
  | .peerWrite space addr bytes => Sys2Proof.Machine.execPeerWrite space addr bytes s
  | .illegalOp => Sys2Proof.Machine.execIllegalOp s
  | .channelCopyDone chan => Sys2Proof.Machine.execChannelCopyDone chan s
  | .accoutLastByteWritten core => Sys2Proof.Machine.execAccoutLastByteWritten core s

end Sys2Proof.Machine
end

