-- ==== Sys2Proof/Machine/Run.lean ====
section
/-! DEFINITION. What one step of the module is: an outside input or an open moment from the agenda, a
timed event that is due, the issue of one bundle (R155, R225, R244), or the next cycle (log 1). -/

namespace Sys2Proof.Machine

open Sys2Proof

/-! ### The agenda (log 1) -/

/-- Instructions that a bundle issues: no input of the module. -/
def isBundled (i : Instr) : Bool :=
  slotBits i != 0 || (match i with
    | .emptyDelayBundle _ | .illegalOp => true
    | _ => false)

/-- The first entry whose time has come, with the agenda without it. -/
def takeAgenda (now : Nat) : List (Nat × Instr) → Option (Instr × List (Nat × Instr))
  | [] => none
  | e :: l =>
    if e.1 ≤ now then some (e.2, l)
    else (takeAgenda now l).map (fun r => (r.1, e :: r.2))

/-! ### Events whose time has come -/

/-- An event of a team. -/
def teamEvent (s : State) (e : Nat × Team) : Option Instr :=
  let t := e.1
  if landingDue s t then some (.resultLanding t)
  else if fliDue s t then some (.fliCapture t)
  else if watchdogDue s t then some (.watchdog t)
  else if yieldDue s t then some (.yieldExchange t)
  else
    match (Tab.keys e.2.paths).find? (stepDue s t), (Tab.keys e.2.paths).find? (hitDue s t) with
    | some p, _ => some (.stepComplete t p)
    | none, some p => some (.breakpointHit t p)
    | none, none => none

/-- An event of a core's matrix engine (R428). -/
def coreEvent (s : State) (core : Nat) : Option Instr :=
  if (mxDue s core 8 MxCmd.consDone).isSome then some (.matrixOperandsDone core)
  else if (mxDue s core 24 MxCmd.rowsDone).isSome then some (.matrixRowsWritten core)
  else none

/-- An event of a partition. -/
def partEvent (s : State) (p : Nat) : Option Instr :=
  if edgeDue s p then some (.slotEdge p)
  else if drainDue s p then some (.drainStart p)
  else if holdDue s p then some (.debitHoldEnd p)
  else if (placementLate s p).isSome then some (.placementTimeout p)
  else
    match running s p with
    | some fn => if (spawnLate s fn).isSome then some (.spawnSlotTimeout p) else none
    | none => none

/-- An event of a die's leave (R26, R29). -/
def dieEvent (s : State) (d : Nat × Die) : Option Instr :=
  match d.2.granted.find? (fun x => leaveIdle s d.1 x.engine && !engineBusy s x.engine) with
  | some x => some (.leaveRelease d.1 x.engine)
  | none => (d.2.granted.find? (fun x => x.lapsed s.now)).map (fun x => .lvreqLapse d.1 x.engine)

/-- An access that has met an uncorrectable error, or whose walks have shown a fault, by another step than its own
(R39, R121). -/
def badAccess (s : State) : Option Instr :=
  let shown (a : Access) : Bool := !a.bads.isEmpty && a.walks.all (fun w => (Tab.find s.ops w).isNone)
  (s.accesses.find? (fun e => (e.2.bad.isSome || shown e.2) && onCore s e.2.team)).map (fun e =>
    .globalAccessComplete e.1 [] [])

/-- The first timed event that is due. -/
def internalEvent (s : State) : Option Instr :=
  (s.teams.findSome? (teamEvent s))
    <|> badAccess s
    <|> ((Tab.keys s.cores).findSome? (coreEvent s))
    <|> ((Tab.keys s.parts).findSome? (partEvent s))
    <|> (s.dies.findSome? (dieEvent s))
    <|> (((Tab.keys s.crews).find? (migrationDue s)).map (fun c => .migration c))
    <|> (((Tab.keys s.tasks).find? (parkSaveDue s)).map (fun k => .parkedTaskSave k))
    <|> (((Tab.keys s.accesses ++ Tab.keys s.fulls).find? (fullDue s)).map (fun a => .capacityTimeout a))
    <|> (((Tab.keys s.funcs).find? (leaseOver s)).map (fun v => .profilingLeaseEnd v))
    <|> (((Tab.keys s.funcs).find? (commitLate s)).map (fun fn => .cohortCommit fn))

/-! ### What settles by itself within a cycle -/

/-- A move between the register stores has ended (R153). -/
def moveOver (s : State) : Bool :=
  s.teams.any (fun e => match e.2.residence with
    | .exchanging u _ => decide (u ≤ s.now)
    | _ => false)

/-- The head of a core's standby queue fits (R152). -/
def headFits (s : State) (core : Nat) : Bool :=
  match (s.core core).standby with
  | [] => false
  | t :: _ => (s.team t).residence == .standby && (contextFor s core (s.team t)).isSome

/-- A team whose latch image goes back into flight: it may issue again (R247). -/
def thawDue (s : State) (e : Nat × Team) : Bool :=
  e.2.fliTaken && teamReady s e.1 e.2 && !e.2.paths.all (fun q => q.2.held)

/-- A team that a deferred fault has stopped is at a yield while others stand by (R180, R153). -/
def suspendYields (s : State) (e : Nat × Team) : Bool :=
  let active := match e.2.residence with | .active _ => true | _ => false
  e.2.stopped && (s.task e.2.task).suspended && active && !e.2.retired && !e.2.atYield
    && !(s.core (s.crew e.2.crew).core).standby.isEmpty

/-- A team of which a path is held in a bundle with YLD, by a FENCE or a SIGNAL, is at a yield while others stand by
(R153). -/
def heldYields (s : State) (e : Nat × Team) : Bool :=
  let active := match e.2.residence with | .active _ => true | _ => false
  active && !e.2.retired && !e.2.atYield && !(s.core (s.crew e.2.crew).core).standby.isEmpty
    && e.2.paths.any (fun q => q.2.yld && (!fenceDone s q.2 || (q.2.heldBy.isSome && q.2.stall == 16)))

/-- What the steward and the edges may do next: the end of a channel's copy, a repair, crews that a retirement has left without a core, an operation
that has lost every port, the next step of an edge, a donation, and a slot that is its owner's again (R24, R36, R37, R40, R92, R97, R99). -/
def deviceNext (s : State) : Option State :=
  (channelNext s) <|> (repairNext s) <|> (strayCrews s) <|> ((strandedOp s).map (linkLost s))
    <|> ((Tab.keys s.parts).findSome? (edgeGo s))
    <|> (((Tab.keys s.parts).find? (donationDue s)).map (handOver s))
    <|> ((Tab.keys s.parts).findSome? (fun p => (idleOwner s p).map (fun v => runNext s p (some v) s.now)))

/-- What has run its time or may go on by itself: a transfer, a task's stop, a commit's seal, and a tail word that
the dispatcher sees (R55, R157, R166, R252). -/
def settleNext (s : State) : Option State :=
  match s.crews.find? (fun e => transferOver s e.2), (Tab.keys s.tasks).find? (stopDue s),
      (Tab.keys s.funcs).find? (sealDue s), tailDue s with
  | some e, _, _, _ => some (finishMove s e.1)
  | none, some k, _, _ => some (makeStop s k)
  | none, none, some fn, _ => some (sealCohort s fn)
  | none, none, none, some q => some (readTail s q.1 q.2)
  | none, none, none, none => none

/-- Tasks that can restart: in the slot that they keep, or in one that they retake (R178). -/
def retakeDue (s : State) (fn : Nat) : Bool :=
  runs s fn && ((keptTask s fn).isSome || (!(restartList s fn).isEmpty && (slotFor s fn 1).isSome))
    && (fn == pfFn || (s.part (homePart s fn)).isOpen)

/-- The next of these, if any. -/
def upkeep (s : State) : Option State :=
  if moveOver s then some (settleMoves s)
  else
    match (Tab.keys s.cores).find? (headFits s), s.teams.find? (thawDue s),
        s.teams.find? (fun e => suspendYields s e || heldYields s e),
        (Tab.keys s.funcs).find? (retakeDue s) with
    | some core, _, _, _ => some (fillContexts s core 64)
    | none, some e, _, _ => some (s.setTeam e.1 (injectFli e.2 s.now))
    | none, none, some e, _ => some (s.setTeam e.1 { e.2 with atYield := true })
    | none, none, none, some fn => some (retakeSlots s fn 64)
    | none, none, none, none =>
      match radvDue s with
      | some o => some (radvMake s o)
      | none =>
        match ((settleNext s).or (deviceNext s)).or ((Tab.keys s.cores).findSome? (fun core => (turnDue s core).map (takeTurn s core))) with
        | some t => some t
        | none => pathAct s

/-! ### The issue of a bundle -/

/-- An instruction whose observation of flags comes before the other slots' issue (R233, R447). -/
def observesFirst : Instr → Bool
  | .brf _ _ | .waitf _ _ => true
  | _ => false

/-- An instruction that reads what other slots of its bundle may change as they issue: it reads first (R225, R445). -/
def readsFirst : Instr → Bool
  | .rdsr _ _ => true
  | _ => false

/-- The slots of a bundle run one after another; a slot is skipped when its path is gone. -/
def runList : List Instr → State → Host.Outcome State Fault Refusal
  | [], s => .next s
  | i :: l, s =>
    if (ctxOf s).isNone then runList l s
    else
      match exec i s with
      | .next s' => runList l s'
      | .fault r => .fault r
      | .refused r => .refused r

/-- What the slots that follow see as in flight before the bundle. -/
def reseen (s : State) : State :=
  { s with issue := s.issue.map (fun i => { i with seen := some (s.team i.team).pending.length }) }

/-- All slots of a bundle (R225, R244): V, M, X and then C, but what observes flags first. The bundle issues whole, with
all its passes (log 86). -/
def runSlots (b : Bundle) (s : State) : Host.Outcome State Fault Refusal :=
  let vmx := b.v.toList ++ b.m.toList ++ b.x.toList
  if b.c.any observesFirst then
    match runList b.c.toList s with
    | .next s' => runList vmx (reseen s')
    | .fault r => .fault r
    | .refused r => .refused r
  else if b.c.any readsFirst then runList (b.c.toList ++ vmx) s
  else runList (vmx ++ b.c.toList) s

/-- How many slots a bundle has. -/
def slotCount (b : Bundle) : Nat := (b.v.toList ++ b.m.toList ++ b.x.toList ++ b.c.toList).length

/-- All slots of a bundle; when several fault, none of them takes effect in any lane (R328). -/
def runBundle (b : Bundle) (s : State) : Host.Outcome State Fault Refusal :=
  match runSlots b s with
  | .next s' =>
    let faults := ((s'.issue.map Issue.faults).getD [])
    if decide (1 < slotCount b) && decide (1 < faults.length) && faults.any (fun f => f.code == .tileNotPresent) then
      runSlots b { s with issue := s.issue.map (fun i => { i with alone := true }) }
    else .next s'
  | r => r

/-- A bundle without a decode fault issues. -/
def issueSlots (s : State) (c : Ctx) (b : Bundle) : Host.Outcome State Fault Refusal :=
  if nullified c b then
    if b.v.isNone && b.m.isNone && b.x.isNone && b.c.isNone then
      exec (.emptyDelayBundle (BitVec.ofNat 32 (headerWord b.hdr))) s
    else .next (nullify s c)
  else
    match runBundle b (startBundle s c b) with
    | .next s' => .next (endBundle s')
    | .fault r => .fault r
    | .refused r => .refused r

/-- The bundle of path p of team t issues, or raises its decode fault. -/
def issueBundle (s : State) (t p : Nat) : Host.Outcome State Fault Refusal :=
  let s1 := tentative s t p
  match ctxOf s1, fetchFault s (s.team t) ((s.team t).path p).pc with
  | none, _ => .next s
  | some _, some (.illegalOp, _) => exec .illegalOp s1
  | some c, some (code, slot) => .next (decodeRaise s1 c code slot)
  | some c, none => issueSlots s1 c (nextSlots s t p)

/-! ### The end of a cycle -/

/-- Teams that hold a context count towards YCOUNT (R161). -/
def countYield (s : State) (e : Nat × Team) : Nat × Team :=
  let active := match e.2.residence with | .active _ => true | _ => false
  let live := e.2.paths.any (fun q => !q.2.parked && !q.2.held)
  let off := (s.task e.2.task).walkStop || (s.crew e.2.crew).moving.isSome
  (e.1, if active && live && !off && !e.2.retired then { e.2 with ycycles := e.2.ycycles + 1 } else e.2)

/-- Since when a task has been stuck, and its next crew unplaced (R134, R241). -/
def markTask (s : State) (late : List Nat) (e : Nat × Task) : Nat × Task :=
  let stuck := if taskStuck s e.1 then (if e.2.stuckSince.isSome then e.2.stuckSince else some s.now) else none
  let wait := if late.contains e.1 then (if e.2.unplacedSince.isSome then e.2.unplacedSince else some s.now) else none
  (e.1, { e.2 with stuckSince := stuck, unplacedSince := wait })

/-- The next cycle: the records of this one's stops are written (R270). -/
def tick (s : State) : State :=
  let s := countShared (countStalls (markIdle (launchWalks (markTails (writeStops (joinHits s))))))
  let late := (freePart :: Tab.keys s.parts).filterMap (unplaced s)
  { s with now := s.now + 1
           teams := s.teams.map (countYield s)
           tasks := s.tasks.map (markTask s late) }

/-- The end of a cycle: leave is granted, samples are taken, and time goes on (R27, R279). -/
def cycleEnd (s : State) : Host.Outcome State Fault Refusal :=
  match (Tab.keys s.dies).find? (leaveFits s), (coresInUse s).find? (sampleDue s) with
  | some d, _ => exec (.leaveGrant d) s
  | none, some core => exec (.sample core) s
  | none, none => .next (tick s)

/-! ### One step -/

/-- What the module does by itself: a timed event, what settles, a bundle, or the end of the cycle. -/
def runSelf (s : State) : Host.Outcome State Fault Refusal :=
  match internalEvent s with
  | some i => exec i s
  | none =>
    match upkeep s with
    | some s' => .next s'
    | none =>
      match issuePick s with
      | some q => issueBundle s q.1 q.2
      | none => cycleEnd s

/-- One step: the agenda comes first. -/
def stepOnce (s : State) : Host.Outcome State Fault Refusal :=
  match takeAgenda s.now s.agenda with
  | none => runSelf s
  | some (i, rest) =>
    if isBundled i then .next { s with agenda := rest } else exec i { s with agenda := rest }

end Sys2Proof.Machine
end

