-- ==== Sys2Proof/Machine/Step.lean ====
section
/-! DEFINITION. One step of the module, and a state in which the next step fetches a given instruction. -/

namespace Sys2Proof.Machine

open Sys2Proof

/-- One step (Machine/Run.lean). -/
def step (s : State) : Host.Outcome State Fault Refusal := stepOnce s

/-- The bundle whose only slot holds a number of its width, with GAP 1 (R307, R308); LNG as R310 asks. -/
def slotBundle (nbits w : Nat) : Nat :=
  if nbits == 80 then bundleWord ⟨2 ^ 28, w % 2 ^ 80, 0, 0, 0⟩
  else if nbits == 64 then bundleWord ⟨2 ^ 29, 0, w % 2 ^ 64, 0, 0⟩
  else if nbits == 48 then
    let lining := decide (0x20 ≤ w % 64) && decide (w % 64 ≤ 0x25)
    bundleWord ⟨2 ^ 30 + 2 ^ 7 * b2n lining, 0, 0, w % 2 ^ 48, 0⟩
  else if nbits == 32 then bundleWord ⟨2 ^ 31, 0, 0, 0, w % 2 ^ 32⟩
  else 0

/-- A task of the PF with a PRIV kernel of one bundle, in no sealed slot: one crew of one team of 32 lanes with N = 16
(log 10). -/
def loadedTask (base : Nat) : Task :=
  { fn := pfFn, part := freePart, header := BitVec.ofNat 64 (2 + 2 ^ 11 + 2 ^ 12), codeSlot := 256, codeBase := base, codeLen := 32
    entryPc := base, phase := .running, nextCrew := 1, ranOn := [0] }

/-- Its team, on context 0 of core 0, at its first bundle. -/
def loadedTeam (pc : Nat) : Team :=
  { task := 1, crew := 1, words := 1, nregs := 16, residence := .active 0
    paths := [(0, { pc := pc, base := maskUpTo 32 })] }

/-- The state with that task in place of all others, its one bundle holding the instruction's bits: the next
step fetches and runs it. -/
def State.withFetchWord (s : State) (nbits w : Nat) : State :=
  let base := (codeArea s pfFn).1
  { s with agenda := [], issue := none, accesses := [], ops := [], fulls := []
           mem := Memory.write s.mem (flatOf s pfFn base) (leBytes 32 (slotBundle nbits w))
           tasks := [(1, loadedTask base)]
           crews := [(1, { task := 1, teams := [1] })]
           teams := [(1, loadedTeam base)]
           cores := Tab.set s.cores 0 (coreReset 0) }

end Sys2Proof.Machine
end

