-- ==== Sys2Proof/Safety.lean ====
section
/-! DEFINITION. What counts as a safe run, and the terms in which claims are stated: canonical memory,
a slot that is ready to run, results in flight, and what an instruction leaves alone. -/

namespace Sys2Proof.Machine

open Sys2Proof

/-! ### Safe runs -/

/-- Every byte store that the state holds is in canonical form. -/
def State.MemOk (s : State) : Prop := Memory.wf s.mem ∧ ∀ e ∈ s.crews, Memory.wf e.2.shm

/-- A step that the machine takes: it neither stops nor refuses. -/
def Goes (o : Host.Outcome State Fault Refusal) : Prop := ∃ t, o = .next t

/-- A run of n steps that never stops and keeps its byte stores canonical. -/
def SafeRun : Nat → State → Prop
  | 0, s => s.MemOk
  | n + 1, s => s.MemOk ∧ ∃ t, step s = .next t ∧ SafeRun n t

/-- Every byte of memory outside a range of flat addresses reads as before. -/
def SameBytesBut (s t : State) (a n : Nat) : Prop :=
  ∀ x, x < a ∨ a + n ≤ x → Memory.read t.mem x = Memory.read s.mem x

/-- Every byte of memory reads as before. -/
def SameBytes (s t : State) : Prop := ∀ x, Memory.read t.mem x = Memory.read s.mem x

/-! ### Teams that an instruction acts on -/

/-- Nothing of the state changes but the entry of one team and the counter of free values. -/
def OnlyTeam (s t : State) (k : Nat) : Prop :=
  t = { s with teams := t.teams, free := t.free } ∧ ∀ j, j ≠ k → Tab.find t.teams j = Tab.find s.teams j

/-- A result is in flight in a team, whether or not it is marked as one of two that overlap (R224). -/
def InFlight (t : State) (k : Nat) (r : PendRes) : Prop :=
  ∃ g ∈ (t.team k).pending, { g with clash := false } = { r with clash := false }

/-- The values that lanes and teams read keep: every V register with its tag, every predicate and every S register. -/
def ValuesKept (s t : State) : Prop :=
  ∀ k, (t.team k).vregs = (s.team k).vregs ∧ (t.team k).tags = (s.team k).tags ∧
    (t.team k).preds = (s.team k).preds ∧ (t.team k).sregs = (s.team k).sregs

/-- Every register of every team keeps its value until a result lands: those values, the latches, the special registers of
the team, and the masks and the bundle of each path; STATUS may gain SCOPE_CLAMPED (R217). -/
def RegsKept (s t : State) : Prop :=
  ValuesKept s t ∧ ∀ k, let a := s.team k
    let b := t.team k
    b.bv = a.bv ∧ b.bm = a.bm ∧ b.bx = a.bx ∧ (b.status = a.status ∨ b.status = a.status ||| 0x100#64) ∧
    b.accBase = a.accBase ∧ b.accLim = a.accLim ∧ b.lineBase = a.lineBase ∧ b.wids = a.wids ∧ b.wdogLimit = a.wdogLimit ∧
    ∀ p, (b.path p).base = (a.path p).base ∧ (b.path p).stack = (a.path p).stack ∧ (b.path p).pc = (a.path p).pc

/-- No slot of the issuing bundle has raised a fault. -/
def NoFaultYet (s : State) : Prop := s.issue.map Issue.faults = some []

/-! ### The vector slot -/

/-- The launch constants that a context gives the decode checks (R327). -/
def Ctx.launch (c : Ctx) : Launch := { n := c.tm.nregs, w := c.width, cg16 := c.cg16 }

/-- The vector slot of the issuing bundle runs this instruction: its form raises no decode fault (R327),
the slot acts in some lane (R226), and no operand faults at issue (R328). -/
def vecReady (s : State) (i : Instr) : Bool :=
  match ctxOf s with
  | none => false
  | some c =>
    match vSpec c.width i with
    | none => false
    | some sp => (vFaults c.launch i).isEmpty && !idle c.vPasses && (vecFault c (c.crew s) i sp).isNone

/-- The value that a lane reads of an operand code under a format (R319). -/
def operand (s : State) (c : Ctx) (p : Pass) (code : BitVec 11) (fmt : Fmt) (l : Nat) : Nat :=
  c.source (c.crew s) p fmt (fmt == .int64) code.toNat l

/-- The values of a pass's lanes as a result carries them. -/
def laneVals (p : Pass) (v : Nat → Nat) : List (Nat × Word64) := p.lanes.map (fun l => (l, BitVec.ofNat 64 (v l)))

/-- The results of a vector instruction are in flight (R224, R231, R232, R320): for a V register, each
pass's lanes with the tag, the flags of its lanes together, the cycle and the latch; under LAT only the
latch; for an S register the lowest lane's value; a discarding D asks for none. -/
def VResultsIn (t : State) (c : Ctx) (ps : List Pass) (f : VFields) (tag : Fmt) (lat : Nat)
    (v : Pass → Nat → Nat) (fl : Pass → Nat → Flags) : Prop :=
  ∀ p ∈ ps, p.lanes ≠ [] →
    let r : PendRes := { due := p.base + lat, from_ := p.start, dest := .nothing, word := p.w, vals := laneVals p (v p)
                         tag := some tag, latch := some .bv, flags := joinFlags (p.lanes.map (fl p)), slot := .v }
    if f.lat then InFlight t c.t { r with dest := .latchOnly }
    else
      match opd f.d.toNat with
      | .v _ | .vs _ =>
        InFlight t c.t { r with dest := if f.fmt == .int64 then .vpair (c.vregD f.d.toNat) else .vreg (c.vregD f.d.toNat) }
      | .s n =>
        firstPass ps = some p →
          let low := v p (p.lanes.headD 0) % 2 ^ 64
          InFlight t c.t { r with dest := .sreg n, tag := none, latch := none
                                  vals := [(0, BitVec.ofNat 64 (if f.fmt == .int64 then low else low % 2 ^ 32))] }
      | _ => True

/-- The predicate results of an instruction are in flight: P0 is never written (R226). -/
def PResultsIn (t : State) (c : Ctx) (ps : List Pass) (pd lat : Nat) (b : Pass → Nat → Bool) : Prop :=
  pd ≠ 0 → ∀ p ∈ ps, p.lanes ≠ [] →
    InFlight t c.t { due := p.base + lat, from_ := p.start, dest := .pred pd, word := p.w, slot := .v
                     vals := p.lanes.map (fun l => (l, if b p l then 1#64 else 0#64)) }

/-- The passes of an instruction: those of the slot, or all reading at the first and landing from the last
when it reads across lanes (R372). -/
def vecPasses (c : Ctx) (across : Bool) : List Pass := if across then acrossPasses c.vPasses else c.vPasses

/-- What a rule of the spec says of one lane: its fields, the state and pass it runs in, the lane, the value
that it writes and the flags that it raises. -/
abbrev LaneRule := VFields → State → Ctx → Pass → Nat → Nat → Flags → Prop

/-- A vector instruction completes: whenever its slot is ready it answers a next state in which its results
are in flight, each lane's value and flags as the rule says. `form` selects the forms it is said for. -/
def VecCompletesIf (form : VFields → Bool) (mk : VFields → Instr) (across : Bool) (lat : Ctx → Nat)
    (tag : State → Ctx → VFields → Fmt) (rule : LaneRule) : Prop :=
  ∀ (f : VFields) (s : State) (c : Ctx), ctxOf s = some c → vecReady s (mk f) = true → form f = true →
    ∃ t v fl, exec (mk f) s = .next t ∧ VResultsIn t c (vecPasses c across) f (tag s c f) (lat c) v fl ∧
      ∀ p ∈ vecPasses c across, ∀ l ∈ p.lanes, rule f s c p l (v p l) (fl p l)

/-- That for every form. -/
def VecCompletes (mk : VFields → Instr) (across : Bool) (lat : Ctx → Nat)
    (tag : State → Ctx → VFields → Fmt) (rule : LaneRule) : Prop :=
  VecCompletesIf (fun _ => true) mk across lat tag rule

/-- A vector instruction that writes a predicate completes: its predicate result is in flight. -/
def PredCompletes (form : VFields → Bool) (mk : VFields → Instr) (pd : VFields → Nat) (lat : Nat)
    (rule : VFields → State → Ctx → Pass → Nat → Bool → Prop) : Prop :=
  ∀ (f : VFields) (s : State) (c : Ctx), ctxOf s = some c → vecReady s (mk f) = true → form f = true →
    ∃ t b, exec (mk f) s = .next t ∧ PResultsIn t c c.vPasses (pd f) lat b ∧
      ∀ p ∈ c.vPasses, ∀ l ∈ p.lanes, rule f s c p l (b p l)

/-- The tag that an instruction of the table gives its result: its FMT (R290). -/
def tagFmt (_ : State) (_ : Ctx) (f : VFields) : Fmt := f.fmt

/-! ### What rules say of a lane -/

/-- A latency that does not depend on the team. -/
def fixedLat (n : Nat) (_ : Ctx) : Nat := n

/-- Each element as a rule says, and the elements' flags together (R303, R339). -/
def ElemWise (fmt : Fmt) (rule : Nat → Nat → Flags → Prop) (v : Nat) (fl : Flags) : Prop :=
  ∃ fe : Nat → Flags, (∀ i, i < fmt.elems → rule i (elemAt fmt v i) (fe i)) ∧
    fl = joinFlags ((List.range fmt.elems).map fe)

/-- An exact integer put into an element: clamped under SAT with SATD, else modulo 2^w (R302). -/
def Narrowed (fmt : Fmt) (sat : Bool) (x : Int) (e : Nat) (fl : Flags) : Prop :=
  if sat then
    intVal fmt e = max fmt.intMin (min fmt.intMax x) ∧ fl = (if fmt.intMin ≤ x ∧ x ≤ fmt.intMax then 0#6 else flSATD)
  else ((2 ^ fmt.width : Nat) : Int) ∣ intVal fmt e - x ∧ fl = 0#6

/-- Element i of an operand in a lane, as an exact integer (R339, R344). -/
def intElem (s : State) (c : Ctx) (p : Pass) (code : BitVec 11) (fmt : Fmt) (l i : Nat) : Int :=
  intVal fmt (elemAt fmt (operand s c p code fmt l) i)

/-- Integer arithmetic: one exact operation per element, wrapped or clamped (R344). -/
def intRule (op : Int → Int → Int → Int) : LaneRule := fun f s c p l v fl =>
  ElemWise f.fmt (fun i => Narrowed f.fmt f.sat
    (op (intElem s c p f.a f.fmt l i) (intElem s c p f.b f.fmt l i) (intElem s c p f.c f.fmt l i))) v fl

/-- A carry or borrow in through a predicate: 0 for predicate 0 (R345). -/
def carryOf (f : VFields) (c : Ctx) (p : Pass) (l : Nat) : Nat :=
  if fld f.aux.toNat 0 4 ≠ 0 ∧ readP c.tm c.fr p.start (fld f.aux.toNat 0 4) l = true then 1 else 0

/-- Logic: a function of the operands' bits at each of 32 places, or 64 under INT64 (R347, R351). -/
def bitRule (op : VFields → Bool → Bool → Bool → Bool) : LaneRule := fun f s c p l v fl =>
  fl = 0#6 ∧ ∀ j, j < srcBits f.fmt →
    Nat.testBit v j = op f (Nat.testBit (operand s c p f.a f.fmt l) j) (Nat.testBit (operand s c p f.b f.fmt l) j)
      (Nat.testBit (operand s c p f.c f.fmt l) j)

/-- A function of each element's w bits and of the unsigned element of B (R348, R350). -/
def shiftRule (op : (w : Nat) → BitVec w → Nat → BitVec w) : LaneRule := fun f s c p l v fl =>
  fl = 0#6 ∧ ∀ i, i < f.fmt.elems →
    BitVec.ofNat f.fmt.width (elemAt f.fmt v i) =
      op f.fmt.width (BitVec.ofNat f.fmt.width (elemAt f.fmt (operand s c p f.a f.fmt l) i))
        (elemAt f.fmt (operand s c p f.b f.fmt l) i)

/-- The condition of an integer compare (R352). -/
def condHolds (cond : Nat) (x y : Int) (ex ey : Nat) : Prop :=
  match cond with
  | 0 => x = y
  | 1 => x ≠ y
  | 2 => x < y
  | 3 => x ≤ y
  | 4 => x > y
  | 5 => x ≥ y
  | _ => ex &&& ey ≠ 0

/-- A floating-point element of a source: flushed under FZI, made absolute, negated (R298, R358). -/
def floatElem (f : VFields) (s : State) (c : Ctx) (p : Pass) (code : BitVec 11) (fmt : Fmt) (bit l i : Nat) : FVal :=
  prepF f fmt bit (elemAt fmt (operand s c p code fmt l) i)

/-- An exact result rounded once into FMT, with the flags of the rounding, of an invalid operation and of
signalling inputs (R297, R300, R301, R303). -/
def Rounded (f : VFields) (fmt : Fmt) (exact : FVal × Bool) (srcs : List FVal) (e : Nat) (fl : Flags) : Prop :=
  let r := encodeF fmt f.rnd f.fzo f.sat exact.1
  e = r.1 % 2 ^ fmt.width ∧ fl = r.2 ||| (if exact.2 = true ∨ srcs.any FVal.isSNaN = true then flNV else 0#6)

/-- Floating-point arithmetic per element: the exact result of A, B and C, rounded once (R359). -/
def floatRule (useC : Bool) (op : Rnd → FVal → FVal → FVal → FVal × Bool) : LaneRule := fun f s c p l v fl =>
  ElemWise f.fmt (fun i =>
    let a := floatElem f s c p f.a f.fmt 0 l i
    let b := floatElem f s c p f.b f.fmt 1 l i
    let z := floatElem f s c p f.c f.fmt 2 l i
    Rounded f f.fmt (op f.rnd a b z) (if useC then [a, b, z] else [a, b])) v fl

/-- The size of a segment: the team for SEG 0, else 2^SEG, and 16 at most in narrow-group mode (R373). -/
def segOf (c : Ctx) (seg : Nat) : Nat :=
  let size := if seg = 0 then c.width else 2 ^ seg
  if c.cg16 then min size 16 else size

/-- What a lane gives a floating-point reduction: a NaN is the canonical one, with NV for a signalling one, and under FZI a
subnormal number is a zero of its sign (R298, R300, R378). -/
def redLeaf (f : VFields) (e : Nat) : Nat × Flags :=
  match decodeF f.fmt e with
  | .nan sig => ((encodeF f.fmt f.rnd f.fzo f.sat (.nan sig)).1 % 2 ^ f.fmt.width,
      (encodeF f.fmt f.rnd f.fzo f.sat (.nan sig)).2 ||| (if sig then flNV else 0#6))
  | x => (if f.fzi && x.isSubnormal f.fmt then e &&& f.fmt.signBit else e, 0#6)

/-- Two floating-point operands added, or the lesser or greater of them, rounded once into FMT, with every flag so far
(R359, R378). -/
def redJoin (f : VFields) (a b : Nat × Flags) : Nat × Flags :=
  let x := decodeF f.fmt a.1
  let y := decodeF f.fmt b.1
  let exact : FVal × Bool := match fld f.aux.toNat 0 3 with
    | 0 => addV f.rnd x y
    | 1 => (minV x y, false)
    | _ => (maxV x y, false)
  let r := encodeF f.fmt f.rnd f.fzo f.sat exact.1
  (r.1 % 2 ^ f.fmt.width,
    r.2 ||| (if exact.2 = true ∨ x.isSNaN = true ∨ y.isSNaN = true then flNV else 0#6) ||| a.2 ||| b.2)

/-- The fixed tree of R378 over 2^k operands from operand j on: an absent operand passes the other through. -/
def redTree (f : VFields) (v : Nat → Option (Nat × Flags)) : Nat → Nat → Option (Nat × Flags)
  | 0, j => v j
  | k + 1, j => match redTree f v k j, redTree f v k (j + 2 ^ k) with
    | some x, some y => some (redJoin f x y)
    | some x, none => some x
    | none, y => y

/-- The ascending chain of R378: one rounding a step. -/
def redChain (f : VFields) : List (Nat × Flags) → Option (Nat × Flags)
  | [] => none
  | x :: xs => some (xs.foldl (redJoin f) x)

/-- The lane index that operand B gives a lane move: 32 raw bits of its register (R374). -/
def laneIndex (s : State) (c : Ctx) (p : Pass) (f : VFields) (l : Nat) : Nat :=
  c.source (c.crew s) p .none false f.b.toNat l % 2 ^ 32

/-- The latency of a lane move (R374). -/
def moveLat (c : Ctx) : Nat := if c.width ≤ 32 then 6 else 10

/-- The tag of a move: A's, or FMT when A carries none (R354, R374). -/
def moveTag (s : State) (c : Ctx) (f : VFields) : Fmt := (c.tagOf (c.crew s) f.a.toNat).getD f.fmt

/-! ### The memory slot -/

/-- The lanes of a tensor access with the checks of their elements (R121, R389). -/
def laneChecks (s : State) (c : Ctx) (d : Desc) (f : MFields) (op : TensorOp) : List (Pass × LaneCheck) :=
  c.mPasses.flatMap (fun p => p.lanes.map (fun l => (p, laneCheck s c d f op p l)))

/-- The memory slot acts in some lane, and a tensor access of this form passes every check of R121 in every
lane. -/
def tensorReady (s : State) (f : MFields) (op : TensorOp) : Bool :=
  match ctxOf s with
  | none => false
  | some c =>
    match descOf s c.tm.task f.tid.toNat with
    | none => false
    | some d => !idle c.mPasses && (tensorFault s c f op).isNone
        && (accessFault f.tid.toNat op.write ((laneChecks s c d f op).map Prod.snd)).isNone
        && !(s.func (c.tk s).fn).wpEn

/-- Element k of a lane's run: where the layout puts it, or that it is padded (R110, R111, R115, R388). -/
def accessElem (s : State) (c : Ctx) (d : Desc) (f : MFields) (op : TensorOp) (p : Pass) (l k : Nat) : Elem :=
  let req : Req := { write := op.write, versioned := op.versioned }
  let xs := firstCoords d f (c.coords p d f l)
  if d.flat then checkFlat s c.tm.task f.tid.toNat req (coord (moveX0 xs (k * (f.bits / 8))) 0) (f.bits / 8)
  else checkTiled s c.tm.task (c.core s) d req (moveX0 xs k) l

/-- An element goes out in an access: whole, or byte by byte where only the byte is single-copy atomic (R190). -/
def GoesOut (acc : Access) (u : MUnit) : Prop := if acc.bytewise then ∀ v ∈ u.inBytes, v ∈ acc.todo else u ∈ acc.todo

/-- Nothing of the state changes but the descriptors that a task keeps (R106). -/
def OnlyDescs (s t : State) (k : Nat) : Prop :=
  t = { s with tasks := t.tasks } ∧ (∀ j, { t.task j with descs := [] } = { s.task j with descs := [] }) ∧
    ∀ j, j ≠ k → t.task j = s.task j

/-- A tensor access of an instruction goes out (R386, R388, R389): one access of the named kind, team, path and flag
is in flight, with one unit for each element of each acting lane: its address as the layout gives it, and for a write
the element's bits of the data operand. The flag's count has risen and the flag is clear (R233). No byte of memory, nothing of a
crew but what the fence that an atomic implies releases (R398), and no register of the team changes. -/
def TensorIssues (i : Instr) (f : MFields) (op : TensorOp) : Prop :=
  ∀ (s : State) (c : Ctx) (d : Desc), ctxOf s = some c → descOf s c.tm.task f.tid.toNat = some d →
    tensorReady s f op = true →
    ∃ t acc, exec i s = .next t ∧ SameBytes s t ∧ (op.clamps = false → t.crews = s.crews) ∧
      (∀ k, t.crew k = { s.crew k with late := (t.crew k).late }) ∧
      t.team c.t = { s.team c.t with flagSet := (t.team c.t).flagSet, flagCount := (t.team c.t).flagCount
                                     status := (t.team c.t).status, paths := (t.team c.t).paths } ∧
      ((t.team c.t).status = (s.team c.t).status ∨
        op.clamps = true ∧ (t.team c.t).status = (s.team c.t).status ||| 0x100#64) ∧
      (acc.todo ≠ [] → (∃ id, Tab.find t.accesses id = some acc) ∧
        ∀ k, f.flagOf = some k → Tab.get (t.team c.t).flagCount k 0 = Tab.get (s.team c.t).flagCount k 0 + 1 ∧
          (t.team c.t).flagSet.getLsbD k = false) ∧
      acc.kind = op.kind ∧ acc.team = c.t ∧ acc.path = c.p ∧ acc.pc = c.pc ∧ acc.flag = f.flagOf ∧
      acc.fmt = f.fmt ∧ acc.dest = (if op.loads then destOf c f else none) ∧ acc.bytewise = bytewise s c d op ∧
      ∀ p ∈ c.mPasses, ∀ l ∈ p.lanes, ∀ k, k < f.values * elemsPerValue d f →
        let per := elemsPerValue d f
        let bits := if d.flat then f.bits else d.fmt.memBits
        match accessElem s c d f op p l k with
        | .at_ flat hi _ _ =>
          (op.atomicUnit = true → ∀ j, j < f.values * per → accessElem s c d f op p l j ≠ .pad) →
          ∃ u, GoesOut acc u ∧ u.lane = l ∧ u.idx = k / per ∧ u.elem = k % per ∧ u.addr = some flat ∧ u.hi = hi ∧ u.bits = bits ∧
            (op.write = true → u.val = BitVec.ofNat 64 (fld (c.dataVal p f (k / per) l) (bits * (k % per)) bits)) ∧
            (op.two = true → u.val2 = BitVec.ofNat 64 (fld (c.swapVal p f l) (bits * (k % per)) bits))
        | .pad => op.loads = true →
          ∃ u, GoesOut acc u ∧ u.lane = l ∧ u.idx = k / per ∧ u.elem = k % per ∧ u.addr = none ∧
            u.val = BitVec.ofNat 64 (padElem d bits)
        | .fault _ _ _ _ => False

/-- A shared-memory slot that acts in some lane and passes its checks (R399). -/
def sharedReady (s : State) (f : MFields) (reads two : Bool) : Bool :=
  match ctxOf s with
  | none => false
  | some c => !idle c.mPasses && (sharedFault s c f reads two c.mPasses).isNone

/-- An accumulator access that acts in some lane and passes its checks (R403). -/
def accReady (s : State) (f : MFields) (reads : Bool) : Bool :=
  match ctxOf s with
  | none => false
  | some c => !idle c.mPasses && (accFault c f reads c.mPasses).isNone

/-- A byte of a crew's shared memory. -/
def Crew.byte (cr : Crew) (a : Nat) : Byte := Memory.read cr.shm a

/-! ### The X slot -/

/-- An operation that names a flag has issued: the flag's count has risen and the flag is clear (R233). -/
def FlagUp (s t : State) (k : Nat) (fl : Option Nat) : Prop :=
  ∀ n, fl = some n → Tab.get (t.team k).flagCount n 0 = Tab.get (s.team k).flagCount n 0 + 1 ∧
    (t.team k).flagSet.getLsbD n = false

/-- The flag of an operation that has completed: its count has fallen, and it is set when the count is 0 (R233). -/
def FlagDown (s t : State) (k : Nat) (fl : Option Nat) : Prop :=
  ∀ n, n < 16 → fl = some n → Tab.get (t.team k).flagCount n 0 = Tab.get (s.team k).flagCount n 0 - 1 ∧
    (Tab.get (s.team k).flagCount n 0 ≤ 1 → (t.team k).flagSet.getLsbD n = true)

/-- A copy command as its bundle gives it (R411, R415). -/
def copyCommand (s : State) (c : Ctx) (p : Pass) (f : XFields) (kind : Nat) : CopyCmd :=
  { kind := kind, desc := c.words p f.sd.toNat (if f.follow then 12 else 8), flag := f.flagOf, team := c.t, path := c.p
    pc := c.pc, acq := f.acq, rel := f.rel, atom := f.atom, scope := (clampScope s c.t f.scope.toNat).2, follow := if f.follow then some f else none, waits := commandWaits s c f (kind == 3) }

/-- Every register that a duplicate names, moved by LINEBASE, is below N (R442). -/
def shadowsOk (c : Ctx) (f : LFields) (useC : Bool) : Prop :=
  f.d.toNat + c.tm.lineBase < c.tm.nregs ∧ f.a.toNat + c.tm.lineBase < c.tm.nregs ∧
    f.b.toNat + c.tm.lineBase < c.tm.nregs ∧ (useC = true → f.c.toNat + c.tm.lineBase < c.tm.nregs)

/-- A lining duplicate completes: in a kernel that enables lining its result is in flight to the shadow of D and to the
latch BX, each lane's value as a rule says of the shadows of A, B and C, with no tag and no flag (R442). -/
def LiningCompletes (mk : LFields → Instr) (useC : Bool) (lat : Nat)
    (rule : LFields → Nat → Nat → Nat → Nat → Prop) : Prop :=
  ∀ (f : LFields) (s : State) (c : Ctx), ctxOf s = some c →
    ((c.tk s).lining = false → exec (mk f) s = .next s) ∧
    ((c.tk s).lining = true → idle c.xPasses = false → ¬ shadowsOk c f useC →
      exec (mk f) s = .next (raise s c .x (flt .regBounds))) ∧
    ((c.tk s).lining = true → idle c.xPasses = false → shadowsOk c f useC →
      ∃ (t : State) (v : Pass → Nat → Nat), exec (mk f) s = .next t ∧ OnlyTeam s t c.t ∧
        t.team c.t = { s.team c.t with pending := (t.team c.t).pending } ∧
        ∀ p ∈ c.xPasses, p.lanes ≠ [] →
          InFlight t c.t { due := p.base + lat, from_ := p.start, dest := .vreg (f.d.toNat + c.tm.lineBase), word := p.w
                           vals := laneVals p (v p), latch := some .bx, slot := .x } ∧
          ∀ l ∈ p.lanes,
            let x (r : BitVec 10) : Nat := readV c.tm c.fr p.start (r.toNat + c.tm.lineBase) l
            rule f (x f.a) (x f.b) (x f.c) (v p l))

/-! ### The control slot -/

/-- A control-slot instruction. -/
def isControl (i : Instr) : Bool := (encodeC i).isSome

/-- A control-slot instruction completes: when its guard holds it answers a next state of which a rule speaks. -/
def Controls (i : Instr) (post : State → Ctx → State → Prop) : Prop :=
  ∀ (s : State) (c : Ctx), ctxOf s = some c → c.controlGuard = true → ∃ t, exec i s = .next t ∧ post s c t

/-- The path's next bundle lies at the bundle's address and a signed number of bundles, modulo 2^64 (R449). -/
def GoesTo (c : Ctx) (t : State) (off : Int) : Prop :=
  let pc := ((t.team c.t).path c.p).pc
  pc < 2 ^ 64 ∧ ((2 ^ 64 : Nat) : Int) ∣ (pc : Int) - ((c.pc : Int) + 32 * off)

/-- The bundle stays the path's next one: it waits (R447). -/
def Waits (c : Ctx) (t : State) (reason : Nat) : Prop :=
  ((t.team c.t).path c.p).pc = c.pc ∧ ((t.team c.t).path c.p).stall = reason

/-- A scalar result is in flight (R445, R457). -/
def ScalarIn (t : State) (c : Ctx) (d lat : Nat) (v : Word64) : Prop :=
  InFlight t c.t { due := c.cyc + sumL (c.extra.take 1) + lat, from_ := c.cyc, dest := .sreg d, vals := [(0, v)], slot := .c }

/-- A scalar instruction completes: its one effect is its result in flight, the value as a rule says. -/
def ScalarCompletes (i : Instr) (d : BitVec 7) (lat : Nat) (rule : Ctx → Word64 → Prop) : Prop :=
  Controls i (fun s c t => OnlyTeam s t c.t ∧ t.team c.t = { s.team c.t with pending := (t.team c.t).pending } ∧
    ∃ v, ScalarIn t c d.toNat lat v ∧ rule c v)

/-- A command of the debugger has freed paths of a target (R271). -/
def Resumed (s t : State) (d : DbgTarget) : Prop := ∀ j ∈ targetPaths s d, ((t.team d.t).path j).held = false

/-- A step: the path runs one bundle, and the others that ran are held for it (R273). -/
def Stepping (s t : State) (d : DbgTarget) : Prop :=
  ((t.team d.t).path d.p).held = false ∧ ((t.team d.t).path d.p).stepping = true ∧
    ∀ j pa, Tab.find (s.team d.t).paths j = some pa → j ≠ d.p → pa.held = false →
      ((t.team d.t).path j).stepHeld = true

/-- A lane has left a path for a debug path, which is held (R272). -/
def LaneLeft (s t : State) (d : DbgTarget) (lane q : Nat) : Prop :=
  let pa := (s.team d.t).path d.p
  let m : Mask := maskOf [lane]
  ((t.team d.t).path q).kind = .debug ∧ ((t.team d.t).path q).parent = d.p ∧ ((t.team d.t).path q).held = true ∧
    ((t.team d.t).path q).base = pa.base &&& m ∧ ((t.team d.t).path q).stack = pa.stack.map (fun x => x &&& m) ∧
    ((t.team d.t).path d.p).base = pa.base &&& ~~~m ∧ ((t.team d.t).path d.p).stack = pa.stack.map (fun x => x &&& ~~~m)

/-! ### Stops, faults and aborts -/

/-- A path has been stopped by the debugger's rules (R269, R270): it is held, its record is due at the end of the cycle, and
under ALLSTOP every path of its task is held. -/
def StopRecorded (s u : State) (t p code idx : Nat) : Prop :=
  let tm := s.team t
  ((u.team t).path p).held = true ∧ u.stops = s.stops ++ [stopOf s t p code idx] ∧
    ((s.func (s.task tm.task).fn).allStop = true → ∀ e ∈ u.teams, e.2.task = tm.task → ∀ q ∈ e.2.paths, q.2.held = true)

/-- A due stop record has been written (R270): it is in the stop ring when there is room, and lost with DBGOVF otherwise. -/
def StopWritten (s u : State) (x : Stop) : Prop :=
  let f := s.func x.fn
  let room := f.stopTail.toNat - f.stopHead.toNat < 16
  (room → (u.func x.fn).stopTail = f.stopTail + 1#64 ∧
      Tab.get (u.func x.fn).stopEv (f.stopTail.toNat % 16) 0#128 =
        stopWord x.slot x.tix x.path x.code x.idx x.crew x.pc) ∧
    (¬ room → (u.func x.fn).dbgOvf = true ∧ (u.func x.fn).stopTail = f.stopTail)

/-- A task has been stopped by a fault: it is Finished and FAULTED, or no longer there (R252, R258). -/
def TaskStopped (u : State) (k : Nat) : Prop :=
  ∀ x, Tab.find u.tasks k = some x → x.faulted = true ∧ x.phase = .finished

/-- A cohort has been aborted (R176-R178): each of its tasks waits to restart, or no longer exists. -/
def CohortGone (s u : State) (fn : Nat) (ts : Word64) : Prop :=
  ∀ k x y, Tab.find s.tasks k = some x → x.fn = fn → x.ts = ts → Tab.find u.tasks k = some y → y.restart = true

/-- A queue has stopped with a code (R56). -/
def QueueStopped (s u : State) (fn q code : Nat) : Prop :=
  ((u.func fn).queue q).en = false ∧ (u.func fn).qStop = true ∧
    ((u.func fn).queue q).qerr.toNat = code + 2 ^ 32 * (((s.func fn).queue q).qhead.toNat % 2 ^ 32)

/-- A task has been created (R60, R132, R166): it holds a slot and the next number, and it waits. Its timestamp is raised to
HEMLINE, and past a cohort whose commit has begun. -/
def Created (s u : State) (key : Nat) (fn q slot : Nat) (ts : Word64) (r : LaunchRec) : Prop :=
  let x := u.task key
  (Tab.find u.tasks key).isSome = true ∧ x.fn = fn ∧ x.queue = q ∧ x.slot = slot ∧ x.lrec = r ∧ x.phase = .waiting ∧ x.restart = false ∧
    x.ts = (if meetsSealed s fn ts then hem s fn + 1#64 else if ts.toNat < (hem s fn).toNat then hem s fn else ts) ∧
    x.taskid = (s.func fn).nextTaskid

end Sys2Proof.Machine
end

