-- ==== Sys2Proof/Certificates/Slice0/Obligations.lean ====
section
/-! DEFINITION. The statements for the provers. -/

open Sys2Proof Sys2Proof.Machine

/-! ### Integer arithmetic -/

/-- R344: VADD, VSUB, VMUL, VMULH, VMAD, VMIN, VMAX and VABSD complete, and each element is the exact
integer result, wrapped modulo 2^w or clamped under SAT with SATD. -/
def Obligations.IntegerArithmetic : Prop :=
  VecCompletes .vadd false (fixedLat 3) tagFmt (intRule (fun x y _ => x + y)) ∧
  VecCompletes .vsub false (fixedLat 3) tagFmt (intRule (fun x y _ => x - y)) ∧
  VecCompletes .vmul false (fixedLat 4) tagFmt (intRule (fun x y _ => x * y)) ∧
  VecCompletes .vmulh false (fixedLat 4) tagFmt
    (fun f => intRule (fun x y _ => Int.fdiv (x * y) ((2 ^ f.fmt.width : Nat) : Int)) f) ∧
  VecCompletes .vmad false (fixedLat 4) tagFmt (intRule (fun x y z => x * y + z)) ∧
  VecCompletes .vmin false (fixedLat 3) tagFmt (intRule (fun x y _ => if x ≤ y then x else y)) ∧
  VecCompletes .vmax false (fixedLat 3) tagFmt (intRule (fun x y _ => if x ≤ y then y else x)) ∧
  VecCompletes .vabsd false (fixedLat 3) tagFmt (intRule (fun x y _ => if x ≤ y then y - x else x - y))

/-- R345: VADDC and VSUBB complete with the sum or difference modulo 2^32, and write the carry or the
borrow to the predicate that AUX [7:4] names.
R346: VDOT4 completes with C plus the four exact products, wrapped or clamped as INT32. -/
def Obligations.CarriesAndDotProducts : Prop :=
  (VecCompletes .vaddc false (fixedLat 3) tagFmt (fun f s c p l v fl =>
     fl = 0#6 ∧ v = (operand s c p f.a f.fmt l + operand s c p f.b f.fmt l + carryOf f c p l) % 2 ^ 32) ∧
   PredCompletes (fun _ => true) .vaddc (fun f => fld f.aux.toNat 4 4) 3 (fun f s c p l b =>
     b = decide (2 ^ 32 ≤ operand s c p f.a f.fmt l + operand s c p f.b f.fmt l + carryOf f c p l)) ∧
   VecCompletes .vsubb false (fixedLat 3) tagFmt (fun f s c p l v fl =>
     fl = 0#6 ∧ v < 2 ^ 32 ∧ ((2 ^ 32 : Nat) : Int) ∣
       (v : Int) - (operand s c p f.a f.fmt l - operand s c p f.b f.fmt l - carryOf f c p l)) ∧
   PredCompletes (fun _ => true) .vsubb (fun f => fld f.aux.toNat 4 4) 3 (fun f s c p l b =>
     b = decide (operand s c p f.a f.fmt l < operand s c p f.b f.fmt l + carryOf f c p l))) ∧
  (VecCompletes .vdot4 false (fixedLat 4) (fun _ _ _ => .int32) (fun f s c p l v fl =>
     let a (i : Nat) : Int := intElem s c p f.a f.fmt l i
     let b (i : Nat) : Int := intElem s c p f.b (fmtXB f) l i
     let z : Int := intElem s c p f.c .int32 l 0
     v < 2 ^ 32 ∧ Narrowed .int32 f.sat (z + a 0 * b 0 + a 1 * b 1 + a 2 * b 2 + a 3 * b 3) v fl))

/-! ### Logic and bits -/

/-- R347, R351: VAND, VOR, VXOR, VANDN, VNOT and VLOP3 complete, and every bit of the lane is the named
function of the operands' bits at its place.
R348, R350: VSHL, VSHR, VSAR, VROT and VBREV complete; a count of the width or more shifts every bit out,
and a rotation takes its count modulo the width. -/
def Obligations.LogicAndShifts : Prop :=
  (VecCompletes .vand false (fixedLat 3) tagFmt (bitRule (fun _ a b _ => a && b)) ∧
   VecCompletes .vor false (fixedLat 3) tagFmt (bitRule (fun _ a b _ => a || b)) ∧
   VecCompletes .vxor false (fixedLat 3) tagFmt (bitRule (fun _ a b _ => xor a b)) ∧
   VecCompletes .vandn false (fixedLat 3) tagFmt (bitRule (fun _ a b _ => a && !b)) ∧
   VecCompletes .vnot false (fixedLat 3) tagFmt (bitRule (fun _ a _ _ => !a)) ∧
   VecCompletes .vlop3 false (fixedLat 3) tagFmt (bitRule (fun f a b z =>
     Nat.testBit f.aux.toNat (4 * a.toNat + 2 * b.toNat + z.toNat)))) ∧
  (VecCompletes .vshl false (fixedLat 3) tagFmt (shiftRule (fun _ x n => x <<< n)) ∧
   VecCompletes .vshr false (fixedLat 3) tagFmt (shiftRule (fun _ x n => x >>> n)) ∧
   VecCompletes .vsar false (fixedLat 3) tagFmt (shiftRule (fun _ x n => x.sshiftRight n)) ∧
   VecCompletes .vrot false (fixedLat 3) tagFmt (shiftRule (fun _ x n => x.rotateLeft n)) ∧
   VecCompletes .vbrev false (fixedLat 3) tagFmt (shiftRule (fun _ x _ => x.reverse)))

/-- R349, R350: VBFX and VBFI complete with the field that B's position and length select, and VPOPC and VCLZ
with the counts of 1 bits and of leading 0 bits. -/
def Obligations.FieldsAndCounts : Prop :=
  VecCompletes .vbfx false (fixedLat 3) tagFmt (fun f s c p l v fl =>
    let a := operand s c p f.a f.fmt l
    let b := operand s c p f.b f.fmt l
    let pos := fld b 0 5
    let m := min (fld b 8 6) (32 - pos)
    fl = 0#6 ∧ v < 2 ^ 32 ∧ ∀ j, j < 32 →
      Nat.testBit v j = if j < m then Nat.testBit a (pos + j)
        else (f.fmt == .int32 && decide (0 < m) && Nat.testBit a (pos + m - 1))) ∧
  VecCompletes .vbfi false (fixedLat 3) tagFmt (fun f s c p l v fl =>
    let a := operand s c p f.a f.fmt l
    let b := operand s c p f.b f.fmt l
    let z := operand s c p f.c f.fmt l
    let pos := fld b 0 5
    let m := min (fld b 8 6) (32 - pos)
    fl = 0#6 ∧ ∀ j, j < 32 →
      Nat.testBit v j = if pos ≤ j ∧ j < pos + m then Nat.testBit a (j - pos) else Nat.testBit z j) ∧
  VecCompletes .vpopc false (fixedLat 3) tagFmt (fun f s c p l v fl =>
    fl = 0#6 ∧ ∀ i, i < f.fmt.elems → elemAt f.fmt v i =
      ((List.range f.fmt.width).filter (Nat.testBit (elemAt f.fmt (operand s c p f.a f.fmt l) i))).length) ∧
  VecCompletes .vclz false (fixedLat 3) tagFmt (fun f s c p l v fl =>
    fl = 0#6 ∧ ∀ i, i < f.fmt.elems →
      let x := elemAt f.fmt (operand s c p f.a f.fmt l) i
      let n := elemAt f.fmt v i
      n ≤ f.fmt.width ∧ x < 2 ^ (f.fmt.width - n) ∧ (n < f.fmt.width → 2 ^ (f.fmt.width - n - 1) ≤ x))

/-! ### Compare, select, classify and move -/

/-- R352: VCMP completes with an element mask in D, all ones where the condition holds, and writes to Pd
whether every element holds, or any under ANY.
R360: VFCMP completes with an element mask and a predicate: a NaN makes every condition but `.ne` and the unordered one
false, zeros of both signs are equal, and NV is raised by a NaN under an ordering condition or by a signalling one. -/
def Obligations.Compares : Prop :=
  (VecCompletes .vcmp false (fixedLat 3) tagFmt (fun f s c p l v fl =>
     fl = 0#6 ∧ ∀ i, i < f.fmt.elems →
       let x := elemAt f.fmt (operand s c p f.a f.fmt l) i
       let y := elemAt f.fmt (operand s c p f.b f.fmt l) i
       (condHolds (fld f.aux.toNat 4 3) (intVal f.fmt x) (intVal f.fmt y) x y → elemAt f.fmt v i = 2 ^ f.fmt.width - 1) ∧
       (¬ condHolds (fld f.aux.toNat 4 3) (intVal f.fmt x) (intVal f.fmt y) x y → elemAt f.fmt v i = 0)) ∧
   PredCompletes (fun _ => true) .vcmp (fun f => fld f.aux.toNat 0 4) 3 (fun f s c p l b =>
     let x (i : Nat) := elemAt f.fmt (operand s c p f.a f.fmt l) i
     let y (i : Nat) := elemAt f.fmt (operand s c p f.b f.fmt l) i
     let h (i : Nat) : Prop := condHolds (fld f.aux.toNat 4 3) (intVal f.fmt (x i)) (intVal f.fmt (y i)) (x i) (y i)
     (b = true ↔ if Nat.testBit f.aux.toNat 7 then ∃ i, i < f.fmt.elems ∧ h i else ∀ i, i < f.fmt.elems → h i))) ∧
  (let holds (cond : Nat) (x y : FVal) : Prop :=
     let un := x.isNaN = true ∨ y.isNaN = true
     let lt (x y : FVal) : Prop := ltV x y = true ∧ eqV x y = false
     match cond with
     | 0 => ¬ un ∧ eqV x y = true
     | 1 => un ∨ eqV x y = false
     | 2 => ¬ un ∧ lt x y
     | 3 => ¬ un ∧ (lt x y ∨ eqV x y = true)
     | 4 => ¬ un ∧ lt y x
     | 5 => ¬ un ∧ (lt y x ∨ eqV x y = true)
     | 6 => un
     | _ => ¬ un
   VecCompletes .vfcmp false (fixedLat 5) (fun _ _ f => if f.fmt = .fp32 then .int32 else .int16)
     (fun f s c p l v fl => ElemWise f.fmt (fun i e fe =>
       let cond := fld f.aux.toNat 4 3
       let x := floatElem f s c p f.a f.fmt 0 l i
       let y := floatElem f s c p f.b f.fmt 1 l i
       (holds cond x y → e = 2 ^ f.fmt.width - 1) ∧ (¬ holds cond x y → e = 0) ∧
       fe = if (2 ≤ cond ∧ cond ≤ 5 ∧ (x.isNaN = true ∨ y.isNaN = true)) ∨ x.isSNaN = true ∨ y.isSNaN = true
         then flNV else 0#6) v fl) ∧
   PredCompletes (fun _ => true) .vfcmp (fun f => fld f.aux.toNat 0 4) 5 (fun f s c p l b =>
     let h (i : Nat) : Prop := holds (fld f.aux.toNat 4 3) (floatElem f s c p f.a f.fmt 0 l i)
       (floatElem f s c p f.b f.fmt 1 l i)
     (b = true ↔ if Nat.testBit f.aux.toNat 7 then ∃ i, i < f.fmt.elems ∧ h i else ∀ i, i < f.fmt.elems → h i)))

/-- R353, R354, R355, R356: VSEL, VMOV, both directions of VMOVP, and VFCLASS complete with the value, the
tag and the class that the rules give. -/
def Obligations.MovesAndClasses : Prop :=
  VecCompletes .vsel false (fixedLat 3)
    (fun s c f => ((c.tagOf (c.crew s) f.a.toNat).orElse (fun _ => c.tagOf (c.crew s) f.b.toNat)).getD f.fmt)
    (fun f s c p l v fl => fl = 0#6 ∧
      v = if readP c.tm c.fr p.start (fld f.aux.toNat 0 4) l ≠ Nat.testBit f.aux.toNat 4
        then operand s c p f.a f.fmt l else operand s c p f.b f.fmt l) ∧
  VecCompletes .vmov false (fixedLat 3) (fun s c f => (c.tagOf (c.crew s) f.a.toNat).getD f.fmt)
    (fun f s c p l v fl => fl = 0#6 ∧ v = operand s c p f.a f.fmt l) ∧
  VecCompletesIf (fun f => !Nat.testBit f.aux.toNat 4) .vmovp false (fixedLat 3) tagFmt (fun f _ c p l v fl =>
    fl = 0#6 ∧ v = if readP c.tm c.fr p.start (fld f.aux.toNat 0 4) l then 1 else 0) ∧
  PredCompletes (fun f => Nat.testBit f.aux.toNat 4) .vmovp (fun f => fld f.aux.toNat 0 4) 3
    (fun f s c p l b => b = decide (operand s c p f.a f.fmt l % 2 ^ 32 ≠ 0)) ∧
  VecCompletes .vfclass false (fixedLat 3) (fun _ _ _ => .none) (fun f s c p l v fl =>
    fl = 0#6 ∧ ∀ i, i < f.fmt.elems →
      let x := floatElem f s c p f.a f.fmt 0 l i
      elemAt f.fmt v i = match x with
        | .nan true => 0
        | .nan false => 1
        | .inf true => 2
        | .inf false => 9
        | .fin n m _ =>
          if m = 0 then (if n then 5 else 6)
          else if x.isSubnormal f.fmt then (if n then 4 else 7) else (if n then 3 else 8))

/-! ### Floating point -/

/-- R296, R297: rounding to a multiple of 2^q: RZ never grows a magnitude, RUP and RDN never go below or above the value,
RNE takes a nearest multiple and the even one of two, and the inexact mark says whether the value has changed.
R300: a NaN among the inputs of an addition, a product or a fused multiply-add gives the canonical NaN of the
format, without NV unless an input is signalling or the product is 0 × ∞; and ∞ - ∞ and 0 × ∞ give it with NV. -/
def Obligations.RoundingAndInvalidOperations : Prop :=
  (∀ (rnd : Rnd) (neg : Bool) (m : Nat) (e q : Int), e < q →
     let k := (roundAt rnd neg m e q false).1
     let u := 2 ^ (q - e).toNat
     ((roundAt rnd neg m e q false).2 = true ↔ ¬ u ∣ m) ∧
     (u ∣ m → k * u = m) ∧ (k * u < m + u ∧ m < k * u + u) ∧
     match rnd with
     | .rz => k * u ≤ m
     | .rup => if neg then k * u ≤ m else m ≤ k * u
     | .rdn => if neg then m ≤ k * u else k * u ≤ m
     | .rne => 2 * (k * u) ≤ 2 * m + u ∧ 2 * m ≤ 2 * (k * u) + u ∧
         (2 * (k * u) = 2 * m + u ∨ 2 * m = 2 * (k * u) + u → k % 2 = 0)) ∧
  (∀ (f : VFields) (fmt : Fmt), fmt = .fp32 ∨ fmt = .bf16 ∨ fmt = .fp16 →
     (∀ (x y : FVal) (e : Nat) (fl : Flags), x.isNaN = true ∨ y.isNaN = true →
       (Rounded f fmt (addV f.rnd x y) [x, y] e fl → e = fmt.canonNaN ∧
         fl = if x.isSNaN = true ∨ y.isSNaN = true then flNV else 0#6) ∧
       (Rounded f fmt (mulV x y) [x, y] e fl → e = fmt.canonNaN ∧
         fl = if x.isSNaN = true ∨ y.isSNaN = true then flNV else 0#6)) ∧
     (∀ (n : Bool) (e : Nat) (fl : Flags),
       Rounded f fmt (addV f.rnd (.inf n) (.inf (!n))) [.inf n, .inf (!n)] e fl → e = fmt.canonNaN ∧ fl = flNV) ∧
     (∀ (n k : Bool) (d : Int) (z : FVal) (e : Nat) (fl : Flags),
       Rounded f fmt (fmaV f.rnd (.fin n 0 d) (.inf k) z) [.fin n 0 d, .inf k, z] e fl →
         e = fmt.canonNaN ∧ fl = flNV))

/-- R359: VFADD, VFSUB, VFMUL, VFMA, VFMIN and VFMAX complete, each element the exact result of the prepared
inputs rounded once, with the flags of R303. -/
def Obligations.FloatArithmetic : Prop :=
  VecCompletes .vfadd false (fixedLat 5) tagFmt (floatRule false (fun r a b _ => addV r a b)) ∧
  VecCompletes .vfsub false (fixedLat 5) tagFmt (floatRule false (fun r a b _ => addV r a b.neg)) ∧
  VecCompletes .vfmul false (fixedLat 5) tagFmt (floatRule false (fun _ a b _ => mulV a b)) ∧
  VecCompletes .vfma false (fixedLat 5) tagFmt (floatRule true (fun r a b z => fmaV r a b z)) ∧
  VecCompletes .vfmin false (fixedLat 5) tagFmt (floatRule false (fun _ a b _ => (minV a b, false))) ∧
  VecCompletes .vfmax false (fixedLat 5) tagFmt (floatRule false (fun _ a b _ => (maxV a b, false)))

/-- R361: VFDOT2 and VFDOT4 complete with one rounding into FP32 of C plus the exact products.
The model's own choices here: log 9. -/
def Obligations.FloatDotProducts : Prop :=
  let rule (n : Nat) (fb : VFields → Fmt) : LaneRule := fun f s c p l v fl =>
    let a := (List.range n).map (fun i => floatElem f s c p f.a f.fmt 0 l i)
    let b := (List.range n).map (fun i => floatElem f s c p f.b (fb f) 1 l i)
    let z := floatElem f s c p f.c .fp32 2 l 0
    Rounded f .fp32 (dotSum f.rnd z (List.zipWith mulV a b)) (z :: (a ++ b)) (v % 2 ^ 32) fl
  VecCompletes .vfdot2 false (fixedLat 5) (fun _ _ _ => .fp32) (rule 2 (fun f => f.fmt)) ∧
  VecCompletes .vfdot4 false (fixedLat 5) (fun _ _ _ => .fp32) (rule 4 fmtXB)

/-- R363, R364: the special functions complete. The special inputs give the table's results and flags, and the results
that are always exact are exact: VEXP2 of an integer, VLOG2 of a power of two, and VSINP and VCOSP of integers and
half-integers. -/
def Obligations.SpecialFunctions : Prop :=
  let zero (f : VFields) (n : Bool) : Nat := if n then f.fmt.signBit else 0
  let inf (f : VFields) (n : Bool) : Nat := f.fmt.infBits + zero f n
  let one (f : VFields) (n : Bool) : Nat := f.fmt.layout.bias * 2 ^ f.fmt.layout.mb + zero f n
  let rule (row : VFields → FVal → Nat → Flags → Prop) : LaneRule := fun f s c p l v fl =>
    ElemWise f.fmt (fun i e fe =>
      let x := floatElem f s c p f.a f.fmt 0 l i
      (x.isNaN = true → e = f.fmt.canonNaN ∧ fe = if x.isSNaN then flNV else 0#6) ∧ row f x e fe) v fl
  let is (f : VFields) (e : Nat) (fl : Flags) (r : Nat) (g : Flags) : Prop := e = r % 2 ^ f.fmt.width ∧ fl = g
  let invalid (f : VFields) (e : Nat) (fl : Flags) : Prop := is f e fl f.fmt.canonNaN flNV
  VecCompletes .vrcp false (fixedLat 12) tagFmt (rule (fun f x e fl =>
    match x with
    | .inf n => is f e fl (zero f n) 0#6
    | .fin n 0 _ => is f e fl (inf f n) flDZ
    | _ => True)) ∧
  VecCompletes .vrsq false (fixedLat 12) tagFmt (rule (fun f x e fl =>
    match x with
    | .inf n => if n then invalid f e fl else is f e fl 0 0#6
    | .fin n 0 _ => is f e fl (inf f n) flDZ
    | .fin n _ _ => n = true → invalid f e fl
    | _ => True)) ∧
  VecCompletes .vsqrt false (fixedLat 12) tagFmt (rule (fun f x e fl =>
    match x with
    | .inf n => if n then invalid f e fl else is f e fl (inf f false) 0#6
    | .fin n 0 _ => is f e fl (zero f n) 0#6
    | .fin n _ _ => n = true → invalid f e fl
    | _ => True)) ∧
  VecCompletes .vexp2 false (fixedLat 12) tagFmt (rule (fun f x e fl =>
    match x with
    | .inf n => is f e fl (if n then 0 else inf f false) 0#6
    | .fin n m d => ∀ k : Int, (if n then -(m : Int) else m) * 2 ^ d.toNat = k * 2 ^ (-d).toNat →
        1 - (f.fmt.layout.bias : Int) ≤ k → k ≤ f.fmt.layout.bias →
        is f e fl ((k + f.fmt.layout.bias).toNat * 2 ^ f.fmt.layout.mb) 0#6
    | _ => True)) ∧
  VecCompletes .vlog2 false (fixedLat 12) tagFmt (rule (fun f x e fl =>
    match x with
    | .inf n => if n then invalid f e fl else is f e fl (inf f false) 0#6
    | .fin _ 0 _ => is f e fl (inf f true) flDZ
    | .fin true _ _ => invalid f e fl
    | .fin false m d => ∀ k : Nat, m = 2 ^ k →
        let r := encodeF f.fmt f.rnd f.fzo f.sat (Dy.val ⟨k + d, 0⟩)
        is f e fl r.1 r.2
    | _ => True)) ∧
  VecCompletes .vsinp false (fixedLat 12) tagFmt (rule (fun f x e fl =>
    match x with
    | .inf _ => invalid f e fl
    | .fin n m d => ∀ h : Int, (if n then -(m : Int) else m) * 2 ^ (d + 1).toNat = h * 2 ^ (-(d + 1)).toNat →
        (h % 2 = 0 → is f e fl (zero f n) 0#6) ∧ (h % 4 = 1 → is f e fl (one f false) 0#6) ∧
        (h % 4 = 3 → is f e fl (one f true) 0#6)
    | _ => True)) ∧
  VecCompletes .vcosp false (fixedLat 12) tagFmt (rule (fun f x e fl =>
    match x with
    | .inf _ => invalid f e fl
    | .fin n m d => ∀ h : Int, (if n then -(m : Int) else m) * 2 ^ (d + 1).toNat = h * 2 ^ (-(d + 1)).toNat →
        (h % 2 = 1 → is f e fl 0 0#6) ∧ (h % 4 = 0 → is f e fl (one f false) 0#6) ∧
        (h % 4 = 2 → is f e fl (one f true) 0#6)
    | _ => True)) ∧
  VecCompletes .vtanh false (fixedLat 12) tagFmt (rule (fun f x e fl =>
    match x with
    | .inf n => is f e fl (one f n) 0#6
    | .fin n 0 _ => is f e fl (zero f n) 0#6
    | _ => True))

/-! ### Conversions -/

/-- R367: VCVT, VUNPK and VPACK complete. An integer converts into an integer format by wrapping, or clamping under
SAT; every other element is decoded, flushed under FZI and rounded once into FMT; VPACK keeps the other elements of C. -/
def Obligations.Conversions : Prop :=
  let conv (f : VFields) (x : Nat) (i e : Nat) (fl : Flags) : Prop :=
    let sf := sfmtOf f
    let v := decodeElem sf x i
    let y := if sf.isInt then v else flushIn f.fzi (if sf = .i4x then .e4m3 else sf) v
    let r := roundTo f.fmt f.rnd f.fzo f.sat y
    if sf.isInt && f.fmt.isInt then Narrowed f.fmt f.sat (intVal sf (elemAt sf x i)) e fl
    else e = r.1 % 2 ^ f.fmt.width ∧ fl = r.2 ||| (if y.isSNaN then flNV else 0#6)
  VecCompletes .vcvt false (fixedLat 5) tagFmt (fun f s c p l v fl =>
    ElemWise f.fmt (conv f (operand s c p f.a (sfmtOf f) l)) v fl) ∧
  VecCompletes .vunpk false (fixedLat 5) tagFmt (fun f s c p l v fl =>
    ElemWise f.fmt (fun i => conv f (operand s c p f.a (sfmtOf f) l) (partOf f * f.fmt.elems + i)) v fl) ∧
  VecCompletes .vpack false (fixedLat 5) tagFmt (fun f s c p l v fl =>
    let n := (sfmtOf f).elems
    let first := partOf f * 2 * n
    ElemWise f.fmt (fun i e fe =>
      (first ≤ i ∧ i < first + n → conv f (operand s c p f.a (sfmtOf f) l) (i - first) e fe) ∧
      (first + n ≤ i ∧ i < first + 2 * n → conv f (operand s c p f.b (sfmtOf f) l) (i - first - n) e fe) ∧
      (i < first ∨ first + 2 * n ≤ i → e = elemAt f.fmt (operand s c p f.c f.fmt l) i ∧ fe = 0#6)) v fl)

/-- R368, R369: VSCALE and VDEQ complete with one rounding of the exact product of a scale or an element with B. R370,
R371: VQUANT completes. Every element outside PART is 0; outside I4X each product is rounded once into FMT; under
I4X, without an out-of-range product at places 0 and 3 each nibble is the rounded product clamped to -7 to 7, and
with one the quad holds the marker 8 at its place and its E4M3 byte in nibbles 1 and 2. -/
def Obligations.ScalingAndQuantisation : Prop :=
  (let product (f : VFields) (x y : FVal) (e : Nat) (fl : Flags) : Prop :=
     let q := mulV x y
     let r := encodeF f.fmt f.rnd f.fzo f.sat q.1
     e = r.1 % 2 ^ f.fmt.width ∧ fl = r.2 ||| (if q.2 = true ∨ x.isSNaN = true ∨ y.isSNaN = true then flNV else 0#6)
   let scale (f : VFields) (s : State) (c : Ctx) (p : Pass) (l : Nat) : FVal :=
     flushIn f.fzi .fp32 (decodeF .fp32 (operand s c p f.b .fp32 l))
   VecCompletes .vscale false (fixedLat 5) tagFmt (fun f s c p l v fl =>
     product f (flushIn f.fzi .scale (decodeF .scale (elemAt .scale (operand s c p f.a .scale l) (fld f.aux.toNat 0 2))))
       (scale f s c p l) (v % 2 ^ 32) fl) ∧
   VecCompletes .vdeq false (fixedLat 5) tagFmt (fun f s c p l v fl =>
     ElemWise f.fmt (fun i => product f
       (convIn f (sfmtOf f) (operand s c p f.a (sfmtOf f) l) (partOf f * f.fmt.elems + i)) (scale f s c p l)) v fl)) ∧
  (VecCompletes .vquant false (fixedLat 8) tagFmt (fun f s c p l v _ =>
     let sf := sfmtOf f
     let z := flushIn f.fzi .fp32 (decodeF .fp32 (operand s c p f.c .fp32 l))
     let x (j : Nat) : FVal := (mulV (convIn f sf (if j < sf.elems then operand s c p f.a sf l else operand s c p f.b sf l)
       (j % sf.elems)) z).1
     let k := 2 * sf.elems
     let nib (j : Nat) : Nat := fld v (16 * partOf f + 4 * j) 4
     let ordinary (j : Nat) : Prop := nib j = match x j with
       | .nan _ => 0
       | .inf n => if n then 9 else 7
       | y => wrapBits 4 (max (-7) (min 7 ((nearInt f.rnd y).getD 0)))
     let marked (o : Nat) : Prop := nib o = 8 ∧ ordinary (3 - o) ∧
       nib 1 + 16 * nib 2 = (encodeF .e4m3 f.rnd f.fzo f.sat (x o)).1 % 256
     (∀ i, i < f.fmt.elems → i < partOf f * k ∨ (partOf f + 1) * k ≤ i → elemAt f.fmt v i = 0) ∧
     if f.fmt = .i4x then
       (outlier f.rnd (x 0) = false ∧ outlier f.rnd (x 3) = false → ∀ j, j < 4 → ordinary j) ∧
       (outlier f.rnd (x 0) = true ∧ outlier f.rnd (x 3) = false → marked 0) ∧
       (outlier f.rnd (x 0) = false ∧ outlier f.rnd (x 3) = true → marked 3) ∧
       (outlier f.rnd (x 0) = true ∧ outlier f.rnd (x 3) = true →
         if ltV (x 0).abs (x 3).abs then marked 3 else marked 0)
     else ∀ j, j < k → elemAt f.fmt v (partOf f * k + j) = (roundTo f.fmt f.rnd f.fzo f.sat (x j)).1 % 2 ^ f.fmt.width))

/-! ### Across lanes -/

/-- R375, R377, R379: VSHUF, VBCAST and VVOTE complete: a lane takes the value of the lane that the mode names, its own
when that lies outside its segment; the value of one lane of its segment; or the vote of the contributing lanes.
R376: VPERM completes. A written lane takes the value of the highest-numbered lane that sends to it; a lane to which
none sends has no new result in flight, and so keeps its old value.
The model's own choices here: log 21. -/
def Obligations.LaneMoves : Prop :=
  (VecCompletes .vshuf true moveLat moveTag (fun f s c p l v fl =>
     let size := segOf c (fld f.aux.toNat 2 4)
     let base := l - l % size
     let b := laneIndex s c p f l
     let src : Int := match fld f.aux.toNat 0 2 with
       | 0 => base + b
       | 1 => l - b
       | 2 => l + b
       | _ => (l ^^^ b : Nat)
     fl = 0#6 ∧ v = operand s c p f.a f.fmt
       (if (base : Int) ≤ src ∧ src < (base : Int) + size then src.toNat else l)) ∧
   VecCompletes .vbcast true moveLat moveTag (fun f s c p l v fl =>
     let size := segOf c (fld f.aux.toNat 2 4)
     fl = 0#6 ∧ v = operand s c p f.a f.fmt (l - l % size + laneIndex s c p f l % size)) ∧
   VecCompletes .vvote true (fixedLat 12) tagFmt (fun f _ c p l v fl =>
     let group := if c.cg16 then 16 else 32
     let lanes := passLanes (vecPasses c true)
     let vote (k : Nat) : Prop := readP c.tm c.fr p.start (fld f.aux.toNat 0 4) k ≠ Nat.testBit f.aux.toNat 4
     let near := if c.cg16 then lanes.filter (fun k => k / 16 == l / 16) else lanes
     fl = 0#6 ∧ match fld f.aux.toNat 5 2 with
       | 0 => ∀ j, Nat.testBit v j = true ↔ j < group ∧ (l - l % group + j) ∈ lanes ∧ vote (l - l % group + j)
       | 1 => v = if ∃ k ∈ near, vote k then 1 else 0
       | 2 => v = if ∀ k ∈ near, vote k then 1 else 0
       | _ => v = (near.filter (fun k => readP c.tm c.fr p.start (fld f.aux.toNat 0 4) k != Nat.testBit f.aux.toNat 4)).length)) ∧
  (∀ (f : VFields) (s : State) (c : Ctx), ctxOf s = some c → vecReady s (.vperm f) = true →
     ∃ t, exec (.vperm f) s = .next t ∧ ∀ p ∈ vecPasses c true, ∀ l ∈ p.lanes,
       let size := segOf c (fld f.aux.toNat 2 4)
       let sends (k : Nat) : Prop := k ∈ passLanes (vecPasses c true) ∧ laneIndex s c p f k < size ∧
         k - k % size + laneIndex s c p f k = l
       (opd f.d.toNat).isV = true → f.lat = false →
         (∀ k, sends k → (∀ j, sends j → j ≤ k) →
           ∃ r ∈ (t.team c.t).pending, r.due = p.base + moveLat c ∧ r.tag = some (moveTag s c f) ∧
             r.dest = (if f.fmt == .int64 then .vpair (c.vregD f.d.toNat) else .vreg (c.vregD f.d.toNat)) ∧
             (l, BitVec.ofNat 64 (operand s c p f.a f.fmt k)) ∈ r.vals) ∧
         ((∀ k, ¬ sends k) → ∀ r ∈ (t.team c.t).pending, (∃ v, (l, v) ∈ r.vals) → InFlight s c.t r))

/-- R378: VRED and VSCAN complete, element by element. In an integer format the result is the combination of the
contributing lanes: over the segment, or over the lanes at or below the lane. In a floating-point format VRED combines
them in the fixed tree of the rule over a segment of 2^k lanes, and VSCAN in ascending lane order, each combination
rounded once. With no lane to combine VSCAN gives the identity.
The model's own choice here: log 16, that each lane's element is prepared once (FZI, NaN, NV) before it is combined. -/
def Obligations.Reductions : Prop :=
  let op (f : VFields) : Nat := fld f.aux.toNat 0 3
  let combined (f : VFields) (xs : List Nat) (e : Nat) (fl : Flags) : Prop :=
    match op f with
    | 0 => Narrowed f.fmt f.sat ((xs.map (intVal f.fmt)).sum) e fl
    | 1 => fl = 0#6 ∧ e ∈ xs ∧ ∀ x ∈ xs, intVal f.fmt e ≤ intVal f.fmt x
    | 2 => fl = 0#6 ∧ e ∈ xs ∧ ∀ x ∈ xs, intVal f.fmt x ≤ intVal f.fmt e
    | 3 => fl = 0#6 ∧ ∀ j, j < f.fmt.width → (Nat.testBit e j = true ↔ ∀ x ∈ xs, Nat.testBit x j = true)
    | 4 => fl = 0#6 ∧ ∀ j, j < f.fmt.width → (Nat.testBit e j = true ↔ ∃ x ∈ xs, Nat.testBit x j = true)
    | _ => fl = 0#6 ∧ ∀ j, j < f.fmt.width →
        (Nat.testBit e j = true ↔ (xs.filter (fun x => Nat.testBit x j)).length % 2 = 1)
  let identity (f : VFields) : Nat := match op f with
    | 1 => wrapBits f.fmt.width f.fmt.intMax
    | 2 => wrapBits f.fmt.width f.fmt.intMin
    | 3 => 2 ^ f.fmt.width - 1
    | _ => 0
  let segment (f : VFields) (c : Ctx) (l : Nat) : List Nat :=
    let size := segOf c (fld f.aux.toNat 3 4)
    ((List.range size).map (fun j => l - l % size + j)).filter
      (fun k => (passLanes (vecPasses c true)).contains k)
  let below (f : VFields) (c : Ctx) (l : Nat) : List Nat :=
    (segment f c l).filter (fun k => if Nat.testBit f.aux.toNat 7 then decide (k < l) else decide (k ≤ l))
  let elems (f : VFields) (s : State) (c : Ctx) (p : Pass) (lanes : List Nat) (i : Nat) : List Nat :=
    lanes.map (fun k => elemAt f.fmt (operand s c p f.a f.fmt k) i)
  let floatIdentity (f : VFields) : Nat := match op f with
    | 0 => 0
    | 1 => f.fmt.infBits
    | _ => f.fmt.infBits + f.fmt.signBit
  let leaf (f : VFields) (s : State) (c : Ctx) (p : Pass) (i k : Nat) : Nat × Flags :=
    redLeaf f (elemAt f.fmt (operand s c p f.a f.fmt k) i)
  VecCompletes .vred true (fixedLat 12) tagFmt (fun f s c p l v fl =>
    f.fmt.isInt = true →
      ElemWise f.fmt (fun i => combined f (elems f s c p (segment f c l) i)) v fl) ∧
  VecCompletes .vred true (fixedLat 12) tagFmt (fun f s c p l v fl =>
    f.fmt.isFloat = true → ∀ k, segOf c (fld f.aux.toNat 3 4) = 2 ^ k →
      ElemWise f.fmt (fun i e fe =>
        redTree f (fun j => if l - l % 2 ^ k + j ∈ passLanes (vecPasses c true)
          then some (leaf f s c p i (l - l % 2 ^ k + j)) else none) k 0 = some (e, fe)) v fl) ∧
  VecCompletes .vscan true (fixedLat 12) tagFmt (fun f s c p l v fl =>
    f.fmt.isInt = true →
      let lanes := below f c l
      if lanes = [] then fl = 0#6 ∧ ∀ i, i < f.fmt.elems → elemAt f.fmt v i = identity f
      else ElemWise f.fmt (fun i => combined f (elems f s c p lanes i)) v fl) ∧
  VecCompletes .vscan true (fixedLat 12) tagFmt (fun f s c p l v fl =>
    f.fmt.isFloat = true →
      let lanes := below f c l
      if lanes = [] then fl = 0#6 ∧ ∀ i, i < f.fmt.elems → elemAt f.fmt v i = floatIdentity f
      else ElemWise f.fmt (fun i e fe => redChain f (lanes.map (leaf f s c p i)) = some (e, fe)) v fl)

/-! ### Indirect registers and predicates -/

/-- R380: VGETI and VSETI complete when every lane's index lies inside the window: VGETI reads, and VSETI writes, the
register of the window that the lane's index names; an index outside the window raises REG_BOUNDS and names the
lowest such lane. R381, R382: PLOGIC completes with the truth table's bit for three predicates, PSETL with the
comparison of the lane's number; PLOGIC raises ILLEGAL_OPERAND when Sk names no predicate or holds a bit above 15. -/
def Obligations.IndirectRegistersAndPredicates : Prop :=
  (let index (f : VFields) (s : State) (c : Ctx) (p : Pass) (l : Nat) : Nat := operand s c p f.b .none l % 2 ^ 32
   let inside (f : VFields) (s : State) (c : Ctx) : Prop :=
     ∀ p ∈ c.vPasses, ∀ l ∈ p.lanes, index f s c p l ≤ f.aux.toNat
   (∀ (f : VFields) (s : State) (c : Ctx), ctxOf s = some c → vecReady s (.vgeti f) = true → inside f s c →
     ∃ t v fl, exec (.vgeti f) s = .next t ∧ VResultsIn t c c.vPasses f f.fmt 6 v fl ∧
       ∀ p ∈ c.vPasses, ∀ l ∈ p.lanes, fl p l = 0#6 ∧
         v p l = readV c.tm c.fr p.start (f.a.toNat + index f s c p l) l) ∧
   (∀ (f : VFields) (s : State) (c : Ctx), ctxOf s = some c → vecReady s (.vseti f) = true → inside f s c →
     ∃ t, exec (.vseti f) s = .next t ∧ ∀ p ∈ c.vPasses, ∀ l ∈ p.lanes,
       ∃ r ∈ (t.team c.t).pending, r.dest = .vreg (f.d.toNat + index f s c p l) ∧ r.due = p.base + 6 ∧
         r.tag = some f.fmt ∧ r.latch = none ∧ (l, BitVec.ofNat 64 (operand s c p f.a f.fmt l)) ∈ r.vals) ∧
   (∀ (i : Instr) (f : VFields) (s : State) (c : Ctx) (p : Pass) (l : Nat), i = .vgeti f ∨ i = .vseti f →
     ctxOf s = some c → vecReady s i = true → p ∈ c.vPasses → l ∈ p.lanes → f.aux.toNat < index f s c p l →
     (∀ q ∈ c.vPasses, ∀ k ∈ q.lanes, f.aux.toNat < index f s c q k → l ≤ k) →
     exec i s = .next (raise s c .v { code := .regBounds, lane := l }))) ∧
  ((∀ (f : VFields) (s : State) (c : Ctx), ctxOf s = some c → idle c.vPasses = false →
     let k := c.sreg (f.a.toNat - 0x600)
     (k < 2 ^ 16 → fld k 0 4 ≠ 0 → ∃ t, exec (.plogic f) s = .next t ∧
       PResultsIn t c c.vPasses (fld k 0 4) 3 (fun p l =>
         let bit (lo : Nat) : Nat := if readP c.tm c.fr p.start (fld k lo 4) l then 1 else 0
         Nat.testBit f.aux.toNat (4 * bit 4 + 2 * bit 8 + bit 12))) ∧
     (2 ^ 16 ≤ k ∨ fld k 0 4 = 0 → exec (.plogic f) s = .next (raise s c .v (flt .illegalOperand)))) ∧
   PredCompletes (fun _ => true) .psetl (fun f => fld f.aux.toNat 0 4) 3 (fun f s c p l b =>
     let a := operand s c p f.a f.fmt l
     match fld f.aux.toNat 4 2 with
     | 0 => b = decide ((l : Int) < intVal f.fmt a)
     | 1 => b = decide (intVal f.fmt a ≤ (l : Int))
     | _ => b = Nat.testBit a (l % 32)))

/-! ### What a vector instruction leaves alone -/

/-- R224, R225, R226, R233, R303: a vector instruction that raises no fault changes only its own team, and of that only
its results in flight and the stream ports that its sources read: no register, predicate, STATUS bit, special
register or byte of memory changes before a result lands, each new result names D, or a register of VSETI's window,
or the predicate of its AUX, and, where the slot acts in no lane, the state stays as it is. -/
def Obligations.VectorFrame : Prop :=
  ∀ (i : Instr) (s : State) (c : Ctx), (vOpcode i).isSome = true → ctxOf s = some c →
    (idle c.vPasses = true → exec i s = .next s) ∧
    ∀ t, vecReady s i = true → exec i s = .next t → (∀ g, t ≠ raise s c .v g) →
      OnlyTeam s t c.t ∧ SameBytes s t ∧
      t.team c.t = { s.team c.t with pending := (t.team c.t).pending, ports := (t.team c.t).ports } ∧
      (∀ k, (∀ sp, vSpec c.width i = some sp → ∀ q ∈ vSources (vFieldsOf i) sp, opd q.2.1 ≠ .g k) →
        Tab.find (t.team c.t).ports k = Tab.find (s.team c.t).ports k) ∧
      (∀ r ∈ (t.team c.t).pending, InFlight s c.t r ∨ match r.dest with
        | .vreg d => d = c.vregD (vFieldsOf i).d.toNat ∨
            ((vFieldsOf i).d.toNat ≤ d ∧ d ≤ (vFieldsOf i).d.toNat + (vFieldsOf i).aux.toNat ∧ (∃ f, i = .vseti f))
        | .vpair d => d = c.vregD (vFieldsOf i).d.toNat
        | .sreg n => opd (vFieldsOf i).d.toNat = .s n
        | .pred k => k ≠ 0 ∧ (k = fld (vFieldsOf i).aux.toNat 0 4 ∨ k = fld (vFieldsOf i).aux.toNat 4 4 ∨ (∃ f, i = .plogic f))
        | .latchOnly => (vFieldsOf i).lat = true
        | .nothing => True)

/-! ### The memory slot -/

/-- R386, R388, R389, R392, R393, R394: TLD, TST, TRED and ROLD go out as one access with a unit for every element that the
layout gives, and change no byte of memory and no register when they issue. -/
def Obligations.TensorAccessesIssue : Prop :=
  ∀ f : MFields,
    TensorIssues (.tld f) f
      { kind := if f.scope = 1#3 then .versioned else if f.cache = 4#3 then .readOnly else .load
        versioned := f.scope == 1#3, loads := true } ∧
    TensorIssues (.tst f) f { kind := .store, write := true } ∧
    TensorIssues (.tred f) { f with off := 0#8 } { kind := .combine (f.off.toNat % 8), write := true, clamps := true } ∧
    TensorIssues (.rold f) f { kind := .readOnly, loads := true }

/-- R396, R397, R398: the global atomics go out as one access with one unit for each lane's value, of the operation
that the mnemonic names, and with ACAS's second value.
R393, R396: what an atomic or a TRED leaves in an integer element of w bits: the sum modulo 2^w, the lesser or
greater, the bits combined, the new value, or ACAS's second value when the old one equals the first. -/
def Obligations.GlobalAtomics : Prop :=
  (∀ f : MFields,
     let op (n : Nat) : TensorOp :=
       { kind := .atomic n, write := true, loads := true, atomicUnit := true, two := n == 7, clamps := true }
     TensorIssues (.aadd f) f (op 0) ∧ TensorIssues (.afadd f) f (op 0) ∧ TensorIssues (.amin f) f (op 1) ∧
     TensorIssues (.amax f) f (op 2) ∧ TensorIssues (.aand f) f (op 3) ∧ TensorIssues (.aor f) f (op 4) ∧
     TensorIssues (.axor f) f (op 5) ∧ TensorIssues (.axchg f) f (op 6) ∧ TensorIssues (.acas f) f (op 7)) ∧
  (∀ (f : Fmt) (w old v v2 : Nat), old < 2 ^ w → v < 2 ^ w → 0 < w → f.isFloat = false →
     let val (x : Nat) : Int := if f.isSigned then (BitVec.ofNat w x).toInt else x
     combineElem 0 f w old v v2 = (old + v) % 2 ^ w ∧
     val (combineElem 1 f w old v v2) = min (val old) (val v) ∧
     val (combineElem 2 f w old v v2) = max (val old) (val v) ∧
     (∀ j, Nat.testBit (combineElem 3 f w old v v2) j = (Nat.testBit old j && Nat.testBit v j)) ∧
     (∀ j, Nat.testBit (combineElem 4 f w old v v2) j = (Nat.testBit old j || Nat.testBit v j)) ∧
     (∀ j, Nat.testBit (combineElem 5 f w old v v2) j = xor (Nat.testBit old j) (Nat.testBit v j)) ∧
     combineElem 6 f w old v v2 = v ∧ combineElem 7 f w old v v2 = if old = v then v2 else old)

/-- R233, R386, R392, R397: GLOBAL_ACCESS_COMPLETE performs the chosen value of an access that may be performed, here of
a task of the PF, whose accesses are not tracked, or of a VF's task whose writes go to memory (R181) where the
tracking of the access aborts nobody. A load lands the bytes at its address, in flight until its flag is
observed; a store of whole bytes or an atomic, of integers or of float32 numbers (R397), leaves its bytes there and no other byte of memory changes; and the
last value completes the access. A read that meets an uncorrectable error (R39) stops the access with
MEM_UNCORRECTABLE. The model's own choices here: logs 1, 57. -/
def Obligations.AccessesArePerformed : Prop :=
  ∀ (s : State) (id : Nat) (acc : Access) (u : MUnit) (a : Nat),
    Tab.find s.accesses id = some acc → onCore s acc.team = true → ready s acc = true →
    Memory.wf s.mem →
    (let k := s.task (s.team acc.team).task
     (k.fn = pfFn ∧ cohortAt s pfFn k.ts = { fn := pfFn, ts := k.ts }) ∨
     ((cohortAt s k.fn k.ts).bytes = [] ∧ ∃ cs fs, let s1 : State := { s with cohorts := cs, funcs := fs }
        trackUnit s k acc a u.bytes = .ok s1 ∧ buffered s1 k.fn k.ts = false ∧ (cohortAt s1 k.fn k.ts).bytes = [])) →
    acc.todo = [u] → u.addr = some a → blocked s id acc [u] = false → acc.earliest ≤ s.now →
    let bytes := Memory.bytes s.mem a u.bytes
    let k := s.task (s.team acc.team).task
    let clean := unitBad s k acc.kind a u.bytes = none
    (acc.kind = .load → clean → ∃ t, exec (.globalAccessComplete id [0] []) s = .next t ∧ SameBytes s t ∧
      Tab.find t.accesses id = none ∧ ∀ r, acc.dest = some (r, false) → acc.fmt ≠ .int64 → u.lane < 1024 →
        (∀ v ∈ acc.got, ¬ (v.lane = u.lane ∧ v.idx = u.idx)) →
        ∃ e ∈ (t.team acc.team).pending, e.dest = .vreg (r + u.idx) ∧ e.flag = acc.flag ∧
          e.vals = [(u.lane, BitVec.ofNat 64 (elemOf u bytes % 2 ^ u.bits))]) ∧
    (acc.kind = .store → 8 ≤ u.bits → ∃ t, exec (.globalAccessComplete id [0] []) s = .next t ∧ Tab.find t.accesses id = none ∧
      SameBytesBut s t a u.bytes ∧
      ∀ j, j < u.bytes → Memory.read t.mem (a + j) = (leBytes u.bytes u.val.toNat).getD j 0#8) ∧
    (∀ op, acc.kind = .atomic op → clean → u.elem = 0 → u.bits = 32 → acc.fmt ∈ [.int32, .uint32, .fp32] →
      let new := leBytes 4 (combineElem op acc.fmt 32 (leNat bytes) (u.val.toNat % 2 ^ 32) (u.val2.toNat % 2 ^ 32))
      ∃ t, exec (.globalAccessComplete id [0] []) s = .next t ∧ Tab.find t.accesses id = none ∧ SameBytesBut s t a 4 ∧
        ∀ j, j < 4 → Memory.read t.mem (a + j) = new.getD j 0#8) ∧
    (∀ bad, acc.kind = .load → unitBad s k acc.kind a u.bytes = some bad →
      exec (.globalAccessComplete id [0] []) s = .next (takeFault
        (completeAccess { s with accesses := Tab.set s.accesses id { acc with bad := some bad } } id { acc with bad := some bad })
        acc.team acc.path acc.pc
        { code := .memUncorrectable, slot := .m, addr := guestOf s k.fn bad, tensor := acc.tensor, lanes := maskOf [u.lane]
          lane := if a ≤ bad ∧ bad < a + u.bytes then u.lane else 0 }).bump)

/-- R400: SLD completes: each value is read from shared memory at issue and lands after 14 cycles and the bank stretches; a
byte that another team has stored to and not released may still read as before (R203, R204).
SST completes: each lane's values are in shared memory, a higher lane's over a lower's, and every other byte is as before.
R401: a shared atomic goes out as one access with one unit for each acting lane, and performs no value earlier than
14 cycles after its last pass and the bank stretches. -/
def Obligations.SharedMemoryAccesses : Prop :=
  ((∀ (f : MFields) (s : State) (c : Ctx), ctxOf s = some c → sharedReady s f false false = true →
     let u := atomicsFirst s c f
     let cr := u.crew c.tm.crew
     ∃ t, exec (.sld f) s = .next t ∧ SameBytes u t ∧
       ∀ k, k < c.mPasses.length → ∀ l, ∀ i, i < f.values →
         let p := c.mPasses.getD k ⟨0, 0, 0, []⟩
         let n := f.bits / 8
         l ∈ p.lanes → (opd f.ds.toNat).isV = true →
         ∃ r ∈ (t.team c.t).pending, r.due = p.base + sumL ((bankStretch c f c.mPasses).take (k + 1)) + 14 ∧
           r.dest = (if f.pair then .vpair (c.vregD f.ds.toNat + 2 * i) else .vreg (c.vregD f.ds.toNat + i)) ∧
           r.tag = some f.fmt ∧ ∃ bs : List Byte, bs.length = n ∧ (l, BitVec.ofNat 64 (leNat bs)) ∈ r.vals ∧
             ∀ j, j < n → (∀ e ∈ cr.late, e.addr = (c.shmAddr p f l).toNat + n * i + j → e.team = c.t) →
               bs.getD j 0#8 = cr.byte ((c.shmAddr p f l).toNat + n * i + j)) ∧
   (∀ (f : MFields) (s : State) (c : Ctx), ctxOf s = some c → sharedReady s f true false = true →
     let u := atomicsFirst s c f
     Memory.wf (u.crew c.tm.crew).shm →
     ∃ t, exec (.sst f) s = .next t ∧
       let n := f.bits / 8
       let covers (q : Pass × Nat) (i x : Nat) : Prop :=
         (c.shmAddr q.1 f q.2).toNat + n * i ≤ x ∧ x < (c.shmAddr q.1 f q.2).toNat + n * (i + 1)
       (∀ x, (∀ q ∈ slotLanes c.mPasses, ∀ i, i < f.values → ¬ covers q i x) →
         (t.crew c.tm.crew).byte x = (u.crew c.tm.crew).byte x) ∧
       (∀ q ∈ slotLanes c.mPasses, ∀ i, i < f.values → ∀ x, covers q i x →
         (∀ q' ∈ slotLanes c.mPasses, q.2 < q'.2 → ∀ j, j < f.values → ¬ covers q' j x) →
         (t.crew c.tm.crew).byte x =
           (leBytes n (c.dataVal q.1 f i q.2)).getD (x - (c.shmAddr q.1 f q.2).toNat - n * i) 0#8))) ∧
  (let issues (i : MFields → Instr) (op : Nat) : Prop :=
     ∀ (f : MFields) (s : State) (c : Ctx), ctxOf s = some c → sharedReady s f true (op == 7) = true →
       ∃ t id acc, exec (i f) s = .next t ∧ SameBytes s t ∧ (∀ k, (t.crew k).shm = (s.crew k).shm) ∧ Tab.find t.accesses id = some acc ∧
         acc.kind = .sharedAtomic op ∧ acc.team = c.t ∧ acc.flag = f.flagOf ∧ acc.dest = destOf c f ∧ acc.fmt = f.fmt ∧
         acc.earliest = ((c.mPasses.getLast?).map Pass.base).getD c.cyc + sumL (bankStretch c f c.mPasses) + 14 ∧
         ∀ p ∈ c.mPasses, ∀ l ∈ p.lanes, ∃ u ∈ acc.todo, u.lane = l ∧ u.addr = some (c.shmAddr p f l).toNat ∧ u.bits = f.bits ∧
           u.val = BitVec.ofNat 64 (c.dataVal p f 0 l) ∧ (op = 7 → u.val2 = BitVec.ofNat 64 (c.swapVal p f l))
   issues .saadd 0 ∧ issues .safadd 0 ∧ issues .samin 1 ∧ issues .samax 2 ∧ issues .saand 3 ∧ issues .saor 4 ∧
   issues .saxor 5 ∧ issues .saxchg 6 ∧ issues .sacas 7)

/-- R402, R403: ACCLD completes with the window's elements, landing after 10 cycles, and ACCST with the lanes' values in
them; an element that an ACCST has not written is as before, and so is all of memory. -/
def Obligations.AccumulatorWindow : Prop :=
  (∀ (f : MFields) (s : State) (c : Ctx), ctxOf s = some c → accReady s f false = true →
    ∃ t, exec (.accld f) s = .next t ∧ SameBytes s t ∧
      ∀ p ∈ c.mPasses, ∀ l ∈ p.lanes, ∀ i, i < f.values → (opd f.ds.toNat).isV = true →
        let e := 64 * c.tm.accBase + c.accElem f p i l
        ∃ r ∈ (t.team c.t).pending, r.due = p.base + 10 ∧ r.tag = some f.fmt ∧
          r.dest = (if f.pair then .vpair (c.vregD f.ds.toNat + 2 * i) else .vreg (c.vregD f.ds.toNat + i)) ∧
          ∃ v : Word32, (l, BitVec.ofNat 64 v.toNat) ∈ r.vals ∧
            ((∀ o ∈ (c.crew s).accOld, o.2.1 = e → o.1 + 10 ≤ p.start) → v = Tab.get (c.crew s).acc e 0#32)) ∧
  (∀ (f : MFields) (s : State) (c : Ctx), ctxOf s = some c → accReady s f true = true →
    ∃ t, exec (.accst f) s = .next t ∧ SameBytes s t ∧
      (∀ e, (∀ p ∈ c.mPasses, ∀ l ∈ p.lanes, ∀ i, i < f.values → 64 * c.tm.accBase + c.accElem f p i l ≠ e) →
        Tab.get (t.crew c.tm.crew).acc e 0#32 = Tab.get (s.crew c.tm.crew).acc e 0#32) ∧
      (∀ p ∈ c.mPasses, ∀ l ∈ p.lanes, ∀ i, i < f.values →
        (∀ q ∈ c.mPasses, ∀ l' ∈ q.lanes, ∀ j, j < f.values → c.accElem f q j l' = c.accElem f p i l → q = p ∧ l' = l ∧ j = i) →
        Tab.get (t.crew c.tm.crew).acc (64 * c.tm.accBase + c.accElem f p i l) 0#32 = BitVec.ofNat 32 (c.dataVal p f i l)))

/-- R404, R405, R406, R407, R408: RADV moves a ring's producer or consumer by its count, at once or, behind shared
atomics of its team that cannot be performed yet and behind earlier advances of the ring that wait, when those are
made (R204); RSTAT reads both counts and stops on a ring that is not there, GCFG configures a stream port from four S
registers at position 0, and GSKIP moves a configured port's position. The model's own choices here: log 55, that
GSKIP of a port that is not configured leaves it at position 0. -/
def Obligations.RingsAndPorts : Prop :=
  ∀ (f : MFields) (s : State) (c : Ctx), ctxOf s = some c → idle c.mPasses = false →
    let h := f.off.toNat % 16
    let r := (s.crew c.tm.crew).ring h
    let a := c.countOf f c.mPasses
    let producer := !Nat.testBit f.off.toNat 4
    let before := radvPending s c.tm.crew h producer
    (h < (s.crew c.tm.crew).nrings → 0 < a → a ≤ r.slots →
      (producer = false → r.filled < a + before → exec (.radv f) s = .next (raise s c .m (flt .ringMisuse))) ∧
      ((if producer then r.filled + (a + before) ≤ r.slots else a + before ≤ r.filled) →
        (openAtomics s c.t none = [] → before = 0 → ∃ t, exec (.radv f) s = .next t ∧ SameBytes s t ∧
          (t.crew c.tm.crew).ring h = if producer then { r with producer := r.producer + BitVec.ofNat 32 a }
            else { r with consumer := r.consumer + BitVec.ofNat 32 a }) ∧
        (openAtomics s c.t none = [] → before ≠ 0 → ∃ t id, exec (.radv f) s = .next t ∧ SameBytes s t ∧ t.crews = s.crews ∧
          Tab.find t.ops id = some (.radv c.t h a producer [])) ∧
        (let u := settleAtomics s c.t none
         openAtomics u c.t none ≠ [] → ∃ t id, exec (.radv f) s = .next t ∧ SameBytes u t ∧ t.crews = u.crews ∧
            Tab.find t.ops id = some (.radv c.t h a producer (openAtomics u c.t none))) ∧
        (let u := settleAtomics s c.t none
         let r' := (u.crew c.tm.crew).ring h
         openAtomics u c.t none = [] → radvPending u c.tm.crew h producer = 0 → (u.team c.t).crew = c.tm.crew →
          ∃ t, exec (.radv f) s = .next t ∧ SameBytes u t ∧
            (t.crew c.tm.crew).ring h = if producer then { r' with producer := r'.producer + BitVec.ofNat 32 a }
              else { r' with consumer := r'.consumer + BitVec.ofNat 32 a })) ∧
      (producer = true → r.slots < r.filled + (a + before) → exec (.radv f) s = .next s)) ∧
    ((s.crew c.tm.crew).nrings ≤ h ∨ a = 0 ∨ r.slots < a →
      exec (.radv f) s = .next (raise s c .m (flt .ringMisuse))) ∧
    (∀ p n, firstPass c.mPasses = some p → opd f.ds.toNat = .s n → h < (s.crew c.tm.crew).nrings →
      ∃ t, exec (.rstat f) s = .next t ∧ InFlight t c.t
        { due := p.base + 6, from_ := p.start, dest := .sreg n, slot := .m
          vals := [(0, BitVec.ofNat 64 (r.producer.toNat + 2 ^ 32 * r.consumer.toNat))] }) ∧
    (∀ p n, firstPass c.mPasses = some p → opd f.ds.toNat = .s n → (s.crew c.tm.crew).nrings ≤ h →
      exec (.rstat f) s = .next (raise s c .m (flt .ringMisuse))) ∧
    (∀ p n, firstPass c.mPasses = some p → opd f.a.toNat = .s n →
      let cfg := (List.range 4).map (fun i => BitVec.ofNat 64 (readS c.tm c.fr p.start (n + i)))
      (portBad cfg = true → exec (.gcfg f) s = .next (raise s c .m (flt .illegalOperand))) ∧
      (portBad cfg = false → ∃ t q, exec (.gcfg f) s = .next t ∧
        Tab.find (t.team c.t).ports (f.off.toNat % 4) = some q ∧ q.cfg = cfg ∧ q.pos = 0 ∧ q.configured = true)) ∧
    (∃ t, exec (.gskip f) s = .next t ∧
      let q := Tab.get (s.team c.t).ports (f.off.toNat % 4) {}
      Tab.get (t.team c.t).ports (f.off.toNat % 4) {} = if q.configured then { q with pos := (q.pos + a) % q.total } else q)

/-- R194, R195, R196, R200, R201, R209: ACQ and REL wait in the memory system for the region's SOB, their flag's count
risen; FENCE holds the path on its earlier accesses, but for reads through the read-only L1 and for stores that it
releases at its scope, which the parties of its scope see from then on; INVRO empties the core's read-only L1 and
marks the team's moment. The model's own choices here: log 49. -/
def Obligations.OrderingInstructions : Prop :=
  ∀ (f : MFields) (s : State) (c : Ctx), ctxOf s = some c → idle c.mPasses = false →
    (∀ soba, regionOf s c.tm.task f.tid.toNat = some soba → sobBad s (c.tk s) soba = none →
      (∃ t id scope, exec (.acq f) s = .next t ∧ SameBytes s t ∧ Tab.find t.ops id =
        some (.acq c.t c.p f.tid.toNat soba (dsReg f)
          (if Nat.testBit f.off.toNat 0 then none else some (BitVec.ofNat 64 (c.countOf f c.mPasses))) f.flag.toNat scope) ∧
        ∀ k, f.flagOf = some k → Tab.get (t.team c.t).flagCount k 0 = Tab.get (s.team c.t).flagCount k 0 + 1) ∧
      (∃ t id scope, exec (.rel f) s = .next t ∧ SameBytes s t ∧ Tab.find t.ops id =
        some (.rel c.t c.p f.tid.toNat soba (dsReg f) f.flagOf scope (boundWrites s c.t c.p soba)) ∧
        ∀ k, f.flagOf = some k → Tab.get (t.team c.t).flagCount k 0 = Tab.get (s.team c.t).flagCount k 0 + 1)) ∧
    (regionOf s c.tm.task f.tid.toNat = none →
      exec (.acq f) s = .next (raise s c .m { code := .tensorInvalid, addr := regionAddr (c.tk s) f.tid.toNat }) ∧
      exec (.rel f) s = .next (raise s c .m { code := .tensorInvalid, addr := regionAddr (c.tk s) f.tid.toNat })) ∧
    (∀ soba e, regionOf s c.tm.task f.tid.toNat = some soba → sobBad s (c.tk s) soba = some e →
      exec (.acq f) s = .next (raise s c .m e) ∧ exec (.rel f) s = .next (raise s c .m e)) ∧
    (∃ t, exec (.fence f) s = .next t ∧ SameBytes s t ∧
      (∀ i, i ∈ ((t.team c.t).path c.p).fence → i ∈ fencedBy s c.t c.p) ∧
      ∀ i, i ∈ fencedBy s c.t c.p → i ∈ ((t.team c.t).path c.p).fence ∨ ∃ x r, Tab.find t.accesses i = some x ∧
        x.kind = .store ∧ r ∈ x.released ∧ r.sob = none ∧ r.upto = s.nextId ∧ r.scope = (clampScope s c.t f.scope.toNat).2) ∧
    (∃ t, exec (.invro f) s = .next t ∧ SameBytes s t ∧ (t.core (c.core s)).ro = [] ∧ (t.team c.t).invroAt = s.now)

/-- R225, R226, R233: a memory or X slot instruction that acts in no lane leaves the state as it is; one that raises no
fault changes no register when it issues, but for SCOPE_CLAMPED, and without watchpoints no byte of memory. What
SLD, SST and RADV follow, shared atomics in flight, is performed first (R188, R204). R445: a control-slot
instruction whose guard does not hold has no effect of any kind; one that raises no fault changes no V register,
tag, predicate or S register when it issues, but for BRF, WAITF, REGROUP, EXIT and WRSYS. The model's own choices
here: log 14. -/
def Obligations.SlotFrames : Prop :=
  (∀ (i : Instr) (s : State) (c : Ctx), ctxOf s = some c →
     ((mOpcode i).isSome = true → idle c.mPasses = true → exec i s = .next s) ∧
     ((xOpcode i).isSome = true → idle c.xPasses = true → exec i s = .next s) ∧
     let u := match i with
       | .sld f | .sst f => atomicsFirst s c f
       | .radv _ => settleAtomics s c.t none
       | _ => s
     ∀ t, (mOpcode i).isSome = true ∨ (xOpcode i).isSome = true ∨ (lOpcode i).isSome = true → exec i s = .next t →
       NoFaultYet s → NoFaultYet t → (RegsKept s t ∨ RegsKept u t) ∧
         ((s.func (c.tk s).fn).wpEn = false → SameBytes s t ∨ SameBytes u t)) ∧
  (∀ (i : Instr) (s : State) (c : Ctx), isControl i = true → ctxOf s = some c →
     (c.controlGuard = false → exec i s = .next s) ∧
     ∀ t, exec i s = .next t → NoFaultYet s → NoFaultYet t →
       (match i with
        | .brf _ _ | .waitf _ _ | .regroup _ _ | .exit | .wrsys _ _ => True
        | _ => ValuesKept s t))


/-! ### The X slot -/

/-- R411, R413, R415, R418, R422, R428: a copy command whose checks pass enters its channel behind the commands that are
there, with its descriptor as read, its flag's count risen and a follow-on's rows owned; the first check that fails
is raised, with nothing changed but the descriptors that the command has read (R106). The model's own choices here:
log 51. -/
def Obligations.CopyCommands : Prop :=
  let enters (mk : XFields → Instr) (kind : Nat) : Prop :=
    ∀ (f : XFields) (s : State) (c : Ctx) (p : Pass), ctxOf s = some c → firstPass c.xPasses = some p →
      let q := copyCommand s c p f kind
      (∀ e, copyFault s c q = some e → ∃ u, OnlyDescs s u c.tm.task ∧ exec (mk f) s = .next (raise u c .x e)) ∧
      (copyFault s c q = none → ∃ (t : State) (r : CopyCmd), exec (mk f) s = .next t ∧ SameBytes s t ∧
        ((t.crew c.tm.crew).chanOf (q.d 0 0 4)).queue = ((s.crew c.tm.crew).chanOf (q.d 0 0 4)).queue ++ [r] ∧
        { r with id := 0, rows := [], accOld := [] } = q ∧
        r.rows = (match q.followOn with | some m => ownedRows c f m.m | none => []) ∧
        (t.team c.t).owned = (s.team c.t).owned ++ r.rows ∧ FlagUp s t c.t f.flagOf)
  enters .copy 1 ∧ enters .copyg 2 ∧ enters .copys 3 ∧ enters .fill 4

/-- R243, R427, R428, R431, R434, R435: MMA, MMAS, ACCZ and ACCOUT that pass their checks enter the queue of their
core's matrix engine, their rows owned, and an MMA has asked for the leave of its format; the first check that fails
is raised, with nothing changed but the descriptors that an MMA has read (R106). -/
def Obligations.MatrixCommands : Prop :=
  let queued (s t : State) (c : Ctx) (f : XFields) (q : MxCmd) : Prop :=
    SameBytes s t ∧ FlagUp s t c.t f.flagOf ∧ (t.team c.t).owned = (s.team c.t).owned ++ ownedRows c f q.m ∧
    ∃ r : MxCmd, (t.core (c.core s)).matrix = (s.core (c.core s)).matrix ++ [r] ∧
      { r with id := 0, rows := [], accOld := [] } = q ∧ r.rows = ownedRows c f q.m
  let mma (mk : XFields → Instr) (kind : Nat) : Prop :=
    ∀ (f : XFields) (s : State) (c : Ctx) (p : Pass), ctxOf s = some c → firstPass c.xPasses = some p →
      let q := mxCommand s c p f kind 4
      (∀ e, mxFault s c q true = some e → ∃ u, OnlyDescs s u c.tm.task ∧ exec (mk f) s = .next (raise u c .x e)) ∧
      (mxFault s c q true = none → ∃ t, exec (mk f) s = .next t ∧ queued s t c f q ∧
        mxCost q.fmtA.width ≤ (t.die (dieOf (c.core s))).asked (mxEngine (c.core s)))
  mma .mma 8 ∧ mma .mmas 9 ∧
  (∀ (f : XFields) (s : State) (c : Ctx) (p : Pass), ctxOf s = some c → firstPass c.xPasses = some p →
    let q := mxCommand s c p f 10 0
    ((c.crew s).sash ≠ c.tm.tix → exec (.accz f) s = .next (raise s c .x (flt .sashViolation))) ∧
    ((c.crew s).sash = c.tm.tix → c.tm.accLim < f.acc.toNat + q.m →
      exec (.accz f) s = .next (raise s c .x (flt .accWindow))) ∧
    ((c.crew s).sash = c.tm.tix → f.acc.toNat + q.m ≤ c.tm.accLim →
      ∃ t, exec (.accz f) s = .next t ∧ queued s t c f q)) ∧
  (∀ (f : XFields) (s : State) (c : Ctx) (p : Pass), ctxOf s = some c → firstPass c.xPasses = some p →
    let q := mxCommand s c p f 11 2
    (∀ e, accoutFault s c f q = some e → exec (.accout f) s = .next (raise s c .x e)) ∧
    (accoutFault s c f q = none → ∃ t, exec (.accout f) s = .next t ∧ queued s t c f q))

/-- R436, R440, R444: COLL waits in its die's engine with its five words and has asked for leave, or raises
ILLEGAL_OPERAND; LVREQ sets its flag at once where the engine holds the cost, else it asks for what is missing.
The model's own choices here: log 54. -/
def Obligations.CollectivesAndLeave : Prop :=
  (∀ (f : XFields) (s : State) (c : Ctx) (p : Pass), ctxOf s = some c → firstPass c.xPasses = some p →
    let d := c.words p f.sd.toNat 5
    (collBad d = true → exec (.coll f) s = .next (raise s c .x (flt .illegalOperand))) ∧
    (collBad d = false → ∃ t id, exec (.coll f) s = .next t ∧ SameBytes s t ∧ FlagUp s t c.t f.flagOf ∧
      Tab.find t.ops id = some (.coll c.t c.p d f.flagOf c.pc (commandWaits s c f) none none) ∧
      collCost ≤ (t.die (dieOf (c.core s))).asked (collEngine (dieOf (c.core s))))) ∧
  (∀ (f : XFields) (s : State) (c : Ctx), ctxOf s = some c → idle c.xPasses = false →
    let e := lvreqEngine s c f
    let die := dieOf (c.core s)
    (e.2 ≤ (s.die die).holds e.1 → ∃ t, exec (.lvreq f) s = .next t ∧ (t.die die).holds e.1 = (s.die die).holds e.1 ∧
      ∀ k, f.flagOf = some k → Tab.get (s.team c.t).flagCount k 0 = 0 → (t.team c.t).flagSet.getLsbD k = true) ∧
    ((s.die die).holds e.1 < e.2 → ∃ t id, exec (.lvreq f) s = .next t ∧ FlagUp s t c.t f.flagOf ∧
      Tab.find t.ops id = some (.lvreq c.t e.1 f.flag.toNat e.2) ∧
      ∃ r ∈ (t.die die).queue, r.engine = e.1 ∧ r.op = some id ∧ r.reservation = true ∧
        r.cost = e.2 - (s.die die).asked e.1))

/-- R441, R442, R443: the lining duplicates complete on the shadow registers with the operation of their counterparts in
the format of CLASS, rounded RNE or wrapped; in a kernel without lining they do nothing. -/
def Obligations.LiningDuplicates : Prop :=
  let fmtF (f : LFields) : Fmt := if f.cls = 0#2 then .fp32 else if f.cls = 1#2 then .bf16 else .fp16
  let fmtI (f : LFields) : Fmt := if f.cls = 0#2 then .int32 else if f.cls = 1#2 then .int16 else .int8
  let float (op : FVal → FVal → FVal → FVal × Bool) (f : LFields) (a b z v : Nat) : Prop :=
    ∀ i, i < (fmtF f).elems →
      let x (w : Nat) : FVal := decodeF (fmtF f) (elemAt (fmtF f) w i)
      ∃ fl, Rounded (liningFields (fmtF f)) (fmtF f) (op (x a) (x b) (x z)) [] (elemAt (fmtF f) v i) fl
  let int (op : Int → Int → Int) (f : LFields) (a b v : Nat) : Prop :=
    ∀ i, i < (fmtI f).elems →
      let x (w : Nat) : Int := intVal (fmtI f) (elemAt (fmtI f) w i)
      Narrowed (fmtI f) false (op (x a) (x b)) (elemAt (fmtI f) v i) 0#6
  LiningCompletes .lfma true 5 (float (fun a b z => fmaV .rne a b z)) ∧
  LiningCompletes .ladd false 5 (float (fun a b _ => addV .rne a b)) ∧
  LiningCompletes .lmul false 5 (float (fun a b _ => mulV a b)) ∧
  LiningCompletes .liadd false 3 (fun f a b _ v => int (fun x y => x + y) f a b v) ∧
  LiningCompletes .limul false 4 (fun f a b _ v => int (fun x y => x * y) f a b v) ∧
  LiningCompletes .llogic false 3 (fun f a b _ v => ∀ j, j < 32 →
    Nat.testBit v j = match f.cls.toNat with
      | 0 => Nat.testBit a j && Nat.testBit b j
      | 1 => Nat.testBit a j || Nat.testBit b j
      | 2 => xor (Nat.testBit a j) (Nat.testBit b j)
      | _ => Nat.testBit a j && !Nat.testBit b j)

/-! ### The control slot -/

/-- R449, R450, R451: the branches complete with the path's next bundle at the target or the one after, LOOP's counter and
CALL's link in flight, and no other S register; RET and JMPI off the bundle grid raise ILLEGAL_OPERAND. -/
def Obligations.Branches : Prop :=
  let holdsIn (c : Ctx) (k : BitVec 4) : Prop := ∃ l ∈ maskLanes c.pa.active, readP c.tm c.fr c.cyc k.toNat l = true
  let quiet (s : State) (c : Ctx) (t : State) : Prop := SameBytes s t ∧ (t.team c.t).pending = (s.team c.t).pending
  let either (b : Prop) (off : BitVec 20) (c : Ctx) (t : State) : Prop :=
    (b → GoesTo c t off.toInt) ∧ (¬ b → GoesTo c t 1)
  let jump (i : Instr) (a : Ctx → Nat) : Prop := Controls i (fun s c t =>
    (a c % 32 = 0 → quiet s c t ∧ ((t.team c.t).path c.p).pc = a c) ∧
    (a c % 32 ≠ 0 → t = raise s c .c (flt .illegalOperand)))
  (∀ off, Controls (.br off) (fun s c t => quiet s c t ∧ GoesTo c t off.toInt)) ∧
  (∀ k off, Controls (.brp k off) (fun s c t => quiet s c t ∧ either (holdsIn c k) off c t)) ∧
  (∀ k off, Controls (.brs k off) (fun s c t => quiet s c t ∧ either (c.sreg k.toNat ≠ 0) off c t)) ∧
  (∀ k off, Controls (.brf k off) (fun s c t => SameBytes s t ∧
    either ((s.team c.t).flagSet.getLsbD k.toNat = true) off c t ∧
    ((s.team c.t).flagSet.getLsbD k.toNat = true → ∀ r ∈ (t.team c.t).pending, r.flag ≠ some k.toNat))) ∧
  (∀ off, Controls (.brm off) (fun s c t => quiet s c t ∧ either (c.pa.active = 0#1024) off c t)) ∧
  (∀ k off, Controls (.call k off) (fun s c t => SameBytes s t ∧ GoesTo c t off.toInt ∧
    ScalarIn t c (112 + k.toNat) 2 (BitVec.ofNat 64 (c.pc + 32)))) ∧
  (∀ a, jump (.ret a) (fun c => c.sreg a.toNat)) ∧
  (∀ a b, jump (.jmpi a b) (fun c => (c.sreg a.toNat + 32 * c.sreg b.toNat) % 2 ^ 64)) ∧
  (∀ k off, Controls (.loop k off) (fun s c t =>
    let x := c.sreg k.toNat
    (x = 0 → quiet s c t ∧ GoesTo c t 1) ∧
    (x = 1 → ScalarIn t c k.toNat 2 0#64 ∧ GoesTo c t 1) ∧
    (1 < x → ScalarIn t c k.toNat 2 (BitVec.ofNat 64 (x - 1)) ∧ GoesTo c t off.toInt)))

/-- R235, R242, R452: PUSHM, INVM, POPM and SETM complete with the mask stack as the table says, or raise MSTACK_OVF at
64 entries and MSTACK_UNF at none; the base mask, the path's bundle and memory stay. R236, R237, R453, R454, R455:
SPLIT moves the lanes of a predicate to a new path, or raises PATH_FULL; JOIN waits for the path's children, none of
them held by the debugger (R269), and takes their lanes back; EXIT ends its path, and the team with its last one. -/
def Obligations.MasksAndPaths : Prop :=
  (let stackIs (s : State) (c : Ctx) (t : State) (st : List Mask) : Prop :=
     SameBytes s t ∧ ((t.team c.t).path c.p) = { c.pa with stack := st }
   let parent (c : Ctx) : Mask := (c.pa.stack.drop 1).headD c.pa.base
   let lanesOf (c : Ctx) (m : Mask) (p : BitVec 4) (neg : Bool) (r : Mask) : Prop :=
     ∀ l, l < 1024 → maskHas r l = (maskHas m l && xor (readP c.tm c.fr c.cyc p.toNat l) neg)
   let needsTop (i : Instr) (post : State → Ctx → State → Prop) : Prop := Controls i (fun s c t =>
     (c.pa.stack = [] → t = raise s c .c (flt .mstackUnf)) ∧ (c.pa.stack ≠ [] → post s c t))
   (∀ p neg, Controls (.pushm p neg) (fun s c t =>
     (64 ≤ c.pa.stack.length → t = raise s c .c (flt .mstackOvf)) ∧
     (c.pa.stack.length < 64 → ∃ m, lanesOf c c.pa.active p neg m ∧ stackIs s c t (m :: c.pa.stack)))) ∧
   needsTop .invm (fun s c t => stackIs s c t ((parent c &&& ~~~c.pa.active) :: c.pa.stack.drop 1)) ∧
   needsTop .popm (fun s c t => stackIs s c t (c.pa.stack.drop 1)) ∧
   (∀ p neg, needsTop (.setm p neg) (fun s c t =>
     ∃ m, lanesOf c (parent c) p neg m ∧ stackIs s c t (m :: c.pa.stack.drop 1)))) ∧
  ((∀ (k : BitVec 4) (off : BitVec 20), Controls (.split k off) (fun s c t =>
     let holds (l : Nat) : Bool := readP c.tm c.fr c.cyc k.toNat l
     ((∀ l ∈ maskLanes c.pa.active, holds l = false) → SameBytes s t ∧ GoesTo c t 1 ∧
       ((t.team c.t).path c.p).base = c.pa.base ∧ ((t.team c.t).path c.p).stack = c.pa.stack) ∧
     ((∃ l ∈ maskLanes c.pa.active, holds l = true) →
       (c.tm.freePath = none → t = raise s c .c (flt .pathFull)) ∧
       (∀ q, c.tm.freePath = some q → GoesTo c t 1 ∧ ∃ m : Mask,
         (∀ l, l < 1024 → maskHas m l = (maskHas c.pa.active l && holds l)) ∧
         ((t.team c.t).path c.p).base = c.pa.base &&& ~~~m ∧
         ((t.team c.t).path c.p).stack = c.pa.stack.map (fun x => x &&& ~~~m) ∧
         let child := (t.team c.t).path q
         child.kind = .split ∧ child.parent = c.p ∧ child.base = m ∧ child.stack = [] ∧
           child.pc = bundleAt c.pc off.toInt)))) ∧
   Controls .join (fun _ c t =>
     let kids := joinKids c.tm c.p
     ((∃ e ∈ kids, e.2.arrived = false ∨ e.2.isHeld = true) → Waits c t 11) ∧
     ((∀ e ∈ kids, e.2.arrived = true ∧ e.2.isHeld = false) →
       let lanes := kids.foldl (fun (m : Mask) e => m ||| e.2.base) 0#1024
       let pa := (t.team c.t).path c.p
       GoesTo c t 1 ∧ pa.base = c.pa.base ||| lanes ∧ pa.stack = c.pa.stack.map (fun x => x ||| lanes) ∧
       pa.arrived = (c.pa.kind == .split || c.pa.kind == .detached) ∧
       ∀ e ∈ kids, Tab.find (t.team c.t).paths e.1 = none)) ∧
   Controls .exit (fun s c t =>
     (∀ b, s.issue = some b → b.faults = []) →
       Tab.find (t.team c.t).paths c.p = none ∧
       ((∀ j, j ≠ c.p → Tab.find c.tm.paths j = none) → (t.team c.t).retired = true) ∧
       ((∃ j, j ≠ c.p ∧ (Tab.find c.tm.paths j).isSome = true) → t.teams.length = s.teams.length ∧ SameBytes s t)))

/-- R242, R456: REGROUP gives each listed register's and each WID's values of the active lanes, in order, to the lowest
lanes, makes them the base mask, and counts them in Sd; it raises ILLEGAL_OPERAND or REG_BOUNDS as the rule says. -/
def Obligations.Regroup : Prop :=
  ∀ (d a : BitVec 7), Controls (.regroup d a) (fun s c t =>
    let range (i : Nat) : Nat := fld (c.sreg (a.toNat + i / 2)) (32 * (i % 2)) 32
    let bad := ∃ i, i < 8 ∧ fld (range i) 22 10 ≠ 0
    let past := ∃ i, i < 8 ∧ fld (range i) 11 11 ≠ 0 ∧ c.tm.nregs < fld (range i) 0 11 + fld (range i) 11 11
    let lanes := maskLanes c.pa.active
    (bad → t = raise s c .c (flt .illegalOperand)) ∧
    (¬ bad → past → t = raise s c .c (flt .regBounds)) ∧
    (¬ bad → ¬ past → (c.tm.paths.length ≠ 1 ∨ c.pa.stack ≠ []) → t = raise s c .c (flt .illegalOperand)) ∧
    (¬ bad → ¬ past → c.tm.paths.length = 1 → c.pa.stack = [] →
      SameBytes s t ∧ ((t.team c.t).path c.p).base = maskUpTo lanes.length ∧
      ScalarIn t c d.toNat 2 (BitVec.ofNat 64 lanes.length) ∧
      ∀ j, j < lanes.length →
        Tab.get (t.team c.t).wids j 0#64 = Tab.get c.tm.wids (lanes.getD j 0) 0#64 ∧
        ∀ i r, i < 8 → fld (range i) 0 11 ≤ r → r < fld (range i) 0 11 + fld (range i) 11 11 →
          Tab.get (Tab.get (t.team c.t).vregs r []) j 0#32 =
            BitVec.ofNat 32 (readV c.tm c.fr c.cyc r (lanes.getD j 0))))

/-- R457, R458, R459: the scalar instructions complete with the table's result in flight to Sd after the table's latency, and
nothing else of the state changes. -/
def Obligations.ScalarArithmetic : Prop :=
  let v (c : Ctx) (n : BitVec 7) : Word64 := BitVec.ofNat 64 (c.sreg n.toNat)
  let nat (r : Word64) (x : Nat) : Prop := r.toNat = x % 2 ^ 64
  let bits (r : Word64) (op : Nat → Bool) : Prop := ∀ j, j < 64 → r.getLsbD j = op j
  let put (lo : Nat) (imm : BitVec 16) (d : BitVec 7) (c : Ctx) (r : Word64) : Prop :=
    bits r (fun j => if lo ≤ j ∧ j < lo + 16 then imm.getLsbD (j - lo) else (v c d).getLsbD j)
  (∀ d a b, ScalarCompletes (.sadd d a b) d 2 (fun c r => nat r ((v c a).toNat + (v c b).toNat))) ∧
  (∀ d a b, ScalarCompletes (.ssub d a b) d 2 (fun c r => nat r ((v c a).toNat + 2 ^ 64 - (v c b).toNat))) ∧
  (∀ d a b, ScalarCompletes (.smul d a b) d 4 (fun c r => nat r ((v c a).toNat * (v c b).toNat))) ∧
  (∀ d a b, ScalarCompletes (.smulh d a b false) d 4 (fun c r => r.toNat = (v c a).toNat * (v c b).toNat / 2 ^ 64)) ∧
  (∀ d a b, ScalarCompletes (.smulh d a b true) d 4 (fun c r =>
    r.toInt = Int.fdiv ((v c a).toInt * (v c b).toInt) ((2 ^ 64 : Nat) : Int))) ∧
  (∀ d a b, ScalarCompletes (.sand d a b) d 2 (fun c r => bits r (fun j => (v c a).getLsbD j && (v c b).getLsbD j))) ∧
  (∀ d a b, ScalarCompletes (.sor d a b) d 2 (fun c r => bits r (fun j => (v c a).getLsbD j || (v c b).getLsbD j))) ∧
  (∀ d a b, ScalarCompletes (.sxor d a b) d 2 (fun c r => bits r (fun j => xor ((v c a).getLsbD j) ((v c b).getLsbD j)))) ∧
  (∀ d a b, ScalarCompletes (.sshl d a b) d 2 (fun c r =>
    bits r (fun j => decide ((v c b).toNat ≤ j) && (v c a).getLsbD (j - (v c b).toNat)))) ∧
  (∀ d a b, ScalarCompletes (.sshr d a b) d 2 (fun c r => bits r (fun j => (v c a).getLsbD (j + (v c b).toNat)))) ∧
  (∀ d a b, ScalarCompletes (.ssar d a b) d 2 (fun c r =>
    bits r (fun j => (v c a).getLsbD (min 63 (j + (v c b).toNat))))) ∧
  (∀ d a b sgn, ScalarCompletes (.smin d a b sgn) d 2 (fun c r => if sgn then r.toInt = min (v c a).toInt (v c b).toInt
    else r.toNat = min (v c a).toNat (v c b).toNat)) ∧
  (∀ d a b sgn, ScalarCompletes (.smax d a b sgn) d 2 (fun c r => if sgn then r.toInt = max (v c a).toInt (v c b).toInt
    else r.toNat = max (v c a).toNat (v c b).toNat)) ∧
  (∀ d a b (cond : BitVec 3), cond ≠ 7#3 → ScalarCompletes (.scmp d a b cond) d 2 (fun c r =>
    let holds : Prop := match cond.toNat with
      | 0 => v c a = v c b
      | 1 => v c a ≠ v c b
      | 2 => (v c a).toInt < (v c b).toInt
      | 3 => (v c a).toInt ≤ (v c b).toInt
      | 4 => (v c a).toNat < (v c b).toNat
      | 5 => (v c a).toNat ≤ (v c b).toNat
      | _ => ∃ j, (v c a).getLsbD j = true ∧ (v c b).getLsbD j = true
    (holds → r = 1#64) ∧ (¬ holds → r = 0#64))) ∧
  (∀ d a b, ScalarCompletes (.ssel d a b) d 2 (fun c r => r = if v c d = 0#64 then v c b else v c a)) ∧
  (∀ d a, ScalarCompletes (.smov d a) d 2 (fun c r => r = v c a)) ∧
  (∀ d a b, ScalarCompletes (.sdivu d a b false) d 40 (fun c r =>
    if v c b = 0#64 then r = 0xFFFFFFFFFFFFFFFF#64 else r.toNat = (v c a).toNat / (v c b).toNat)) ∧
  (∀ d a b, ScalarCompletes (.sdivu d a b true) d 40 (fun c r =>
    if v c b = 0#64 then r = v c a else r.toNat = (v c a).toNat % (v c b).toNat)) ∧
  (∀ d a imm, ScalarCompletes (.saddi d a imm) d 2 (fun c r =>
    ((2 ^ 64 : Nat) : Int) ∣ (r.toNat : Int) - ((v c a).toNat + imm.toInt))) ∧
  (∀ d a imm, ScalarCompletes (.sandi d a imm) d 2 (fun c r =>
    bits r (fun j => (v c a).getLsbD j && imm.getLsbD (min j 9)))) ∧
  (∀ d a imm, ScalarCompletes (.sori d a imm) d 2 (fun c r =>
    bits r (fun j => (v c a).getLsbD j || imm.getLsbD (min j 9)))) ∧
  (∀ d a imm, ScalarCompletes (.sshli d a imm) d 2 (fun c r =>
    bits r (fun j => decide (imm.toNat ≤ j) && (v c a).getLsbD (j - imm.toNat)))) ∧
  (∀ d a imm, ScalarCompletes (.sshri d a imm) d 2 (fun c r => bits r (fun j => (v c a).getLsbD (j + imm.toNat)))) ∧
  (∀ d imm, ScalarCompletes (.sli d imm) d 2 (fun _ r => r.toInt = imm.toInt)) ∧
  (∀ d imm, ScalarCompletes (.slih d imm) d 2 (put 16 imm d)) ∧
  (∀ d imm, ScalarCompletes (.slix d imm) d 2 (put 32 imm d)) ∧
  (∀ d imm, ScalarCompletes (.sliy d imm) d 2 (put 48 imm d))

/-- R248, R260, R304, R468, R469: RDSR completes with the register's value in flight to Sd, and WRSR with what each
register's rule says: STATUS bits cleared by 1, LINEBASE checked, a window set by the leader only, and read-only
registers as they were. The model's own choice here: log 39, that a WRSR of ACCWt with t beyond the crew is ignored
whatever its value. -/
def Obligations.SystemRegisters : Prop :=
  (∀ (d : BitVec 7) (n : BitVec 16), Controls (.rdsr d n) (fun s c t => OnlyTeam s t c.t ∧ ∃ v, ScalarIn t c d.toNat 2 v ∧
    let cr := c.crew s
    match n.toNat with
    | 0x00 => ∀ j, j < 64 → (v.getLsbD j = true ↔ (s.team c.t).status.getLsbD j = true ∨
        (j < 6 ∧ ∃ r ∈ (s.team c.t).pending, r.flag = none ∧ r.due ≤ c.cyc ∧ r.flags.getLsbD j = true))
    | 0x01 => v = BitVec.ofNat 64 (wdogWord (c.tk s) (s.team c.t))
    | 0x02 => v = BitVec.ofNat 64 (s.team c.t).accBase
    | 0x03 => v = BitVec.ofNat 64 (s.team c.t).accLim
    | 0x04 => v = BitVec.ofNat 64 (s.team c.t).lineBase
    | 0x05 => v = (s.func (c.tk s).fn).hemline
    | 0x06 => v = (c.tk s).ts
    | 0x07 => v = BitVec.ofNat 64 (c.tk s).taskid
    | 0x08 => v.toNat = (c.tk s).lrec.widw.toNat % 2 ^ 36
    | 0x09 => v = BitVec.ofNat 64 (gtime s (c.tk s).fn)
    | 0x0A => v = BitVec.ofNat 64 s.now
    | 0x0B => v = BitVec.ofNat 64 cr.lcore
    | 0x0C => v = if (c.tk s).fn = pfFn then 0#64 else (s.func (c.tk s).fn).part.setWidth 64
    | 0x0D => ∀ j, j < 64 → v.getLsbD j = (decide (j < 14) && !(s.func (c.tk s).fn).feat.getLsbD j)
    | 0x0E => v = BitVec.ofNat 64 c.pa.stack.length
    | 0x0F => v = BitVec.ofNat 64 c.p
    | 0x10 => v = BitVec.ofNat 64 cr.sash
    | m => (0x20 ≤ m ∧ m ≤ 0x2F → v = (cr.chan (m - 0x20)).cwp) ∧
        (0x100 ≤ m ∧ m ≤ 0x10F → v = Tab.get cr.accw (m - 0x100) 0#64))) ∧
  (∀ (d : BitVec 7) (n : BitVec 16), Controls (.wrsr d n) (fun s c t =>
    let v : Word64 := BitVec.ofNat 64 (c.sreg d.toNat)
    let bad := t = raise s c .c (flt .illegalOperand)
    let tm := s.team c.t
    match n.toNat with
    | 0x00 => ∀ j, j < 64 → (t.team c.t).status.getLsbD j =
        ((tm.status.getLsbD j && !(v.getLsbD j && (decide (j < 6) || j == 8 || j == 9))) ||
          (decide (j < 6) && decide (tm.raisedAt = c.cyc) && tm.raised.getLsbD j))
    | 0x01 => (t.team c.t).wdogLimit = v.setWidth 16 ∧ (t.task c.tm.task).ovrlim = v.toNat / 2 ^ 48 % 256
    | 0x04 => if v.toNat % 16 = 0 ∧ v.toNat ≤ 512 then (t.team c.t).lineBase = v.toNat else bad
    | m => if 0x100 ≤ m ∧ m ≤ 0x10F then
          let base := v.toNat % 2 ^ 11
          let lim := v.toNat / 2 ^ 16 % 2 ^ 11
          let cr := c.crew s
          if c.tm.tix ≠ 0 then bad
          else if (s.task cr.task).teamsPerCrew ≤ m - 0x100 then t = s.bump
          else if cr.accRows < base + lim then bad
          else Tab.get (t.crew c.tm.crew).accw (m - 0x100) 0#64 = BitVec.ofNat 64 (base + 2 ^ 16 * lim) ∧
            ∀ x, cr.teams.find? (fun y => (s.team y).tix == m - 0x100) = some x →
              (t.team x).accBase = base ∧ (t.team x).accLim = lim
        else t = s.bump))

/-- R460, R461: WAITF and WAITC hold their bundle until the flags are set or the channel has come so far, and then observe;
CLRF clears the named flags of no pending operation and no other. A WAITF shows the lowest stall reason of its unset flags:
2 where no operation names the flag, and 16 where a pending ACQ names it, unless a lower reason holds (R409).
The model's own choices here: log 13, that a flag shows what its operations wait for. -/
def Obligations.FlagsAndChannels : Prop :=
  (∀ (m : BitVec 16) (any : Bool), Controls (.waitf m any) (fun s c t =>
    let set (k : Nat) : Prop := k < 16 ∧ m.getLsbD k = true ∧ (s.team c.t).flagSet.getLsbD k = true
    let met : Prop := if any then ∃ k, set k else ∀ k, k < 16 → m.getLsbD k = true → set k
    (met → SameBytes s t ∧ ((t.team c.t).path c.p).pc = c.pa.pc ∧ (t.team c.t).flagSet = (s.team c.t).flagSet ∧
      ∀ k, set k → ∀ r ∈ (t.team c.t).pending, r.flag ≠ some k) ∧
    (¬ met → ∃ r, Waits c t r ∧ (t.team c.t).pending = (s.team c.t).pending ∧
      let unset (k : Nat) : Prop := k < 16 ∧ m.getLsbD k = true ∧ (s.team c.t).flagSet.getLsbD k = false
      ((∃ k, unset k) → (∃ k, unset k ∧ r = flagReason s c.t k) ∧ ∀ k, unset k → r ≤ flagReason s c.t k) ∧
      ((∀ k, ¬ unset k) → r = 2)))) ∧
  (∀ (s : State) (t k : Nat),
    (flagOps s t k = [] → flagCopies s t k = [] → flagMx s t k = [] →
      (∀ a ∈ s.accesses, ¬ (a.2.team = t ∧ a.2.flag = some k)) → flagReason s t k = 2) ∧
    (∀ id p region soba dst want scope, (id, PendOp.acq t p region soba dst want k scope) ∈ s.ops →
      flagReason s t k = 16 ∨ (flagReason s t k < 16 ∧ (awaitsLeave s t k = true ∨ awaitsOlder s t k = true ∨ awaitsEntry s t k = true)))) ∧
  (∀ m : BitVec 16, Controls (.clrf m) (fun s c t => OnlyTeam s t c.t ∧
    ∀ k, k < 16 → (t.team c.t).flagSet.getLsbD k = ((s.team c.t).flagSet.getLsbD k &&
      !(m.getLsbD k && Tab.get (s.team c.t).flagCount k 0 == 0)))) ∧
  (∀ (n : BitVec 4) (k : BitVec 7), Controls (.waitc n k) (fun s c t =>
    let v := match c.pa.waitVal with | some w => w.toNat | none => c.sreg k.toNat
    (v ≤ ((c.crew s).chan n.toNat).cwp.toNat → OnlyTeam s t c.t ∧ ((t.team c.t).path c.p).pc = c.pa.pc ∧
      ((t.team c.t).path c.p).waitVal = none) ∧
    (((c.crew s).chan n.toNat).cwp.toNat < v → Waits c t 2 ∧
      ((t.team c.t).path c.p).waitVal = some (BitVec.ofNat 64 v))))

/-- R462: a team of one path arrives at a barrier and waits there with stall reason 5 until the arrivals reach the
target that the first one fixed; then its path goes on and the barrier is idle; a later arrival of another COUNT
raises ILLEGAL_OPERAND. R243, R463: SASHT passes once its team holds the sash and not only since this cycle, else it
waits with stall reason 6; SASHP by the holder gives the sash to the named live team, whose SASHT may pass from the
next cycle, and else raises a fault. -/
def Obligations.CrewSynchronisation : Prop :=
  (∀ (b : BitVec 4) (count : BitVec 5), Controls (.bar b count) (fun s c t =>
     let cr := c.crew s
     let bar := cr.bar b.toNat
     let goal := if count = 0#5 then (liveTeams s cr).length else count.toNat
     (c.pa.barPass = true → GoesTo c t 1 ∧ ((t.team c.t).path c.p).barPass = false) ∧
     (c.pa.barPass = false → c.pa.isHeld = false → c.p < 8 → c.tm.paths = [(c.p, c.pa)] → bar.arrived.contains c.tm.tix = false →
       (bar.arrived ≠ [] → bar.target ≠ count.toNat → t = raise s c .c (flt .illegalOperand)) ∧
       (bar.arrived = [] ∨ bar.target = count.toNat →
         (bar.arrived.length + 1 < goal → Waits c t 5 ∧ ((t.team c.t).path c.p).atBar = true ∧
           ((t.crew c.tm.crew).bar b.toNat).arrived = bar.arrived ++ [c.tm.tix]) ∧
         (goal ≤ bar.arrived.length + 1 → teamAt s cr c.tm.tix = some c.t →
           GoesTo c t 1 ∧ (t.crew c.tm.crew).bar b.toNat = {}))))) ∧
  (Controls .sasht (fun s c t =>
     let cr := c.crew s
     (cr.sash = c.tm.tix ∧ cr.sashFrom ≤ s.now → t = s) ∧ (¬ (cr.sash = c.tm.tix ∧ cr.sashFrom ≤ s.now) → Waits c t 6)) ∧
   (∀ (n : BitVec 4) (named : Bool), Controls (.sashp n named) (fun s c t =>
     let cr := c.crew s
     let teams := (s.task cr.task).teamsPerCrew
     (cr.sash ≠ c.tm.tix → t = raise s c .c (flt .sashViolation)) ∧
     (cr.sash = c.tm.tix → named = true → teams ≤ n.toNat → t = raise s c .c (flt .illegalOperand)) ∧
     (cr.sash = c.tm.tix → (named = true → n.toNat < teams) → ∀ x,
       let from_ := if named then n.toNat else c.tm.tix + 1
       x = from_ % teams → (teamAt s cr x).isSome = true →
         SameBytes s t ∧ t.crew c.tm.crew = { cr with sash := x, sashFrom := s.now + 1 }))))

/-- R169, R464, R465, R466: SPAWN and SIGNAL go out with their sources as read, and a SIGNAL holds its path; WAITHEM
passes once HEMLINE has reached the value. -/
def Obligations.TaskOperations : Prop :=
  (∀ (k : BitVec 4) (a b : BitVec 7), Controls (.spawn k a b) (fun s c t => SameBytes s t ∧ FlagUp s t c.t (some k.toNat) ∧
    ∃ id, Tab.find t.ops id = some (.spawn c.t c.p (BitVec.ofNat 64 (c.sreg a.toNat)) (BitVec.ofNat 64 (c.sreg b.toNat))
      k.toNat c.pc s.now none))) ∧
  (∀ a b : BitVec 7, Controls (.signal a b) (fun s c t => SameBytes s t ∧
    ∃ id, ((t.team c.t).path c.p).heldBy = some id ∧ ∃ waits, Tab.find t.ops id = some (.signal c.t c.p
      (BitVec.ofNat 64 (c.sreg a.toNat)) (BitVec.ofNat 64 (c.sreg b.toNat)) waits false) ∧
      ∀ i, i ∈ waits ↔ i ∈ pathAccesses s c.t c.p ∧ ∃ x, Tab.find s.accesses i = some x ∧ x.kind.writes = true)) ∧
  (∀ a : BitVec 7, Controls (.waithem a) (fun s c t =>
    let h := (s.func (c.tk s).fn).hemline.toNat
    (c.sreg a.toNat ≤ h → t = s.bump) ∧ (h < c.sreg a.toNat → Waits c t 21)))

/-- R261, R267, R467, R471: TRAP raises SOFTWARE_TRAP with its number; BKPT makes its path stop with a stop record once
its bundle is done (IssueEvents has the stop itself) in a debugged task with breakpoints enabled, and else does
nothing; LCMP raises LINING_MISMATCH at the lowest active lane that differs. The model's own choices here: log 48. -/
def Obligations.TrapsAndChecks : Prop :=
  (∀ n : BitVec 8, Controls (.trap n) (fun s c t => t = raise s c .c { code := .softwareTrap, addr := n.toNat })) ∧
  Controls .bkpt (fun s c t =>
    let f := s.func (c.tk s).fn
    let live : Bool := f.dbgCtl.getLsbD 1 && (c.tk s).debug && ((c.tk s).fn == pfFn || f.dbgLease)
    (live = false → t = s) ∧
    (live = true → OnlyTeam s t c.t ∧
      ((t.team c.t).path c.p).stopAfter = ((s.team c.t).path c.p).stopAfter ++ [(0x0D, 0)])) ∧
  (∀ v : BitVec 11, Controls (.lcmp v) (fun s c t =>
    let shadow := v.toNat + c.tm.lineBase
    let differs (l : Nat) : Prop := readV c.tm c.fr c.cyc v.toNat l ≠ readV c.tm c.fr c.cyc shadow l
    ((c.tk s).lining = false → t = s) ∧
    ((c.tk s).lining = true → c.tm.nregs ≤ shadow → t = raise s c .c (flt .regBounds)) ∧
    ((c.tk s).lining = true → shadow < c.tm.nregs →
      ((∀ l ∈ maskLanes c.pa.active, ¬ differs l) → t = s.bump) ∧
      (∀ l ∈ maskLanes c.pa.active, differs l → (∀ m ∈ maskLanes c.pa.active, m < l → ¬ differs m) →
        t = raise s c .c { code := .liningMismatch, lane := l }))))

/-- R470, R472: RDSYS lands the register's value in Sd and WRSYS writes the register, each holding its path for its access,
and an address off the grid raises ALIGN; DBGSPLIT, STEP and DBGRES act on their target and give the result in Sd.
The model's own choices here: log 59. -/
def Obligations.PrivilegedAccess : Prop :=
  let result (t : State) (c : Ctx) (d : BitVec 7) (v : Nat) : Prop := ∃ n, c.cyc + 2 ≤ n ∧
    n ≤ ((t.team c.t).path c.p).readyAt ∧
    InFlight t c.t { due := n, from_ := c.cyc, dest := .sreg d.toNat, vals := [(0, BitVec.ofNat 64 v)], slot := .c }
  let form (mk : BitVec 7 → BitVec 7 → BitVec 7 → Instr) (good : State → State → DbgTarget → Nat → Prop)
      (res : State → DbgTarget → Nat) (may : State → DbgTarget → Nat → Prop) : Prop :=
    ∀ d a b : BitVec 7, Controls (mk d a b) (fun s c t =>
      let sel := c.sreg a.toNat
      let lane := sel / 2 ^ 32 % 2 ^ 10
      (dbgTarget s (fld sel 16 8) sel (c.sreg b.toNat) = none → result t c d 0x20) ∧
      ∀ g, dbgTarget s (fld sel 16 8) sel (c.sreg b.toNat) = some g →
        ((∀ j ∈ targetPaths s g, ((s.team g.t).path j).held = false) → g.all = false → result t c d 0x30) ∧
        (may s g lane → good s t g lane ∧ result t c d (res s g)))
  (∀ d a : BitVec 7, Controls (.rdsys d a) (fun s c t =>
    let addr := c.sreg a.toNat
    (addr % 8 ≠ 0 → t = raise s c .c { code := .align, addr := addr }) ∧
    (addr % 8 = 0 → SameBytes s t ∧ OnlyTeam s t c.t ∧ result t c d (devRead s addr)))) ∧
  (∀ a b : BitVec 7, Controls (.wrsys a b) (fun s c t =>
    let addr := c.sreg a.toNat
    (addr % 8 ≠ 0 → t = raise s c .c { code := .align, addr := addr }) ∧
    (addr % 8 = 0 → ∃ u, OnlyTeam s u c.t ∧ c.cyc + 2 ≤ ((u.team c.t).path c.p).readyAt ∧
      t = devWrite u addr (BitVec.ofNat 64 (c.sreg b.toNat))))) ∧
  form .dbgsplit (fun s t g lane => ∀ q, (s.team g.t).freePath = some q → LaneLeft s t g lane q)
    (fun s g => ((s.team g.t).freePath.getD 0)) (fun s g lane => ((s.team g.t).path g.p).held = true ∧
      maskHas ((s.team g.t).path g.p).active lane = true ∧ (s.team g.t).freePath.isSome = true) ∧
  form .step (fun s t g _ => Stepping s t g) (fun _ _ => 0) (fun s g _ => ((s.team g.t).path g.p).held = true) ∧
  form .dbgres (fun s t g _ => Resumed s t g) (fun _ _ => 0)
    (fun s g _ => ∃ j ∈ targetPaths s g, ((s.team g.t).path j).held = true)


/-! ### What happens between bundles -/

/-- R224, R231, R245, R246, R290, R304: RESULT_LANDING lands every result that is due: the lanes of its register take
its values and no other lane changes, a V register takes its tag, and STATUS its flags. FLI_CAPTURE freezes what a
stopped team has in flight, with the cycles that remain. -/
def Obligations.ResultsLand : Prop :=
  (∀ (s : State) (k : Nat), landingDue s k = true →
    ∃ t, exec (.resultLanding k) s = .next t ∧ OnlyTeam s t k ∧
      (∀ r ∈ (t.team k).pending, r ∈ (s.team k).pending ∧ ¬ (r.flag = none ∧ r.due ≤ s.now)) ∧
      (∀ r, (s.team k).pending = [r] → r.clash = false → (r.vals.map Prod.fst).Nodup →
        (t.team k).status = (s.team k).status ||| r.flags.setWidth 64 ∧
        match r.dest with
        | .vreg d => (∀ l, Tab.get (Tab.get (t.team k).vregs d []) l 0#32 = match Tab.find r.vals l with
              | some w => w.setWidth 32
              | none => Tab.get (Tab.get (s.team k).vregs d []) l 0#32) ∧
            (∀ e, e ≠ d → Tab.find (t.team k).vregs e = Tab.find (s.team k).vregs e) ∧
            (∀ f, r.tag = some f → Tab.get (t.team k).tags d .none = f)
        | .sreg n => ∀ w, r.vals = [(0, w)] → Tab.get (t.team k).sregs n 0#64 = w ∧ (t.team k).vregs = (s.team k).vregs
        | .pred p => ∀ l, l < 1024 → (∀ q ∈ r.vals, q.1 < 1024) →
            maskHas (Tab.get (t.team k).preds p 0#1024) l = match Tab.find r.vals l with
              | some w => w != 0#64
              | none => maskHas (Tab.get (s.team k).preds p 0#1024) l
        | .vpair d => ∀ l w, Tab.find r.vals l = some w →
            Tab.get (Tab.get (t.team k).vregs d []) l 0#32 = w.setWidth 32 ∧
            Tab.get (Tab.get (t.team k).vregs (d + 1) []) l 0#32 = (w >>> 32).setWidth 32
        | .latchOnly | .nothing => (t.team k).vregs = (s.team k).vregs ∧ (t.team k).sregs = (s.team k).sregs)) ∧
  (∀ (s : State) (k : Nat), fliDue s k = true →
    ∃ t, exec (.fliCapture k) s = .next t ∧ OnlyTeam s t k ∧ (t.team k).pending = [] ∧ (t.team k).fliTaken = true ∧
      ∀ e, e ∈ (t.team k).fli ↔ ∃ r ∈ (s.team k).pending, r.flag = none ∧ e = { r with due := max 1 (r.due - s.now) })

/-- R117, R118, R119, R126, R128, R129, R181, R200, R201, R466: the steps of the memory system complete: walks fill the
buffer with present entries once they are in flight, and an access whose entries fail R121's checks then takes its
fault, or are resumed or refused by WQRES; an invalidation empties the
buffers and BUSY waits for accesses; page requests replay their paths; and ACQ, REL and SIGNAL read or add to their
word. The model's own choices here: logs 1, 40, 42, 43, 47. -/
def Obligations.MemoryEvents : Prop :=
  (∀ (s : State) (w : Nat) (x : TileWalk), Tab.find s.ops w = some (.walk x) →
    let core := (s.crew (s.team x.team).crew).core
    let fn := (s.task x.task).fn
    let word : Word64 := BitVec.ofNat 64 (gNat s fn x.entry 8)
    ((x.stopped = true ∨ x.flying = false) → exec (.walkComplete w []) s = .next s) ∧
    (x.stopped = false → x.flying = true → eccHit s (flatOf s fn x.entry) 8 = none →
      exec (.walkComplete w []) s = .next (settleFaults (endWalk s w x)) ∧
      ((∀ e ∈ (endWalk s w x).accesses, e.2.bads = []) →
        ∃ t, exec (.walkComplete w []) s = .next t ∧ SameBytes s t ∧ Tab.find t.ops w = none ∧
          (word.getLsbD 0 = true → ⟨fn, x.entry, word⟩ ∈ (t.core core).ttb) ∧
          (word.getLsbD 0 = false → ∀ e ∈ (t.core core).ttb, ¬ (e.fn = fn ∧ e.entry = x.entry))) ∧
      (∀ id a f, (endWalk s w x).accesses = [(id, a)] → onCore (endWalk s w x) a.team = true →
        (∀ v ∈ a.walks, Tab.find (endWalk s w x).ops v = none) → faultOf a.tensor a.kind.writes a.bads = some f →
        f.code ≠ .tileNotPresent → exec (.walkComplete w []) s = .next (lateFault (completeAccess (endWalk s w x) id a) a
          { f with slot := .m, lanes := maskOf (a.todo.map MUnit.lane ++ a.bads.map LaneBad.lane).eraseDups })))) ∧
  (∀ (s : State) (i w : Nat) (x : TileWalk), walkOfRecord s i = some w → x.path < 8 →
    Tab.find s.ops w = some (.walk x) →
    (∃ t, exec (.walkFaultResolve i false) s = .next t ∧ Tab.find t.ops w = none ∧
      ((t.team x.team).path x.path).heldBy = none ∧
      ((∀ o ∈ s.ops, o.1 ≠ w → ∀ y, o.2 = .walk y → ¬ (y.stopped = true ∧ y.task = x.task)) → (s.task x.task).stopping = none →
        (t.task x.task).walkStop = false ∧ ∀ e ∈ t.teams, e.2.task = x.task → e.2.stopped = false)) ∧
    exec (.walkFaultResolve i true) s =
      .next (takeFault { s with ops := Tab.erase s.ops w } x.team x.path ((s.team x.team).path x.path).pc
        { code := .tensorInvalid, slot := .m, addr := x.entry, tensor := x.tensor
          lanes := ((s.team x.team).path x.path).rmask })) ∧
  (∀ (s : State) (fn : Nat),
    ((s.func fn).tinvBusy = true → exec (.tileInvalidate fn) s = .next s) ∧
    ((s.func fn).tinvBusy = false → ∃ t, exec (.tileInvalidate fn) s = .next t ∧ SameBytes s t ∧ (t.func fn).tinvBusy = true ∧
      ∀ c ∈ t.cores, ∀ e ∈ c.2.ttb, e.fn = fn → let a := (s.func fn).tinva.toNat / 16 * 16
        e.entry < a ∨ a + 16 * ((s.func fn).tinvn.toNat % 2 ^ 32) ≤ e.entry) ∧
    ((s.func fn).tinvBusy = true → tinvWaits s fn = false → ∃ t, exec (.tileInvalidateDone fn) s = .next t ∧
      t.func fn = { s.func fn with tinvBusy := false }) ∧
    (tinvWaits s fn = true → exec (.tileInvalidateDone fn) s = .next s)) ∧
  (∀ (s : State) (fn i : Nat),
    let f := s.func fn
    let cpl := gNat s fn (recordAddr f i + 24) 8
    let ignored := f.prEn = false ∨ cpl % 2 = 0 ∨ f.prTail.toNat ≤ i ∨ i + 2 ^ f.prLogsz.toNat < f.prTail.toNat ∨ i ∈ f.prDone
    (ignored → exec (.pageRequestComplete fn i) s = .next s) ∧
    (∀ r, ¬ ignored → s.pages.find? (fun q => q.hasIndex fn i) = some r →
      (cpl / 2 % 8 = 0 → ∃ t, exec (.pageRequestComplete fn i) s = .next t ∧ i ∈ (t.func fn).prDone ∧
        ∀ q ∈ r.parked, ((t.team q.1).path q.2).parked = false) ∧
      (∀ a b tm, cpl / 2 % 8 ≠ 0 → r.parked = [(a, b)] → r.engines = [] → Tab.find s.teams a = some tm →
        ∃ u, u.teams = s.teams ∧ exec (.pageRequestComplete fn i) s = .next (takeFault u a b (tm.path b).pc
          { code := .tensorInvalid, slot := .m, addr := r.entry, tensor := r.tensor, lanes := (tm.path b).rmask })))) ∧
  (∀ (s : State) (fn : Nat) (v : Word64),
    let f := s.func fn
    let size := v.toNat / 2 % 16
    (f.prEn = true → ∃ t, exec (.prctlEnable fn v) s = .next t ∧ t.func fn = { f with prEn := v.getLsbD 0 }) ∧
    (f.prEn = false → v.getLsbD 0 = true → 6 ≤ size → size ≤ 12 → (∀ p ∈ s.pages, p.fn ≠ fn) →
      ∃ t, exec (.prctlEnable fn v) s = .next t ∧ (t.func fn).prEn = true ∧ (t.func fn).prErr = false ∧
        (t.func fn).prTail = 0#64 ∧ (t.func fn).prHead = 0#64 ∧ (t.func fn).prLogsz.toNat = size) ∧
    (f.prEn = false → ¬ (6 ≤ size ∧ size ≤ 12) → ∃ t, exec (.prctlEnable fn v) s = .next t ∧ (t.func fn).prEn = false) ∧
    (v.toNat < f.prHead.toNat → exec (.prheadWrite fn v) s = .next s) ∧
    (f.prHead.toNat ≤ v.toNat → ∃ t, exec (.prheadWrite fn v) s = .next t ∧ (t.func fn).prHead = v)) ∧
  (∀ (s s1 : State) (op tm p r soba flag sc : Nat) (dest : Option Nat) (value : Option Word64),
    Tab.find s.ops op = some (.acq tm p r soba dest value flag sc) → onCore s tm = true →
    let k := s.task (s.team tm).task
    let flat := flatOf s k.fn soba
    wordHeld s tm p op flat false = false →
    trackRead s k.fn k.ts flat 8 = .ok s1 →
    let m := leNat (cohortBytes s1 k.fn k.ts flat 8)
    ((∃ w, value = some w ∧ m < w.toNat) → exec (.acqComplete op) s = .next s1) ∧
    ((∀ w, value = some w → w.toNat ≤ m) → ∃ t, exec (.acqComplete op) s = .next t ∧ SameBytes s1 t ∧
      Tab.find t.ops op = none ∧ FlagDown s1 t tm (some flag) ∧
      ∀ d, dest = some d → InFlight t tm
        { due := s1.now, dest := .sreg d, vals := [(0, BitVec.ofNat 64 m)], flag := some flag, slot := .m })) ∧
  (∀ (s : State) (op tm p r soba sc : Nat) (dest flag : Option Nat) (waits : List Nat),
    Tab.find s.ops op = some (.rel tm p r soba dest flag sc waits) → onCore s tm = true → Memory.wf s.mem →
    (s.task (s.team tm).task).fn = pfFn → (cohortAt s pfFn (s.task (s.team tm).task).ts).bytes = [] →
    let flat := hostFlat soba
    let n := (leNat (Memory.bytes s.mem flat 8) + 1) % 2 ^ 64
    ((∃ i ∈ waits, ∃ x, Tab.find s.accesses i = some x ∧ x.boundTo soba = true ∧ mayLinger sc x = false) → exec (.relComplete op) s = .next s) ∧
    ((∀ i ∈ waits, Tab.find s.accesses i = none) → relBehind s op tm p soba = false →
      wordHeld s tm p op flat true = false →
      ∃ t, exec (.relComplete op) s = .next t ∧ SameBytesBut s t flat 8 ∧ leNat (Memory.bytes t.mem flat 8) = n ∧
        Tab.find t.ops op = none ∧ FlagDown s t tm flag)) ∧
  (∀ (s : State) (op tm p : Nat) (addr value : Word64) (waits : List Nat) (b : Bool),
    Tab.find s.accesses op = none → Tab.find s.ops op = some (.signal tm p addr value waits b) → onCore s tm = true →
    (s.task (s.team tm).task).fn = pfFn → (cohortAt s pfFn (s.task (s.team tm).task).ts).bytes = [] → Memory.wf s.mem →
    let flat := hostFlat (addr.toNat / 8 * 8)
    (mayIrrevocable s (s.task (s.team tm).task) = false → exec (.irrevocableStart op) s = .next s) ∧
    (mayIrrevocable s (s.task (s.team tm).task) = true → (∀ i ∈ waits, Tab.find s.accesses i = none) →
      wordHeld s tm p op flat true = false → eccHit s flat 8 = none →
      hostOk s (addr.toNat / 8 * 8) 8 = true →
      ∃ t, exec (.irrevocableStart op) s = .next t ∧ SameBytesBut s t flat 8 ∧ Tab.find t.ops op = none ∧
        leNat (Memory.bytes t.mem flat 8) = (leNat (Memory.bytes s.mem flat 8) + value.toNat) % 2 ^ 64 ∧
        ((t.team tm).path p).heldBy = none))

/-- R26, R27, R29, R413, R414, R419, R420, R425, R428, R434, R435, R439: the engines' steps complete: a channel's head
starts when its ring and leave are there, a unit waits for the rotation and the cycle's 256 bytes, a FILL lays its
pattern unit by unit, and a command that has landed ends; a matrix step starts, advances its consumers, writes its
rows, and ACCOUT its bytes; a collective takes its peers' messages by TAG, group and order of issue, writes its result,
and ends with LINK_ERROR on a mismatch; a copy or a collective whose leave is gone asks for it again; leave is granted
within the ceiling, released when idle, and lapses. The model's own choices here: logs 1, 50, 53, 54, and log 20, the
form of the peers' messages, which the spec does not give. -/
def Obligations.EngineEvents : Prop :=
  (∀ (s : State) (crew chan : Nat) (q : CopyCmd) (rest : List CopyCmd),
    ((s.crew crew).chanOf chan).queue = q :: rest → q.fault = none → crewRuns (s.crew crew) = true →
    let e := copyEngine crew chan
    let core := (s.crew crew).core
    let long := 16384 < copyLen s q
    (q.started = false → long → hasLeave s core e copyCost = false → ∃ t, exec (.copyStart crew chan) s = .next t ∧
      copyCost ≤ (t.die (dieOf core)).asked e ∧ t.crews = s.crews) ∧
    (q.started = false → (long → hasLeave s core e copyCost = true) → copyMayStart s (s.crew crew) q = true →
      copyIrrevocable s q = false → ∃ t q', exec (.copyStart crew chan) s = .next t ∧ SameBytes s t ∧
        ((t.crew crew).chanOf chan).queue = q' :: rest ∧ q'.started = true ∧ q'.id = q.id ∧
        (q.rmode = 1 → ((t.crew crew).ring q.ring).reserved =
          ((s.crew crew).ring q.ring).reserved ++ [(q.id, copyLen s q / ((s.crew crew).ring q.ring).sz)])) ∧
    (q.started = true → copyLanded s core q = true → q.follow = none →
      ∃ t, exec (.copyUnitLand crew chan []) s = .next t ∧ SameBytes s t ∧ ((t.crew crew).chanOf chan).queue = rest ∧
        FlagDown s t q.team q.flag) ∧
    (q.started = true → copyLanded s core q = false → long → hasLeave s core e copyCost = false →
      ∃ t, exec (.copyUnitLand crew chan []) s = .next t ∧ copyCost ≤ (t.die (dieOf core)).asked e ∧ t.crews = s.crews) ∧
    (q.started = true → copyLanded s core q = false → (long → hasLeave s core e copyCost = true) → (chanAhead s core crew chan = true ∨ 256 < copyMoved s core + 64) →
      ∃ t, exec (.copyUnitLand crew chan []) s = .next t ∧ SameBytes s t ∧ t.crews = s.crews ∧
        (crew, chan) ∈ (t.core core).copyTurns) ∧
    (q.started = true → q.kind = 4 → q.dir = 0 → q.rmode = 0 → q.buf = none → q.follow = none → q.atom = false →
      q.d 0 0 4 = chan → q.done < q.count → q.wants = [] → (long → hasLeave s core e copyCost = true) → chanAhead s core crew chan = false → copyMoved s core + 64 ≤ 256 →
      Memory.wf (s.crew crew).shm →
      let n := min 64 (q.count - q.done)
      ∃ t, exec (.copyUnitLand crew chan []) s = .next t ∧ SameBytes s t ∧
        ((t.crew crew).chanOf chan).cwp = ((s.crew crew).chanOf chan).cwp + BitVec.ofNat 64 n ∧
        ∀ x, (t.crew crew).byte x = if q.soff + q.done ≤ x ∧ x < q.soff + q.done + n
          then BitVec.ofNat 8 (fld q.auxw (8 * ((x - q.soff) % 4)) 8) else (s.crew crew).byte x)) ∧
  (∀ (s : State) (core : Nat) (q : MxCmd), mxNext s core = some q →
    (q.isMma = true → hasLeave s core (mxEngine core) (mxCost q.fmtA.width) = false →
      ∃ t, exec (.matrixStepStart core) s = .next t ∧
        mxCost q.fmtA.width ≤ (t.die (dieOf core)).asked (mxEngine core)) ∧
    (∀ s1 q1, (q.isMma = true → hasLeave s core (mxEngine core) (mxCost q.fmtA.width) = true) →
      mxMayStart s core q = true → mxBegin s core q = .ok s1 q1 → q ∈ (s1.core core).matrix →
      ∃ t, exec (.matrixStepStart core) s = .next t ∧ (t.core core).lastStart = some s1.now ∧ q1 ∈ (t.core core).matrix) ∧
    ((q.isMma = true → hasLeave s core (mxEngine core) (mxCost q.fmtA.width) = true) →
      mxMayStart s core q = false → exec (.matrixStepStart core) s = .next s)) ∧
  (∀ (s : State) (core : Nat) (q : MxCmd), mxDue s core 8 MxCmd.consDone = some q →
    ∃ t, exec (.matrixOperandsDone core) s = .next t ∧ SameBytes s t ∧
      ∀ h, let one (on : Bool) (g : Nat) : Nat := if on && g == h then 1 else 0
        ((t.crew q.crew).ring h).consumer = ((s.crew q.crew).ring h).consumer + BitVec.ofNat 32 (if q.isMma then
          one (q.e 0 11 1 == 1) q.x.ha.toNat + one (q.e 0 12 1 == 1) q.x.hb.toNat +
          one (q.scaled && q.e 0 37 1 == 1) (q.e 0 29 4) + one (q.scaled && q.e 0 38 1 == 1) (q.e 0 33 4) else 0)) ∧
  (∀ (s : State) (core base : Nat) (q : MxCmd), mxDue s core 24 MxCmd.rowsDone = some q →
    q.rows = (List.range q.m).map (fun i => base + i) →
    ∃ t, exec (.matrixRowsWritten core) s = .next t ∧ SameBytes s t ∧
      (∀ e, (∀ r ∈ q.rows, ¬ (64 * r ≤ e ∧ e < 64 * r + 64)) →
        Tab.get (t.crew q.crew).acc e 0#32 = Tab.get (s.crew q.crew).acc e 0#32) ∧
      (q.kind = 10 → FlagDown s t q.team q.flag ∧ (∀ m ∈ (t.core core).matrix, m.id ≠ q.id) ∧
        ∀ r ∈ q.rows, ∀ j, j < 64 → Tab.get (t.crew q.crew).acc (64 * r + j) 0#32 = 0#32) ∧
      (q.isMma = true → FlagDown s t q.team q.flag ∧ (∀ m ∈ (t.core core).matrix, m.id ≠ q.id) ∧
        ∀ e ∈ mxOutputs s.free (s.crew q.crew) q, Tab.get (t.crew q.crew).acc (64 * e.1 + e.2.1) 0#32 = BitVec.ofNat 32 e.2.2) ∧
      (q.kind = 11 → ∃ m, m.out = accoutBytes s.free (s.crew q.crew) q ∧ m.rowsDone = true ∧ m.id = q.id ∧
        m ∈ (t.core core).matrix)) ∧
  (∀ (s : State) (core : Nat) (q : MxCmd), mxDue s core 32 (fun m => m.kind != 11 || !m.rowsDone) = some q →
    q.e 0 8 1 = 0 → Memory.wf (s.crew q.crew).shm →
    ∃ t, exec (.accoutLastByteWritten core) s = .next t ∧ SameBytes s t ∧ FlagDown s t q.team q.flag ∧
      (∀ m ∈ (t.core core).matrix, m.id ≠ q.id) ∧
      ∀ x, (t.crew q.crew).byte x = if q.e 0 32 32 ≤ x ∧ x < q.e 0 32 32 + q.out.length
        then q.out.getD (x - q.e 0 32 32) 0#8 else (s.crew q.crew).byte x) ∧
  (∀ (s : State) (op tm p pc : Nat) (d : List Word64) (flag : Option Nat) (waits : List Nat) (src : List Byte)
      (peers : List (List Byte)), Tab.find s.ops op = some (.coll tm p d flag pc waits (some src) none) →
    crewRuns (s.crew (s.team tm).crew) = true → (s.task (s.team tm).task).fn = pfFn → Memory.wf s.mem →
    (cohortAt s pfFn (s.task (s.team tm).task).ts).bytes = [] →
    let core := (s.crew (s.team tm).crew).core
    let e := collEngine (dieOf core)
    let data := collData d peers
    ((collMeant d peers = false ∨ collTurn s op d = false) → exec (.collComplete op peers) s = .next s) ∧
    (collMeant d peers = true → collTurn s op d = true → hasLeave s core e collCost = false →
      ∃ t, exec (.collComplete op peers) s = .next t ∧ collCost ≤ (t.die (dieOf core)).asked e ∧ t.ops = s.ops) ∧
    (collMeant d peers = true → collTurn s op d = true → hasLeave s core e collCost = true →
      (collAgrees d data = false → exec (.collComplete op peers) s = .next (engineFault s op { code := .linkError, slot := .x })) ∧
      (collAgrees d data = true → ∃ t, exec (.collComplete op peers) s = .next t ∧ Tab.find t.ops op = none ∧
        FlagDown s t tm flag ∧ SameBytesBut s t (hostFlat (collDst d)) (collResult d src data).length ∧
        ∀ j, j < (collResult d src data).length →
          Memory.read t.mem (hostFlat (collDst d) + j) = (collResult d src data).getD j 0#8))) ∧
  (∀ (s : State) (die : Nat),
    (leaveFits s die = false → exec (.leaveGrant die) s = .next s) ∧
    (∀ r rest, (s.die die).queue = r :: rest → leaveFits s die = true → ∃ t, exec (.leaveGrant die) s = .next t ∧
      (t.die die).queue = rest ∧ (t.die die).total = (s.die die).total + r.cost ∧
      (t.die die).total ≤ 10 * (s.die die).ceil.toNat)) ∧
  (∀ (s : State) (die e : Nat),
    (leaveIdle s die e = true → engineBusy s e = false → ∃ t, exec (.leaveRelease die e) s = .next t ∧
      (∀ x ∈ (t.die die).granted, x.engine = e → x.reservation = true) ∧
      ∀ x, x.engine ≠ e → (x ∈ (t.die die).granted ↔ x ∈ (s.die die).granted)) ∧
    ((s.die die).granted.any (fun x => x.engine == e && x.lapsed s.now) = true → ∃ t, exec (.lvreqLapse die e) s = .next t ∧
      (∀ x ∈ (t.die die).granted, x.engine = e → x.lapsed s.now = false) ∧
      ∀ x, x.engine ≠ e → (x ∈ (t.die die).granted ↔ x ∈ (s.die die).granted)))


/-- R88, R90, R92, R94, R97: DRAIN_START, SLOT_EDGE, DEBIT_HOLD_END and DONATION_HANDOVER complete: the partition enters
its next slot; where the work changes, nobody runs until 8 µs after the edge at the earliest, the flush empties the
buffers and the signal table, and its end makes the coming VF run after its debit; an idle owner's slot goes to its
donee; before their time they leave the state. The model's own choices here: logs 24, 25, 26. -/
def Obligations.SlotSteps : Prop :=
  ∀ (s : State) (p : Nat),
    let x := s.part p
    (drainDue s p = false → exec (.drainStart p) s = .next s) ∧
    (drainDue s p = true → ∃ t, exec (.drainStart p) s = .next t ∧ t = s.setPart p { x with draining := true }) ∧
    (edgeDue s p = false → exec (.slotEdge p) s = .next s) ∧
    (edgeDue s p = true → edgeSilent s p = true → ∃ t, exec (.slotEdge p) s = .next t ∧ SameBytes s t ∧
      (t.part p).slotAt = (if x.started then x.slotAt + 1000 * (x.live.getD x.curSlot {}).len.toNat else x.frameAt) ∧
      (t.part p).curSlot = (if x.started ∧ x.curSlot + 1 < x.live.length then x.curSlot + 1 else 0) ∧
      (t.part p).frames = (if x.started ∧ x.live.length ≤ x.curSlot + 1 then x.frames + 1#32 else x.frames) ∧
      (t.part p).runVf = x.runVf ∧ (t.part p).started = true) ∧
    (edgeDue s p = true → edgeSilent s p = false → ∃ t, exec (.slotEdge p) s = .next t ∧
      (t.part p).edgeStep ≠ .none ∧ (t.part p).edgeY = (edgeSides s p).2 ∧ s.now + us 8 ≤ (t.part p).edgeLast ∧
      (x.edgeStep = .none → (t.part p).runVf = none ∧ (t.part p).isOpen = false ∧ (t.part p).edgeStep = .stopping ∧
        (t.part p).edgeX = x.runVf ∧ (t.part p).edgeAt = s.now + 63 ∧ SameBytes s t) ∧
      (x.edgeStep ≠ .none → (t.part p).edgeStep = x.edgeStep ∧ s.now + us 8 ≤ (t.part p).flushTo)) ∧
    (s.now < x.edgeAt → edgeGo s p = none) ∧
    (x.edgeAt ≤ s.now → x.edgeStep = .saving → x.edgeX = none → x.toSave = [] → x.saveEnd = [] →
      ∃ t, edgeGo s p = some t ∧ SameBytes s t ∧ (t.part p).edgeStep = .flushing ∧ (t.part p).signals = [] ∧
        x.edgeLast ≤ (t.part p).flushTo ∧ s.now + 15136 ≤ (t.part p).flushTo ∧
        ∀ q ∈ partCores s p, (t.core q.2).ttb = [] ∧ (t.core q.2).ro = []) ∧
    (∀ y, x.en = true → flushDone s p = true → x.edgeX = none → x.edgeY = some y → mayRun s p y = true →
      (s.func y).spilled = [] →
      let hold := min (s.func y).owed (usLeft s p)
      0 < hold → ∃ t, exec (.debitHoldEnd p) s = .next t ∧ t.part p = { x with runVf := some y, edgeStep := .none, edgeX := none
                                                                               edgeY := none, openAt := s.now + us hold } ∧
        (t.func y).owed = (s.func y).owed - hold) ∧
    (∀ y, x.en = true → x.runVf = some y → openDue s p = true → ∃ t, exec (.debitHoldEnd p) s = .next t ∧
      (t.part p).isOpen = true) ∧
    (holdDue s p = false → exec (.debitHoldEnd p) s = .next s) ∧
    (donationDue s p = false → exec (.donationHandover p) s = .next s) ∧
    (donationDue s p = true → ∃ t, exec (.donationHandover p) s = .next t ∧ (t.part p).donated = true ∧
      (t.part p).edgeStep = .frozen ∧ (t.part p).runVf = none ∧ (t.part p).edgeY = some (x.live.getD x.curSlot {}).donee.toNat)

/-- R80, R81, R85, R88, R89, R102, R103, R486, R487: the writes of a partition's registers and of LPCTL complete: PBAYS only
while EN is 0, EN when what it asks for holds, else CFGERR; a write that would clear EN while a VF is bound leaves
all but CFGERR; a change of EN moves no byte but between the partition and its bays' HBM; COMMIT after its checks,
and a scrub that leaves its granule zero and clean and every other byte as it was, and waits through a profiling
lease (R102). The model's own choices here: logs 39, 71, and log 62, that under a lease SCRUB_COMPLETE is put off to the
next cycle. -/
def Obligations.PartitionRegisters : Prop :=
  ∀ (s : State) (p : Nat) (v : Word64),
    let x := s.part p
    let taken : Part := { x with otb := BitVec.ofNat 10 (fld v.toNat 5 10), cfgErr := false
                                 specWays := if x.en then x.specWays else BitVec.ofNat 4 (fld v.toNat 1 4)
                                 nslotm1 := if x.en then x.nslotm1 else BitVec.ofNat 4 (fld v.toNat 16 4) }
    let w := s.setPart p taken
    let slots := (List.range (taken.nslotm1.toNat + 1)).map (fun i => Tab.get x.shadow i {})
    let elsewhere (t : State) : Prop :=
      ∀ a, spaceOf a ≠ p → spaceOf a ≠ bareSpace → Memory.read t.mem a = Memory.read s.mem a
    (∃ t, exec (.pbaysWrite p v) s = .next t ∧
      t.part p = if x.en then x else { x with bays := v.setWidth 32, clean := 0#384 }) ∧
    (x.en = false → v.getLsbD 0 = true → v.getLsbD 15 = false → Memory.wf s.mem →
      ∃ t, exec (.partitionEnable p v) s = .next t ∧ elsewhere t ∧
      if mayEnablePart w p taken then (t.part p).en = true ∧ (t.part p).cfgErr = false ∧ (t.part p).live = slots ∧
          (t.part p).frames = 0#32 ∧ (t.part p).runVf = none ∧
          (t.part p).frameAt = (if dtime s ≤ x.pstart.toNat then x.pstart.toNat else (dtime s / 1000 + 1) * 1000)
        else SameBytes s t ∧ (t.part p).en = false ∧ (t.part p).cfgErr = true) ∧
    (x.en = true → v.getLsbD 0 = false → Memory.wf s.mem → ∃ t, exec (.partitionDisable p v) s = .next t ∧ elsewhere t ∧
      if boundVfs s p = [] then (t.part p).en = false ∧ (t.part p).clean = 0#384 ∧ (t.part p).runVf = none
        else SameBytes s t ∧ t.part p = { x with cfgErr := true }) ∧
    (v.getLsbD 0 = x.en → v.getLsbD 15 = true → ∃ t, exec (.pctlCommit p v) s = .next t ∧ SameBytes s t ∧
      if slots.all (slotOk w p taken.otb.toNat) then (t.part p).cfgErr = false ∧
          (if x.en then (t.part p).nextLive = some slots ∧ (t.part p).live = x.live else (t.part p).live = slots)
        else (t.part p).cfgErr = true ∧ (t.part p).live = x.live ∧ (t.part p).nextLive = x.nextLive) ∧
    (let g := v.toNat % 2 ^ 9
      ∃ t, exec (.scrub p v) s = .next t ∧ SameBytes s t ∧
        (v.getLsbD 16 = false → (t.part p).scrubBusy = x.scrubBusy) ∧
        (v.getLsbD 16 = true → x.scrubBusy = true → t.part p = { x with scrubErr := true }) ∧
        (v.getLsbD 16 = true → x.scrubBusy = false →
          if granuleCount s p ≤ g ∨ granuleBound s p g 192 = true then (t.part p).scrubErr = true ∧ (t.part p).scrubBusy = false
          else (t.part p).scrubErr = false ∧ (t.part p).scrubBusy = true ∧ (t.part p).scrubGran.toNat = g)) ∧
    (x.scrubBusy = false → exec (.scrubComplete p) s = .next s) ∧
    (x.scrubBusy = true → slotLeased s p = true → exec (.scrubComplete p) s = .next (s.later (.scrubComplete p))) ∧
    (x.scrubBusy = true → slotLeased s p = false → x.en = false → ∃ t, exec (.scrubComplete p) s = .next t ∧
      ∀ y, Memory.read t.mem y = if inGranule s p x.scrubGran.toNat y = true then 0#8 else Memory.read s.mem y) ∧
    (x.scrubBusy = true → slotLeased s p = false → x.en = true → Memory.wf s.mem →
      let a := spaceBase p + x.scrubGran.toNat * 2 ^ 30
      ∃ t, exec (.scrubComplete p) s = .next t ∧ SameBytesBut s t a (2 ^ 30) ∧
        (∀ y, a ≤ y → y < a + 2 ^ 30 → Memory.read t.mem y = 0#8) ∧ (t.part p).scrubBusy = false ∧
        ∀ j, j < 384 → (t.part p).clean.getLsbD j = (x.clean.getLsbD j || j == x.scrubGran.toNat)) ∧
    (∃ t, exec (.lpctlCommit v) s = .next t ∧ t.lpLenM1.toNat = v.toNat % 2 ^ 6 ∧
      (v.getLsbD 6 = true → t.lpatLive = s.lpat ∧ t.lpLenLive = t.lpLenM1) ∧
      (v.getLsbD 6 = false → t.lpatLive = s.lpatLive ∧ t.lpLenLive = s.lpLenLive))

/-- R82, R83, R84, R87, R99, R100: the writes of a VF's registers complete: EN when what it asks for holds, off only
while PAUSED, with every task of the VF gone and its granules unclean; a pause that waits for the slot's end while
the VF runs; GTIME that goes on where it stood; VFGTIME that never falls; a segment that only grows and ways that
only clear while EN is 1. The model's own choices here: logs 39, 79. -/
def Obligations.FunctionRegisters : Prop :=
  ∀ (s : State) (n : Nat) (v : Word64),
    let f := s.func n
    let x := s.part f.part.toNat
    let taken : Func := { f with donateOut := v.getLsbD 16, donateIn := v.getLsbD 17, hidePause := v.getLsbD 18
                                 scopeCap := v.getLsbD 19, cfgErr := false
                                 part := if f.en then f.part else BitVec.ofNat 5 (fld v.toNat 8 5) }
    (f.en = false → v.getLsbD 0 = true → v.getLsbD 1 = f.pause → ∃ t, exec (.vfEnable n v) s = .next t ∧ SameBytes s t ∧
      if mayEnableVf (s.setFunc n taken) n taken then (t.func n).en = true ∧ (t.func n).hemline = 0#64 ∧
          (t.func n).highest = none ∧ (t.func n).nextTaskid = 0 ∧ (t.func n).spCommit = 0#64 ∧ (t.func n).ovrCnt = 0#16 ∧
          (t.func n).owed = 0
        else (t.func n).en = false ∧ (t.func n).cfgErr = true) ∧
    (f.en = true → v.getLsbD 0 = false → v.getLsbD 1 = f.pause → ∃ t, exec (.vfDisable n v) s = .next t ∧ SameBytes s t ∧
      (f.paused = false → (t.func n).en = true ∧ (t.func n).cfgErr = true) ∧
      (f.paused = true → (t.func n).en = false ∧ (∀ e ∈ t.tasks, e.2.fn ≠ n) ∧
        ∀ j, j < 384 → (t.part f.part.toNat).clean.getLsbD j = (x.clean.getLsbD j &&
          !(decide (f.segBase.toNat ≤ j) && decide (j < f.segBase.toNat + f.segCount.toNat))))) ∧
    (f.en = true → v.getLsbD 0 = true → v.getLsbD 1 = true → f.pause = false → ∃ t, exec (.vfPause n v) s = .next t ∧
      SameBytes s t ∧ (t.func n).pause = true ∧
      (x.runVf = some n → (t.func n).paused = f.paused) ∧
      (x.runVf ≠ some n → (x.edgeStep = .none ∨ x.edgeX ≠ some n) → (t.func n).paused = true ∧ (t.func n).pausedAt = dtime s)) ∧
    (f.en = true → v.getLsbD 0 = true → v.getLsbD 1 = false → f.pause = true → ∃ t, exec (.vfUnpause n v) s = .next t ∧
      SameBytes s t ∧ (t.func n).pause = false ∧ (t.func n).paused = false ∧
      (f.paused = true → v.getLsbD 18 = true → gtime t n = f.gtime.toNat) ∧
      (f.paused = true → v.getLsbD 18 = false → (t.func n).gtoff = f.gtime - BitVec.ofNat 64 f.pausedAt)) ∧
    (∃ t, exec (.vfgtimeWrite n v) s = .next t ∧
      t.func n = if f.paused = true then { f with gtime := if f.gtime.toNat ≤ v.toNat then v else f.gtime, cfgErr := false }
        else { f with cfgErr := true }) ∧
    (f.en = true →
      let base := fld v.toNat 0 9
      let count := fld v.toNat 16 9
      let may : Prop := base = f.segBase.toNat ∧ f.segCount.toNat < count ∧ base + count ≤ granuleCount s f.part.toNat ∧
        ∀ g, base + f.segCount.toNat ≤ g → g < base + count → x.clean.getLsbD g = true ∧ granuleBound s f.part.toNat g n = false
      (may → ∃ t, exec (.vfsegGrow n v) s = .next t ∧ t.func n = { f with segCount := BitVec.ofNat 9 count, cfgErr := false }) ∧
      (¬ may → ¬ (base = f.segBase.toNat ∧ count = f.segCount.toNat) → ∃ t, exec (.vfsegGrow n v) s = .next t ∧
        t.func n = { f with cfgErr := true })) ∧
    (f.en = true →
      ((∀ j, j < 24 → v.getLsbD j = true → f.ways.getLsbD j = true) → ∃ t, exec (.vfwaysClear n v) s = .next t ∧
        t.func n = { f with ways := v.setWidth 24, cfgErr := false }) ∧
      (∀ j, j < 24 → v.getLsbD j = true → f.ways.getLsbD j = false → ∃ t, exec (.vfwaysClear n v) s = .next t ∧
        t.func n = { f with cfgErr := true }))

/-! ### The issue stage's events, samples and faults -/

/-- R71, R227, R267, R269, R270, R273, R279, R309, R327: EMPTY_DELAY_BUNDLE leaves its path at the next bundle after its
gap and no register changed; ILLEGAL_OP is deferred in speculation and stops the task elsewhere; BREAKPOINT_HIT and
STEP_COMPLETE, and the stops that await the end of a bundle, hold their path with a stop record, which goes to the
ring; SAMPLE writes 32 bytes to the ring of the core's VF, or counts a loss. The model's own choices here: logs 15,
61, 88. -/
def Obligations.IssueEvents : Prop :=
  (∀ (s : State) (c : Ctx) (w : BitVec 32), ctxOf s = some c →
    let pa := (s.team c.t).path c.p
    ∃ t, exec (.emptyDelayBundle w) s = .next t ∧ SameBytes s t ∧ t.issue = none ∧ t.crews = s.crews ∧
      ((t.team c.t).path c.p).readyAt = c.cyc + c.hdr.gap.toNat + 1 ∧
      (pa.replay = none → ((t.team c.t).path c.p).pc = (pa.pc + 32) % 2 ^ 64) ∧
      (t.team c.t).vregs = (s.team c.t).vregs ∧ (t.team c.t).sregs = (s.team c.t).sregs ∧
      (t.team c.t).preds = (s.team c.t).preds ∧ (t.team c.t).pending = (s.team c.t).pending) ∧
  (∀ (s : State) (c : Ctx) (slot : Slot), ctxOf s = some c → fetchFault s (s.team c.t) c.pc = some (.illegalOp, slot) →
    let k := (s.team c.t).task
    ∃ t, exec .illegalOp s = .next t ∧ t.issue = none ∧
      (isSpeculative s (s.task k) = true → (s.team c.t).deferred = none →
        (t.team c.t).deferred.map FaultInfo.code = some .illegalOp ∧ (t.team c.t).deferredAt = some (c.p, c.pc) ∧
        (t.team c.t).stopped = true ∧ (t.task k).suspended = true) ∧
      (isSpeculative s (s.task k) = false → (s.task k).stopping = none →
        if quietable (stopTeams s k) (teamsOfTask (stopTeams s k) k) then TaskStopped t k
        else (t.task k).stopping.map (fun x => x.info.code) = some .illegalOp)) ∧
  (∀ (s : State) (t p : Nat),
    (hitOf s t p = none → exec (.breakpointHit t p) s = .next s) ∧
    (∀ n, hitOf s t p = some n → ∃ u, exec (.breakpointHit t p) s = .next u ∧ StopRecorded s u t p 0x0D n)) ∧
  (∀ (s : State) (t p : Nat),
    (stepDue s t p = false → exec (.stepComplete t p) s = .next s) ∧
    (stepDue s t p = true → ∃ u, exec (.stepComplete t p) s = .next u ∧ StopRecorded s u t p 0x0F 0 ∧
      ∀ q ∈ (u.team t).paths, q.2.stepHeld = false ∧ q.2.stepping = false ∧ q.2.stepped = false)) ∧
  (∀ (s : State) (t p code idx : Nat) (tm : Team) (pa : Path), Tab.find s.teams t = some tm → Tab.find tm.paths p = some pa →
    pa.stopAfter = [(code, idx)] →
    (bundleDone s tm p pa = false → takeStops s t p = s) ∧
    (bundleDone s tm p pa = true → StopRecorded s (takeStops s t p) t p code idx)) ∧
  (∀ (s : State) (x : Stop), StopWritten s (writeStop s x) x) ∧
  (∀ (s : State) (core fn tm : Nat),
    (sampleDue s core = false → exec (.sample core) s = .next s) ∧
    (sampleDue s core = true → runnerOf s core = some fn → nextTeam s core = some tm → Memory.wf s.mem →
      let f := s.func fn
      let a := f.smpBase.toNat / 4096 * 4096 + 32 * (f.smpTail.toNat % f.smpSize)
      let lost := f.smpSize ≤ f.smpTail.toNat - f.smpHead.toNat ∨ inSeg s fn a 32 = false
      ∃ t, exec (.sample core) s = .next t ∧ (t.core core).lastPlace = (s.team tm).place ∧ (t.team tm).sampled = nextPath (s.team tm) ∧
        (lost → SameBytes s t ∧ (t.func fn).smpDrop = f.smpDrop + 1#64 ∧ (t.func fn).smpTail = f.smpTail) ∧
        (¬ lost → SameBytesBut s t (flatOf s fn a) 32 ∧ (t.func fn).smpTail = f.smpTail + 1#64 ∧
          Memory.bytes t.mem (flatOf s fn a) 32 = sampleBytes s tm (nextPath (s.team tm)))))

/-- R180, R244, R249, R252, R256: a fault that is neither parked nor handled otherwise stops its task at the frontier:
the task is Finished and FAULTED and holds the fault record, which also begins its saved block, or the task is lost;
its queue stops. That waits, with every team of the task stopped, for what must still complete, and a later fault of
the task then counts for nothing. In speculation it is deferred: the team records the first fault and every team of
the task stops. The model's own choices here: log 23. -/
def Obligations.FaultsStopOrDefer : Prop :=
  ∀ (s : State) (t p pc : Nat) (f : FaultInfo), f.code ≠ .liningMismatch → f.code ≠ .walkSegment → f.code ≠ .tileNotPresent →
    let k := (s.team t).task
    let g : FaultInfo := { f with deferred := f.deferred || ((s.team t).path p).deferReplay }
    let u := takeFault s t p pc f
    (isSpeculative s (s.task k) = true → deferrable f.code = true →
      (u.task k).suspended = true ∧ (∀ e ∈ u.teams, e.2.task = k → e.2.stopped = true) ∧ SameBytes s u ∧
      ((s.team t).deferred = none → (u.team t).deferred = some { g with deferred := true } ∧
        (u.team t).deferredAt = some (p, pc)) ∧
      ((s.team t).deferred ≠ none → (u.team t).deferred = (s.team t).deferred)) ∧
    (isSpeculative s (s.task k) = false → (s.task k).stopping = none →
      quietable (stopTeams s k) (teamsOfTask (stopTeams s k) k) = false →
      (u.task k).stopping = some ⟨(s.team t).wid0, p, pc, g⟩ ∧ (u.task k).faulted = (s.task k).faulted ∧ SameBytes s u ∧
        ∀ e ∈ u.teams, e.2.task = k → e.2.stopped = true) ∧
    (isSpeculative s (s.task k) = false → (s.task k).stopping ≠ none → u = s) ∧
    (isSpeculative s (s.task k) = false → (s.task k).stopping = none →
      quietable (stopTeams s k) (teamsOfTask (stopTeams s k) k) = true →
      let q := quiesce (stopTeams s k) k
      let x := q.task k
      let r := faultRecord x.taskid (s.team t).wid0 p pc g false
      TaskStopped u k ∧ (∀ e ∈ u.teams, e.2.task ≠ k) ∧ ((u.func x.fn).queue x.queue).en = false ∧
        ((u.func x.fn).queue x.queue).qerr.toNat % 2 ^ 32 =
          (if (storeTask (q.modTask k (fun y => { y with faulted := true, stopping := none })) k r).isSome then 0x10 else 0x11) ∧
        (Memory.wf q.mem → x.slot < 64 → Nat.testBit (q.func x.fn).trcCtl.toNat 0 = false → ∀ y, Tab.find u.tasks k = some y →
          y.frec = r ∧ Memory.bytes u.mem (ctxFlat q x.fn y.block) 64 = r))

/-! ### Device, steward and host -/

/-- R21, R23, R24, R32, R33, R34, R35, R36, R37, R38, R40, R41: device reset, links, sensors and repairs complete; a repair
waits its turn behind those detected before it, and one of HBM for a scrub that its channel serves; a channel's copy goes
on after a profiling lease.
The model's own choices here: logs 30, 31, 32, 62, 70, 81, 83, 84, and log 37, that a fault of an access in flight, a lost
port's LINK_ERROR among them, is taken at the access's bundle. -/
def Obligations.DeviceEvents : Prop :=
  (∀ (s : State), ∃ t, exec .deviceReset s = .next t ∧ t.recovery = !Config.imageOk (runningImage s) ∧ t.now = 0 ∧
    ((∀ e ∈ s.parts, e.2.en = false) → SameBytes s t) ∧
    (Memory.wf s.mem → (∀ e ∈ s.parts, e.1 < 32) → ∀ a, 32 ≤ spaceOf a → spaceOf a ≠ bareSpace →
      Memory.read t.mem a = Memory.read s.mem a) ∧
    t.teams = [] ∧ t.crews = [] ∧ t.tasks = [] ∧ (∀ f, (t.func f).en = false) ∧ (∀ p, (t.part p).en = false) ∧
    ∀ c, t.core c = coreReset c) ∧
  (∀ (s : State) (full : Bool), exec (.linkTrain full) s = .next { s with linkDeg := !full }) ∧
  (∀ (s : State) (port n : Nat), let x := Tab.get s.ports port {}
    let y : LinkPort := { badLanes := x.badLanes + 1, down := x.down || decide (2 ≤ x.badLanes) }
    let u : State := noteRepair { s with ports := Tab.set s.ports port y }
    (12 ≤ port → exec (.linkCrcError port n) s = .next s) ∧
    (port < 12 → n < 3 → exec (.linkCrcError port n) s = .next { s with transients := (s.now, .lane port) :: s.transients }) ∧
    (port < 12 → 3 ≤ n → u.repair = true ∧
      (x.down = true ∨ x.badLanes < 2 → exec (.linkCrcError port n) s = .next u) ∧
      (x.down = false → 2 ≤ x.badLanes →
        exec (.linkCrcError port n) s = .next ((opsOnPort u port).foldl linkLost u.bump)))) ∧
  (∀ (s : State) (port id : Nat), let x := Tab.get s.ports port {}
    let u : State := { s with ports := Tab.set s.ports port { x with down := true } }
    (12 ≤ port → exec (.portDown port [id]) s = .next s) ∧
    (port < 12 → exec (.portDown port []) s = .next u) ∧
    (∀ a, port < 12 → Tab.find s.accesses id = some a → isRemote a = true → exec (.portDown port [id]) s = .next (takeFault
      (cancelAccess u id a) a.team (standingPath (s.team a.team) a.path) a.pc
      { code := .linkError, slot := .m, tensor := a.tensor, lanes := maskOf (a.todo.map MUnit.lane).eraseDups })) ∧
    (port < 12 → Tab.find s.accesses id = none → engineRemote s id = true →
      exec (.portDown port [id]) s = .next (engineFault u id { code := .linkError, slot := .x }))) ∧
  (∀ (s : State) (core : Nat) (temp : BitVec 11), let c := s.core core
    let inRow (n : Nat) : Nat := if c.senseAt = some (s.now - us 10) then n + 1 else 1
    let up := if 380 < temp.toNat then inRow c.hotRun else 0
    let down := if temp.toNat < 352 then inRow c.coolRun else 0
    (sampleTime s c = false → exec (.sensorSample core temp) s = .next s) ∧
    (sampleTime s c = true → ∃ t, exec (.sensorSample core temp) s = .next t ∧ SameBytes s t ∧ (t.core core).temp = temp ∧
      (t.core core).senseAt = some s.now ∧ (t.core core).hotRun = up ∧ (t.core core).coolRun = down ∧
      ((t.core core).hot = true ↔ (c.hot = true ∨ 20 ≤ up) ∧ down < 200) ∧
      ((t.core core).noLeave = true ↔ 420 ≤ temp.toNat ∨ 400 ≤ temp.toNat ∧ c.noLeave = true) ∧
      (460 ≤ temp.toNat → (t.die (dieOf core)).stopped = true ∧ t.thermal = true) ∧
      ((t.core core).hot = true → ∀ e ∈ t.crews, e.2.core = core → e.2.saved = false →
        (s.task e.2.task).migratable = true → e.2.migrate = true))) ∧
  (∀ (s : State) (core : Nat), ∃ t, exec (.droopEvent core) s = .next t ∧ SameBytes s t ∧ (t.core core).droop = true ∧
    (t.core core).droopCnt.toNat = min ((s.core core).droopCnt.toNat + 1) 0xFFFF ∧ s.now ∈ (t.core core).droopTimes) ∧
  (∀ (s : State) (chan : Nat), let n := Tab.get s.rowsUsed chan 0
    let stack := chan / 256
    let used := Tab.get s.reserveUsed stack 0
    let copies (i : Instr) : Prop :=
      (used < 5 → ∃ t, exec i s = .next t ∧ SameBytes s t ∧ chan ∈ t.chanCopy ∧ Tab.get t.reserveUsed stack 0 = used + 1) ∧
      (5 ≤ used → ∃ t, exec i s = .next t ∧ SameBytes s t ∧ t.chanCopy = s.chanCopy ∧ Tab.get t.releaseAsked stack false = true)
    exec (.hbmCorrectableError chan false) s = .next { s with transients := (s.now, .row chan) :: s.transients } ∧
    (s.repairs ≠ [] ∨ repairHeld s (.row chan) = true →
      exec (.hbmCorrectableError chan true) s = .next { s with repairs := s.repairs ++ [.row chan] }) ∧
    (s.repairs ≠ [] ∨ repairHeld s (.channel chan) = true →
      exec (.pseudoChannelRetire chan) s = .next { s with repairs := s.repairs ++ [.channel chan] }) ∧
    (s.repairs = [] → repairHeld s (.channel chan) = false → copies (.pseudoChannelRetire chan)) ∧
    (s.repairs = [] → repairHeld s (.row chan) = false → (32 ≤ n → copies (.hbmCorrectableError chan true)) ∧
      (n < 32 → ∃ t, exec (.hbmCorrectableError chan true) s = .next t ∧ SameBytes s t ∧ t.repair = true ∧
        Tab.get t.rowsUsed chan 0 = n + 1 ∧ t.chanCopy = s.chanCopy)) ∧
    (chan ∉ s.chanCopy → exec (.channelCopyDone chan) s = .next s) ∧
    (chan ∈ s.chanCopy → bayLeased s (chan / 64) = true →
      exec (.channelCopyDone chan) s = .next { s with chanHeld := chan :: s.chanHeld.filter (· != chan) }) ∧
    (chan ∈ s.chanCopy → bayLeased s (chan / 64) = false → ∃ t, exec (.channelCopyDone chan) s = .next t ∧ SameBytes s t ∧ chan ∉ t.chanCopy ∧
      chan ∈ t.chanRetired ∧ Tab.get t.rowsUsed chan 0 = 0 ∧ t.repair = true)) ∧
  (∀ (s : State) (slice way : Nat),
    exec (.l2WayRetire slice way false) s = .next { s with transients := (s.now, .way slice way) :: s.transients } ∧
    (s.repairs ≠ [] ∨ repairWaits s slice = true →
      exec (.l2WayRetire slice way true) s = .next { s with repairs := s.repairs ++ [.way slice way] })) ∧
  (∀ (s : State) (slice way : Nat), s.repairs = [] → repairWaits s slice = false →
    (partOfBay s slice = none → ∃ t, exec (.l2WayRetire slice way true) s = .next t ∧ SameBytes s t ∧
      (slice, way) ∈ t.waysRetired ∧ t.repair = true) ∧
    (∀ p, partOfBay s slice = some p → (specSet s p slice).contains way = false → way < 24 → ∃ t,
      exec (.l2WayRetire slice way true) s = .next t ∧ SameBytes s t ∧ (slice, way) ∈ t.waysRetired ∧
      ∀ v ∈ boundVfs s p, ∀ j, j < 24 → (t.func v).ways.getLsbD j = ((s.func v).ways.getLsbD j && j != way))) ∧
  (∀ (s : State) (core : Nat),
    ((s.core core).failing = false ∨ .core core ∈ s.repairs → exec (.coreRetirement core) s = .next s) ∧
    ((s.core core).failing = true → .core core ∉ s.repairs → s.repairs ≠ [] ∨ repairWaits s (core / 13) = true →
      exec (.coreRetirement core) s = .next { s with repairs := s.repairs ++ [.core core] }) ∧
    ((s.core core).failing = true → s.repairs = [] → repairWaits s (core / 13) = false → coreMoving s core = false →
      crewsToMove s core = [] →
      (∀ c, spareOf s core = some c → c ≠ core → ∃ t, exec (.coreRetirement core) s = .next t ∧ SameBytes s t ∧
        (t.core core).cstate = 2#2 ∧ (t.core core).logical = none ∧ (t.core c).cstate = 0#2 ∧
        (t.core c).logical = (s.core core).logical ∧ t.repair = true) ∧
      (spareOf s core = none → ∃ t, exec (.coreRetirement core) s = .next t ∧ SameBytes s t ∧
        (t.core core).cstate = 2#2 ∧ (t.core core).logical = none ∧ t.vacant = s.vacant ++ (s.core core).logical.toList ∧
        t.repair = true ∧ t.reduced = true)))

/-- R41, R42, R47, R51, R52, R101, R102: the steward's commands end with their results; a mailbox request waits through
a firmware swap, and is posted or answered by the device otherwise, and a reply ends it, with the lease that STATUS
0 grants or gives back; a profiling lease ends with its frames. The model's own choices here: logs 34, 35, 66. -/
def Obligations.StewardAndMailbox : Prop :=
  (∀ (s : State),
    let img := Memory.bytes s.mem (hostFlat s.stSrc.toNat) s.stLen.toNat
    let r := if hostOk s s.stSrc.toNat s.stLen.toNat = false then 4 else if Config.imageOk img = false then 1
      else if (Config.imageSvn img).toNat < Config.fwSvn.toNat then 2 else 0
    (s.stCmd ≠ some 1 → exec .stcmdSwapImage s = .next s) ∧
    (s.stCmd = some 1 → ∃ t, exec .stcmdSwapImage s = .next t ∧ SameBytes s t ∧ t.stCmd = none ∧
      t.stResult = BitVec.ofNat 8 r ∧ t.fwImage = (if r = 0 then some img else s.fwImage) ∧
      t.recovery = (if r = 0 then false else s.recovery) ∧
      ∀ e ∈ s.funcs, (t.func e.1).mbHeld = false)) ∧
  (∀ (s : State), let a := s.stAddr.toNat
    (s.stCmd ≠ some 2 → exec .stcmdRead s = .next s) ∧ (s.stCmd ≠ some 3 → exec .stcmdWrite s = .next s) ∧
    (s.stCmd = some 2 → exec .stcmdRead s = .next (if a % 8 = 0
      then { s with stData := BitVec.ofNat 64 (devRead s a), stCmd := none, stResult := 0#8 }
      else { s with stCmd := none, stResult := 3#8 })) ∧
    (s.stCmd = some 3 → exec .stcmdWrite s = .next (if a % 8 = 0
      then { devWrite s a s.stData with stCmd := none, stResult := 0#8 } else { s with stCmd := none, stResult := 3#8 }))) ∧
  (∀ (s : State) (vf : Nat), let f := s.func vf
    let code := (Tab.get f.msg 0 0#64).toNat % 2 ^ 16
    let own := code = 0 ∨ 5 < code ∧ code < 0x8000
    let shut := code = 4 ∧ masked s vf 12 = true ∨ code = 3 ∧ masked s vf 13 = true
    let answered (t : State) (status : Byte) : Prop := exec (.mailboxSend vf) s = .next t ∧ (t.func vf).mbBusy = false ∧
      (t.func vf).mbStatus = status ∧ (t.func vf).mbDone = true
    (f.mbBusy = true ∨ 192 ≤ vf → exec (.mailboxSend vf) s = .next s) ∧
    (f.mbBusy = false → vf < 192 → s.stCmd = some 1 → ∃ t, exec (.mailboxSend vf) s = .next t ∧ SameBytes s t ∧
      (t.func vf).mbBusy = true ∧ (t.func vf).posted = f.msg ∧ (t.func vf).mbHeld = true ∧ t.irqs = s.irqs) ∧
    (f.mbBusy = false → vf < 192 → s.stCmd ≠ some 1 → (own → ∃ t, answered t 2#8) ∧ (¬ own → shut → ∃ t, answered t 1#8) ∧
      (¬ own → ¬ shut → ∃ t, exec (.mailboxSend vf) s = .next t ∧ SameBytes s t ∧ (t.func vf).mbBusy = true ∧
        (t.func vf).posted = f.msg ∧ (t.func vf).mbHeld = false ∧
        Tab.get t.irqs (pfFn * 8) 0 = Tab.get s.irqs (pfFn * 8) 0 + 1))) ∧
  (∀ (s : State) (vf : Nat) (status : Byte), let f := s.func vf
    (f.mbBusy = false ∨ f.mbHeld = true → exec (.mailboxReply vf status) s = .next s) ∧
    (f.mbBusy = true → f.mbHeld = false → ∃ t, exec (.mailboxReply vf status) s = .next t ∧
      (¬ (status = 0#8 ∧ f.mbCode = 5 ∧ f.mbArg = 4) → SameBytes s t) ∧ (t.func vf).mbBusy = false ∧ (t.func vf).mbStatus = status ∧ (t.func vf).mbDone = true ∧
      Tab.get t.irqs (vf * 8) 0 = Tab.get s.irqs (vf * 8) 0 + 1 ∧
      (status ≠ 0#8 → (t.func vf).dbgLease = f.dbgLease ∧ (t.func vf).profLease = f.profLease) ∧
      (status = 0#8 → f.mbCode = 4 → (t.func vf).dbgLease = true) ∧
      (status = 0#8 → f.mbCode = 5 → f.mbArg = 3 → (t.func vf).profLease = false) ∧
      (status = 0#8 → f.mbCode = 5 → f.mbArg = 4 → (t.func vf).dbgLease = false ∧ (t.func vf).dbgCtl = 0#4) ∧
      (status = 0#8 → f.mbCode = 3 → (t.func vf).profLease = true ∧
        ((Tab.get f.msg 1 0#64).toNat, f.mbArg, vf) ∈ (t.part f.part.toNat).leases))) ∧
  (∀ (s : State) (vf : Nat), let p := (s.func vf).part.toNat
    (leaseOver s vf = false → exec (.profilingLeaseEnd vf) s = .next s) ∧
    (leaseOver s vf = true → ∃ t, exec (.profilingLeaseEnd vf) s = .next t ∧ SameBytes s t ∧ (t.func vf).profLease = false ∧
      ∀ l, l ∈ (t.part p).leases ↔ l ∈ (s.part p).leases ∧ l.2.2 ≠ vf))

/-- R66, R67, R68, R69, R70, R74, R75: a seal that passes its checks leaves its code in the code area under a valid
handle and its measurement in MCODE; a release makes the handle invalid and, once nothing uses the object, frees the
slot under its next generation; ATTGO writes the report. The model's own choices here: logs 17, 36, 77, 78, 80. -/
def Obligations.SealingAndAttestation : Prop :=
  (∀ (s : State) (fn : Nat), let f := s.func fn
    (f.sealBusy = true → exec (.sealStart fn) s = .next s ∧ exec (.sealRelease fn) s = .next s) ∧
    (f.sealBusy = false → sealCode s fn ≠ 0 → ∃ t, exec (.sealStart fn) s = .next t ∧ SameBytes s t ∧
      t.func fn = { f with sealResult := BitVec.ofNat 8 (sealCode s fn) }) ∧
    (∀ img, f.sealBusy = false → sealCode s fn = 0 → sealImage s fn = some img → sealLimit s fn ≤ 256 → fn ≤ pfFn →
      Memory.wf s.mem → ∃ t n x, exec (.sealStart fn) s = .next t ∧ handleSlot t fn (t.func fn).sealH = some (n, x) ∧
        (t.func fn).sealResult = 0#8 ∧ x.entries = imageEntries img ∧ x.len = fieldAt img 0x1C 4 ∧
        (Tab.get f.slots n {}).live = false ∧
        Memory.bytes t.mem (flatOf s fn ((codeArea s fn).1 + 32 * x.base)) (32 * x.len) =
          (img.drop (fieldAt img 0x24 4)).take (32 * x.len) ∧
        (t.func fn).mcode = leBytes 64 (Config.sha512 (f.measure ++ leBytes 64 (Config.sha512 img).toNat)).toNat) ∧
    (f.sealBusy = false → handleSlot s fn f.sealH = none → ∃ t, exec (.sealRelease fn) s = .next t ∧
      t.func fn = { f with sealResult := 7#8 }) ∧
    (∀ n x, f.sealBusy = false → handleSlot s fn f.sealH = some (n, x) → ∃ t, exec (.sealRelease fn) s = .next t ∧
      SameBytes s t ∧ (t.func fn).sealBusy = true ∧ handleSlot t fn f.sealH = none) ∧
    (f.sealBusy = false → exec (.sealReleaseDone fn) s = .next s) ∧
    (∀ n x, f.sealBusy = true → f.slots.find? (fun e => e.2.releasing) = some (n, x) →
      (objectUsed s fn n = true → exec (.sealReleaseDone fn) s = .next s) ∧
      (objectUsed s fn n = false → ∃ t, exec (.sealReleaseDone fn) s = .next t ∧ SameBytes s t ∧
        (t.func fn).sealBusy = false ∧ (t.func fn).sealResult = 0#8 ∧
        Tab.get (t.func fn).slots n {} = { x with live := false, releasing := false, gen := x.gen + 1#16 }))) ∧
  (∀ (s : State) (fn : Nat), let f := s.func fn
    let a := f.attAddr.toNat / 512 * 512
    let r := report s fn
    let may := (fn = pfFn ∨ f.en = true) ∧ inSeg s fn a r.length = true
    ∃ t, exec (.attgo fn) s = .next t ∧ (t.func fn).attDone = true ∧ (¬ may → SameBytes s t) ∧
      (may → Memory.wf s.mem → SameBytesBut s t (flatOf s fn a) r.length ∧
        Memory.bytes t.mem (flatOf s fn a) r.length = r))

/-- R9, R44, R45, R49, R142: a write from outside reaches its bytes and removes the signal-table entries of their words;
a register write at an offset that is no multiple of 8 or that is reserved does nothing; the doorbells do what their
instructions do; VFSTAT bits clear where 1 is written. The model's own choices here: logs 38, 39, and log 67, that a write
at an offset that is no multiple of 8 does nothing in any window (the spec says so of the window of R127 alone). -/
def Obligations.WritesFromOutside : Prop :=
  (∀ (s : State) (space addr : Nat) (bs : List Byte), let a := spaceBase space + addr
    ∃ t, exec (.peerWrite space addr bs) s = .next t ∧ t.teams = s.teams ∧ t.crews = s.crews ∧
      (Memory.wf s.mem → SameBytesBut s t a bs.length ∧ Memory.bytes t.mem a bs.length = bs) ∧
      ∀ p, ∀ g ∈ (t.part p).signals, g ∈ (s.part p).signals ∧ apart g.addr 8 a bs.length = true) ∧
  (∀ (s : State) (fn off : Nat) (v : Word64),
    let write (off : Nat) : Host.Outcome State Fault Refusal := exec (.registerWrite fn 0 off v) s
    (off % 8 ≠ 0 → write off = .next s) ∧
    (off < 0x1000 → write off = .next s) ∧
    (0x7000 ≤ off → off < 0x8000 → write off = .next s) ∧
    (fn ≠ pfFn → 0x10000 ≤ off → write off = .next s) ∧
    (∀ q, q < 64 → write (0x3000 + 64 * q + 8) = exec (.queueEnable fn q v) s ∧
      write (0x3000 + 64 * q + 8) = exec (.queueDisable fn q v) s) ∧
    (v.getLsbD 0 = true → write 0x2080 = exec (.mailboxSend fn) s) ∧
    (v = 1#64 → write 0x4010 = exec (.sealStart fn) s ∧ write 0x5028 = exec (.attgo fn) s) ∧
    (v = 2#64 → write 0x4010 = exec (.sealRelease fn) s) ∧
    write 0x6008 = exec (.prctlEnable fn v) s ∧ write 0x6018 = exec (.prheadWrite fn v) s ∧
    (v.getLsbD 0 = true → write 0x6040 = exec (.tileInvalidate fn) s) ∧
    (v = 1#64 → write 0x8010 = exec (.dbgHalt fn) s) ∧ (v = 2#64 → write 0x8010 = exec (.dbgResume fn) s) ∧
    (v = 3#64 → write 0x8010 = exec (.dbgStep fn) s) ∧ (v = 4#64 → write 0x8010 = exec (.dbgSplit fn) s) ∧
    (v = 5#64 → write 0x8010 = exec (.dbgSnapteam fn) s) ∧ (v = 6#64 → write 0x8010 = exec (.dbgSnapcrew fn) s) ∧
    (v = 7#64 → write 0x8010 = exec (.dbgPoke fn) s) ∧
    (∃ t, write 0x1000 = .next t ∧ SameBytes s t ∧ t.func fn = { s.func fn with
      mbDone := (s.func fn).mbDone && !v.getLsbD 0, qStop := (s.func fn).qStop && !v.getLsbD 1
      prq := (s.func fn).prq && !v.getLsbD 2, overrun := (s.func fn).overrun && !v.getLsbD 3
      tsClamp := (s.func fn).tsClamp && !v.getLsbD 4, attDone := (s.func fn).attDone && !v.getLsbD 5 })) ∧
  (∀ (s : State) (vf : Nat) (v : Word64), vf < 192 → v.getLsbD 0 = true → (s.func vf).mbBusy = true →
    exec (.registerWrite pfFn 0 (0x10080 + 0x400 * vf) v) s =
      exec (.mailboxReply vf (BitVec.ofNat 8 (v.toNat / 2 ^ 8))) s)

/-! ### Queues, crews and cohorts -/

/-- R53, R54, R55, R56, R60, R63, R133, R139, R140: a queue is enabled with its counts at 0, or stops with a code, and
is disabled without its Waiting tasks; the tail word is read; the dispatcher creates the task of the record at the
chosen queue's head, or stops that queue with the code of the first check that fails; a task whose tokens hold
leaves Waiting. The model's own choices here: logs 41, 74, 75, 76, and log 38, that TAIL_WORD_CHANGE writes the word and
shows the dispatcher the new tail in one step. -/
def Obligations.QueuesAndDispatch : Prop :=
  (∀ (s : State) (fn q : Nat) (v : Word64), let x := (s.func fn).queue q
    let size := v.toNat / 2 % 16
    let y : Queue := { x with irq := v.getLsbD 5, logsz := BitVec.ofNat 4 size }
    (x.en = false → v.getLsbD 0 = true → queueAllowed s fn q = false →
      ∃ t, exec (.queueEnable fn q v) s = .next t ∧ (t.func fn).queue q = y) ∧
    (x.en = false → v.getLsbD 0 = true → queueAllowed s fn q = true →
      let z : Queue := { y with en := true, qhead := 0#64, qtailv := 0#64, qerr := 0#64, qdone := 0#64 }
      (4 ≤ size → queueOutside s fn y = false → ∃ t, exec (.queueEnable fn q v) s = .next t ∧ (t.func fn).queue q = z) ∧
      (size < 4 → ∃ t, exec (.queueEnable fn q v) s = .next t ∧
        (t.func fn).queue q = { z with en := false, qerr := 0x0E#64 } ∧ (t.func fn).qStop = true) ∧
      (4 ≤ size → queueOutside s fn y = true → ∃ t, exec (.queueEnable fn q v) s = .next t ∧
        (t.func fn).queue q = { z with en := false, qerr := 0x13#64 } ∧ (t.func fn).qStop = true)) ∧
    (x.en = true → v.getLsbD 0 = false → ∃ t, exec (.queueDisable fn q v) s = .next t ∧ SameBytes s t ∧
      (t.func fn).queue q = { x with en := false, irq := v.getLsbD 5 } ∧
      ∀ e ∈ t.tasks, e.2.fn = fn → e.2.queue = q → e.2.phase = .waiting → e.2.restart = true)) ∧
  (∀ (s : State) (fn q : Nat) (v : Word64), let x := (s.func fn).queue q
    let flat := tokenFlat s fn x.qtaila.toNat
    tokenOk s fn x.qtaila.toNat 8 = true → Memory.wf s.mem → ∃ t, exec (.tailWordChange fn q v) s = .next t ∧
      SameBytesBut s t flat 8 ∧ leNat (Memory.bytes t.mem flat 8) = v.toNat ∧
      (runs s fn = false ∨ x.en = false → t.funcs = s.funcs) ∧
      (runs s fn = true → x.en = true → ((t.func fn).queue q).qtailv = v ∧
        (x.qtailv.toNat ≤ v.toNat → v.toNat ≤ x.qhead.toNat + 2 ^ x.logsz.toNat → ((t.func fn).queue q).en = true) ∧
        (v.toNat < x.qtailv.toNat → QueueStopped s t fn q 0x0C) ∧
        (x.qtailv.toNat ≤ v.toNat → x.qhead.toNat + 2 ^ x.logsz.toNat < v.toNat → QueueStopped s t fn q 0x0D))) ∧
  (∀ (s : State) (p : Nat),
    (running s p = none ∨ mayDispatch s p = false → exec (.dispatchRecord p) s = .next s) ∧
    (∀ fn, running s p = some fn → freeSlots s fn = [] → exec (.dispatchRecord p) s = .next s) ∧
    (∀ fn q level b, running s p = some fn → mayDispatch s p = true → chosenQueue s p fn = some (q, level) →
      headBytes s fn ((s.func fn).queue q) = some b →
      let r := parseRecord b
      ∃ t, exec (.dispatchRecord p) s = .next t ∧ (t.part p).nextDispatch = s.now + 32 ∧
        Tab.get (t.part p).dispPtr level 0 = (q + 1) % 64 ∧
        (∀ slot, r.graph = false → recordCode s fn (clampStamp s fn r.tstamp).2 r = none → dispatchSlot s fn = some slot →
          Created s t s.nextId fn q slot r.tstamp r ∧
          ((t.func fn).queue q).qhead = ((s.func fn).queue q).qhead + 1#64) ∧
        (∀ code, r.graph = false → recordCode s fn (clampStamp s fn r.tstamp).2 r = some code → QueueStopped s t fn q code ∧ t.tasks = s.tasks) ∧
        (∀ w, r.graph = true → masked s fn 6 = false → startWalk s fn q r = .ok w →
          (t.func fn).walk.map Walk.lrec = some w.lrec ∧ (t.func fn).walk.map Walk.tsnext = some r.tstamp ∧ ((t.func fn).queue q).qhead = ((s.func fn).queue q).qhead + 1#64))) ∧
  (∀ (s : State) (task : Nat) (k : Task), Tab.find s.tasks task = some k →
    (k.phase ≠ .waiting ∨ k.restart = true ∨ runs s k.fn = false → exec (.taskTokensHold task) s = .next s) ∧
    (k.phase = .waiting → k.restart = false → runs s k.fn = true →
      (∀ a, badToken s k.fn k.lrec = some a → exec (.taskTokensHold task) s =
        .next (stopTask s task 0#64 0 k.entryPc { code := .tensorInvalid, addr := a })) ∧
      (badToken s k.fn k.lrec = none → tokensHold s k.fn k.lrec = false → exec (.taskTokensHold task) s = .next s) ∧
      (badToken s k.fn k.lrec = none → tokensHold s k.fn k.lrec = true →
        exec (.taskTokensHold task) s = .next (s.setTask task { k with phase := .admitting }))))

/-- R134, R135, R136, R137, R152, R153, R156, R157, R162, R163: the next crew of a task is placed with its teams at
their entry; an unplaced frontier crew aborts the youngest speculative cohort; a crew whose teams have all retired
leaves; a yield exchanges two teams; a crew's migration holds its place on both cores and ends on the other; a
watchdog stops or aborts its task. The model's own choices here: logs 25, 46, 48, 61, 91, 92. -/
def Obligations.CrewEvents : Prop :=
  (∀ (s : State) (p fn : Nat), running s p = some fn →
    (mayAdmit s p = false ∨ nextPlacement s p (admitOrder s fn) = none → exec (.crewPlacement p) s = .next s) ∧
    (∀ task rel core, mayAdmit s p = true → nextPlacement s p (admitOrder s fn) = some (task, rel, core) →
      let k := s.task task
      ∃ t, exec (.crewPlacement p) s = .next t ∧ (t.crew s.nextId).task = task ∧ (t.crew s.nextId).core = core ∧
        (t.crew s.nextId).number = crewNumber k.lrec k.nextCrew ∧ (t.crew s.nextId).shmBytes = 256 * k.lrec.shmUnits ∧
        (t.crew s.nextId).teams = (List.range k.lrec.teams).map (fun i => s.nextId + 1 + i) ∧
        (∀ i, i < k.lrec.teams → let tm := t.team (s.nextId + 1 + i)
          { tm with residence := .saved, place := 0 } =
            { newTeam k task s.nextId (crewNumber k.lrec k.nextCrew) i with residence := .saved, place := 0 }) ∧
        (t.crew s.nextId).acqScope = acquireScope s k core ∧
        (t.task task).nextCrew = k.nextCrew + 1 ∧
        (t.task task).phase = (if k.nextCrew + 1 = k.crewTotal then .running else .admitting) ∧
        (t.part k.part).placePtr = placeKey s k.part core rel + 1)) ∧
  (∀ (s : State) (p : Nat),
    (placementLate s p = none → exec (.placementTimeout p) s = .next s) ∧
    (∀ k, placementLate s p = some k → let u := s.modTask k (fun x => { x with unplacedSince := some s.now })
      (youngestResident u (s.task k).fn = none → exec (.placementTimeout p) s = .next u) ∧
      (∀ y, youngestResident u (s.task k).fn = some y → ∃ t, exec (.placementTimeout p) s = .next t ∧
        CohortGone u t y.fn y.ts))) ∧
  (∀ (s : State) (crew : Nat) (cr : Crew), Tab.find s.crews crew = some cr →
    let may := cr.teams ≠ [] ∧ (∀ x ∈ cr.teams, (s.team x).retired = true) ∧ crewIdle s crew = true
    (¬ may → exec (.crewRetire crew) s = .next s) ∧
    (may → let k := s.task cr.task
      ∃ t, exec (.crewRetire crew) s = .next t ∧ Tab.find t.crews crew = none ∧ (∀ x ∈ cr.teams, Tab.find t.teams x = none) ∧
        (t.task cr.task).crewsRetired = k.crewsRetired + 1 ∧
        (t.task cr.task).phase = if k.crewsRetired + 1 = k.crewTotal then .finished else k.phase)) ∧
  (∀ (s : State) (team c h : Nat) (rest : List Nat), let tm := s.team team
    let core := (s.crew tm.crew).core
    (yieldDue s team = false → exec (.yieldExchange team) s = .next s) ∧
    (yieldDue s team = true → tm.residence = .active c → (s.core core).standby = h :: rest → h ≠ team →
      let fits := fastRows s core + (s.team h).rows ≤ 4096 + tm.rows
      let n := max (moveCycles tm) (moveCycles (s.team h))
      ∃ t, exec (.yieldExchange team) s = .next t ∧ SameBytes s t ∧ (t.team team).atYield = false ∧
        (fits → (t.team team).residence = .exchanging (s.now + n) none ∧ (t.team h).residence = .exchanging (s.now + n) (some c) ∧
          (t.core core).standby = rest) ∧
        (¬ fits → (t.team team).residence = .exchanging (s.now + moveCycles tm) none ∧ t.team h = s.team h ∧
          (t.core core).standby = h :: rest))) ∧
  (∀ (s : State) (crew : Nat), let cr := s.crew crew
    let k := s.task cr.task
    let n : Need := { teams := (liveTeams s cr).length, rows := (liveTeams s cr).foldl (fun n t => n + (s.team t).rows) 0
                      shm := cr.shmBytes, acc := cr.accRows }
    let drains := k.part ≠ freePart ∧ (s.part k.part).draining = true
    (migrationDue s crew = false → exec (.migration crew) s = .next s) ∧
    (migrationDue s crew = true → drains ∨ chooseCore s k.part n (cr.core :: k.avoid) false = none →
      exec (.migration crew) s = .next (s.setCrew crew { cr with syncing := false, syncLeft := [] })) ∧
    (∀ rel core, migrationDue s crew = true → ¬ drains → chooseCore s k.part n (cr.core :: k.avoid) false = some (rel, core) →
      ∃ t m, exec (.migration crew) s = .next t ∧ (t.crew crew).moving = some m ∧ m.core = core ∧ s.now ≤ m.until_ ∧
        (t.crew crew).core = cr.core)) ∧
  (∀ (s : State) (crew : Nat) (m : Moving), (s.crew crew).moving = some m → let t := finishMove s crew
    (t.crew crew).core = m.core ∧ (t.crew crew).shmAt = m.shmAt ∧ (t.crew crew).accAt = m.accAt ∧ (t.crew crew).moving = none ∧
      (t.crew crew).migrate = false ∧ (t.crew crew).syncing = false ∧ (t.crew crew).shm = (s.crew crew).shm ∧
      (t.crew crew).acc = (s.crew crew).acc) ∧
  (∀ (s : State) (team : Nat), let tm := s.team team
    let k := s.task tm.task
    (watchdogDue s team = false → exec (.watchdog team) s = .next s) ∧
    (watchdogDue s team = true → isSpeculative s k = false → exec (.watchdog team) s =
      .next (stopTask s tm.task tm.wid0 tm.lastPath (tm.path tm.lastPath).pc { code := .watchdog })) ∧
    (watchdogDue s team = true → isSpeculative s k = true → ∃ t, exec (.watchdog team) s = .next t ∧
      CohortGone s t k.fn k.ts ∧
      ∀ x y, Tab.find s.tasks tm.task = some x → Tab.find t.tasks tm.task = some y → y.noSpec = true))

/-- R174, R176, R178, R180, R182, R241, R253, R259, R464: the frontier cohort commits, its bytes in memory and its tasks
gone; a frontier access or SPAWN that has waited 50 µs aborts the youngest cohort in its way; a deferred fault
replays at the frontier; a stuck task is saved whole and comes back, its registers as they were where its block is;
a SPAWN creates its child once what its path did before is performed. The model's own choices here: logs 45, 68; log 29,
that a saved block that memory has not changed gives back the registers as they were; and log 40, what a save waits
for and performs first. -/
def Obligations.CohortEvents : Prop :=
  (∀ (s : State) (fn : Nat),
    (commitDue s fn = false ∨ runs s fn = false → exec (.cohortCommit fn) s = .next s) ∧
    (commitDue s fn = true → runs s fn = true → let c := cohortAt s fn (hem s fn)
      ∃ t, exec (.cohortCommit fn) s = .next t ∧ (∀ k ∈ cohortTasks s fn (hem s fn), Tab.find t.tasks k = none) ∧
        (t.func fn).highest = some (hem s fn) ∧ (∀ e ∈ t.cohorts, ¬ (e.fn = fn ∧ e.ts = hem s fn)) ∧
        (Memory.wf s.mem → (∀ k ∈ cohortTasks s fn (hem s fn), (s.task k).lrec.siga = 0#64) →
          (∀ g, Nat.testBit (s.func g).trcCtl.toNat 0 = false) → ∀ x,
          (∀ b, (x, b) ∈ c.bytes → (∀ b', (x, b') ∈ c.bytes → b' = b) → Memory.read t.mem x = b) ∧
          ((∀ b, (x, b) ∉ c.bytes) → Memory.read t.mem x = Memory.read s.mem x)))) ∧
  (∀ (s : State) (id fn since line : Nat),
    (fullWait s id = none → exec (.capacityTimeout id) s = .next { s with fulls := Tab.erase s.fulls id }) ∧
    (fullDue s id = false → fullWait s id = some (fn, since, line) → exec (.capacityTimeout id) s = .next s) ∧
    (∀ c, fullDue s id = true → fullWait s id = some (fn, since, line) →
      youngest ((setHolders s fn line).filter (fun c => c.ts != hem s fn)) = some c →
      ∃ t, exec (.capacityTimeout id) s = .next t ∧ CohortGone s t fn c.ts)) ∧
  (∀ (s : State) (p fn id : Nat) (y : Task), running s p = some fn →
    (spawnLate s fn = none → exec (.spawnSlotTimeout p) s = .next s) ∧
    (spawnLate s fn = some id → youngestSlotted s fn = some y → ∃ t, exec (.spawnSlotTimeout p) s = .next t ∧
      CohortGone s t y.fn y.ts)) ∧
  (∀ (s : State) (task : Nat),
    (replayDue s task = false → exec (.deferredFaultReplay task) s = .next s) ∧
    (replayDue s task = true → ∃ t, exec (.deferredFaultReplay task) s = .next t ∧ SameBytes s t ∧
      (t.task task).suspended = false ∧
      ((s.task task).walkStop = false → (s.task task).stopping = none → ∀ e ∈ t.teams, e.2.task = task → e.2.stopped = false) ∧
      ∀ x ∈ teamsOfTask s task, ∀ f p pc, (s.team x).deferred = some f → (s.team x).deferredAt = some (p, pc) →
        (t.team x).deferred = none ∧ ((t.team x).path p).pc = pc ∧
        (f.slot ≠ .none → ((t.team x).path p).replay = some f.slot ∧ ((t.team x).path p).rmask = f.lanes))) ∧
  (∀ (s : State) (task : Nat),
    (parkSaveDue s task = false → exec (.parkedTaskSave task) s = .next s) ∧
    (parkSaveDue s task = true →
      (∀ u, storeTask (quiesce s task) task (leBytes 64 0) = some u → ∃ t, exec (.parkedTaskSave task) s = .next t ∧
        (t.task task).saved = true ∧ (t.task task).parkSaved = true ∧ t.mem = u.mem ∧
        ∀ x ∈ teamsOfTask (quiesce s task) task, (t.team x).residence = .saved) ∧
      (storeTask (quiesce s task) task (leBytes 64 0) = none → ∃ t, exec (.parkedTaskSave task) s = .next t ∧
        Tab.find t.tasks task = none))) ∧
  (∀ (s : State) (task : Nat), let k := s.task task
    (restoreDue s task = false → exec (.parkedTaskRestore task) s = .next s) ∧
    (restoreDue s task = true → headersOk s task (savedCrews s task) = false → ∃ t, exec (.parkedTaskRestore task) s = .next t ∧
      TaskStopped t task ∧ ((t.func k.fn).queue k.queue).en = false) ∧
    (blockNow s task = k.image → let r := readBlock s task (savedCrews s task)
      ∀ i, (r.team i).vregs = (s.team i).vregs ∧ (r.team i).sregs = (s.team i).sregs ∧ (r.team i).preds = (s.team i).preds ∧
        (r.team i).fli = (s.team i).fli ∧ (r.team i).status = (s.team i).status ∧ (r.crew i).shm = (s.crew i).shm ∧
        (r.crew i).acc = (s.crew i).acc) ∧
    (restoreDue s task = true → headersOk s task (savedCrews s task) = true →
      let seated := seatAll (readBlock s task (savedCrews s task)) k.part s.now k.avoid (fun _ => none) (savedCrews s task)
      (seated.isNone = true → exec (.parkedTaskRestore task) s = .next s) ∧
      (∀ u, seated = some u → (u.task task).ovrlim = 0 →
        ∃ t, exec (.parkedTaskRestore task) s = .next t ∧ (t.task task).saved = false ∧ (t.task task).block = 0))) ∧
  (∀ (s : State) (op tm p pc since flag : Nat) (templ ts : Word64),
    Tab.find s.ops op = some (.spawn tm p templ ts flag pc since none) → onCore s tm = true →
    let k := s.task (s.team tm).task
    runs s k.fn = true → specWaysOf s k.fn = 0 →
    ((∃ i ∈ s.orderOf op, (Tab.find s.accesses i).isSome = true) → exec (.spawnChildCreate op) s = .next s) ∧
    ((∀ i ∈ s.orderOf op, Tab.find s.accesses i = none) → (spawnSlot s k.fn tm = none → exec (.spawnChildCreate op) s = .next s) ∧
    (∀ slot e, spawnSlot s k.fn tm = some slot → spawnRecord s k (childStamp k ts) templ.toNat = .error e →
      exec (.spawnChildCreate op) s = .next (engineFault s op e)) ∧
    (∀ slot r, spawnSlot s k.fn tm = some slot → spawnRecord s k (childStamp k ts) templ.toNat = .ok r →
      ∃ t, exec (.spawnChildCreate op) s = .next t ∧ Tab.find t.ops op = none ∧ FlagDown s t tm (some flag) ∧
        (t.task s.nextId).creator = some (s.team tm).task ∧ (t.task s.nextId).slot = slot ∧
        (t.task s.nextId).phase = .waiting ∧ (t.task s.nextId).lrec = r ∧
        (t.task s.nextId).ts = (if ts.toNat < k.ts.toNat then k.ts else ts))))

/-- R143, R144, R145, R146, R147: the walker's nodes complete: LAUNCH and SPAWNSET create tasks under the walk's TSNEXT,
COND and WHILE go to the side that their word names at the frontier and to a predicted side before it, a prediction
is resolved, WAITTOK waits, SIGTOK adds, and END ends the walk with its queue's count. The model's own choices here:
logs 8, 44. -/
def Obligations.WalkerNodes : Prop :=
  (∀ (s : State) (p : Nat), (∀ kind, walkAt s p kind = none) →
    exec (.launchNode p) s = .next s ∧ exec (.spawnsetNode p) s = .next s ∧ exec (.condNode p) s = .next s ∧
    exec (.whileNode p) s = .next s ∧ exec (.waittokNode p) s = .next s ∧ exec (.sigtokNode p) s = .next s ∧
    exec (.endNode p) s = .next s) ∧
  (∀ (s : State) (p fn : Nat) (w : Walk) (b : List Byte), let a := fieldAt b 8 8
    let next := { (w.launched s).goto (nodeNext b) with tsnext := w.tsnext + 1#64 }
    let made (t : State) (arg : Option Word64) : Prop := ∃ slot, slotFor s fn 3 = some slot ∧
      Created s t s.nextId fn w.queue slot w.tsnext (templateRecord s fn w a) ∧ (t.task s.nextId).launchedByWalker = true ∧
      (t.task s.nextId).node = w.pos ∧ (t.task s.nextId).predicted = w.predicts.map Predict.id ∧ (t.task s.nextId).arg15 = arg
    (walkAt s p 1 = some (fn, w, b) →
      (launchRoom s fn w b = 0 → exec (.launchNode p) s = .next s) ∧
      (∀ code, launchRoom s fn w b ≠ 0 → templateCode s fn w a = some code →
        exec (.launchNode p) s = .next (failWalk s fn w code)) ∧
      (launchRoom s fn w b ≠ 0 → templateCode s fn w a = none → ∃ t, exec (.launchNode p) s = .next t ∧
        (t.func fn).walk = some next ∧ made t none)) ∧
    (walkAt s p 6 = some (fn, w, b) → let n := launchRoom s fn w b
      (n = 0 → exec (.spawnsetNode p) s = .next s) ∧
      (∀ code, n ≠ 0 → templateCode s fn w a = some code → exec (.spawnsetNode p) s = .next (failWalk s fn w code)) ∧
      (n ≠ 0 → templateCode s fn w a = none → ∃ t, exec (.spawnsetNode p) s = .next t ∧
        (t.func fn).walk = some (if w.spawned + n = fieldAt b 16 4 then next else { w.launched s with spawned := w.spawned + n }) ∧
        made t (some (BitVec.ofNat 64 w.spawned)))) ∧
    (∀ i kind, (i = .condNode p ∧ kind = 2) ∨ (i = .whileNode p ∧ kind = 3 ∧
        (fieldAt b 16 4 = 0 ∨ Tab.get w.counts w.pos 0 < fieldAt b 16 4)) → walkAt s p kind = some (fn, w, b) →
      (∀ v, w.tsnext.toNat ≤ (hem s fn).toNat → nodeWord s fn a = some v → ∃ t x, exec i s = .next t ∧
        (t.func fn).walk = some x ∧ x.pos = (if v = 0 then nodeAlt b else nodeNext b) ∧ x.predicts = w.predicts ∧
        Tab.get x.outcomes w.pos 1 = (if v = 0 then 0 else 1) ∧
        Tab.get x.counts w.pos 0 = Tab.get w.counts w.pos 0 + (if kind = 3 ∧ v ≠ 0 then 1 else 0)) ∧
      ((hem s fn).toNat < w.tsnext.toNat → nodePred b = 0 ∨ 4 ≤ w.predicts.length → exec i s = .next s) ∧
      ((hem s fn).toNat < w.tsnext.toNat → nodePred b ≠ 0 → w.predicts.length < 4 → ∃ t x, exec i s = .next t ∧
        (t.func fn).walk = some x ∧ x.pos = (if predictedSide w b = true then nodeNext b else nodeAlt b) ∧
        x.predicts.length = w.predicts.length + 1)) ∧
    (walkAt s p 3 = some (fn, w, b) → fieldAt b 16 4 ≠ 0 → fieldAt b 16 4 ≤ Tab.get w.counts w.pos 0 →
      ∃ t x, exec (.whileNode p) s = .next t ∧ (t.func fn).walk = some x ∧ x.pos = nodeAlt b ∧ Tab.get x.counts w.pos 0 = 0) ∧
    (∀ v, walkAt s p 4 = some (fn, w, b) → nodeWord s fn a = some v →
      (w.predicts = [] → fieldAt b 16 8 ≤ v → ∃ t, exec (.waittokNode p) s = .next t ∧
        (t.func fn).walk = some (w.goto (nodeNext b))) ∧
      (w.predicts ≠ [] ∨ v < fieldAt b 16 8 → exec (.waittokNode p) s = .next s)) ∧
    (walkAt s p 5 = some (fn, w, b) → ∃ t, exec (.sigtokNode p) s = .next t ∧ SameBytes s t ∧
      (t.func fn).walk = some { w.goto (nodeNext b) with sigtoks := w.sigtoks ++
        [{ addr := a, tsnext := w.tsnext, above := w.assigned, under := w.predicts.map Predict.id }] }) ∧
    (walkAt s p 0 = some (fn, w, b) → ∃ t, exec (.endNode p) s = .next t ∧ (t.func fn).walk = some { w with ended := true })) ∧
  (∀ (s : State) (p fn : Nat) (w : Walk), running s p = some fn → (s.func fn).walk = some w →
    let due (x : SigTok) : Bool := x.under.isEmpty && x.above.all (fun t => decide (t.toNat < (hem s fn).toNat))
    let done := w.ended = true ∧ w.predicts = [] ∧ w.sigtoks = [] ∧ walkTasks s fn = []
    let q := (s.func fn).queue w.queue
    let flat := tokenFlat s fn w.lrec.siga.toNat
    (w.predicts = [] → exec (.condResolve p) s = .next s) ∧
    (∀ d rest, w.predicts = d :: rest → let b := nodeBytes s fn w d.node
      ((hem s fn).toNat < d.tsnext.toNat → exec (.condResolve p) s = .next s) ∧
      (∀ v, d.tsnext.toNat ≤ (hem s fn).toNat → nodeWord s fn (fieldAt b 8 8) = some v →
        ((v ≠ 0 ↔ d.taken = true) → ∃ t x, exec (.condResolve p) s = .next t ∧ (t.func fn).walk = some x ∧
          (∀ y ∈ x.predicts, y ∈ w.predicts ∧ y.id ≠ d.id) ∧ x.pos = w.pos ∧
          ∀ e ∈ t.tasks, e.2.fn = fn → d.id ∉ e.2.predicted) ∧
        ((v ≠ 0 ↔ d.taken = false) → ∃ t x, exec (.condResolve p) s = .next t ∧ (t.func fn).walk = some x ∧
          x.tsnext = d.tsnext ∧ x.pos = (if d.taken = true then nodeAlt b else nodeNext b) ∧
          (∀ y ∈ x.predicts, y.id < d.id) ∧ Tab.get x.outcomes d.node 1 = (if d.taken = true then 0 else 1)))) ∧
    ((w.sigtoks.find? due = none → exec (.sigtokAdd p) s = .next s) ∧
      (∀ x v, w.sigtoks.find? due = some x → nodeWord s fn x.addr = some v → Memory.wf s.mem →
        ∃ t, exec (.sigtokAdd p) s = .next t ∧ SameBytesBut s t (flatOf s fn x.addr) 8 ∧
          leNat (Memory.bytes t.mem (flatOf s fn x.addr) 8) = (v + 1) % 2 ^ 64 ∧
          (t.func fn).walk = some { w with sigtoks := w.sigtoks.erase x })) ∧
    ((¬ done → exec (.walkEndComplete p) s = .next s) ∧
      (done → ∃ t, exec (.walkEndComplete p) s = .next t ∧ (t.func fn).walk = none ∧
        ((t.func fn).queue w.queue).qdone = q.qdone + 1#64 ∧
        (w.lrec.siga = 0#64 → SameBytes s t) ∧
        (w.lrec.siga ≠ 0#64 → tokenOk s fn w.lrec.siga.toNat 8 = true → Memory.wf s.mem → SameBytesBut s t flat 8 ∧
          leNat (Memory.bytes t.mem flat 8) = (leNat (Memory.bytes s.mem flat 8) + 1) % 2 ^ 64))))

/-- R265, R271, R272, R273, R274, R275: a command of a VF's debug window acts on the target that DBGSEL and DBGCREW name, and
leaves its result code; without a lease, or while a STEP runs, it is ignored, and without a target its result is 2.
The model's own choices here: logs 17, 58, 69. -/
def Obligations.DebugWindow : Prop :=
  ∀ (s : State) (fn : Nat), fn ≠ pfFn →
    let f := s.func fn
    let all : List Instr := [.dbgHalt fn, .dbgResume fn, .dbgStep fn, .dbgSplit fn, .dbgSnapteam fn, .dbgSnapcrew fn, .dbgPoke fn]
    let ends (i : Instr) (result : Nat) (post : State → Prop) : Prop :=
      ∃ t, exec i s = .next t ∧ (t.func fn).dbgResult = BitVec.ofNat 4 result ∧ post t
    (f.dbgLease = false ∨ dbgBusy s f = true → ∀ i ∈ all, exec i s = .next s) ∧
    (f.dbgLease = true → dbgBusy s f = false → dbgTarget s fn f.dbgSel.toNat f.dbgCrew.toNat = none →
      ∀ i ∈ all, exec i s = .next (s.setFunc fn { f with dbgResult := 2#4, dbgStep := none })) ∧
    (∀ d, f.dbgLease = true → dbgBusy s f = false → dbgTarget s fn f.dbgSel.toNat f.dbgCrew.toNat = some d →
      let tm := s.team d.t
      let pa := tm.path d.p
      let lane := f.dbgArg2.toNat / 2 ^ 11 % 2 ^ 10
      let a := f.dbgArg.toNat
      let own (t : State) : Prop := (s.task d.k).block = 0 → t = s.setFunc fn (t.func fn)
      let bs := contextArea (s.task d.k) (s.crew tm.crew) (snapTeam tm s.free s.now)
      let cs := crewArea s (s.crew tm.crew)
      ends (.dbgHalt fn) 0 (fun t => ∀ j ∈ targetPaths s d, ((t.team d.t).path j).held = true) ∧
      ((∃ j ∈ targetPaths s d, (tm.path j).held = true) → ends (.dbgResume fn) 0 (fun t => Resumed s t d)) ∧
      ((∀ j ∈ targetPaths s d, (tm.path j).held = false) → ends (.dbgResume fn) 3 own) ∧
      (pa.held = true → ends (.dbgStep fn) 0 (fun t => Stepping s t d ∧ dbgBusy t (t.func fn) = true)) ∧
      (pa.held = false → ends (.dbgStep fn) 3 own ∧ ends (.dbgSplit fn) 3 own ∧ ends (.dbgPoke fn) 3 own) ∧
      (pa.held = true → maskHas pa.active lane = false → ends (.dbgSplit fn) 6 own) ∧
      (pa.held = true → maskHas pa.active lane = true → tm.freePath = none → ends (.dbgSplit fn) 4 own) ∧
      (∀ q, pa.held = true → maskHas pa.active lane = true → tm.freePath = some q →
        ends (.dbgSplit fn) 0 (fun t => LaneLeft s t d lane q ∧ (t.func fn).dbgArg.toNat % 8 = q)) ∧
      ((inSeg s fn a bs.length = false → ends (.dbgSnapteam fn) 5 own) ∧
        (inSeg s fn a bs.length = true → Memory.wf s.mem → ends (.dbgSnapteam fn) 0 (fun t => t.teams = s.teams ∧
          SameBytesBut s t (flatOf s fn a) bs.length ∧ Memory.bytes t.mem (flatOf s fn a) bs.length = bs))) ∧
      ((inSeg s fn a cs.length = false → ends (.dbgSnapcrew fn) 5 own) ∧
        (inSeg s fn a cs.length = true → Memory.wf s.mem → ends (.dbgSnapcrew fn) 0 (fun t => t.teams = s.teams ∧
          SameBytesBut s t (flatOf s fn a) cs.length ∧ Memory.bytes t.mem (flatOf s fn a) cs.length = cs))) ∧
      (∀ r, pa.held = true → opd (f.dbgArg2.toNat % 2 ^ 11) = .v r →
        (maskHas pa.base lane = false → ends (.dbgPoke fn) 6 own) ∧
        (maskHas pa.base lane = true → tm.nregs ≤ r ∨ hasPending s d.t (.vreg r) = true → ends (.dbgPoke fn) 7 own) ∧
        (maskHas pa.base lane = true → r < tm.nregs → hasPending s d.t (.vreg r) = false → ends (.dbgPoke fn) 0 (fun t =>
          Tab.get (Tab.get (t.team d.t).vregs r []) lane 0#32 = BitVec.ofNat 32 a ∧
          ∀ r' l, r' ≠ r ∨ l ≠ lane →
            Tab.get (Tab.get (t.team d.t).vregs r' []) l 0#32 = Tab.get (Tab.get tm.vregs r' []) l 0#32))) ∧
      (∀ n, (∀ e ∈ tm.paths, e.2.held = true) → pa.held = true → opd (f.dbgArg2.toNat % 2 ^ 11) = .s n →
        hasPending s d.t (.sreg n) = false → ends (.dbgPoke fn) 0 (fun t => (t.team d.t).sregs = Tab.set tm.sregs n f.dbgArg)))

/-! ### Decoding, the step and the machine as a whole -/

/-- R312, R314, R317, R323, R324, R325, R340, R384, R411, R448: words that the spec works out decode to what they stand for. -/
def Obligations.WordsOfTheSpecDecode : Prop :=
  let v : VFields := ⟨0, 0, 0, 0, .none, .rne, false, false, false, 0, false, 0, 0⟩
  let m : MFields := ⟨0, 0, 0, 0, .none, 0, 0, 0, 0, false⟩
  let x : XFields := ⟨0, 0, false, 0, 0, 0, 0, false, false, 0, false, false⟩
  decodeTableWord 80 0x0000_0040_1802_0020_1033 = some (.vfma { v with d := 4#11, a := 1#11, b := 2#11, c := 3#11, fmt := .fp32 }) ∧
  decodeTableWord 80 0x0880_0180_06D0_003A_1C20 =
    some (.vcmp { v with d := 0x687#11, a := 1#11, b := 0x6D0#11, fmt := .int32, aux := 0x22#8 }) ∧
  decodeTableWord 80 0x0080_01C0_0000_C020_0079 = some (.psetl { v with a := 0x601#11, fmt := .uint32, aux := 2#8 }) ∧
  decodeTableWord 64 0x9800_4001_0010_0801 =
    some (.tld { m with ds := 8#11, a := 2#11, tid := 4#8, fmt := .fp32, flag := 3#4, fe := true }) ∧
  decodeTableWord 64 0x9401_8000_C018_0520 =
    some (.aadd { m with ds := 5#11, a := 3#11, tid := 3#8, fmt := .int32, scope := 4#3, flag := 2#4, fe := true }) ∧
  decodeTableWord 64 0x0001_8001_0028_0102 = some (.tst { m with ds := 1#11, a := 5#11, tid := 4#8, fmt := .int32 }) ∧
  decodeTableWord 48 0x2060_0042_4201 =
    some (.copy { x with sd := 8#7, flag := 2#4, fe := true, hb := 1#4, shape := 6#3, follow := true }) ∧
  decodeTableWord 48 0x0060_0002_850B = some (.accout { x with sd := 20#7, flag := 4#4, fe := true, shape := 6#3 }) ∧
  decodeTableWord 32 0x0041_8330 = some (.saddi 3 3 1) ∧ decodeTableWord 32 0x0000_0C40 = some (.waitf 0xC#16 false) ∧
  decodeTableWord 32 0x0000_A214 = some (.split 2 10) ∧ decodeTableWord 32 0x0008_1416 = some (.regroup 20 16) ∧
  decodeTableWord 32 0x0000_3403 = some (.brs 4 3) ∧ decodeTableWord 32 0xFFFF_4409 = some (.loop 4 (-12#20))

/-- R307, R308, R309, R312, R314, R317, R448: decoding the word of an instruction of a slot gives the instruction; a
word that decodes is the word of its instruction; and so for a bundle, with each slot where its presence bit says. -/
def Obligations.EncodingRoundTrip : Prop :=
  (∀ i : Instr, slotBits i ≠ 0 → decodeTableWord (slotBits i) (encode i) = some i ∧ encode i < 2 ^ slotBits i) ∧
  (∀ (n w : Nat) (i : Instr), decodeTableWord n w = some i → slotBits i = n ∧ encode i = w % 2 ^ n) ∧
  (∀ b : Bundle, b.hdr.sv = b.v.isSome → b.hdr.sm = b.m.isSome → b.hdr.sx = b.x.isSome → b.hdr.sc = b.c.isSome →
    (∀ i, b.v = some i → slotBits i = 80) → (∀ i, b.m = some i → slotBits i = 64) →
    (∀ i, b.x = some i → slotBits i = 48) → (∀ i, b.c = some i → slotBits i = 32) →
    decodeBundle (encodeBundle b) = b ∧ encodeBundle b < 2 ^ 256)

/-- R71, R225, R307, R309, R327: a step runs the decoded instruction. When nothing of the agenda, no timed event and no
upkeep comes first and a path's bundle is next, the step is exec of the bundle's one instruction on the state of its
start, then the end of the bundle; a bundle without slots and one of zeros run the instructions that stand for them;
an input or an event that is due is exec of it. The model's own choices here: logs 1, 11, 57. -/
def Obligations.StepRunsTheInstruction : Prop :=
  let ran (o : Host.Outcome State Fault Refusal) (g : State → State) (s : State) : Prop :=
    ∃ t, o = .next t ∧ step s = .next (g t)
  (∀ (s : State) (i : Instr) (rest : List (Nat × Instr)), takeAgenda s.now s.agenda = some (i, rest) →
    (isBundled i = false → step s = exec i { s with agenda := rest }) ∧
    (isBundled i = true → step s = .next { s with agenda := rest })) ∧
  (∀ (s : State), takeAgenda s.now s.agenda = none →
    (∀ i, internalEvent s = some i → step s = exec i s) ∧
    (internalEvent s = none →
      (∀ t, upkeep s = some t → step s = .next t) ∧
      (∀ (t p : Nat) (tm : Team) (pa : Path), upkeep s = none → issuePick s = some (t, p) →
        Tab.find s.teams t = some tm → Tab.find tm.paths p = some pa →
        let k := s.task tm.task
        let w := fetchWord s k pa.pc
        let b := decodeBundle w
        let u := tentative s t p
        ∃ c, ctxOf u = some c ∧ c.t = t ∧ c.p = p ∧ c.pc = pa.pc ∧
          (fetchInside k pa.pc = false ∨ (w = 0 ∧ fetchBad s tm pa.pc = none) → step s = exec .illegalOp u) ∧
          (∀ code slot, fetchFault s tm pa.pc = some (code, slot) → code ≠ .illegalOp →
            step s = .next (decodeRaise u c code slot)) ∧
          (fetchFault s tm pa.pc = none → pa.replay = none →
            (∀ i, b.v.toList ++ b.m.toList ++ b.x.toList ++ b.c.toList = [i] → nullified c b = false →
              ran (exec i (startBundle u c b)) (fun t => endBundle (if b.c.any observesFirst then reseen t else t)) s) ∧
            (b.v = none → b.m = none → b.x = none → b.c = none →
              step s = exec (.emptyDelayBundle (BitVec.ofNat 32 w)) u) ∧
            (nullified c b = true → ¬ (b.v = none ∧ b.m = none ∧ b.x = none ∧ b.c = none) → step s = .next (nullify u c))))))

/-- The model's byte stores stay in canonical form (log 2): every step answers a next state, and from a state whose
memories are canonical that state's are. -/
def Obligations.EveryStepKeepsMemoryCanonical : Prop :=
  ∀ s : State, s.MemOk → ∃ t, step s = .next t ∧ t.MemOk

/-- R15, R30, R34, R47, R49, R53, R80, R82, R88, R126, R167, R266: what device reset leaves, where the spec gives a
value; and the memory form of the model holds at reset. -/
def Obligations.ResetState : Prop :=
  let s := State.reset
  s.MemOk ∧ s.now = 0 ∧ dtime s = 0 ∧ s.tasks = [] ∧ s.teams = [] ∧ s.crews = [] ∧ s.issue = none ∧
  s.thermal = false ∧ s.repair = false ∧ s.reduced = false ∧ s.stCmd = none ∧ s.pfCtxb = 0#64 ∧ s.pfCodeb = 0#64 ∧
  (∀ p, (s.part p).en = false ∧ (s.part p).bays = 0#32 ∧ (s.part p).clean = 0#384 ∧ (s.part p).runVf = none ∧ statWord s p = 0xFF0 ∧
    ∀ i, i < 16 → partRead s p (0x80 + 8 * i) = 0xFF + 0xFF * 2 ^ 32) ∧
  (∀ f, (s.func f).en = false ∧ (s.func f).paused = false ∧ vfstat s (s.func f) = 0 ∧ hem s f = 0#64 ∧ (s.func f).mbBusy = false ∧
    (s.func f).prEn = false ∧ ∀ q, ((s.func f).queue q).en = false ∧ ((s.func f).queue q).logsz = 0#4) ∧
  (∀ d, (s.die d).ceil = 0x140#12 ∧ (s.die d).ramp = 0x18#8 ∧ (s.die d).granted = []) ∧
  ∀ bay i, bay < 32 → i < 13 → let c := s.core (13 * bay + i)
    c.temp = 0#11 ∧ c.hot = false ∧ c.droop = false ∧ c.noLeave = false ∧ c.droopCnt = 0#16 ∧
    (i < 12 → c.cstate = 0#2 ∧ c.logical = some (12 * bay + i)) ∧ (i = 12 → c.cstate = 1#2 ∧ c.logical = none)
end

