-- ==== Sys2Proof/Laws/Memory.lean ====
section
/-! SUPPORT. Memory: every operation keeps the canonical form; a read after a write; what a write and a
zeroing leave alone. -/

namespace Sys2Proof.Machine

open Sys2Proof

theorem Memory.wf_nil : Memory.wf [] := ⟨List.Pairwise.nil, by simp⟩

theorem Memory.mem_cells {a : Nat} {bs : List Byte} {c : Host.Cell} (h : c ∈ Memory.cells a bs) :
    a ≤ c.1 ∧ c.1 < a + bs.length ∧ c.2 ≠ 0#8 := by
  induction bs generalizing a with
  | nil => simp [Memory.cells] at h
  | cons b bs ih =>
    unfold Memory.cells at h
    split at h
    · have := ih h
      exact ⟨by omega, by rw [List.length_cons]; omega, this.2.2⟩
    · rcases List.mem_cons.1 h with rfl | h
      · simp_all
      · have := ih h
        exact ⟨by omega, by rw [List.length_cons]; omega, this.2.2⟩

theorem Memory.cells_wf (a : Nat) (bs : List Byte) : Memory.wf (Memory.cells a bs) := by
  induction bs generalizing a with
  | nil => exact Memory.wf_nil
  | cons b bs ih =>
    unfold Memory.cells
    split
    · exact ih (a + 1)
    · rename_i hb
      refine ⟨List.pairwise_cons.2 ⟨fun c hc => ?_, (ih (a + 1)).1⟩, fun c hc => ?_⟩
      · have := Memory.mem_cells hc
        simp only
        omega
      · rcases List.mem_cons.1 hc with rfl | hc
        · exact hb
        · exact (ih (a + 1)).2 c hc

theorem Memory.filter_wf {m : Memory} (p : Host.Cell → Bool) (h : Memory.wf m) : Memory.wf (m.filter p) :=
  ⟨h.1.filter _, fun c hc => h.2 c (List.mem_filter.1 hc).1⟩

/-- Writing keeps the canonical form. -/
theorem Memory.write_wf {m : Memory} (a : Nat) (bs : List Byte) (h : Memory.wf m) :
    Memory.wf (Memory.write m a bs) := by
  refine ⟨?_, fun c hc => ?_⟩
  · simp only [Memory.write, List.pairwise_append, List.mem_append]
    refine ⟨⟨(Memory.filter_wf _ h).1, (Memory.cells_wf a bs).1, fun x hx y hy => ?_⟩,
      (Memory.filter_wf _ h).1, fun x hx y hy => ?_⟩
    · have h1 := (List.mem_filter.1 hx).2
      have h2 := Memory.mem_cells hy
      simp at h1
      omega
    · have h2 := (List.mem_filter.1 hy).2
      simp at h2
      rcases hx with hx | hx
      · have h1 := (List.mem_filter.1 hx).2
        simp at h1
        omega
      · have h1 := Memory.mem_cells hx
        omega
  · simp only [Memory.write, List.mem_append] at hc
    rcases hc with (hc | hc) | hc
    · exact h.2 c (List.mem_filter.1 hc).1
    · exact (Memory.mem_cells hc).2.2
    · exact h.2 c (List.mem_filter.1 hc).1

/-- Zeroing keeps the canonical form. -/
theorem Memory.zero_wf {m : Memory} (a n : Nat) (h : Memory.wf m) : Memory.wf (Memory.zero m a n) :=
  Memory.filter_wf _ h

/-! ### Reading -/

/-- Where nothing is listed, a byte reads 0. -/
theorem Memory.read_of_forall_ne {m : Memory} {a : Nat} (h : ∀ c ∈ m, c.1 ≠ a) : Memory.read m a = 0#8 := by
  induction m with
  | nil => rfl
  | cons c m ih =>
    obtain ⟨k, v⟩ := c
    have hk : k ≠ a := h (k, v) (by simp)
    have := ih (fun c hc => h c (List.mem_cons_of_mem _ hc))
    simp only [Memory.read, hk, if_false]
    split
    · rfl
    · exact this

/-- In canonical form, a listed byte reads as listed. -/
theorem Memory.read_of_mem {m : Memory} (h : m.Pairwise (fun a b => a.1 < b.1)) {a : Nat} {v : Byte}
    (hm : (a, v) ∈ m) : Memory.read m a = v := by
  induction m with
  | nil => simp at hm
  | cons c m ih =>
    obtain ⟨k, w⟩ := c
    rw [List.pairwise_cons] at h
    rcases List.mem_cons.1 hm with h' | h'
    · cases h'; simp [Memory.read]
    · have := h.1 _ h'
      have hk : k ≠ a := by simp only at this; omega
      have ha : ¬ a < k := by simp only at this; omega
      simp only [Memory.read, hk, ha, if_false]
      exact ih h.2 h'

/-- Two canonical memories that list the same byte at an address read the same there. -/
theorem Memory.read_congr {m n : Memory} (hm : m.Pairwise (fun a b => a.1 < b.1))
    (hn : n.Pairwise (fun a b => a.1 < b.1)) {a : Nat}
    (h : ∀ v, (a, v) ∈ m ↔ (a, v) ∈ n) : Memory.read m a = Memory.read n a := by
  by_cases hx : ∃ v, (a, v) ∈ m
  · obtain ⟨v, hv⟩ := hx
    rw [Memory.read_of_mem hm hv, Memory.read_of_mem hn ((h v).1 hv)]
  · have h1 : ∀ c ∈ m, c.1 ≠ a := by
      rintro ⟨k, v⟩ hc rfl
      exact hx ⟨v, hc⟩
    have h2 : ∀ c ∈ n, c.1 ≠ a := by
      rintro ⟨k, v⟩ hc rfl
      exact hx ⟨v, (h v).2 hc⟩
    rw [Memory.read_of_forall_ne h1, Memory.read_of_forall_ne h2]

/-- A write leaves every byte outside its range. -/
theorem Memory.read_write_ne {m : Memory} (h : Memory.wf m) {a x : Nat} {bs : List Byte}
    (hx : x < a ∨ a + bs.length ≤ x) : Memory.read (Memory.write m a bs) x = Memory.read m x := by
  refine Memory.read_congr (Memory.write_wf a bs h).1 h.1 (fun v => ?_)
  simp only [Memory.write, List.mem_append, List.mem_filter, decide_eq_true_eq]
  constructor
  · rintro ((h1 | h1) | h1)
    · exact h1.1
    · have := Memory.mem_cells h1
      simp only at this
      omega
    · exact h1.1
  · intro h1
    rcases hx with hx | hx
    · exact Or.inl (Or.inl ⟨h1, hx⟩)
    · exact Or.inr ⟨h1, hx⟩

theorem Memory.mem_cells_iff (a : Nat) (bs : List Byte) (i : Nat) (hi : i < bs.length) (v : Byte) :
    (a + i, v) ∈ Memory.cells a bs ↔ bs.getD i 0#8 = v ∧ v ≠ 0#8 := by
  induction bs generalizing a i with
  | nil => simp at hi
  | cons b bs ih =>
    unfold Memory.cells
    cases i with
    | zero =>
      have hno : ¬ (a, v) ∈ Memory.cells (a + 1) bs := fun hc => by
        have := Memory.mem_cells hc
        simp only at this
        omega
      split
      · rename_i hb
        simp only [Nat.add_zero, hno, List.getD_cons_zero, false_iff]
        rintro ⟨rfl, h⟩
        exact h hb
      · rename_i hb
        simp only [Nat.add_zero, List.mem_cons, Prod.mk.injEq, true_and, hno, or_false,
          List.getD_cons_zero]
        constructor
        · rintro rfl; exact ⟨rfl, hb⟩
        · rintro ⟨rfl, _⟩; rfl
    | succ i =>
      have hi' : i < bs.length := by simpa using hi
      have e : a + (i + 1) = a + 1 + i := by omega
      have := ih (a + 1) i hi'
      split
      · rw [e, this]; simp
      · rw [List.mem_cons, e, this]
        simp only [Prod.mk.injEq, List.getD_cons_succ]
        constructor
        · rintro (h | h)
          · omega
          · exact h
        · exact Or.inr

/-- A byte of the range reads as written. -/
theorem Memory.read_write_same {m : Memory} (h : Memory.wf m) (a : Nat) (bs : List Byte) (i : Nat)
    (hi : i < bs.length) : Memory.read (Memory.write m a bs) (a + i) = bs.getD i 0#8 := by
  have hw := Memory.write_wf a bs h
  have key : ∀ v, (a + i, v) ∈ Memory.write m a bs ↔ bs.getD i 0#8 = v ∧ v ≠ 0#8 := by
    intro v
    simp only [Memory.write, List.mem_append, List.mem_filter, decide_eq_true_eq,
      Memory.mem_cells_iff a bs i hi v]
    constructor
    · rintro ((h | h) | h)
      · omega
      · exact h
      · omega
    · exact fun h => Or.inl (Or.inr h)
  by_cases hz : bs.getD i 0#8 = 0#8
  · rw [hz]
    refine Memory.read_of_forall_ne ?_
    rintro ⟨k, v⟩ hc rfl
    have := (key v).1 hc
    exact this.2 (this.1.symm.trans hz)
  · exact Memory.read_of_mem hw.1 ((key _).2 ⟨rfl, hz⟩)

theorem Memory.bytes_eq (m : Memory) (n : Nat) (a : Nat) :
    Memory.bytes m a n = (List.range n).map (fun i => Memory.read m (a + i)) := by
  induction n generalizing a with
  | zero => rfl
  | succ n ih =>
    rw [Memory.bytes, ih, List.range_succ_eq_map, List.map_cons, List.map_map]
    simp only [Nat.add_zero, List.cons.injEq, true_and]
    exact List.map_congr_left fun i _ => by simp only [Function.comp, Nat.succ_eq_add_one]; congr 1; omega

/-- A range reads as the bytes written to it. -/
theorem Memory.bytes_write_same {m : Memory} (h : Memory.wf m) (a : Nat) (bs : List Byte) :
    Memory.bytes (Memory.write m a bs) a bs.length = bs := by
  rw [Memory.bytes_eq]
  refine List.ext_getElem (by simp) fun i _ hi => ?_
  rw [List.getElem_map, List.getElem_range, Memory.read_write_same h a bs i hi]
  simp [hi]

/-- A zeroed byte reads 0. -/
theorem Memory.read_zero_same {m : Memory} (a n x : Nat) (h1 : a ≤ x) (h2 : x < a + n) :
    Memory.read (Memory.zero m a n) x = 0#8 := by
  refine Memory.read_of_forall_ne ?_
  rintro ⟨k, v⟩ hc rfl
  have := (List.mem_filter.1 hc).2
  simp at this
  omega

/-- A zeroing leaves every byte outside its range. -/
theorem Memory.read_zero_ne {m : Memory} (h : Memory.wf m) {a n x : Nat} (hx : x < a ∨ a + n ≤ x) :
    Memory.read (Memory.zero m a n) x = Memory.read m x := by
  refine Memory.read_congr (Memory.zero_wf a n h).1 h.1 (fun v => ?_)
  simp only [Memory.zero, List.mem_filter, decide_eq_true_eq]
  exact ⟨fun h => h.1, fun h => ⟨h, hx⟩⟩

/-- Taking addresses out keeps the canonical form. -/
theorem Memory.without_wf {m : Memory} (gone : Nat → Bool) (h : Memory.wf m) : Memory.wf (Memory.without m gone) :=
  Memory.filter_wf _ h

/-- They read 0, and every other byte is as it was. -/
theorem Memory.read_without {m : Memory} (h : Memory.wf m) (gone : Nat → Bool) (x : Nat) :
    Memory.read (Memory.without m gone) x = if gone x = true then 0#8 else Memory.read m x := by
  split
  · refine Memory.read_of_forall_ne ?_
    rintro ⟨k, v⟩ hc rfl
    have := (List.mem_filter.1 hc).2
    simp_all
  · refine Memory.read_congr (Memory.without_wf gone h).1 h.1 (fun v => ?_)
    simp only [Memory.without, List.mem_filter]
    exact ⟨fun h => h.1, fun h => ⟨h, by simpa using ‹¬gone x = true›⟩⟩

/-- Bytes written one after another keep the canonical form. -/
theorem Memory.writes_wf (cs : List Host.Cell) {m : Memory} (h : Memory.wf m) :
    Memory.wf (cs.foldl (fun m c => Memory.write m c.1 [c.2]) m) := by
  induction cs generalizing m with
  | nil => exact h
  | cons c cs ih => exact ih (Memory.write_wf _ _ h)

/-- Every byte at none of their addresses is as it was. -/
theorem Memory.read_writes_ne (cs : List Host.Cell) {m : Memory} (h : Memory.wf m) {x : Nat} (hx : ∀ c ∈ cs, c.1 ≠ x) :
    Memory.read (cs.foldl (fun m c => Memory.write m c.1 [c.2]) m) x = Memory.read m x := by
  induction cs generalizing m with
  | nil => rfl
  | cons c cs ih =>
    have hc : c.1 ≠ x := hx c (by simp)
    rw [List.foldl_cons, ih (Memory.write_wf _ _ h) (fun d hd => hx d (by simp [hd])),
      Memory.read_write_ne h (by simp only [List.length_singleton]; omega)]

end Sys2Proof.Machine
end

