-- ==== Sys2Proof/Laws/PerInstr.lean ====
section
/-! SUPPORT. One fact per instruction, by family: WordFits says that an instruction's number fits its slot (R307, R312,
R314, R317, R448). -/

namespace Sys2Proof.Laws

open Sys2Proof

theorem fmt_code_lt (f : Fmt) : f.code < 16 := by cases f <;> decide

theorem rnd_code_lt (r : Rnd) : r.code < 4 := by cases r <;> decide

theorem bit_lt (b : Bool) : b.toNat < 2 := Bool.toNat_lt b

theorem vWord_lt (o : Nat) (f : VFields) (h : o < 2 ^ 10) : vWord o f < 2 ^ 80 := by
  have h1 := f.d.isLt
  have h2 := f.a.isLt
  have h3 := f.b.isLt
  have h4 := f.c.isLt
  have h5 := fmt_code_lt f.fmt
  have h6 := rnd_code_lt f.rnd
  have h7 := bit_lt f.fzi
  have h8 := bit_lt f.fzo
  have h9 := bit_lt f.sat
  have h10 := f.keep.isLt
  have h11 := bit_lt f.lat
  have h12 := f.mod.isLt
  have h13 := f.aux.isLt
  unfold vWord
  omega

theorem mWord_lt (o : Nat) (f : MFields) (h : o < 2 ^ 8) : mWord o f < 2 ^ 64 := by
  have h1 := f.ds.isLt
  have h2 := f.a.isLt
  have h3 := f.tid.isLt
  have h4 := f.off.isLt
  have h5 := fmt_code_lt f.fmt
  have h6 := f.cnt.isLt
  have h7 := f.cache.isLt
  have h8 := f.scope.isLt
  have h9 := f.flag.isLt
  have h10 := bit_lt f.fe
  unfold mWord
  omega

theorem xWord_lt (o : Nat) (f : XFields) (h : o < 2 ^ 6) : xWord o f < 2 ^ 48 := by
  have h1 := f.sd.isLt
  have h2 := f.flag.isLt
  have h3 := bit_lt f.fe
  have h4 := f.ha.isLt
  have h5 := f.hb.isLt
  have h6 := f.acc.isLt
  have h7 := f.shape.isLt
  have h8 := bit_lt f.acq
  have h9 := bit_lt f.rel
  have h10 := f.scope.isLt
  have h11 := bit_lt f.atom
  have h12 := bit_lt f.follow
  unfold xWord
  omega

theorem lWord_lt (o : Nat) (f : LFields) (h : o < 2 ^ 6) : lWord o f < 2 ^ 48 := by
  have h1 := f.d.isLt
  have h2 := f.a.isLt
  have h3 := f.b.isLt
  have h4 := f.c.isLt
  have h5 := f.cls.isLt
  unfold lWord
  omega

namespace WordFits

/-- The instruction's number fits the width of its slot. -/
def Statement (i : Instr) : Prop := slotBits i ≠ 0 → encode i < 2 ^ slotBits i

theorem of_control {i : Instr} {w : Nat} (hv : vOpcode i = none) (hm : mOpcode i = none) (hx : xOpcode i = none)
    (hl : lOpcode i = none) (hc : encodeC i = some w) (hw : w < 4294967296) : Statement i := by
  intro _
  simpa [slotBits, encode, hv, hm, hx, hl, hc] using hw

theorem vadd (f : VFields) : Statement (.vadd f) := fun _ => vWord_lt _ f (by decide)

theorem vsub (f : VFields) : Statement (.vsub f) := fun _ => vWord_lt _ f (by decide)

theorem vmul (f : VFields) : Statement (.vmul f) := fun _ => vWord_lt _ f (by decide)

theorem vmulh (f : VFields) : Statement (.vmulh f) := fun _ => vWord_lt _ f (by decide)

theorem vmad (f : VFields) : Statement (.vmad f) := fun _ => vWord_lt _ f (by decide)

theorem vaddc (f : VFields) : Statement (.vaddc f) := fun _ => vWord_lt _ f (by decide)

theorem vsubb (f : VFields) : Statement (.vsubb f) := fun _ => vWord_lt _ f (by decide)

theorem vmin (f : VFields) : Statement (.vmin f) := fun _ => vWord_lt _ f (by decide)

theorem vmax (f : VFields) : Statement (.vmax f) := fun _ => vWord_lt _ f (by decide)

theorem vabsd (f : VFields) : Statement (.vabsd f) := fun _ => vWord_lt _ f (by decide)

theorem vdot4 (f : VFields) : Statement (.vdot4 f) := fun _ => vWord_lt _ f (by decide)

theorem vand (f : VFields) : Statement (.vand f) := fun _ => vWord_lt _ f (by decide)

theorem vor (f : VFields) : Statement (.vor f) := fun _ => vWord_lt _ f (by decide)

theorem vxor (f : VFields) : Statement (.vxor f) := fun _ => vWord_lt _ f (by decide)

theorem vandn (f : VFields) : Statement (.vandn f) := fun _ => vWord_lt _ f (by decide)

theorem vnot (f : VFields) : Statement (.vnot f) := fun _ => vWord_lt _ f (by decide)

theorem vshl (f : VFields) : Statement (.vshl f) := fun _ => vWord_lt _ f (by decide)

theorem vshr (f : VFields) : Statement (.vshr f) := fun _ => vWord_lt _ f (by decide)

theorem vsar (f : VFields) : Statement (.vsar f) := fun _ => vWord_lt _ f (by decide)

theorem vrot (f : VFields) : Statement (.vrot f) := fun _ => vWord_lt _ f (by decide)

theorem vbfx (f : VFields) : Statement (.vbfx f) := fun _ => vWord_lt _ f (by decide)

theorem vbfi (f : VFields) : Statement (.vbfi f) := fun _ => vWord_lt _ f (by decide)

theorem vpopc (f : VFields) : Statement (.vpopc f) := fun _ => vWord_lt _ f (by decide)

theorem vclz (f : VFields) : Statement (.vclz f) := fun _ => vWord_lt _ f (by decide)

theorem vbrev (f : VFields) : Statement (.vbrev f) := fun _ => vWord_lt _ f (by decide)

theorem vlop3 (f : VFields) : Statement (.vlop3 f) := fun _ => vWord_lt _ f (by decide)

theorem vcmp (f : VFields) : Statement (.vcmp f) := fun _ => vWord_lt _ f (by decide)

theorem vsel (f : VFields) : Statement (.vsel f) := fun _ => vWord_lt _ f (by decide)

theorem vfclass (f : VFields) : Statement (.vfclass f) := fun _ => vWord_lt _ f (by decide)

theorem vmov (f : VFields) : Statement (.vmov f) := fun _ => vWord_lt _ f (by decide)

theorem vmovp (f : VFields) : Statement (.vmovp f) := fun _ => vWord_lt _ f (by decide)

theorem vfadd (f : VFields) : Statement (.vfadd f) := fun _ => vWord_lt _ f (by decide)

theorem vfsub (f : VFields) : Statement (.vfsub f) := fun _ => vWord_lt _ f (by decide)

theorem vfmul (f : VFields) : Statement (.vfmul f) := fun _ => vWord_lt _ f (by decide)

theorem vfma (f : VFields) : Statement (.vfma f) := fun _ => vWord_lt _ f (by decide)

theorem vfmin (f : VFields) : Statement (.vfmin f) := fun _ => vWord_lt _ f (by decide)

theorem vfmax (f : VFields) : Statement (.vfmax f) := fun _ => vWord_lt _ f (by decide)

theorem vfcmp (f : VFields) : Statement (.vfcmp f) := fun _ => vWord_lt _ f (by decide)

theorem vfdot2 (f : VFields) : Statement (.vfdot2 f) := fun _ => vWord_lt _ f (by decide)

theorem vfdot4 (f : VFields) : Statement (.vfdot4 f) := fun _ => vWord_lt _ f (by decide)

theorem vrcp (f : VFields) : Statement (.vrcp f) := fun _ => vWord_lt _ f (by decide)

theorem vrsq (f : VFields) : Statement (.vrsq f) := fun _ => vWord_lt _ f (by decide)

theorem vsqrt (f : VFields) : Statement (.vsqrt f) := fun _ => vWord_lt _ f (by decide)

theorem vexp2 (f : VFields) : Statement (.vexp2 f) := fun _ => vWord_lt _ f (by decide)

theorem vlog2 (f : VFields) : Statement (.vlog2 f) := fun _ => vWord_lt _ f (by decide)

theorem vsinp (f : VFields) : Statement (.vsinp f) := fun _ => vWord_lt _ f (by decide)

theorem vcosp (f : VFields) : Statement (.vcosp f) := fun _ => vWord_lt _ f (by decide)

theorem vtanh (f : VFields) : Statement (.vtanh f) := fun _ => vWord_lt _ f (by decide)

theorem vcvt (f : VFields) : Statement (.vcvt f) := fun _ => vWord_lt _ f (by decide)

theorem vpack (f : VFields) : Statement (.vpack f) := fun _ => vWord_lt _ f (by decide)

theorem vunpk (f : VFields) : Statement (.vunpk f) := fun _ => vWord_lt _ f (by decide)

theorem vquant (f : VFields) : Statement (.vquant f) := fun _ => vWord_lt _ f (by decide)

theorem vdeq (f : VFields) : Statement (.vdeq f) := fun _ => vWord_lt _ f (by decide)

theorem vscale (f : VFields) : Statement (.vscale f) := fun _ => vWord_lt _ f (by decide)

theorem vshuf (f : VFields) : Statement (.vshuf f) := fun _ => vWord_lt _ f (by decide)

theorem vperm (f : VFields) : Statement (.vperm f) := fun _ => vWord_lt _ f (by decide)

theorem vbcast (f : VFields) : Statement (.vbcast f) := fun _ => vWord_lt _ f (by decide)

theorem vred (f : VFields) : Statement (.vred f) := fun _ => vWord_lt _ f (by decide)

theorem vscan (f : VFields) : Statement (.vscan f) := fun _ => vWord_lt _ f (by decide)

theorem vvote (f : VFields) : Statement (.vvote f) := fun _ => vWord_lt _ f (by decide)

theorem vgeti (f : VFields) : Statement (.vgeti f) := fun _ => vWord_lt _ f (by decide)

theorem vseti (f : VFields) : Statement (.vseti f) := fun _ => vWord_lt _ f (by decide)

theorem plogic (f : VFields) : Statement (.plogic f) := fun _ => vWord_lt _ f (by decide)

theorem psetl (f : VFields) : Statement (.psetl f) := fun _ => vWord_lt _ f (by decide)

theorem tld (f : MFields) : Statement (.tld f) := fun _ => mWord_lt _ f (by decide)

theorem tst (f : MFields) : Statement (.tst f) := fun _ => mWord_lt _ f (by decide)

theorem tred (f : MFields) : Statement (.tred f) := fun _ => mWord_lt _ f (by decide)

theorem rold (f : MFields) : Statement (.rold f) := fun _ => mWord_lt _ f (by decide)

theorem sld (f : MFields) : Statement (.sld f) := fun _ => mWord_lt _ f (by decide)

theorem sst (f : MFields) : Statement (.sst f) := fun _ => mWord_lt _ f (by decide)

theorem aadd (f : MFields) : Statement (.aadd f) := fun _ => mWord_lt _ f (by decide)

theorem afadd (f : MFields) : Statement (.afadd f) := fun _ => mWord_lt _ f (by decide)

theorem amin (f : MFields) : Statement (.amin f) := fun _ => mWord_lt _ f (by decide)

theorem amax (f : MFields) : Statement (.amax f) := fun _ => mWord_lt _ f (by decide)

theorem aand (f : MFields) : Statement (.aand f) := fun _ => mWord_lt _ f (by decide)

theorem aor (f : MFields) : Statement (.aor f) := fun _ => mWord_lt _ f (by decide)

theorem axor (f : MFields) : Statement (.axor f) := fun _ => mWord_lt _ f (by decide)

theorem axchg (f : MFields) : Statement (.axchg f) := fun _ => mWord_lt _ f (by decide)

theorem acas (f : MFields) : Statement (.acas f) := fun _ => mWord_lt _ f (by decide)

theorem saadd (f : MFields) : Statement (.saadd f) := fun _ => mWord_lt _ f (by decide)

theorem safadd (f : MFields) : Statement (.safadd f) := fun _ => mWord_lt _ f (by decide)

theorem samin (f : MFields) : Statement (.samin f) := fun _ => mWord_lt _ f (by decide)

theorem samax (f : MFields) : Statement (.samax f) := fun _ => mWord_lt _ f (by decide)

theorem saand (f : MFields) : Statement (.saand f) := fun _ => mWord_lt _ f (by decide)

theorem saor (f : MFields) : Statement (.saor f) := fun _ => mWord_lt _ f (by decide)

theorem saxor (f : MFields) : Statement (.saxor f) := fun _ => mWord_lt _ f (by decide)

theorem saxchg (f : MFields) : Statement (.saxchg f) := fun _ => mWord_lt _ f (by decide)

theorem sacas (f : MFields) : Statement (.sacas f) := fun _ => mWord_lt _ f (by decide)

theorem accld (f : MFields) : Statement (.accld f) := fun _ => mWord_lt _ f (by decide)

theorem accst (f : MFields) : Statement (.accst f) := fun _ => mWord_lt _ f (by decide)

theorem radv (f : MFields) : Statement (.radv f) := fun _ => mWord_lt _ f (by decide)

theorem rstat (f : MFields) : Statement (.rstat f) := fun _ => mWord_lt _ f (by decide)

theorem gcfg (f : MFields) : Statement (.gcfg f) := fun _ => mWord_lt _ f (by decide)

theorem gskip (f : MFields) : Statement (.gskip f) := fun _ => mWord_lt _ f (by decide)

theorem acq (f : MFields) : Statement (.acq f) := fun _ => mWord_lt _ f (by decide)

theorem rel (f : MFields) : Statement (.rel f) := fun _ => mWord_lt _ f (by decide)

theorem fence (f : MFields) : Statement (.fence f) := fun _ => mWord_lt _ f (by decide)

theorem invro (f : MFields) : Statement (.invro f) := fun _ => mWord_lt _ f (by decide)

theorem copy (f : XFields) : Statement (.copy f) := fun _ => xWord_lt _ f (by decide)

theorem copyg (f : XFields) : Statement (.copyg f) := fun _ => xWord_lt _ f (by decide)

theorem copys (f : XFields) : Statement (.copys f) := fun _ => xWord_lt _ f (by decide)

theorem fill (f : XFields) : Statement (.fill f) := fun _ => xWord_lt _ f (by decide)

theorem mma (f : XFields) : Statement (.mma f) := fun _ => xWord_lt _ f (by decide)

theorem mmas (f : XFields) : Statement (.mmas f) := fun _ => xWord_lt _ f (by decide)

theorem accz (f : XFields) : Statement (.accz f) := fun _ => xWord_lt _ f (by decide)

theorem accout (f : XFields) : Statement (.accout f) := fun _ => xWord_lt _ f (by decide)

theorem coll (f : XFields) : Statement (.coll f) := fun _ => xWord_lt _ f (by decide)

theorem lvreq (f : XFields) : Statement (.lvreq f) := fun _ => xWord_lt _ f (by decide)

theorem lfma (f : LFields) : Statement (.lfma f) := fun _ => lWord_lt _ f (by decide)

theorem ladd (f : LFields) : Statement (.ladd f) := fun _ => lWord_lt _ f (by decide)

theorem lmul (f : LFields) : Statement (.lmul f) := fun _ => lWord_lt _ f (by decide)

theorem liadd (f : LFields) : Statement (.liadd f) := fun _ => lWord_lt _ f (by decide)

theorem limul (f : LFields) : Statement (.limul f) := fun _ => lWord_lt _ f (by decide)

theorem llogic (f : LFields) : Statement (.llogic f) := fun _ => lWord_lt _ f (by decide)

theorem br (off : BitVec 20) : Statement (.br off) :=
  by
  have h0 := off.isLt
  exact of_control rfl rfl rfl rfl rfl (by omega)

theorem brp (k : BitVec 4) (off : BitVec 20) : Statement (.brp k off) :=
  by
  have h0 := k.isLt
  have h1 := off.isLt
  exact of_control rfl rfl rfl rfl rfl (by omega)

theorem brs (k : BitVec 4) (off : BitVec 20) : Statement (.brs k off) :=
  by
  have h0 := k.isLt
  have h1 := off.isLt
  exact of_control rfl rfl rfl rfl rfl (by omega)

theorem brf (k : BitVec 4) (off : BitVec 20) : Statement (.brf k off) :=
  by
  have h0 := k.isLt
  have h1 := off.isLt
  exact of_control rfl rfl rfl rfl rfl (by omega)

theorem brm (off : BitVec 20) : Statement (.brm off) :=
  by
  have h0 := off.isLt
  exact of_control rfl rfl rfl rfl rfl (by omega)

theorem call (k : BitVec 4) (off : BitVec 20) : Statement (.call k off) :=
  by
  have h0 := k.isLt
  have h1 := off.isLt
  exact of_control rfl rfl rfl rfl rfl (by omega)

theorem ret (a : BitVec 7) : Statement (.ret a) :=
  by
  have h0 := a.isLt
  exact of_control rfl rfl rfl rfl rfl (by omega)

theorem jmpi (a b : BitVec 7) : Statement (.jmpi a b) :=
  by
  have h0 := a.isLt
  have h1 := b.isLt
  exact of_control rfl rfl rfl rfl rfl (by omega)

theorem loop (k : BitVec 4) (off : BitVec 20) : Statement (.loop k off) :=
  by
  have h0 := k.isLt
  have h1 := off.isLt
  exact of_control rfl rfl rfl rfl rfl (by omega)

theorem pushm (p : BitVec 4) (neg : Bool) : Statement (.pushm p neg) :=
  by
  have h0 := p.isLt
  have h1 := bit_lt neg
  exact of_control rfl rfl rfl rfl rfl (by omega)

theorem invm : Statement .invm := by
  exact of_control rfl rfl rfl rfl rfl (by omega)

theorem popm : Statement .popm := by
  exact of_control rfl rfl rfl rfl rfl (by omega)

theorem setm (p : BitVec 4) (neg : Bool) : Statement (.setm p neg) :=
  by
  have h0 := p.isLt
  have h1 := bit_lt neg
  exact of_control rfl rfl rfl rfl rfl (by omega)

theorem split (k : BitVec 4) (off : BitVec 20) : Statement (.split k off) :=
  by
  have h0 := k.isLt
  have h1 := off.isLt
  exact of_control rfl rfl rfl rfl rfl (by omega)

theorem join : Statement .join := by
  exact of_control rfl rfl rfl rfl rfl (by omega)

theorem regroup (d a : BitVec 7) : Statement (.regroup d a) :=
  by
  have h0 := d.isLt
  have h1 := a.isLt
  exact of_control rfl rfl rfl rfl rfl (by omega)

theorem sadd (d a b : BitVec 7) : Statement (.sadd d a b) :=
  by
  have h0 := d.isLt
  have h1 := a.isLt
  have h2 := b.isLt
  exact of_control rfl rfl rfl rfl rfl (by omega)

theorem ssub (d a b : BitVec 7) : Statement (.ssub d a b) :=
  by
  have h0 := d.isLt
  have h1 := a.isLt
  have h2 := b.isLt
  exact of_control rfl rfl rfl rfl rfl (by omega)

theorem smul (d a b : BitVec 7) : Statement (.smul d a b) :=
  by
  have h0 := d.isLt
  have h1 := a.isLt
  have h2 := b.isLt
  exact of_control rfl rfl rfl rfl rfl (by omega)

theorem sand (d a b : BitVec 7) : Statement (.sand d a b) :=
  by
  have h0 := d.isLt
  have h1 := a.isLt
  have h2 := b.isLt
  exact of_control rfl rfl rfl rfl rfl (by omega)

theorem sor (d a b : BitVec 7) : Statement (.sor d a b) :=
  by
  have h0 := d.isLt
  have h1 := a.isLt
  have h2 := b.isLt
  exact of_control rfl rfl rfl rfl rfl (by omega)

theorem sxor (d a b : BitVec 7) : Statement (.sxor d a b) :=
  by
  have h0 := d.isLt
  have h1 := a.isLt
  have h2 := b.isLt
  exact of_control rfl rfl rfl rfl rfl (by omega)

theorem sshl (d a b : BitVec 7) : Statement (.sshl d a b) :=
  by
  have h0 := d.isLt
  have h1 := a.isLt
  have h2 := b.isLt
  exact of_control rfl rfl rfl rfl rfl (by omega)

theorem sshr (d a b : BitVec 7) : Statement (.sshr d a b) :=
  by
  have h0 := d.isLt
  have h1 := a.isLt
  have h2 := b.isLt
  exact of_control rfl rfl rfl rfl rfl (by omega)

theorem ssar (d a b : BitVec 7) : Statement (.ssar d a b) :=
  by
  have h0 := d.isLt
  have h1 := a.isLt
  have h2 := b.isLt
  exact of_control rfl rfl rfl rfl rfl (by omega)

theorem ssel (d a b : BitVec 7) : Statement (.ssel d a b) :=
  by
  have h0 := d.isLt
  have h1 := a.isLt
  have h2 := b.isLt
  exact of_control rfl rfl rfl rfl rfl (by omega)

theorem smulh (d a b : BitVec 7) (sgn : Bool) : Statement (.smulh d a b sgn) :=
  by
  have h0 := d.isLt
  have h1 := a.isLt
  have h2 := b.isLt
  have h3 := bit_lt sgn
  exact of_control rfl rfl rfl rfl rfl (by omega)

theorem smin (d a b : BitVec 7) (sgn : Bool) : Statement (.smin d a b sgn) :=
  by
  have h0 := d.isLt
  have h1 := a.isLt
  have h2 := b.isLt
  have h3 := bit_lt sgn
  exact of_control rfl rfl rfl rfl rfl (by omega)

theorem smax (d a b : BitVec 7) (sgn : Bool) : Statement (.smax d a b sgn) :=
  by
  have h0 := d.isLt
  have h1 := a.isLt
  have h2 := b.isLt
  have h3 := bit_lt sgn
  exact of_control rfl rfl rfl rfl rfl (by omega)

theorem scmp (d a b : BitVec 7) (cond : BitVec 3) : Statement (.scmp d a b cond) :=
  by
  have h0 := d.isLt
  have h1 := a.isLt
  have h2 := b.isLt
  have h3 := cond.isLt
  exact of_control rfl rfl rfl rfl rfl (by omega)

theorem smov (d a : BitVec 7) : Statement (.smov d a) :=
  by
  have h0 := d.isLt
  have h1 := a.isLt
  exact of_control rfl rfl rfl rfl rfl (by omega)

theorem sdivu (d a b : BitVec 7) (rem : Bool) : Statement (.sdivu d a b rem) :=
  by
  have h0 := d.isLt
  have h1 := a.isLt
  have h2 := b.isLt
  have h3 := bit_lt rem
  exact of_control rfl rfl rfl rfl rfl (by omega)

theorem saddi (d a : BitVec 7) (imm : BitVec 10) : Statement (.saddi d a imm) :=
  by
  have h0 := d.isLt
  have h1 := a.isLt
  have h2 := imm.isLt
  exact of_control rfl rfl rfl rfl rfl (by omega)

theorem sandi (d a : BitVec 7) (imm : BitVec 10) : Statement (.sandi d a imm) :=
  by
  have h0 := d.isLt
  have h1 := a.isLt
  have h2 := imm.isLt
  exact of_control rfl rfl rfl rfl rfl (by omega)

theorem sori (d a : BitVec 7) (imm : BitVec 10) : Statement (.sori d a imm) :=
  by
  have h0 := d.isLt
  have h1 := a.isLt
  have h2 := imm.isLt
  exact of_control rfl rfl rfl rfl rfl (by omega)

theorem sshli (d a : BitVec 7) (imm : BitVec 10) : Statement (.sshli d a imm) :=
  by
  have h0 := d.isLt
  have h1 := a.isLt
  have h2 := imm.isLt
  exact of_control rfl rfl rfl rfl rfl (by omega)

theorem sshri (d a : BitVec 7) (imm : BitVec 10) : Statement (.sshri d a imm) :=
  by
  have h0 := d.isLt
  have h1 := a.isLt
  have h2 := imm.isLt
  exact of_control rfl rfl rfl rfl rfl (by omega)

theorem sli (d : BitVec 7) (imm : BitVec 16) : Statement (.sli d imm) :=
  by
  have h0 := d.isLt
  have h1 := imm.isLt
  exact of_control rfl rfl rfl rfl rfl (by omega)

theorem slih (d : BitVec 7) (imm : BitVec 16) : Statement (.slih d imm) :=
  by
  have h0 := d.isLt
  have h1 := imm.isLt
  exact of_control rfl rfl rfl rfl rfl (by omega)

theorem slix (d : BitVec 7) (imm : BitVec 16) : Statement (.slix d imm) :=
  by
  have h0 := d.isLt
  have h1 := imm.isLt
  exact of_control rfl rfl rfl rfl rfl (by omega)

theorem sliy (d : BitVec 7) (imm : BitVec 16) : Statement (.sliy d imm) :=
  by
  have h0 := d.isLt
  have h1 := imm.isLt
  exact of_control rfl rfl rfl rfl rfl (by omega)

theorem rdsr (d : BitVec 7) (imm : BitVec 16) : Statement (.rdsr d imm) :=
  by
  have h0 := d.isLt
  have h1 := imm.isLt
  exact of_control rfl rfl rfl rfl rfl (by omega)

theorem wrsr (d : BitVec 7) (imm : BitVec 16) : Statement (.wrsr d imm) :=
  by
  have h0 := d.isLt
  have h1 := imm.isLt
  exact of_control rfl rfl rfl rfl rfl (by omega)

theorem waitf (m : BitVec 16) (any : Bool) : Statement (.waitf m any) :=
  by
  have h0 := m.isLt
  have h1 := bit_lt any
  exact of_control rfl rfl rfl rfl rfl (by omega)

theorem clrf (m : BitVec 16) : Statement (.clrf m) :=
  by
  have h0 := m.isLt
  exact of_control rfl rfl rfl rfl rfl (by omega)

theorem bar (b : BitVec 4) (count : BitVec 5) : Statement (.bar b count) :=
  by
  have h0 := b.isLt
  have h1 := count.isLt
  exact of_control rfl rfl rfl rfl rfl (by omega)

theorem sasht : Statement .sasht := by
  exact of_control rfl rfl rfl rfl rfl (by omega)

theorem sashp (t : BitVec 4) (named : Bool) : Statement (.sashp t named) :=
  by
  have h0 := t.isLt
  have h1 := bit_lt named
  exact of_control rfl rfl rfl rfl rfl (by omega)

theorem waitc (n : BitVec 4) (k : BitVec 7) : Statement (.waitc n k) :=
  by
  have h0 := n.isLt
  have h1 := k.isLt
  exact of_control rfl rfl rfl rfl rfl (by omega)

theorem spawn (k : BitVec 4) (a b : BitVec 7) : Statement (.spawn k a b) :=
  by
  have h0 := k.isLt
  have h1 := a.isLt
  have h2 := b.isLt
  exact of_control rfl rfl rfl rfl rfl (by omega)

theorem exit : Statement .exit := by
  exact of_control rfl rfl rfl rfl rfl (by omega)

theorem trap (n : BitVec 8) : Statement (.trap n) :=
  by
  have h0 := n.isLt
  exact of_control rfl rfl rfl rfl rfl (by omega)

theorem bkpt : Statement .bkpt := by
  exact of_control rfl rfl rfl rfl rfl (by omega)

theorem rdsys (d a : BitVec 7) : Statement (.rdsys d a) :=
  by
  have h0 := d.isLt
  have h1 := a.isLt
  exact of_control rfl rfl rfl rfl rfl (by omega)

theorem wrsys (a b : BitVec 7) : Statement (.wrsys a b) :=
  by
  have h0 := a.isLt
  have h1 := b.isLt
  exact of_control rfl rfl rfl rfl rfl (by omega)

theorem lcmp (v : BitVec 11) : Statement (.lcmp v) :=
  by
  have h0 := v.isLt
  exact of_control rfl rfl rfl rfl rfl (by omega)

theorem waithem (a : BitVec 7) : Statement (.waithem a) :=
  by
  have h0 := a.isLt
  exact of_control rfl rfl rfl rfl rfl (by omega)

theorem signal (a b : BitVec 7) : Statement (.signal a b) :=
  by
  have h0 := a.isLt
  have h1 := b.isLt
  exact of_control rfl rfl rfl rfl rfl (by omega)

theorem dbgsplit (d a b : BitVec 7) : Statement (.dbgsplit d a b) :=
  by
  have h0 := d.isLt
  have h1 := a.isLt
  have h2 := b.isLt
  exact of_control rfl rfl rfl rfl rfl (by omega)

theorem step (d a b : BitVec 7) : Statement (.step d a b) :=
  by
  have h0 := d.isLt
  have h1 := a.isLt
  have h2 := b.isLt
  exact of_control rfl rfl rfl rfl rfl (by omega)

theorem dbgres (d a b : BitVec 7) : Statement (.dbgres d a b) :=
  by
  have h0 := d.isLt
  have h1 := a.isLt
  have h2 := b.isLt
  exact of_control rfl rfl rfl rfl rfl (by omega)

theorem breakpointHit (team path : Nat) : Statement (.breakpointHit team path) := fun h => absurd rfl h

theorem stepComplete (team path : Nat) : Statement (.stepComplete team path) := fun h => absurd rfl h

theorem matrixOperandsDone (core : Nat) : Statement (.matrixOperandsDone core) := fun h => absurd rfl h

theorem matrixRowsWritten (core : Nat) : Statement (.matrixRowsWritten core) := fun h => absurd rfl h

theorem drainStart (part : Nat) : Statement (.drainStart part) := fun h => absurd rfl h

theorem slotEdge (part : Nat) : Statement (.slotEdge part) := fun h => absurd rfl h

theorem debitHoldEnd (part : Nat) : Statement (.debitHoldEnd part) := fun h => absurd rfl h

theorem emptyDelayBundle (hdr : BitVec 32) : Statement (.emptyDelayBundle hdr) := fun h => absurd rfl h

theorem sample (core : Nat) : Statement (.sample core) := fun h => absurd rfl h

theorem deviceReset : Statement (.deviceReset) := fun h => absurd rfl h

theorem linkTrain (full : Bool) : Statement (.linkTrain full) := fun h => absurd rfl h

theorem linkCrcError (port failedResends : Nat) : Statement (.linkCrcError port failedResends) := fun h => absurd rfl h

theorem portDown (port : Nat) (ops : List Nat) : Statement (.portDown port ops) := fun h => absurd rfl h

theorem sensorSample (core : Nat) (temp : BitVec 11) : Statement (.sensorSample core temp) := fun h => absurd rfl h

theorem droopEvent (core : Nat) : Statement (.droopEvent core) := fun h => absurd rfl h

theorem hbmCorrectableError (chan : Nat) (again : Bool) : Statement (.hbmCorrectableError chan again) := fun h => absurd rfl h

theorem pseudoChannelRetire (chan : Nat) : Statement (.pseudoChannelRetire chan) := fun h => absurd rfl h

theorem l2WayRetire (slice way : Nat) (again : Bool) : Statement (.l2WayRetire slice way again) := fun h => absurd rfl h

theorem coreRetirement (core : Nat) : Statement (.coreRetirement core) := fun h => absurd rfl h

theorem leaveGrant (die : Nat) : Statement (.leaveGrant die) := fun h => absurd rfl h

theorem leaveRelease (die engine : Nat) : Statement (.leaveRelease die engine) := fun h => absurd rfl h

theorem lvreqLapse (die engine : Nat) : Statement (.lvreqLapse die engine) := fun h => absurd rfl h

theorem stcmdSwapImage : Statement (.stcmdSwapImage) := fun h => absurd rfl h

theorem stcmdRead : Statement .stcmdRead := fun h => absurd rfl h

theorem stcmdWrite : Statement .stcmdWrite := fun h => absurd rfl h

theorem mailboxSend (vf : Nat) : Statement (.mailboxSend vf) := fun h => absurd rfl h

theorem mailboxReply (vf : Nat) (status : Byte) : Statement (.mailboxReply vf status) := fun h => absurd rfl h

theorem profilingLeaseEnd (vf : Nat) : Statement (.profilingLeaseEnd vf) := fun h => absurd rfl h

theorem sealStart (fn : Nat) : Statement (.sealStart fn) := fun h => absurd rfl h

theorem sealRelease (fn : Nat) : Statement (.sealRelease fn) := fun h => absurd rfl h

theorem sealReleaseDone (fn : Nat) : Statement (.sealReleaseDone fn) := fun h => absurd rfl h

theorem attgo (fn : Nat) : Statement (.attgo fn) := fun h => absurd rfl h

theorem queueEnable (fn q : Nat) (val : Word64) : Statement (.queueEnable fn q val) := fun h => absurd rfl h

theorem queueDisable (fn q : Nat) (val : Word64) : Statement (.queueDisable fn q val) := fun h => absurd rfl h

theorem dispatchRecord (part : Nat) : Statement (.dispatchRecord part) := fun h => absurd rfl h

theorem taskTokensHold (task : Nat) : Statement (.taskTokensHold task) := fun h => absurd rfl h

theorem crewPlacement (part : Nat) : Statement (.crewPlacement part) := fun h => absurd rfl h

theorem placementTimeout (part : Nat) : Statement (.placementTimeout part) := fun h => absurd rfl h

theorem crewRetire (crew : Nat) : Statement (.crewRetire crew) := fun h => absurd rfl h

theorem yieldExchange (team : Nat) : Statement (.yieldExchange team) := fun h => absurd rfl h

theorem migration (crew : Nat) : Statement (.migration crew) := fun h => absurd rfl h

theorem watchdog (team : Nat) : Statement (.watchdog team) := fun h => absurd rfl h

theorem cohortCommit (fn : Nat) : Statement (.cohortCommit fn) := fun h => absurd rfl h

theorem capacityTimeout (acc : Nat) : Statement (.capacityTimeout acc) := fun h => absurd rfl h

theorem spawnSlotTimeout (part : Nat) : Statement (.spawnSlotTimeout part) := fun h => absurd rfl h

theorem deferredFaultReplay (task : Nat) : Statement (.deferredFaultReplay task) := fun h => absurd rfl h

theorem irrevocableStart (op : Nat) : Statement (.irrevocableStart op) := fun h => absurd rfl h

theorem parkedTaskSave (task : Nat) : Statement (.parkedTaskSave task) := fun h => absurd rfl h

theorem parkedTaskRestore (task : Nat) : Statement (.parkedTaskRestore task) := fun h => absurd rfl h

theorem fliCapture (team : Nat) : Statement (.fliCapture team) := fun h => absurd rfl h

theorem resultLanding (team : Nat) : Statement (.resultLanding team) := fun h => absurd rfl h

theorem globalAccessComplete (acc : Nat) (units bad : List Nat) : Statement (.globalAccessComplete acc units bad) := fun h => absurd rfl h

theorem walkComplete (walk : Nat) (bad : List Nat) : Statement (.walkComplete walk bad) := fun h => absurd rfl h

theorem walkFaultResolve (index : Nat) (invalid : Bool) : Statement (.walkFaultResolve index invalid) := fun h => absurd rfl h

theorem pageRequestComplete (fn index : Nat) : Statement (.pageRequestComplete fn index) := fun h => absurd rfl h

theorem prctlEnable (fn : Nat) (val : Word64) : Statement (.prctlEnable fn val) := fun h => absurd rfl h

theorem prheadWrite (fn : Nat) (val : Word64) : Statement (.prheadWrite fn val) := fun h => absurd rfl h

theorem tileInvalidate (fn : Nat) : Statement (.tileInvalidate fn) := fun h => absurd rfl h

theorem tileInvalidateDone (fn : Nat) : Statement (.tileInvalidateDone fn) := fun h => absurd rfl h

theorem pbaysWrite (part : Nat) (val : Word64) : Statement (.pbaysWrite part val) := fun h => absurd rfl h

theorem partitionEnable (part : Nat) (val : Word64) : Statement (.partitionEnable part val) := fun h => absurd rfl h

theorem partitionDisable (part : Nat) (val : Word64) : Statement (.partitionDisable part val) := fun h => absurd rfl h

theorem pctlCommit (part : Nat) (val : Word64) : Statement (.pctlCommit part val) := fun h => absurd rfl h

theorem scrub (part : Nat) (val : Word64) : Statement (.scrub part val) := fun h => absurd rfl h

theorem scrubComplete (part : Nat) : Statement (.scrubComplete part) := fun h => absurd rfl h

theorem vfEnable (vf : Nat) (val : Word64) : Statement (.vfEnable vf val) := fun h => absurd rfl h

theorem vfDisable (vf : Nat) (val : Word64) : Statement (.vfDisable vf val) := fun h => absurd rfl h

theorem vfPause (vf : Nat) (val : Word64) : Statement (.vfPause vf val) := fun h => absurd rfl h

theorem vfUnpause (vf : Nat) (val : Word64) : Statement (.vfUnpause vf val) := fun h => absurd rfl h

theorem vfgtimeWrite (vf : Nat) (val : Word64) : Statement (.vfgtimeWrite vf val) := fun h => absurd rfl h

theorem vfsegGrow (vf : Nat) (val : Word64) : Statement (.vfsegGrow vf val) := fun h => absurd rfl h

theorem vfwaysClear (vf : Nat) (val : Word64) : Statement (.vfwaysClear vf val) := fun h => absurd rfl h

theorem lpctlCommit (val : Word64) : Statement (.lpctlCommit val) := fun h => absurd rfl h

theorem donationHandover (part : Nat) : Statement (.donationHandover part) := fun h => absurd rfl h

theorem launchNode (part : Nat) : Statement (.launchNode part) := fun h => absurd rfl h

theorem spawnsetNode (part : Nat) : Statement (.spawnsetNode part) := fun h => absurd rfl h

theorem condNode (part : Nat) : Statement (.condNode part) := fun h => absurd rfl h

theorem whileNode (part : Nat) : Statement (.whileNode part) := fun h => absurd rfl h

theorem condResolve (part : Nat) : Statement (.condResolve part) := fun h => absurd rfl h

theorem waittokNode (part : Nat) : Statement (.waittokNode part) := fun h => absurd rfl h

theorem sigtokNode (part : Nat) : Statement (.sigtokNode part) := fun h => absurd rfl h

theorem sigtokAdd (part : Nat) : Statement (.sigtokAdd part) := fun h => absurd rfl h

theorem endNode (part : Nat) : Statement (.endNode part) := fun h => absurd rfl h

theorem walkEndComplete (part : Nat) : Statement (.walkEndComplete part) := fun h => absurd rfl h

theorem spawnChildCreate (op : Nat) : Statement (.spawnChildCreate op) := fun h => absurd rfl h

theorem copyStart (crew chan : Nat) : Statement (.copyStart crew chan) := fun h => absurd rfl h

theorem copyUnitLand (crew chan : Nat) (bad : List Nat) : Statement (.copyUnitLand crew chan bad) := fun h => absurd rfl h

theorem matrixStepStart (core : Nat) : Statement (.matrixStepStart core) := fun h => absurd rfl h

theorem collComplete (op : Nat) (peers : List (List Byte)) : Statement (.collComplete op peers) := fun h => absurd rfl h

theorem acqComplete (op : Nat) : Statement (.acqComplete op) := fun h => absurd rfl h

theorem relComplete (op : Nat) : Statement (.relComplete op) := fun h => absurd rfl h

theorem dbgHalt (fn : Nat) : Statement (.dbgHalt fn) := fun h => absurd rfl h

theorem dbgResume (fn : Nat) : Statement (.dbgResume fn) := fun h => absurd rfl h

theorem dbgStep (fn : Nat) : Statement (.dbgStep fn) := fun h => absurd rfl h

theorem dbgSplit (fn : Nat) : Statement (.dbgSplit fn) := fun h => absurd rfl h

theorem dbgSnapteam (fn : Nat) : Statement (.dbgSnapteam fn) := fun h => absurd rfl h

theorem dbgSnapcrew (fn : Nat) : Statement (.dbgSnapcrew fn) := fun h => absurd rfl h

theorem dbgPoke (fn : Nat) : Statement (.dbgPoke fn) := fun h => absurd rfl h

theorem registerWrite (fn bar off : Nat) (val : Word64) : Statement (.registerWrite fn bar off val) := fun h => absurd rfl h

theorem tailWordChange (fn q : Nat) (val : Word64) : Statement (.tailWordChange fn q val) := fun h => absurd rfl h

theorem peerWrite (space addr : Nat) (bytes : List Byte) : Statement (.peerWrite space addr bytes) := fun h => absurd rfl h

theorem illegalOp : Statement .illegalOp := fun h => absurd rfl h

theorem channelCopyDone (chan : Nat) : Statement (.channelCopyDone chan) := fun h => absurd rfl h

theorem accoutLastByteWritten (core : Nat) : Statement (.accoutLastByteWritten core) := fun h => absurd rfl h

end WordFits

end Sys2Proof.Laws
end

