-- ==== Sys2Proof/Laws/Tab.lean ====
section
/-! SUPPORT. Tables: reading what was written, and what a write leaves alone. -/

namespace Sys2Proof.Machine

open Sys2Proof

theorem Tab.find_set_same {α : Type} (t : Tab α) (n : Nat) (v : α) :
    Tab.find (Tab.set t n v) n = some v := by
  induction t with
  | nil => simp [Tab.set, Tab.find]
  | cons e t ih =>
    obtain ⟨k, w⟩ := e
    by_cases h : k = n <;> simp [Tab.set, Tab.find, h, ih]

theorem Tab.find_set_ne {α : Type} (t : Tab α) (n m : Nat) (v : α) (h : m ≠ n) :
    Tab.find (Tab.set t n v) m = Tab.find t m := by
  induction t with
  | nil => simp [Tab.set, Tab.find, Ne.symm h]
  | cons e t ih =>
    obtain ⟨k, w⟩ := e
    by_cases hk : k = n
    · subst hk; simp [Tab.set, Tab.find, Ne.symm h]
    · by_cases hm : k = m
      · subst hm; simp [Tab.set, Tab.find, hk]
      · simp [Tab.set, Tab.find, hk, hm, ih]

@[simp] theorem Tab.get_set_same {α : Type} (t : Tab α) (n : Nat) (v d : α) :
    Tab.get (Tab.set t n v) n d = v := by simp [Tab.get, Tab.find_set_same]

theorem Tab.get_set_ne {α : Type} (t : Tab α) (n m : Nat) (v d : α) (h : m ≠ n) :
    Tab.get (Tab.set t n v) m d = Tab.get t m d := by simp [Tab.get, Tab.find_set_ne _ _ _ _ h]

theorem Tab.get_of_find {α : Type} {t : Tab α} {n : Nat} {v : α} (d : α) (h : Tab.find t n = some v) :
    Tab.get t n d = v := by simp [Tab.get, h]

/-! ### Byte strings -/

@[simp] theorem length_leBytes (n v : Nat) : (leBytes n v).length = n := by
  induction n generalizing v with
  | zero => rfl
  | succ n ih => rw [leBytes, List.length_cons, ih]

/-- The bytes of a number give it back, modulo their range. -/
theorem leNat_leBytes (n v : Nat) : leNat (leBytes n v) = v % 256 ^ n := by
  induction n generalizing v with
  | zero => simp [leBytes, leNat, Nat.mod_one]
  | succ n ih =>
    rw [leBytes, leNat, ih, BitVec.toNat_ofNat, show 256 ^ (n + 1) = 256 * 256 ^ n from Nat.pow_succ', Nat.mod_mul]

/-! ### The parts of the state -/

@[simp] theorem team_setTeam (s : State) (n : Nat) (x : Team) : (s.setTeam n x).team n = x := by
  simp [State.team, State.setTeam]

@[simp] theorem crew_setCrew (s : State) (n : Nat) (x : Crew) : (s.setCrew n x).crew n = x := by
  simp [State.crew, State.setCrew]

@[simp] theorem task_setTask (s : State) (n : Nat) (x : Task) : (s.setTask n x).task n = x := by
  simp [State.task, State.setTask]

@[simp] theorem core_setCore (s : State) (n : Nat) (x : Core) : (s.setCore n x).core n = x := by
  simp [State.core, State.setCore]

@[simp] theorem part_setPart (s : State) (n : Nat) (x : Part) : (s.setPart n x).part n = x := by
  simp [State.part, State.setPart]

@[simp] theorem func_setFunc (s : State) (n : Nat) (x : Func) : (s.setFunc n x).func n = x := by
  simp [State.func, State.setFunc]

@[simp] theorem die_setDie (s : State) (n : Nat) (x : Die) : (s.setDie n x).die n = x := by
  simp [State.die, State.setDie]

theorem team_setTeam_ne (s : State) (n m : Nat) (x : Team) (h : m ≠ n) :
    (s.setTeam n x).team m = s.team m := by
  simp [State.team, State.setTeam, Tab.get_set_ne _ _ _ _ _ h]

theorem func_setFunc_ne (s : State) (n m : Nat) (x : Func) (h : m ≠ n) :
    (s.setFunc n x).func m = s.func m := by
  simp [State.func, State.setFunc, Tab.get_set_ne _ _ _ _ _ h]

theorem part_setPart_ne (s : State) (n m : Nat) (x : Part) (h : m ≠ n) :
    (s.setPart n x).part m = s.part m := by
  simp [State.part, State.setPart, Tab.get_set_ne _ _ _ _ _ h]

@[simp] theorem path_setPath (tm : Team) (p : Nat) (x : Path) : (tm.setPath p x).path p = x := by
  simp [Team.path, Team.setPath]

theorem path_setPath_ne (tm : Team) (p q : Nat) (x : Path) (h : q ≠ p) :
    (tm.setPath p x).path q = tm.path q := by
  simp [Team.path, Team.setPath, Tab.get_set_ne _ _ _ _ _ h]

end Sys2Proof.Machine
end

