-- ==== Sys2Proof/Laws/Slots.lean ====
section
/-! SUPPORT. The shared operations that every slot uses: how a slot answers, what raising a fault leaves in the issue,
when a control slot acts, and a write of memory. -/

namespace Sys2Proof.Machine

open Sys2Proof

/-! ### How a slot answers -/

/-- A context names the issue, its team and its path. -/
theorem ctxOf_some {s : State} {c : Ctx} (h : ctxOf s = some c) :
    ∃ i tm, s.issue = some i ∧ Tab.find s.teams i.team = some tm ∧ Tab.find tm.paths i.path = some c.pa ∧
      c.t = i.team ∧ c.p = i.path ∧ c.pc = i.pc ∧ c.cyc = s.now ∧ c.fr = s.free ∧ c.hdr = i.hdr := by
  cases hi : s.issue with
  | none => simp [ctxOf, hi] at h
  | some i =>
    cases htm : Tab.find s.teams i.team with
    | none => simp [ctxOf, hi, htm] at h
    | some tm =>
      cases hpa : Tab.find tm.paths i.path with
      | none => simp [ctxOf, hi, htm, hpa] at h
      | some pa =>
        simp only [ctxOf, hi, htm, hpa, Option.some.injEq] at h
        subst h
        exact ⟨i, tm, rfl, htm, hpa, rfl, rfl, rfl, rfl, rfl, rfl⟩

/-- A slot whose effect succeeds answers it. -/
theorem runSlot_ok {s t : State} {c : Ctx} {slot : Slot} {f : Ctx → Except FaultInfo State} (h : ctxOf s = some c)
    (hf : f c = .ok t) : runSlot s slot f = .next t := by simp [runSlot, h, hf]

/-- A slot that faults answers the state in which the fault has been raised. -/
theorem runSlot_error {s : State} {c : Ctx} {slot : Slot} {f : Ctx → Except FaultInfo State} {e : FaultInfo}
    (h : ctxOf s = some c) (hf : f c = .error e) : runSlot s slot f = .next (raise s c slot e) := by
  simp [runSlot, h, hf]

/-- These are all the answers of a slot of an issuing path. -/
theorem runSlot_cases {s t : State} {c : Ctx} {slot : Slot} {f : Ctx → Except FaultInfo State} (h : ctxOf s = some c)
    (ht : runSlot s slot f = .next t) : f c = .ok t ∨ ∃ e, f c = .error e ∧ t = raise s c slot e := by
  cases hf : f c with
  | ok u => rw [runSlot_ok h hf] at ht; cases ht; exact .inl rfl
  | error e => rw [runSlot_error h hf] at ht; cases ht; exact .inr ⟨e, rfl, rfl⟩

/-- A slot of an issuing path always goes on. -/
theorem runSlot_goes {s : State} {c : Ctx} (h : ctxOf s = some c) (slot : Slot) (f : Ctx → Except FaultInfo State) :
    Goes (runSlot s slot f) := by
  cases hf : f c with
  | ok u => exact ⟨u, runSlot_ok h hf⟩
  | error e => exact ⟨_, runSlot_error h hf⟩

/-- A control slot whose guard does not hold changes nothing (R445). -/
theorem runControl_idle {s : State} {c : Ctx} {f : Ctx → Except FaultInfo State} (h : ctxOf s = some c)
    (hg : c.controlGuard = false) : runControl s f = .next s := by simp [runControl, runSlot, h, hg]

/-- One whose guard holds answers as its effect does. -/
theorem runControl_acts {s : State} {c : Ctx} {f : Ctx → Except FaultInfo State} (h : ctxOf s = some c)
    (hg : c.controlGuard = true) : runControl s f = runSlot s .c f := by simp [runControl, runSlot, h, hg]

/-- A fault that is raised stands in the issue. -/
theorem raise_faults {s : State} {c : Ctx} (h : ctxOf s = some c) (slot : Slot) (g : FaultInfo) :
    ∃ j, (raise s c slot g).issue = some j ∧ j.faults ≠ [] := by
  obtain ⟨i, -, hi, -⟩ := ctxOf_some h
  unfold raise
  simp only [hi]
  split
  · exact ⟨_, rfl, by simp⟩
  · exact ⟨_, rfl, by simp⟩

/-- So a state without a raised fault is none in which a slot has faulted. -/
theorem ne_raise_of_noFault {s t : State} {c : Ctx} (h : ctxOf s = some c) (ht : NoFaultYet t) (slot : Slot)
    (g : FaultInfo) : t ≠ raise s c slot g := by
  intro e
  obtain ⟨j, hj, hne⟩ := raise_faults h slot g
  rw [← e] at hj
  simp only [NoFaultYet, hj, Option.map_some, Option.some.injEq] at ht
  exact hne ht

/-! ### A write of memory -/

/-- A write keeps the canonical form. -/
theorem memWrite_wf {s : State} (flat : Nat) (bs : List Byte) (h : Memory.wf s.mem) : Memory.wf (memWrite s flat bs).mem :=
  Memory.write_wf flat bs h

/-- It leaves every byte outside it as it was. -/
theorem memWrite_sameBytesBut {s : State} (flat : Nat) (bs : List Byte) (h : Memory.wf s.mem) :
    SameBytesBut s (memWrite s flat bs) flat bs.length := fun _ hx => Memory.read_write_ne h hx

/-- And each of its bytes reads as written. -/
theorem memWrite_read {s : State} (flat : Nat) (bs : List Byte) (h : Memory.wf s.mem) (i : Nat) (hi : i < bs.length) :
    Memory.read (memWrite s flat bs).mem (flat + i) = bs.getD i 0#8 := by
  simpa [memWrite, dropSignals] using Memory.read_write_same h flat bs i hi

/-- It changes no team, crew or task. -/
theorem memWrite_teams (s : State) (flat : Nat) (bs : List Byte) :
    (memWrite s flat bs).teams = s.teams ∧ (memWrite s flat bs).crews = s.crews ∧ (memWrite s flat bs).tasks = s.tasks :=
  ⟨rfl, rfl, rfl⟩

/-! ### Reflexivity and composition of frames -/

theorem SameBytes.rfl' (s : State) : SameBytes s s := fun _ => rfl

theorem SameBytes.trans {s t u : State} (h : SameBytes s t) (k : SameBytes t u) : SameBytes s u :=
  fun x => (k x).trans (h x)

theorem ValuesKept.rfl' (s : State) : ValuesKept s s := fun _ => ⟨rfl, rfl, rfl, rfl⟩

theorem ValuesKept.trans {s t u : State} (h : ValuesKept s t) (k : ValuesKept t u) : ValuesKept s u := fun x =>
  ⟨(k x).1.trans (h x).1, (k x).2.1.trans (h x).2.1, (k x).2.2.1.trans (h x).2.2.1, (k x).2.2.2.trans (h x).2.2.2⟩

end Sys2Proof.Machine
end

