-- ==== Sys2Proof/Laws/State.lean ====
section
/-! SUPPORT. One lemma per field of State and update: what each named update of the state leaves and
what it writes. All hold by unfolding the update once; no later proof unfolds it again. -/

namespace Sys2Proof.Machine

open Sys2Proof

/-! ### setTeam -/

@[simp] theorem setTeam_now (s : State) (n : Nat) (x : Team) : (s.setTeam n x).now = s.now := rfl
@[simp] theorem setTeam_free (s : State) (n : Nat) (x : Team) : (s.setTeam n x).free = s.free := rfl
@[simp] theorem setTeam_agenda (s : State) (n : Nat) (x : Team) : (s.setTeam n x).agenda = s.agenda := rfl
@[simp] theorem setTeam_issue (s : State) (n : Nat) (x : Team) : (s.setTeam n x).issue = s.issue := rfl
@[simp] theorem setTeam_nextId (s : State) (n : Nat) (x : Team) : (s.setTeam n x).nextId = s.nextId := rfl
@[simp] theorem setTeam_mem (s : State) (n : Nat) (x : Team) : (s.setTeam n x).mem = s.mem := rfl
@[simp] theorem setTeam_hostBad (s : State) (n : Nat) (x : Team) : (s.setTeam n x).hostBad = s.hostBad := rfl
@[simp] theorem setTeam_eccBad (s : State) (n : Nat) (x : Team) : (s.setTeam n x).eccBad = s.eccBad := rfl
@[simp] theorem setTeam_teams (s : State) (n : Nat) (x : Team) : (s.setTeam n x).teams = Tab.set s.teams n x := rfl
@[simp] theorem setTeam_crews (s : State) (n : Nat) (x : Team) : (s.setTeam n x).crews = s.crews := rfl
@[simp] theorem setTeam_tasks (s : State) (n : Nat) (x : Team) : (s.setTeam n x).tasks = s.tasks := rfl
@[simp] theorem setTeam_cohorts (s : State) (n : Nat) (x : Team) : (s.setTeam n x).cohorts = s.cohorts := rfl
@[simp] theorem setTeam_accesses (s : State) (n : Nat) (x : Team) : (s.setTeam n x).accesses = s.accesses := rfl
@[simp] theorem setTeam_ops (s : State) (n : Nat) (x : Team) : (s.setTeam n x).ops = s.ops := rfl
@[simp] theorem setTeam_opOrder (s : State) (n : Nat) (x : Team) : (s.setTeam n x).opOrder = s.opOrder := rfl
@[simp] theorem setTeam_collX (s : State) (n : Nat) (x : Team) : (s.setTeam n x).collX = s.collX := rfl
@[simp] theorem setTeam_past (s : State) (n : Nat) (x : Team) : (s.setTeam n x).past = s.past := rfl
@[simp] theorem setTeam_fulls (s : State) (n : Nat) (x : Team) : (s.setTeam n x).fulls = s.fulls := rfl
@[simp] theorem setTeam_pages (s : State) (n : Nat) (x : Team) : (s.setTeam n x).pages = s.pages := rfl
@[simp] theorem setTeam_pagePtr (s : State) (n : Nat) (x : Team) : (s.setTeam n x).pagePtr = s.pagePtr := rfl
@[simp] theorem setTeam_cores (s : State) (n : Nat) (x : Team) : (s.setTeam n x).cores = s.cores := rfl
@[simp] theorem setTeam_dies (s : State) (n : Nat) (x : Team) : (s.setTeam n x).dies = s.dies := rfl
@[simp] theorem setTeam_ports (s : State) (n : Nat) (x : Team) : (s.setTeam n x).ports = s.ports := rfl
@[simp] theorem setTeam_lpat (s : State) (n : Nat) (x : Team) : (s.setTeam n x).lpat = s.lpat := rfl
@[simp] theorem setTeam_lpatLive (s : State) (n : Nat) (x : Team) : (s.setTeam n x).lpatLive = s.lpatLive := rfl
@[simp] theorem setTeam_lpLenM1 (s : State) (n : Nat) (x : Team) : (s.setTeam n x).lpLenM1 = s.lpLenM1 := rfl
@[simp] theorem setTeam_lpLenLive (s : State) (n : Nat) (x : Team) : (s.setTeam n x).lpLenLive = s.lpLenLive := rfl
@[simp] theorem setTeam_parts (s : State) (n : Nat) (x : Team) : (s.setTeam n x).parts = s.parts := rfl
@[simp] theorem setTeam_funcs (s : State) (n : Nat) (x : Team) : (s.setTeam n x).funcs = s.funcs := rfl
@[simp] theorem setTeam_linkDeg (s : State) (n : Nat) (x : Team) : (s.setTeam n x).linkDeg = s.linkDeg := rfl
@[simp] theorem setTeam_recovery (s : State) (n : Nat) (x : Team) : (s.setTeam n x).recovery = s.recovery := rfl
@[simp] theorem setTeam_thermal (s : State) (n : Nat) (x : Team) : (s.setTeam n x).thermal = s.thermal := rfl
@[simp] theorem setTeam_repair (s : State) (n : Nat) (x : Team) : (s.setTeam n x).repair = s.repair := rfl
@[simp] theorem setTeam_reduced (s : State) (n : Nat) (x : Team) : (s.setTeam n x).reduced = s.reduced := rfl
@[simp] theorem setTeam_stSrc (s : State) (n : Nat) (x : Team) : (s.setTeam n x).stSrc = s.stSrc := rfl
@[simp] theorem setTeam_stLen (s : State) (n : Nat) (x : Team) : (s.setTeam n x).stLen = s.stLen := rfl
@[simp] theorem setTeam_stAddr (s : State) (n : Nat) (x : Team) : (s.setTeam n x).stAddr = s.stAddr := rfl
@[simp] theorem setTeam_stData (s : State) (n : Nat) (x : Team) : (s.setTeam n x).stData = s.stData := rfl
@[simp] theorem setTeam_stCmd (s : State) (n : Nat) (x : Team) : (s.setTeam n x).stCmd = s.stCmd := rfl
@[simp] theorem setTeam_stResult (s : State) (n : Nat) (x : Team) : (s.setTeam n x).stResult = s.stResult := rfl
@[simp] theorem setTeam_fwImage (s : State) (n : Nat) (x : Team) : (s.setTeam n x).fwImage = s.fwImage := rfl
@[simp] theorem setTeam_wqBase (s : State) (n : Nat) (x : Team) : (s.setTeam n x).wqBase = s.wqBase := rfl
@[simp] theorem setTeam_wqEn (s : State) (n : Nat) (x : Team) : (s.setTeam n x).wqEn = s.wqEn := rfl
@[simp] theorem setTeam_wqLogsz (s : State) (n : Nat) (x : Team) : (s.setTeam n x).wqLogsz = s.wqLogsz := rfl
@[simp] theorem setTeam_wqTail (s : State) (n : Nat) (x : Team) : (s.setTeam n x).wqTail = s.wqTail := rfl
@[simp] theorem setTeam_wqHead (s : State) (n : Nat) (x : Team) : (s.setTeam n x).wqHead = s.wqHead := rfl
@[simp] theorem setTeam_pfCtxb (s : State) (n : Nat) (x : Team) : (s.setTeam n x).pfCtxb = s.pfCtxb := rfl
@[simp] theorem setTeam_pfCodeb (s : State) (n : Nat) (x : Team) : (s.setTeam n x).pfCodeb = s.pfCodeb := rfl
@[simp] theorem setTeam_repairs (s : State) (n : Nat) (x : Team) : (s.setTeam n x).repairs = s.repairs := rfl
@[simp] theorem setTeam_stops (s : State) (n : Nat) (x : Team) : (s.setTeam n x).stops = s.stops := rfl
@[simp] theorem setTeam_transients (s : State) (n : Nat) (x : Team) : (s.setTeam n x).transients = s.transients := rfl
@[simp] theorem setTeam_rowsUsed (s : State) (n : Nat) (x : Team) : (s.setTeam n x).rowsUsed = s.rowsUsed := rfl
@[simp] theorem setTeam_chanCopy (s : State) (n : Nat) (x : Team) : (s.setTeam n x).chanCopy = s.chanCopy := rfl
@[simp] theorem setTeam_chanHeld (s : State) (n : Nat) (x : Team) : (s.setTeam n x).chanHeld = s.chanHeld := rfl
@[simp] theorem setTeam_chanRetired (s : State) (n : Nat) (x : Team) : (s.setTeam n x).chanRetired = s.chanRetired := rfl
@[simp] theorem setTeam_reserveUsed (s : State) (n : Nat) (x : Team) : (s.setTeam n x).reserveUsed = s.reserveUsed := rfl
@[simp] theorem setTeam_releaseAsked (s : State) (n : Nat) (x : Team) : (s.setTeam n x).releaseAsked = s.releaseAsked := rfl
@[simp] theorem setTeam_waysRetired (s : State) (n : Nat) (x : Team) : (s.setTeam n x).waysRetired = s.waysRetired := rfl
@[simp] theorem setTeam_vacant (s : State) (n : Nat) (x : Team) : (s.setTeam n x).vacant = s.vacant := rfl
@[simp] theorem setTeam_irqs (s : State) (n : Nat) (x : Team) : (s.setTeam n x).irqs = s.irqs := rfl
@[simp] theorem setTeam_sent (s : State) (n : Nat) (x : Team) : (s.setTeam n x).sent = s.sent := rfl

/-! ### setCrew -/

@[simp] theorem setCrew_now (s : State) (n : Nat) (x : Crew) : (s.setCrew n x).now = s.now := rfl
@[simp] theorem setCrew_free (s : State) (n : Nat) (x : Crew) : (s.setCrew n x).free = s.free := rfl
@[simp] theorem setCrew_agenda (s : State) (n : Nat) (x : Crew) : (s.setCrew n x).agenda = s.agenda := rfl
@[simp] theorem setCrew_issue (s : State) (n : Nat) (x : Crew) : (s.setCrew n x).issue = s.issue := rfl
@[simp] theorem setCrew_nextId (s : State) (n : Nat) (x : Crew) : (s.setCrew n x).nextId = s.nextId := rfl
@[simp] theorem setCrew_mem (s : State) (n : Nat) (x : Crew) : (s.setCrew n x).mem = s.mem := rfl
@[simp] theorem setCrew_hostBad (s : State) (n : Nat) (x : Crew) : (s.setCrew n x).hostBad = s.hostBad := rfl
@[simp] theorem setCrew_eccBad (s : State) (n : Nat) (x : Crew) : (s.setCrew n x).eccBad = s.eccBad := rfl
@[simp] theorem setCrew_teams (s : State) (n : Nat) (x : Crew) : (s.setCrew n x).teams = s.teams := rfl
@[simp] theorem setCrew_crews (s : State) (n : Nat) (x : Crew) : (s.setCrew n x).crews = Tab.set s.crews n x := rfl
@[simp] theorem setCrew_tasks (s : State) (n : Nat) (x : Crew) : (s.setCrew n x).tasks = s.tasks := rfl
@[simp] theorem setCrew_cohorts (s : State) (n : Nat) (x : Crew) : (s.setCrew n x).cohorts = s.cohorts := rfl
@[simp] theorem setCrew_accesses (s : State) (n : Nat) (x : Crew) : (s.setCrew n x).accesses = s.accesses := rfl
@[simp] theorem setCrew_ops (s : State) (n : Nat) (x : Crew) : (s.setCrew n x).ops = s.ops := rfl
@[simp] theorem setCrew_opOrder (s : State) (n : Nat) (x : Crew) : (s.setCrew n x).opOrder = s.opOrder := rfl
@[simp] theorem setCrew_collX (s : State) (n : Nat) (x : Crew) : (s.setCrew n x).collX = s.collX := rfl
@[simp] theorem setCrew_past (s : State) (n : Nat) (x : Crew) : (s.setCrew n x).past = s.past := rfl
@[simp] theorem setCrew_fulls (s : State) (n : Nat) (x : Crew) : (s.setCrew n x).fulls = s.fulls := rfl
@[simp] theorem setCrew_pages (s : State) (n : Nat) (x : Crew) : (s.setCrew n x).pages = s.pages := rfl
@[simp] theorem setCrew_pagePtr (s : State) (n : Nat) (x : Crew) : (s.setCrew n x).pagePtr = s.pagePtr := rfl
@[simp] theorem setCrew_cores (s : State) (n : Nat) (x : Crew) : (s.setCrew n x).cores = s.cores := rfl
@[simp] theorem setCrew_dies (s : State) (n : Nat) (x : Crew) : (s.setCrew n x).dies = s.dies := rfl
@[simp] theorem setCrew_ports (s : State) (n : Nat) (x : Crew) : (s.setCrew n x).ports = s.ports := rfl
@[simp] theorem setCrew_lpat (s : State) (n : Nat) (x : Crew) : (s.setCrew n x).lpat = s.lpat := rfl
@[simp] theorem setCrew_lpatLive (s : State) (n : Nat) (x : Crew) : (s.setCrew n x).lpatLive = s.lpatLive := rfl
@[simp] theorem setCrew_lpLenM1 (s : State) (n : Nat) (x : Crew) : (s.setCrew n x).lpLenM1 = s.lpLenM1 := rfl
@[simp] theorem setCrew_lpLenLive (s : State) (n : Nat) (x : Crew) : (s.setCrew n x).lpLenLive = s.lpLenLive := rfl
@[simp] theorem setCrew_parts (s : State) (n : Nat) (x : Crew) : (s.setCrew n x).parts = s.parts := rfl
@[simp] theorem setCrew_funcs (s : State) (n : Nat) (x : Crew) : (s.setCrew n x).funcs = s.funcs := rfl
@[simp] theorem setCrew_linkDeg (s : State) (n : Nat) (x : Crew) : (s.setCrew n x).linkDeg = s.linkDeg := rfl
@[simp] theorem setCrew_recovery (s : State) (n : Nat) (x : Crew) : (s.setCrew n x).recovery = s.recovery := rfl
@[simp] theorem setCrew_thermal (s : State) (n : Nat) (x : Crew) : (s.setCrew n x).thermal = s.thermal := rfl
@[simp] theorem setCrew_repair (s : State) (n : Nat) (x : Crew) : (s.setCrew n x).repair = s.repair := rfl
@[simp] theorem setCrew_reduced (s : State) (n : Nat) (x : Crew) : (s.setCrew n x).reduced = s.reduced := rfl
@[simp] theorem setCrew_stSrc (s : State) (n : Nat) (x : Crew) : (s.setCrew n x).stSrc = s.stSrc := rfl
@[simp] theorem setCrew_stLen (s : State) (n : Nat) (x : Crew) : (s.setCrew n x).stLen = s.stLen := rfl
@[simp] theorem setCrew_stAddr (s : State) (n : Nat) (x : Crew) : (s.setCrew n x).stAddr = s.stAddr := rfl
@[simp] theorem setCrew_stData (s : State) (n : Nat) (x : Crew) : (s.setCrew n x).stData = s.stData := rfl
@[simp] theorem setCrew_stCmd (s : State) (n : Nat) (x : Crew) : (s.setCrew n x).stCmd = s.stCmd := rfl
@[simp] theorem setCrew_stResult (s : State) (n : Nat) (x : Crew) : (s.setCrew n x).stResult = s.stResult := rfl
@[simp] theorem setCrew_fwImage (s : State) (n : Nat) (x : Crew) : (s.setCrew n x).fwImage = s.fwImage := rfl
@[simp] theorem setCrew_wqBase (s : State) (n : Nat) (x : Crew) : (s.setCrew n x).wqBase = s.wqBase := rfl
@[simp] theorem setCrew_wqEn (s : State) (n : Nat) (x : Crew) : (s.setCrew n x).wqEn = s.wqEn := rfl
@[simp] theorem setCrew_wqLogsz (s : State) (n : Nat) (x : Crew) : (s.setCrew n x).wqLogsz = s.wqLogsz := rfl
@[simp] theorem setCrew_wqTail (s : State) (n : Nat) (x : Crew) : (s.setCrew n x).wqTail = s.wqTail := rfl
@[simp] theorem setCrew_wqHead (s : State) (n : Nat) (x : Crew) : (s.setCrew n x).wqHead = s.wqHead := rfl
@[simp] theorem setCrew_pfCtxb (s : State) (n : Nat) (x : Crew) : (s.setCrew n x).pfCtxb = s.pfCtxb := rfl
@[simp] theorem setCrew_pfCodeb (s : State) (n : Nat) (x : Crew) : (s.setCrew n x).pfCodeb = s.pfCodeb := rfl
@[simp] theorem setCrew_repairs (s : State) (n : Nat) (x : Crew) : (s.setCrew n x).repairs = s.repairs := rfl
@[simp] theorem setCrew_stops (s : State) (n : Nat) (x : Crew) : (s.setCrew n x).stops = s.stops := rfl
@[simp] theorem setCrew_transients (s : State) (n : Nat) (x : Crew) : (s.setCrew n x).transients = s.transients := rfl
@[simp] theorem setCrew_rowsUsed (s : State) (n : Nat) (x : Crew) : (s.setCrew n x).rowsUsed = s.rowsUsed := rfl
@[simp] theorem setCrew_chanCopy (s : State) (n : Nat) (x : Crew) : (s.setCrew n x).chanCopy = s.chanCopy := rfl
@[simp] theorem setCrew_chanHeld (s : State) (n : Nat) (x : Crew) : (s.setCrew n x).chanHeld = s.chanHeld := rfl
@[simp] theorem setCrew_chanRetired (s : State) (n : Nat) (x : Crew) : (s.setCrew n x).chanRetired = s.chanRetired := rfl
@[simp] theorem setCrew_reserveUsed (s : State) (n : Nat) (x : Crew) : (s.setCrew n x).reserveUsed = s.reserveUsed := rfl
@[simp] theorem setCrew_releaseAsked (s : State) (n : Nat) (x : Crew) : (s.setCrew n x).releaseAsked = s.releaseAsked := rfl
@[simp] theorem setCrew_waysRetired (s : State) (n : Nat) (x : Crew) : (s.setCrew n x).waysRetired = s.waysRetired := rfl
@[simp] theorem setCrew_vacant (s : State) (n : Nat) (x : Crew) : (s.setCrew n x).vacant = s.vacant := rfl
@[simp] theorem setCrew_irqs (s : State) (n : Nat) (x : Crew) : (s.setCrew n x).irqs = s.irqs := rfl
@[simp] theorem setCrew_sent (s : State) (n : Nat) (x : Crew) : (s.setCrew n x).sent = s.sent := rfl

/-! ### setTask -/

@[simp] theorem setTask_now (s : State) (n : Nat) (x : Task) : (s.setTask n x).now = s.now := rfl
@[simp] theorem setTask_free (s : State) (n : Nat) (x : Task) : (s.setTask n x).free = s.free := rfl
@[simp] theorem setTask_agenda (s : State) (n : Nat) (x : Task) : (s.setTask n x).agenda = s.agenda := rfl
@[simp] theorem setTask_issue (s : State) (n : Nat) (x : Task) : (s.setTask n x).issue = s.issue := rfl
@[simp] theorem setTask_nextId (s : State) (n : Nat) (x : Task) : (s.setTask n x).nextId = s.nextId := rfl
@[simp] theorem setTask_mem (s : State) (n : Nat) (x : Task) : (s.setTask n x).mem = s.mem := rfl
@[simp] theorem setTask_hostBad (s : State) (n : Nat) (x : Task) : (s.setTask n x).hostBad = s.hostBad := rfl
@[simp] theorem setTask_eccBad (s : State) (n : Nat) (x : Task) : (s.setTask n x).eccBad = s.eccBad := rfl
@[simp] theorem setTask_teams (s : State) (n : Nat) (x : Task) : (s.setTask n x).teams = s.teams := rfl
@[simp] theorem setTask_crews (s : State) (n : Nat) (x : Task) : (s.setTask n x).crews = s.crews := rfl
@[simp] theorem setTask_tasks (s : State) (n : Nat) (x : Task) : (s.setTask n x).tasks = Tab.set s.tasks n x := rfl
@[simp] theorem setTask_cohorts (s : State) (n : Nat) (x : Task) : (s.setTask n x).cohorts = s.cohorts := rfl
@[simp] theorem setTask_accesses (s : State) (n : Nat) (x : Task) : (s.setTask n x).accesses = s.accesses := rfl
@[simp] theorem setTask_ops (s : State) (n : Nat) (x : Task) : (s.setTask n x).ops = s.ops := rfl
@[simp] theorem setTask_opOrder (s : State) (n : Nat) (x : Task) : (s.setTask n x).opOrder = s.opOrder := rfl
@[simp] theorem setTask_collX (s : State) (n : Nat) (x : Task) : (s.setTask n x).collX = s.collX := rfl
@[simp] theorem setTask_past (s : State) (n : Nat) (x : Task) : (s.setTask n x).past = s.past := rfl
@[simp] theorem setTask_fulls (s : State) (n : Nat) (x : Task) : (s.setTask n x).fulls = s.fulls := rfl
@[simp] theorem setTask_pages (s : State) (n : Nat) (x : Task) : (s.setTask n x).pages = s.pages := rfl
@[simp] theorem setTask_pagePtr (s : State) (n : Nat) (x : Task) : (s.setTask n x).pagePtr = s.pagePtr := rfl
@[simp] theorem setTask_cores (s : State) (n : Nat) (x : Task) : (s.setTask n x).cores = s.cores := rfl
@[simp] theorem setTask_dies (s : State) (n : Nat) (x : Task) : (s.setTask n x).dies = s.dies := rfl
@[simp] theorem setTask_ports (s : State) (n : Nat) (x : Task) : (s.setTask n x).ports = s.ports := rfl
@[simp] theorem setTask_lpat (s : State) (n : Nat) (x : Task) : (s.setTask n x).lpat = s.lpat := rfl
@[simp] theorem setTask_lpatLive (s : State) (n : Nat) (x : Task) : (s.setTask n x).lpatLive = s.lpatLive := rfl
@[simp] theorem setTask_lpLenM1 (s : State) (n : Nat) (x : Task) : (s.setTask n x).lpLenM1 = s.lpLenM1 := rfl
@[simp] theorem setTask_lpLenLive (s : State) (n : Nat) (x : Task) : (s.setTask n x).lpLenLive = s.lpLenLive := rfl
@[simp] theorem setTask_parts (s : State) (n : Nat) (x : Task) : (s.setTask n x).parts = s.parts := rfl
@[simp] theorem setTask_funcs (s : State) (n : Nat) (x : Task) : (s.setTask n x).funcs = s.funcs := rfl
@[simp] theorem setTask_linkDeg (s : State) (n : Nat) (x : Task) : (s.setTask n x).linkDeg = s.linkDeg := rfl
@[simp] theorem setTask_recovery (s : State) (n : Nat) (x : Task) : (s.setTask n x).recovery = s.recovery := rfl
@[simp] theorem setTask_thermal (s : State) (n : Nat) (x : Task) : (s.setTask n x).thermal = s.thermal := rfl
@[simp] theorem setTask_repair (s : State) (n : Nat) (x : Task) : (s.setTask n x).repair = s.repair := rfl
@[simp] theorem setTask_reduced (s : State) (n : Nat) (x : Task) : (s.setTask n x).reduced = s.reduced := rfl
@[simp] theorem setTask_stSrc (s : State) (n : Nat) (x : Task) : (s.setTask n x).stSrc = s.stSrc := rfl
@[simp] theorem setTask_stLen (s : State) (n : Nat) (x : Task) : (s.setTask n x).stLen = s.stLen := rfl
@[simp] theorem setTask_stAddr (s : State) (n : Nat) (x : Task) : (s.setTask n x).stAddr = s.stAddr := rfl
@[simp] theorem setTask_stData (s : State) (n : Nat) (x : Task) : (s.setTask n x).stData = s.stData := rfl
@[simp] theorem setTask_stCmd (s : State) (n : Nat) (x : Task) : (s.setTask n x).stCmd = s.stCmd := rfl
@[simp] theorem setTask_stResult (s : State) (n : Nat) (x : Task) : (s.setTask n x).stResult = s.stResult := rfl
@[simp] theorem setTask_fwImage (s : State) (n : Nat) (x : Task) : (s.setTask n x).fwImage = s.fwImage := rfl
@[simp] theorem setTask_wqBase (s : State) (n : Nat) (x : Task) : (s.setTask n x).wqBase = s.wqBase := rfl
@[simp] theorem setTask_wqEn (s : State) (n : Nat) (x : Task) : (s.setTask n x).wqEn = s.wqEn := rfl
@[simp] theorem setTask_wqLogsz (s : State) (n : Nat) (x : Task) : (s.setTask n x).wqLogsz = s.wqLogsz := rfl
@[simp] theorem setTask_wqTail (s : State) (n : Nat) (x : Task) : (s.setTask n x).wqTail = s.wqTail := rfl
@[simp] theorem setTask_wqHead (s : State) (n : Nat) (x : Task) : (s.setTask n x).wqHead = s.wqHead := rfl
@[simp] theorem setTask_pfCtxb (s : State) (n : Nat) (x : Task) : (s.setTask n x).pfCtxb = s.pfCtxb := rfl
@[simp] theorem setTask_pfCodeb (s : State) (n : Nat) (x : Task) : (s.setTask n x).pfCodeb = s.pfCodeb := rfl
@[simp] theorem setTask_repairs (s : State) (n : Nat) (x : Task) : (s.setTask n x).repairs = s.repairs := rfl
@[simp] theorem setTask_stops (s : State) (n : Nat) (x : Task) : (s.setTask n x).stops = s.stops := rfl
@[simp] theorem setTask_transients (s : State) (n : Nat) (x : Task) : (s.setTask n x).transients = s.transients := rfl
@[simp] theorem setTask_rowsUsed (s : State) (n : Nat) (x : Task) : (s.setTask n x).rowsUsed = s.rowsUsed := rfl
@[simp] theorem setTask_chanCopy (s : State) (n : Nat) (x : Task) : (s.setTask n x).chanCopy = s.chanCopy := rfl
@[simp] theorem setTask_chanHeld (s : State) (n : Nat) (x : Task) : (s.setTask n x).chanHeld = s.chanHeld := rfl
@[simp] theorem setTask_chanRetired (s : State) (n : Nat) (x : Task) : (s.setTask n x).chanRetired = s.chanRetired := rfl
@[simp] theorem setTask_reserveUsed (s : State) (n : Nat) (x : Task) : (s.setTask n x).reserveUsed = s.reserveUsed := rfl
@[simp] theorem setTask_releaseAsked (s : State) (n : Nat) (x : Task) : (s.setTask n x).releaseAsked = s.releaseAsked := rfl
@[simp] theorem setTask_waysRetired (s : State) (n : Nat) (x : Task) : (s.setTask n x).waysRetired = s.waysRetired := rfl
@[simp] theorem setTask_vacant (s : State) (n : Nat) (x : Task) : (s.setTask n x).vacant = s.vacant := rfl
@[simp] theorem setTask_irqs (s : State) (n : Nat) (x : Task) : (s.setTask n x).irqs = s.irqs := rfl
@[simp] theorem setTask_sent (s : State) (n : Nat) (x : Task) : (s.setTask n x).sent = s.sent := rfl

/-! ### setCore -/

@[simp] theorem setCore_now (s : State) (n : Nat) (x : Core) : (s.setCore n x).now = s.now := rfl
@[simp] theorem setCore_free (s : State) (n : Nat) (x : Core) : (s.setCore n x).free = s.free := rfl
@[simp] theorem setCore_agenda (s : State) (n : Nat) (x : Core) : (s.setCore n x).agenda = s.agenda := rfl
@[simp] theorem setCore_issue (s : State) (n : Nat) (x : Core) : (s.setCore n x).issue = s.issue := rfl
@[simp] theorem setCore_nextId (s : State) (n : Nat) (x : Core) : (s.setCore n x).nextId = s.nextId := rfl
@[simp] theorem setCore_mem (s : State) (n : Nat) (x : Core) : (s.setCore n x).mem = s.mem := rfl
@[simp] theorem setCore_hostBad (s : State) (n : Nat) (x : Core) : (s.setCore n x).hostBad = s.hostBad := rfl
@[simp] theorem setCore_eccBad (s : State) (n : Nat) (x : Core) : (s.setCore n x).eccBad = s.eccBad := rfl
@[simp] theorem setCore_teams (s : State) (n : Nat) (x : Core) : (s.setCore n x).teams = s.teams := rfl
@[simp] theorem setCore_crews (s : State) (n : Nat) (x : Core) : (s.setCore n x).crews = s.crews := rfl
@[simp] theorem setCore_tasks (s : State) (n : Nat) (x : Core) : (s.setCore n x).tasks = s.tasks := rfl
@[simp] theorem setCore_cohorts (s : State) (n : Nat) (x : Core) : (s.setCore n x).cohorts = s.cohorts := rfl
@[simp] theorem setCore_accesses (s : State) (n : Nat) (x : Core) : (s.setCore n x).accesses = s.accesses := rfl
@[simp] theorem setCore_ops (s : State) (n : Nat) (x : Core) : (s.setCore n x).ops = s.ops := rfl
@[simp] theorem setCore_opOrder (s : State) (n : Nat) (x : Core) : (s.setCore n x).opOrder = s.opOrder := rfl
@[simp] theorem setCore_collX (s : State) (n : Nat) (x : Core) : (s.setCore n x).collX = s.collX := rfl
@[simp] theorem setCore_past (s : State) (n : Nat) (x : Core) : (s.setCore n x).past = s.past := rfl
@[simp] theorem setCore_fulls (s : State) (n : Nat) (x : Core) : (s.setCore n x).fulls = s.fulls := rfl
@[simp] theorem setCore_pages (s : State) (n : Nat) (x : Core) : (s.setCore n x).pages = s.pages := rfl
@[simp] theorem setCore_pagePtr (s : State) (n : Nat) (x : Core) : (s.setCore n x).pagePtr = s.pagePtr := rfl
@[simp] theorem setCore_cores (s : State) (n : Nat) (x : Core) : (s.setCore n x).cores = Tab.set s.cores n x := rfl
@[simp] theorem setCore_dies (s : State) (n : Nat) (x : Core) : (s.setCore n x).dies = s.dies := rfl
@[simp] theorem setCore_ports (s : State) (n : Nat) (x : Core) : (s.setCore n x).ports = s.ports := rfl
@[simp] theorem setCore_lpat (s : State) (n : Nat) (x : Core) : (s.setCore n x).lpat = s.lpat := rfl
@[simp] theorem setCore_lpatLive (s : State) (n : Nat) (x : Core) : (s.setCore n x).lpatLive = s.lpatLive := rfl
@[simp] theorem setCore_lpLenM1 (s : State) (n : Nat) (x : Core) : (s.setCore n x).lpLenM1 = s.lpLenM1 := rfl
@[simp] theorem setCore_lpLenLive (s : State) (n : Nat) (x : Core) : (s.setCore n x).lpLenLive = s.lpLenLive := rfl
@[simp] theorem setCore_parts (s : State) (n : Nat) (x : Core) : (s.setCore n x).parts = s.parts := rfl
@[simp] theorem setCore_funcs (s : State) (n : Nat) (x : Core) : (s.setCore n x).funcs = s.funcs := rfl
@[simp] theorem setCore_linkDeg (s : State) (n : Nat) (x : Core) : (s.setCore n x).linkDeg = s.linkDeg := rfl
@[simp] theorem setCore_recovery (s : State) (n : Nat) (x : Core) : (s.setCore n x).recovery = s.recovery := rfl
@[simp] theorem setCore_thermal (s : State) (n : Nat) (x : Core) : (s.setCore n x).thermal = s.thermal := rfl
@[simp] theorem setCore_repair (s : State) (n : Nat) (x : Core) : (s.setCore n x).repair = s.repair := rfl
@[simp] theorem setCore_reduced (s : State) (n : Nat) (x : Core) : (s.setCore n x).reduced = s.reduced := rfl
@[simp] theorem setCore_stSrc (s : State) (n : Nat) (x : Core) : (s.setCore n x).stSrc = s.stSrc := rfl
@[simp] theorem setCore_stLen (s : State) (n : Nat) (x : Core) : (s.setCore n x).stLen = s.stLen := rfl
@[simp] theorem setCore_stAddr (s : State) (n : Nat) (x : Core) : (s.setCore n x).stAddr = s.stAddr := rfl
@[simp] theorem setCore_stData (s : State) (n : Nat) (x : Core) : (s.setCore n x).stData = s.stData := rfl
@[simp] theorem setCore_stCmd (s : State) (n : Nat) (x : Core) : (s.setCore n x).stCmd = s.stCmd := rfl
@[simp] theorem setCore_stResult (s : State) (n : Nat) (x : Core) : (s.setCore n x).stResult = s.stResult := rfl
@[simp] theorem setCore_fwImage (s : State) (n : Nat) (x : Core) : (s.setCore n x).fwImage = s.fwImage := rfl
@[simp] theorem setCore_wqBase (s : State) (n : Nat) (x : Core) : (s.setCore n x).wqBase = s.wqBase := rfl
@[simp] theorem setCore_wqEn (s : State) (n : Nat) (x : Core) : (s.setCore n x).wqEn = s.wqEn := rfl
@[simp] theorem setCore_wqLogsz (s : State) (n : Nat) (x : Core) : (s.setCore n x).wqLogsz = s.wqLogsz := rfl
@[simp] theorem setCore_wqTail (s : State) (n : Nat) (x : Core) : (s.setCore n x).wqTail = s.wqTail := rfl
@[simp] theorem setCore_wqHead (s : State) (n : Nat) (x : Core) : (s.setCore n x).wqHead = s.wqHead := rfl
@[simp] theorem setCore_pfCtxb (s : State) (n : Nat) (x : Core) : (s.setCore n x).pfCtxb = s.pfCtxb := rfl
@[simp] theorem setCore_pfCodeb (s : State) (n : Nat) (x : Core) : (s.setCore n x).pfCodeb = s.pfCodeb := rfl
@[simp] theorem setCore_repairs (s : State) (n : Nat) (x : Core) : (s.setCore n x).repairs = s.repairs := rfl
@[simp] theorem setCore_stops (s : State) (n : Nat) (x : Core) : (s.setCore n x).stops = s.stops := rfl
@[simp] theorem setCore_transients (s : State) (n : Nat) (x : Core) : (s.setCore n x).transients = s.transients := rfl
@[simp] theorem setCore_rowsUsed (s : State) (n : Nat) (x : Core) : (s.setCore n x).rowsUsed = s.rowsUsed := rfl
@[simp] theorem setCore_chanCopy (s : State) (n : Nat) (x : Core) : (s.setCore n x).chanCopy = s.chanCopy := rfl
@[simp] theorem setCore_chanHeld (s : State) (n : Nat) (x : Core) : (s.setCore n x).chanHeld = s.chanHeld := rfl
@[simp] theorem setCore_chanRetired (s : State) (n : Nat) (x : Core) : (s.setCore n x).chanRetired = s.chanRetired := rfl
@[simp] theorem setCore_reserveUsed (s : State) (n : Nat) (x : Core) : (s.setCore n x).reserveUsed = s.reserveUsed := rfl
@[simp] theorem setCore_releaseAsked (s : State) (n : Nat) (x : Core) : (s.setCore n x).releaseAsked = s.releaseAsked := rfl
@[simp] theorem setCore_waysRetired (s : State) (n : Nat) (x : Core) : (s.setCore n x).waysRetired = s.waysRetired := rfl
@[simp] theorem setCore_vacant (s : State) (n : Nat) (x : Core) : (s.setCore n x).vacant = s.vacant := rfl
@[simp] theorem setCore_irqs (s : State) (n : Nat) (x : Core) : (s.setCore n x).irqs = s.irqs := rfl
@[simp] theorem setCore_sent (s : State) (n : Nat) (x : Core) : (s.setCore n x).sent = s.sent := rfl

/-! ### setDie -/

@[simp] theorem setDie_now (s : State) (n : Nat) (x : Die) : (s.setDie n x).now = s.now := rfl
@[simp] theorem setDie_free (s : State) (n : Nat) (x : Die) : (s.setDie n x).free = s.free := rfl
@[simp] theorem setDie_agenda (s : State) (n : Nat) (x : Die) : (s.setDie n x).agenda = s.agenda := rfl
@[simp] theorem setDie_issue (s : State) (n : Nat) (x : Die) : (s.setDie n x).issue = s.issue := rfl
@[simp] theorem setDie_nextId (s : State) (n : Nat) (x : Die) : (s.setDie n x).nextId = s.nextId := rfl
@[simp] theorem setDie_mem (s : State) (n : Nat) (x : Die) : (s.setDie n x).mem = s.mem := rfl
@[simp] theorem setDie_hostBad (s : State) (n : Nat) (x : Die) : (s.setDie n x).hostBad = s.hostBad := rfl
@[simp] theorem setDie_eccBad (s : State) (n : Nat) (x : Die) : (s.setDie n x).eccBad = s.eccBad := rfl
@[simp] theorem setDie_teams (s : State) (n : Nat) (x : Die) : (s.setDie n x).teams = s.teams := rfl
@[simp] theorem setDie_crews (s : State) (n : Nat) (x : Die) : (s.setDie n x).crews = s.crews := rfl
@[simp] theorem setDie_tasks (s : State) (n : Nat) (x : Die) : (s.setDie n x).tasks = s.tasks := rfl
@[simp] theorem setDie_cohorts (s : State) (n : Nat) (x : Die) : (s.setDie n x).cohorts = s.cohorts := rfl
@[simp] theorem setDie_accesses (s : State) (n : Nat) (x : Die) : (s.setDie n x).accesses = s.accesses := rfl
@[simp] theorem setDie_ops (s : State) (n : Nat) (x : Die) : (s.setDie n x).ops = s.ops := rfl
@[simp] theorem setDie_opOrder (s : State) (n : Nat) (x : Die) : (s.setDie n x).opOrder = s.opOrder := rfl
@[simp] theorem setDie_collX (s : State) (n : Nat) (x : Die) : (s.setDie n x).collX = s.collX := rfl
@[simp] theorem setDie_past (s : State) (n : Nat) (x : Die) : (s.setDie n x).past = s.past := rfl
@[simp] theorem setDie_fulls (s : State) (n : Nat) (x : Die) : (s.setDie n x).fulls = s.fulls := rfl
@[simp] theorem setDie_pages (s : State) (n : Nat) (x : Die) : (s.setDie n x).pages = s.pages := rfl
@[simp] theorem setDie_pagePtr (s : State) (n : Nat) (x : Die) : (s.setDie n x).pagePtr = s.pagePtr := rfl
@[simp] theorem setDie_cores (s : State) (n : Nat) (x : Die) : (s.setDie n x).cores = s.cores := rfl
@[simp] theorem setDie_dies (s : State) (n : Nat) (x : Die) : (s.setDie n x).dies = Tab.set s.dies n x := rfl
@[simp] theorem setDie_ports (s : State) (n : Nat) (x : Die) : (s.setDie n x).ports = s.ports := rfl
@[simp] theorem setDie_lpat (s : State) (n : Nat) (x : Die) : (s.setDie n x).lpat = s.lpat := rfl
@[simp] theorem setDie_lpatLive (s : State) (n : Nat) (x : Die) : (s.setDie n x).lpatLive = s.lpatLive := rfl
@[simp] theorem setDie_lpLenM1 (s : State) (n : Nat) (x : Die) : (s.setDie n x).lpLenM1 = s.lpLenM1 := rfl
@[simp] theorem setDie_lpLenLive (s : State) (n : Nat) (x : Die) : (s.setDie n x).lpLenLive = s.lpLenLive := rfl
@[simp] theorem setDie_parts (s : State) (n : Nat) (x : Die) : (s.setDie n x).parts = s.parts := rfl
@[simp] theorem setDie_funcs (s : State) (n : Nat) (x : Die) : (s.setDie n x).funcs = s.funcs := rfl
@[simp] theorem setDie_linkDeg (s : State) (n : Nat) (x : Die) : (s.setDie n x).linkDeg = s.linkDeg := rfl
@[simp] theorem setDie_recovery (s : State) (n : Nat) (x : Die) : (s.setDie n x).recovery = s.recovery := rfl
@[simp] theorem setDie_thermal (s : State) (n : Nat) (x : Die) : (s.setDie n x).thermal = s.thermal := rfl
@[simp] theorem setDie_repair (s : State) (n : Nat) (x : Die) : (s.setDie n x).repair = s.repair := rfl
@[simp] theorem setDie_reduced (s : State) (n : Nat) (x : Die) : (s.setDie n x).reduced = s.reduced := rfl
@[simp] theorem setDie_stSrc (s : State) (n : Nat) (x : Die) : (s.setDie n x).stSrc = s.stSrc := rfl
@[simp] theorem setDie_stLen (s : State) (n : Nat) (x : Die) : (s.setDie n x).stLen = s.stLen := rfl
@[simp] theorem setDie_stAddr (s : State) (n : Nat) (x : Die) : (s.setDie n x).stAddr = s.stAddr := rfl
@[simp] theorem setDie_stData (s : State) (n : Nat) (x : Die) : (s.setDie n x).stData = s.stData := rfl
@[simp] theorem setDie_stCmd (s : State) (n : Nat) (x : Die) : (s.setDie n x).stCmd = s.stCmd := rfl
@[simp] theorem setDie_stResult (s : State) (n : Nat) (x : Die) : (s.setDie n x).stResult = s.stResult := rfl
@[simp] theorem setDie_fwImage (s : State) (n : Nat) (x : Die) : (s.setDie n x).fwImage = s.fwImage := rfl
@[simp] theorem setDie_wqBase (s : State) (n : Nat) (x : Die) : (s.setDie n x).wqBase = s.wqBase := rfl
@[simp] theorem setDie_wqEn (s : State) (n : Nat) (x : Die) : (s.setDie n x).wqEn = s.wqEn := rfl
@[simp] theorem setDie_wqLogsz (s : State) (n : Nat) (x : Die) : (s.setDie n x).wqLogsz = s.wqLogsz := rfl
@[simp] theorem setDie_wqTail (s : State) (n : Nat) (x : Die) : (s.setDie n x).wqTail = s.wqTail := rfl
@[simp] theorem setDie_wqHead (s : State) (n : Nat) (x : Die) : (s.setDie n x).wqHead = s.wqHead := rfl
@[simp] theorem setDie_pfCtxb (s : State) (n : Nat) (x : Die) : (s.setDie n x).pfCtxb = s.pfCtxb := rfl
@[simp] theorem setDie_pfCodeb (s : State) (n : Nat) (x : Die) : (s.setDie n x).pfCodeb = s.pfCodeb := rfl
@[simp] theorem setDie_repairs (s : State) (n : Nat) (x : Die) : (s.setDie n x).repairs = s.repairs := rfl
@[simp] theorem setDie_stops (s : State) (n : Nat) (x : Die) : (s.setDie n x).stops = s.stops := rfl
@[simp] theorem setDie_transients (s : State) (n : Nat) (x : Die) : (s.setDie n x).transients = s.transients := rfl
@[simp] theorem setDie_rowsUsed (s : State) (n : Nat) (x : Die) : (s.setDie n x).rowsUsed = s.rowsUsed := rfl
@[simp] theorem setDie_chanCopy (s : State) (n : Nat) (x : Die) : (s.setDie n x).chanCopy = s.chanCopy := rfl
@[simp] theorem setDie_chanHeld (s : State) (n : Nat) (x : Die) : (s.setDie n x).chanHeld = s.chanHeld := rfl
@[simp] theorem setDie_chanRetired (s : State) (n : Nat) (x : Die) : (s.setDie n x).chanRetired = s.chanRetired := rfl
@[simp] theorem setDie_reserveUsed (s : State) (n : Nat) (x : Die) : (s.setDie n x).reserveUsed = s.reserveUsed := rfl
@[simp] theorem setDie_releaseAsked (s : State) (n : Nat) (x : Die) : (s.setDie n x).releaseAsked = s.releaseAsked := rfl
@[simp] theorem setDie_waysRetired (s : State) (n : Nat) (x : Die) : (s.setDie n x).waysRetired = s.waysRetired := rfl
@[simp] theorem setDie_vacant (s : State) (n : Nat) (x : Die) : (s.setDie n x).vacant = s.vacant := rfl
@[simp] theorem setDie_irqs (s : State) (n : Nat) (x : Die) : (s.setDie n x).irqs = s.irqs := rfl
@[simp] theorem setDie_sent (s : State) (n : Nat) (x : Die) : (s.setDie n x).sent = s.sent := rfl

/-! ### setPart -/

@[simp] theorem setPart_now (s : State) (n : Nat) (x : Part) : (s.setPart n x).now = s.now := rfl
@[simp] theorem setPart_free (s : State) (n : Nat) (x : Part) : (s.setPart n x).free = s.free := rfl
@[simp] theorem setPart_agenda (s : State) (n : Nat) (x : Part) : (s.setPart n x).agenda = s.agenda := rfl
@[simp] theorem setPart_issue (s : State) (n : Nat) (x : Part) : (s.setPart n x).issue = s.issue := rfl
@[simp] theorem setPart_nextId (s : State) (n : Nat) (x : Part) : (s.setPart n x).nextId = s.nextId := rfl
@[simp] theorem setPart_mem (s : State) (n : Nat) (x : Part) : (s.setPart n x).mem = s.mem := rfl
@[simp] theorem setPart_hostBad (s : State) (n : Nat) (x : Part) : (s.setPart n x).hostBad = s.hostBad := rfl
@[simp] theorem setPart_eccBad (s : State) (n : Nat) (x : Part) : (s.setPart n x).eccBad = s.eccBad := rfl
@[simp] theorem setPart_teams (s : State) (n : Nat) (x : Part) : (s.setPart n x).teams = s.teams := rfl
@[simp] theorem setPart_crews (s : State) (n : Nat) (x : Part) : (s.setPart n x).crews = s.crews := rfl
@[simp] theorem setPart_tasks (s : State) (n : Nat) (x : Part) : (s.setPart n x).tasks = s.tasks := rfl
@[simp] theorem setPart_cohorts (s : State) (n : Nat) (x : Part) : (s.setPart n x).cohorts = s.cohorts := rfl
@[simp] theorem setPart_accesses (s : State) (n : Nat) (x : Part) : (s.setPart n x).accesses = s.accesses := rfl
@[simp] theorem setPart_ops (s : State) (n : Nat) (x : Part) : (s.setPart n x).ops = s.ops := rfl
@[simp] theorem setPart_opOrder (s : State) (n : Nat) (x : Part) : (s.setPart n x).opOrder = s.opOrder := rfl
@[simp] theorem setPart_collX (s : State) (n : Nat) (x : Part) : (s.setPart n x).collX = s.collX := rfl
@[simp] theorem setPart_past (s : State) (n : Nat) (x : Part) : (s.setPart n x).past = s.past := rfl
@[simp] theorem setPart_fulls (s : State) (n : Nat) (x : Part) : (s.setPart n x).fulls = s.fulls := rfl
@[simp] theorem setPart_pages (s : State) (n : Nat) (x : Part) : (s.setPart n x).pages = s.pages := rfl
@[simp] theorem setPart_pagePtr (s : State) (n : Nat) (x : Part) : (s.setPart n x).pagePtr = s.pagePtr := rfl
@[simp] theorem setPart_cores (s : State) (n : Nat) (x : Part) : (s.setPart n x).cores = s.cores := rfl
@[simp] theorem setPart_dies (s : State) (n : Nat) (x : Part) : (s.setPart n x).dies = s.dies := rfl
@[simp] theorem setPart_ports (s : State) (n : Nat) (x : Part) : (s.setPart n x).ports = s.ports := rfl
@[simp] theorem setPart_lpat (s : State) (n : Nat) (x : Part) : (s.setPart n x).lpat = s.lpat := rfl
@[simp] theorem setPart_lpatLive (s : State) (n : Nat) (x : Part) : (s.setPart n x).lpatLive = s.lpatLive := rfl
@[simp] theorem setPart_lpLenM1 (s : State) (n : Nat) (x : Part) : (s.setPart n x).lpLenM1 = s.lpLenM1 := rfl
@[simp] theorem setPart_lpLenLive (s : State) (n : Nat) (x : Part) : (s.setPart n x).lpLenLive = s.lpLenLive := rfl
@[simp] theorem setPart_parts (s : State) (n : Nat) (x : Part) : (s.setPart n x).parts = Tab.set s.parts n x := rfl
@[simp] theorem setPart_funcs (s : State) (n : Nat) (x : Part) : (s.setPart n x).funcs = s.funcs := rfl
@[simp] theorem setPart_linkDeg (s : State) (n : Nat) (x : Part) : (s.setPart n x).linkDeg = s.linkDeg := rfl
@[simp] theorem setPart_recovery (s : State) (n : Nat) (x : Part) : (s.setPart n x).recovery = s.recovery := rfl
@[simp] theorem setPart_thermal (s : State) (n : Nat) (x : Part) : (s.setPart n x).thermal = s.thermal := rfl
@[simp] theorem setPart_repair (s : State) (n : Nat) (x : Part) : (s.setPart n x).repair = s.repair := rfl
@[simp] theorem setPart_reduced (s : State) (n : Nat) (x : Part) : (s.setPart n x).reduced = s.reduced := rfl
@[simp] theorem setPart_stSrc (s : State) (n : Nat) (x : Part) : (s.setPart n x).stSrc = s.stSrc := rfl
@[simp] theorem setPart_stLen (s : State) (n : Nat) (x : Part) : (s.setPart n x).stLen = s.stLen := rfl
@[simp] theorem setPart_stAddr (s : State) (n : Nat) (x : Part) : (s.setPart n x).stAddr = s.stAddr := rfl
@[simp] theorem setPart_stData (s : State) (n : Nat) (x : Part) : (s.setPart n x).stData = s.stData := rfl
@[simp] theorem setPart_stCmd (s : State) (n : Nat) (x : Part) : (s.setPart n x).stCmd = s.stCmd := rfl
@[simp] theorem setPart_stResult (s : State) (n : Nat) (x : Part) : (s.setPart n x).stResult = s.stResult := rfl
@[simp] theorem setPart_fwImage (s : State) (n : Nat) (x : Part) : (s.setPart n x).fwImage = s.fwImage := rfl
@[simp] theorem setPart_wqBase (s : State) (n : Nat) (x : Part) : (s.setPart n x).wqBase = s.wqBase := rfl
@[simp] theorem setPart_wqEn (s : State) (n : Nat) (x : Part) : (s.setPart n x).wqEn = s.wqEn := rfl
@[simp] theorem setPart_wqLogsz (s : State) (n : Nat) (x : Part) : (s.setPart n x).wqLogsz = s.wqLogsz := rfl
@[simp] theorem setPart_wqTail (s : State) (n : Nat) (x : Part) : (s.setPart n x).wqTail = s.wqTail := rfl
@[simp] theorem setPart_wqHead (s : State) (n : Nat) (x : Part) : (s.setPart n x).wqHead = s.wqHead := rfl
@[simp] theorem setPart_pfCtxb (s : State) (n : Nat) (x : Part) : (s.setPart n x).pfCtxb = s.pfCtxb := rfl
@[simp] theorem setPart_pfCodeb (s : State) (n : Nat) (x : Part) : (s.setPart n x).pfCodeb = s.pfCodeb := rfl
@[simp] theorem setPart_repairs (s : State) (n : Nat) (x : Part) : (s.setPart n x).repairs = s.repairs := rfl
@[simp] theorem setPart_stops (s : State) (n : Nat) (x : Part) : (s.setPart n x).stops = s.stops := rfl
@[simp] theorem setPart_transients (s : State) (n : Nat) (x : Part) : (s.setPart n x).transients = s.transients := rfl
@[simp] theorem setPart_rowsUsed (s : State) (n : Nat) (x : Part) : (s.setPart n x).rowsUsed = s.rowsUsed := rfl
@[simp] theorem setPart_chanCopy (s : State) (n : Nat) (x : Part) : (s.setPart n x).chanCopy = s.chanCopy := rfl
@[simp] theorem setPart_chanHeld (s : State) (n : Nat) (x : Part) : (s.setPart n x).chanHeld = s.chanHeld := rfl
@[simp] theorem setPart_chanRetired (s : State) (n : Nat) (x : Part) : (s.setPart n x).chanRetired = s.chanRetired := rfl
@[simp] theorem setPart_reserveUsed (s : State) (n : Nat) (x : Part) : (s.setPart n x).reserveUsed = s.reserveUsed := rfl
@[simp] theorem setPart_releaseAsked (s : State) (n : Nat) (x : Part) : (s.setPart n x).releaseAsked = s.releaseAsked := rfl
@[simp] theorem setPart_waysRetired (s : State) (n : Nat) (x : Part) : (s.setPart n x).waysRetired = s.waysRetired := rfl
@[simp] theorem setPart_vacant (s : State) (n : Nat) (x : Part) : (s.setPart n x).vacant = s.vacant := rfl
@[simp] theorem setPart_irqs (s : State) (n : Nat) (x : Part) : (s.setPart n x).irqs = s.irqs := rfl
@[simp] theorem setPart_sent (s : State) (n : Nat) (x : Part) : (s.setPart n x).sent = s.sent := rfl

/-! ### setFunc -/

@[simp] theorem setFunc_now (s : State) (n : Nat) (x : Func) : (s.setFunc n x).now = s.now := rfl
@[simp] theorem setFunc_free (s : State) (n : Nat) (x : Func) : (s.setFunc n x).free = s.free := rfl
@[simp] theorem setFunc_agenda (s : State) (n : Nat) (x : Func) : (s.setFunc n x).agenda = s.agenda := rfl
@[simp] theorem setFunc_issue (s : State) (n : Nat) (x : Func) : (s.setFunc n x).issue = s.issue := rfl
@[simp] theorem setFunc_nextId (s : State) (n : Nat) (x : Func) : (s.setFunc n x).nextId = s.nextId := rfl
@[simp] theorem setFunc_mem (s : State) (n : Nat) (x : Func) : (s.setFunc n x).mem = s.mem := rfl
@[simp] theorem setFunc_hostBad (s : State) (n : Nat) (x : Func) : (s.setFunc n x).hostBad = s.hostBad := rfl
@[simp] theorem setFunc_eccBad (s : State) (n : Nat) (x : Func) : (s.setFunc n x).eccBad = s.eccBad := rfl
@[simp] theorem setFunc_teams (s : State) (n : Nat) (x : Func) : (s.setFunc n x).teams = s.teams := rfl
@[simp] theorem setFunc_crews (s : State) (n : Nat) (x : Func) : (s.setFunc n x).crews = s.crews := rfl
@[simp] theorem setFunc_tasks (s : State) (n : Nat) (x : Func) : (s.setFunc n x).tasks = s.tasks := rfl
@[simp] theorem setFunc_cohorts (s : State) (n : Nat) (x : Func) : (s.setFunc n x).cohorts = s.cohorts := rfl
@[simp] theorem setFunc_accesses (s : State) (n : Nat) (x : Func) : (s.setFunc n x).accesses = s.accesses := rfl
@[simp] theorem setFunc_ops (s : State) (n : Nat) (x : Func) : (s.setFunc n x).ops = s.ops := rfl
@[simp] theorem setFunc_opOrder (s : State) (n : Nat) (x : Func) : (s.setFunc n x).opOrder = s.opOrder := rfl
@[simp] theorem setFunc_collX (s : State) (n : Nat) (x : Func) : (s.setFunc n x).collX = s.collX := rfl
@[simp] theorem setFunc_past (s : State) (n : Nat) (x : Func) : (s.setFunc n x).past = s.past := rfl
@[simp] theorem setFunc_fulls (s : State) (n : Nat) (x : Func) : (s.setFunc n x).fulls = s.fulls := rfl
@[simp] theorem setFunc_pages (s : State) (n : Nat) (x : Func) : (s.setFunc n x).pages = s.pages := rfl
@[simp] theorem setFunc_pagePtr (s : State) (n : Nat) (x : Func) : (s.setFunc n x).pagePtr = s.pagePtr := rfl
@[simp] theorem setFunc_cores (s : State) (n : Nat) (x : Func) : (s.setFunc n x).cores = s.cores := rfl
@[simp] theorem setFunc_dies (s : State) (n : Nat) (x : Func) : (s.setFunc n x).dies = s.dies := rfl
@[simp] theorem setFunc_ports (s : State) (n : Nat) (x : Func) : (s.setFunc n x).ports = s.ports := rfl
@[simp] theorem setFunc_lpat (s : State) (n : Nat) (x : Func) : (s.setFunc n x).lpat = s.lpat := rfl
@[simp] theorem setFunc_lpatLive (s : State) (n : Nat) (x : Func) : (s.setFunc n x).lpatLive = s.lpatLive := rfl
@[simp] theorem setFunc_lpLenM1 (s : State) (n : Nat) (x : Func) : (s.setFunc n x).lpLenM1 = s.lpLenM1 := rfl
@[simp] theorem setFunc_lpLenLive (s : State) (n : Nat) (x : Func) : (s.setFunc n x).lpLenLive = s.lpLenLive := rfl
@[simp] theorem setFunc_parts (s : State) (n : Nat) (x : Func) : (s.setFunc n x).parts = s.parts := rfl
@[simp] theorem setFunc_funcs (s : State) (n : Nat) (x : Func) : (s.setFunc n x).funcs = Tab.set s.funcs n x := rfl
@[simp] theorem setFunc_linkDeg (s : State) (n : Nat) (x : Func) : (s.setFunc n x).linkDeg = s.linkDeg := rfl
@[simp] theorem setFunc_recovery (s : State) (n : Nat) (x : Func) : (s.setFunc n x).recovery = s.recovery := rfl
@[simp] theorem setFunc_thermal (s : State) (n : Nat) (x : Func) : (s.setFunc n x).thermal = s.thermal := rfl
@[simp] theorem setFunc_repair (s : State) (n : Nat) (x : Func) : (s.setFunc n x).repair = s.repair := rfl
@[simp] theorem setFunc_reduced (s : State) (n : Nat) (x : Func) : (s.setFunc n x).reduced = s.reduced := rfl
@[simp] theorem setFunc_stSrc (s : State) (n : Nat) (x : Func) : (s.setFunc n x).stSrc = s.stSrc := rfl
@[simp] theorem setFunc_stLen (s : State) (n : Nat) (x : Func) : (s.setFunc n x).stLen = s.stLen := rfl
@[simp] theorem setFunc_stAddr (s : State) (n : Nat) (x : Func) : (s.setFunc n x).stAddr = s.stAddr := rfl
@[simp] theorem setFunc_stData (s : State) (n : Nat) (x : Func) : (s.setFunc n x).stData = s.stData := rfl
@[simp] theorem setFunc_stCmd (s : State) (n : Nat) (x : Func) : (s.setFunc n x).stCmd = s.stCmd := rfl
@[simp] theorem setFunc_stResult (s : State) (n : Nat) (x : Func) : (s.setFunc n x).stResult = s.stResult := rfl
@[simp] theorem setFunc_fwImage (s : State) (n : Nat) (x : Func) : (s.setFunc n x).fwImage = s.fwImage := rfl
@[simp] theorem setFunc_wqBase (s : State) (n : Nat) (x : Func) : (s.setFunc n x).wqBase = s.wqBase := rfl
@[simp] theorem setFunc_wqEn (s : State) (n : Nat) (x : Func) : (s.setFunc n x).wqEn = s.wqEn := rfl
@[simp] theorem setFunc_wqLogsz (s : State) (n : Nat) (x : Func) : (s.setFunc n x).wqLogsz = s.wqLogsz := rfl
@[simp] theorem setFunc_wqTail (s : State) (n : Nat) (x : Func) : (s.setFunc n x).wqTail = s.wqTail := rfl
@[simp] theorem setFunc_wqHead (s : State) (n : Nat) (x : Func) : (s.setFunc n x).wqHead = s.wqHead := rfl
@[simp] theorem setFunc_pfCtxb (s : State) (n : Nat) (x : Func) : (s.setFunc n x).pfCtxb = s.pfCtxb := rfl
@[simp] theorem setFunc_pfCodeb (s : State) (n : Nat) (x : Func) : (s.setFunc n x).pfCodeb = s.pfCodeb := rfl
@[simp] theorem setFunc_repairs (s : State) (n : Nat) (x : Func) : (s.setFunc n x).repairs = s.repairs := rfl
@[simp] theorem setFunc_stops (s : State) (n : Nat) (x : Func) : (s.setFunc n x).stops = s.stops := rfl
@[simp] theorem setFunc_transients (s : State) (n : Nat) (x : Func) : (s.setFunc n x).transients = s.transients := rfl
@[simp] theorem setFunc_rowsUsed (s : State) (n : Nat) (x : Func) : (s.setFunc n x).rowsUsed = s.rowsUsed := rfl
@[simp] theorem setFunc_chanCopy (s : State) (n : Nat) (x : Func) : (s.setFunc n x).chanCopy = s.chanCopy := rfl
@[simp] theorem setFunc_chanHeld (s : State) (n : Nat) (x : Func) : (s.setFunc n x).chanHeld = s.chanHeld := rfl
@[simp] theorem setFunc_chanRetired (s : State) (n : Nat) (x : Func) : (s.setFunc n x).chanRetired = s.chanRetired := rfl
@[simp] theorem setFunc_reserveUsed (s : State) (n : Nat) (x : Func) : (s.setFunc n x).reserveUsed = s.reserveUsed := rfl
@[simp] theorem setFunc_releaseAsked (s : State) (n : Nat) (x : Func) : (s.setFunc n x).releaseAsked = s.releaseAsked := rfl
@[simp] theorem setFunc_waysRetired (s : State) (n : Nat) (x : Func) : (s.setFunc n x).waysRetired = s.waysRetired := rfl
@[simp] theorem setFunc_vacant (s : State) (n : Nat) (x : Func) : (s.setFunc n x).vacant = s.vacant := rfl
@[simp] theorem setFunc_irqs (s : State) (n : Nat) (x : Func) : (s.setFunc n x).irqs = s.irqs := rfl
@[simp] theorem setFunc_sent (s : State) (n : Nat) (x : Func) : (s.setFunc n x).sent = s.sent := rfl

/-! ### The other updates, as those -/

@[simp] theorem modTeam_eq (s : State) (n : Nat) (g : Team → Team) : s.modTeam n g = s.setTeam n (g (s.team n)) := rfl
@[simp] theorem modCrew_eq (s : State) (n : Nat) (g : Crew → Crew) : s.modCrew n g = s.setCrew n (g (s.crew n)) := rfl
@[simp] theorem modTask_eq (s : State) (n : Nat) (g : Task → Task) : s.modTask n g = s.setTask n (g (s.task n)) := rfl
@[simp] theorem modCore_eq (s : State) (n : Nat) (g : Core → Core) : s.modCore n g = s.setCore n (g (s.core n)) := rfl
@[simp] theorem modDie_eq (s : State) (n : Nat) (g : Die → Die) : s.modDie n g = s.setDie n (g (s.die n)) := rfl
@[simp] theorem modPart_eq (s : State) (n : Nat) (g : Part → Part) : s.modPart n g = s.setPart n (g (s.part n)) := rfl
@[simp] theorem modFunc_eq (s : State) (n : Nat) (g : Func → Func) : s.modFunc n g = s.setFunc n (g (s.func n)) := rfl
@[simp] theorem modPath_eq (s : State) (t p : Nat) (g : Path → Path) :
    s.modPath t p g = s.setTeam t ((s.team t).setPath p (g ((s.team t).path p))) := rfl
@[simp] theorem land_eq (s : State) (t : Nat) (rs : List PendRes) :
    s.land t rs = s.setTeam t (addResults (s.team t) rs) := rfl

/-! ### irq, bump -/

@[simp] theorem irq_now (s : State) (fn v : Nat) : (s.irq fn v).now = s.now := rfl
@[simp] theorem irq_free (s : State) (fn v : Nat) : (s.irq fn v).free = s.free := rfl
@[simp] theorem irq_agenda (s : State) (fn v : Nat) : (s.irq fn v).agenda = s.agenda := rfl
@[simp] theorem irq_issue (s : State) (fn v : Nat) : (s.irq fn v).issue = s.issue := rfl
@[simp] theorem irq_nextId (s : State) (fn v : Nat) : (s.irq fn v).nextId = s.nextId := rfl
@[simp] theorem irq_mem (s : State) (fn v : Nat) : (s.irq fn v).mem = s.mem := rfl
@[simp] theorem irq_hostBad (s : State) (fn v : Nat) : (s.irq fn v).hostBad = s.hostBad := rfl
@[simp] theorem irq_eccBad (s : State) (fn v : Nat) : (s.irq fn v).eccBad = s.eccBad := rfl
@[simp] theorem irq_teams (s : State) (fn v : Nat) : (s.irq fn v).teams = s.teams := rfl
@[simp] theorem irq_crews (s : State) (fn v : Nat) : (s.irq fn v).crews = s.crews := rfl
@[simp] theorem irq_tasks (s : State) (fn v : Nat) : (s.irq fn v).tasks = s.tasks := rfl
@[simp] theorem irq_cohorts (s : State) (fn v : Nat) : (s.irq fn v).cohorts = s.cohorts := rfl
@[simp] theorem irq_accesses (s : State) (fn v : Nat) : (s.irq fn v).accesses = s.accesses := rfl
@[simp] theorem irq_ops (s : State) (fn v : Nat) : (s.irq fn v).ops = s.ops := rfl
@[simp] theorem irq_opOrder (s : State) (fn v : Nat) : (s.irq fn v).opOrder = s.opOrder := rfl
@[simp] theorem irq_collX (s : State) (fn v : Nat) : (s.irq fn v).collX = s.collX := rfl
@[simp] theorem irq_past (s : State) (fn v : Nat) : (s.irq fn v).past = s.past := rfl
@[simp] theorem irq_fulls (s : State) (fn v : Nat) : (s.irq fn v).fulls = s.fulls := rfl
@[simp] theorem irq_pages (s : State) (fn v : Nat) : (s.irq fn v).pages = s.pages := rfl
@[simp] theorem irq_pagePtr (s : State) (fn v : Nat) : (s.irq fn v).pagePtr = s.pagePtr := rfl
@[simp] theorem irq_cores (s : State) (fn v : Nat) : (s.irq fn v).cores = s.cores := rfl
@[simp] theorem irq_dies (s : State) (fn v : Nat) : (s.irq fn v).dies = s.dies := rfl
@[simp] theorem irq_ports (s : State) (fn v : Nat) : (s.irq fn v).ports = s.ports := rfl
@[simp] theorem irq_lpat (s : State) (fn v : Nat) : (s.irq fn v).lpat = s.lpat := rfl
@[simp] theorem irq_lpatLive (s : State) (fn v : Nat) : (s.irq fn v).lpatLive = s.lpatLive := rfl
@[simp] theorem irq_lpLenM1 (s : State) (fn v : Nat) : (s.irq fn v).lpLenM1 = s.lpLenM1 := rfl
@[simp] theorem irq_lpLenLive (s : State) (fn v : Nat) : (s.irq fn v).lpLenLive = s.lpLenLive := rfl
@[simp] theorem irq_parts (s : State) (fn v : Nat) : (s.irq fn v).parts = s.parts := rfl
@[simp] theorem irq_funcs (s : State) (fn v : Nat) : (s.irq fn v).funcs = s.funcs := rfl
@[simp] theorem irq_linkDeg (s : State) (fn v : Nat) : (s.irq fn v).linkDeg = s.linkDeg := rfl
@[simp] theorem irq_recovery (s : State) (fn v : Nat) : (s.irq fn v).recovery = s.recovery := rfl
@[simp] theorem irq_thermal (s : State) (fn v : Nat) : (s.irq fn v).thermal = s.thermal := rfl
@[simp] theorem irq_repair (s : State) (fn v : Nat) : (s.irq fn v).repair = s.repair := rfl
@[simp] theorem irq_reduced (s : State) (fn v : Nat) : (s.irq fn v).reduced = s.reduced := rfl
@[simp] theorem irq_stSrc (s : State) (fn v : Nat) : (s.irq fn v).stSrc = s.stSrc := rfl
@[simp] theorem irq_stLen (s : State) (fn v : Nat) : (s.irq fn v).stLen = s.stLen := rfl
@[simp] theorem irq_stAddr (s : State) (fn v : Nat) : (s.irq fn v).stAddr = s.stAddr := rfl
@[simp] theorem irq_stData (s : State) (fn v : Nat) : (s.irq fn v).stData = s.stData := rfl
@[simp] theorem irq_stCmd (s : State) (fn v : Nat) : (s.irq fn v).stCmd = s.stCmd := rfl
@[simp] theorem irq_stResult (s : State) (fn v : Nat) : (s.irq fn v).stResult = s.stResult := rfl
@[simp] theorem irq_fwImage (s : State) (fn v : Nat) : (s.irq fn v).fwImage = s.fwImage := rfl
@[simp] theorem irq_wqBase (s : State) (fn v : Nat) : (s.irq fn v).wqBase = s.wqBase := rfl
@[simp] theorem irq_wqEn (s : State) (fn v : Nat) : (s.irq fn v).wqEn = s.wqEn := rfl
@[simp] theorem irq_wqLogsz (s : State) (fn v : Nat) : (s.irq fn v).wqLogsz = s.wqLogsz := rfl
@[simp] theorem irq_wqTail (s : State) (fn v : Nat) : (s.irq fn v).wqTail = s.wqTail := rfl
@[simp] theorem irq_wqHead (s : State) (fn v : Nat) : (s.irq fn v).wqHead = s.wqHead := rfl
@[simp] theorem irq_pfCtxb (s : State) (fn v : Nat) : (s.irq fn v).pfCtxb = s.pfCtxb := rfl
@[simp] theorem irq_pfCodeb (s : State) (fn v : Nat) : (s.irq fn v).pfCodeb = s.pfCodeb := rfl
@[simp] theorem irq_repairs (s : State) (fn v : Nat) : (s.irq fn v).repairs = s.repairs := rfl
@[simp] theorem irq_stops (s : State) (fn v : Nat) : (s.irq fn v).stops = s.stops := rfl
@[simp] theorem irq_transients (s : State) (fn v : Nat) : (s.irq fn v).transients = s.transients := rfl
@[simp] theorem irq_rowsUsed (s : State) (fn v : Nat) : (s.irq fn v).rowsUsed = s.rowsUsed := rfl
@[simp] theorem irq_chanCopy (s : State) (fn v : Nat) : (s.irq fn v).chanCopy = s.chanCopy := rfl
@[simp] theorem irq_chanHeld (s : State) (fn v : Nat) : (s.irq fn v).chanHeld = s.chanHeld := rfl
@[simp] theorem irq_chanRetired (s : State) (fn v : Nat) : (s.irq fn v).chanRetired = s.chanRetired := rfl
@[simp] theorem irq_reserveUsed (s : State) (fn v : Nat) : (s.irq fn v).reserveUsed = s.reserveUsed := rfl
@[simp] theorem irq_releaseAsked (s : State) (fn v : Nat) : (s.irq fn v).releaseAsked = s.releaseAsked := rfl
@[simp] theorem irq_waysRetired (s : State) (fn v : Nat) : (s.irq fn v).waysRetired = s.waysRetired := rfl
@[simp] theorem irq_vacant (s : State) (fn v : Nat) : (s.irq fn v).vacant = s.vacant := rfl
@[simp] theorem irq_sent (s : State) (fn v : Nat) : (s.irq fn v).sent = s.sent := rfl
@[simp] theorem bump_now (s : State) : s.bump.now = s.now := rfl
@[simp] theorem bump_free (s : State) : s.bump.free = s.free + 1 := rfl
@[simp] theorem bump_agenda (s : State) : s.bump.agenda = s.agenda := rfl
@[simp] theorem bump_issue (s : State) : s.bump.issue = s.issue := rfl
@[simp] theorem bump_nextId (s : State) : s.bump.nextId = s.nextId := rfl
@[simp] theorem bump_mem (s : State) : s.bump.mem = s.mem := rfl
@[simp] theorem bump_hostBad (s : State) : s.bump.hostBad = s.hostBad := rfl
@[simp] theorem bump_eccBad (s : State) : s.bump.eccBad = s.eccBad := rfl
@[simp] theorem bump_teams (s : State) : s.bump.teams = s.teams := rfl
@[simp] theorem bump_crews (s : State) : s.bump.crews = s.crews := rfl
@[simp] theorem bump_tasks (s : State) : s.bump.tasks = s.tasks := rfl
@[simp] theorem bump_cohorts (s : State) : s.bump.cohorts = s.cohorts := rfl
@[simp] theorem bump_accesses (s : State) : s.bump.accesses = s.accesses := rfl
@[simp] theorem bump_ops (s : State) : s.bump.ops = s.ops := rfl
@[simp] theorem bump_opOrder (s : State) : s.bump.opOrder = s.opOrder := rfl
@[simp] theorem bump_collX (s : State) : s.bump.collX = s.collX := rfl
@[simp] theorem bump_past (s : State) : s.bump.past = s.past := rfl
@[simp] theorem bump_fulls (s : State) : s.bump.fulls = s.fulls := rfl
@[simp] theorem bump_pages (s : State) : s.bump.pages = s.pages := rfl
@[simp] theorem bump_pagePtr (s : State) : s.bump.pagePtr = s.pagePtr := rfl
@[simp] theorem bump_cores (s : State) : s.bump.cores = s.cores := rfl
@[simp] theorem bump_dies (s : State) : s.bump.dies = s.dies := rfl
@[simp] theorem bump_ports (s : State) : s.bump.ports = s.ports := rfl
@[simp] theorem bump_lpat (s : State) : s.bump.lpat = s.lpat := rfl
@[simp] theorem bump_lpatLive (s : State) : s.bump.lpatLive = s.lpatLive := rfl
@[simp] theorem bump_lpLenM1 (s : State) : s.bump.lpLenM1 = s.lpLenM1 := rfl
@[simp] theorem bump_lpLenLive (s : State) : s.bump.lpLenLive = s.lpLenLive := rfl
@[simp] theorem bump_parts (s : State) : s.bump.parts = s.parts := rfl
@[simp] theorem bump_funcs (s : State) : s.bump.funcs = s.funcs := rfl
@[simp] theorem bump_linkDeg (s : State) : s.bump.linkDeg = s.linkDeg := rfl
@[simp] theorem bump_recovery (s : State) : s.bump.recovery = s.recovery := rfl
@[simp] theorem bump_thermal (s : State) : s.bump.thermal = s.thermal := rfl
@[simp] theorem bump_repair (s : State) : s.bump.repair = s.repair := rfl
@[simp] theorem bump_reduced (s : State) : s.bump.reduced = s.reduced := rfl
@[simp] theorem bump_stSrc (s : State) : s.bump.stSrc = s.stSrc := rfl
@[simp] theorem bump_stLen (s : State) : s.bump.stLen = s.stLen := rfl
@[simp] theorem bump_stAddr (s : State) : s.bump.stAddr = s.stAddr := rfl
@[simp] theorem bump_stData (s : State) : s.bump.stData = s.stData := rfl
@[simp] theorem bump_stCmd (s : State) : s.bump.stCmd = s.stCmd := rfl
@[simp] theorem bump_stResult (s : State) : s.bump.stResult = s.stResult := rfl
@[simp] theorem bump_fwImage (s : State) : s.bump.fwImage = s.fwImage := rfl
@[simp] theorem bump_wqBase (s : State) : s.bump.wqBase = s.wqBase := rfl
@[simp] theorem bump_wqEn (s : State) : s.bump.wqEn = s.wqEn := rfl
@[simp] theorem bump_wqLogsz (s : State) : s.bump.wqLogsz = s.wqLogsz := rfl
@[simp] theorem bump_wqTail (s : State) : s.bump.wqTail = s.wqTail := rfl
@[simp] theorem bump_wqHead (s : State) : s.bump.wqHead = s.wqHead := rfl
@[simp] theorem bump_pfCtxb (s : State) : s.bump.pfCtxb = s.pfCtxb := rfl
@[simp] theorem bump_pfCodeb (s : State) : s.bump.pfCodeb = s.pfCodeb := rfl
@[simp] theorem bump_repairs (s : State) : s.bump.repairs = s.repairs := rfl
@[simp] theorem bump_stops (s : State) : s.bump.stops = s.stops := rfl
@[simp] theorem bump_transients (s : State) : s.bump.transients = s.transients := rfl
@[simp] theorem bump_rowsUsed (s : State) : s.bump.rowsUsed = s.rowsUsed := rfl
@[simp] theorem bump_chanCopy (s : State) : s.bump.chanCopy = s.chanCopy := rfl
@[simp] theorem bump_chanHeld (s : State) : s.bump.chanHeld = s.chanHeld := rfl
@[simp] theorem bump_chanRetired (s : State) : s.bump.chanRetired = s.chanRetired := rfl
@[simp] theorem bump_reserveUsed (s : State) : s.bump.reserveUsed = s.reserveUsed := rfl
@[simp] theorem bump_releaseAsked (s : State) : s.bump.releaseAsked = s.releaseAsked := rfl
@[simp] theorem bump_waysRetired (s : State) : s.bump.waysRetired = s.waysRetired := rfl
@[simp] theorem bump_vacant (s : State) : s.bump.vacant = s.vacant := rfl
@[simp] theorem bump_irqs (s : State) : s.bump.irqs = s.irqs := rfl
@[simp] theorem bump_sent (s : State) : s.bump.sent = s.sent := rfl

/-! ### setPath -/

@[simp] theorem setPath_task (tm : Team) (p : Nat) (x : Path) : (tm.setPath p x).task = tm.task := rfl
@[simp] theorem setPath_crew (tm : Team) (p : Nat) (x : Path) : (tm.setPath p x).crew = tm.crew := rfl
@[simp] theorem setPath_tix (tm : Team) (p : Nat) (x : Path) : (tm.setPath p x).tix = tm.tix := rfl
@[simp] theorem setPath_words (tm : Team) (p : Nat) (x : Path) : (tm.setPath p x).words = tm.words := rfl
@[simp] theorem setPath_nregs (tm : Team) (p : Nat) (x : Path) : (tm.setPath p x).nregs = tm.nregs := rfl
@[simp] theorem setPath_paths (tm : Team) (p : Nat) (x : Path) : (tm.setPath p x).paths = Tab.set tm.paths p x := rfl
@[simp] theorem setPath_lastPath (tm : Team) (p : Nat) (x : Path) : (tm.setPath p x).lastPath = tm.lastPath := rfl
@[simp] theorem setPath_vregs (tm : Team) (p : Nat) (x : Path) : (tm.setPath p x).vregs = tm.vregs := rfl
@[simp] theorem setPath_tags (tm : Team) (p : Nat) (x : Path) : (tm.setPath p x).tags = tm.tags := rfl
@[simp] theorem setPath_preds (tm : Team) (p : Nat) (x : Path) : (tm.setPath p x).preds = tm.preds := rfl
@[simp] theorem setPath_sregs (tm : Team) (p : Nat) (x : Path) : (tm.setPath p x).sregs = tm.sregs := rfl
@[simp] theorem setPath_flagSet (tm : Team) (p : Nat) (x : Path) : (tm.setPath p x).flagSet = tm.flagSet := rfl
@[simp] theorem setPath_flagCount (tm : Team) (p : Nat) (x : Path) : (tm.setPath p x).flagCount = tm.flagCount := rfl
@[simp] theorem setPath_bv (tm : Team) (p : Nat) (x : Path) : (tm.setPath p x).bv = tm.bv := rfl
@[simp] theorem setPath_bm (tm : Team) (p : Nat) (x : Path) : (tm.setPath p x).bm = tm.bm := rfl
@[simp] theorem setPath_bx (tm : Team) (p : Nat) (x : Path) : (tm.setPath p x).bx = tm.bx := rfl
@[simp] theorem setPath_status (tm : Team) (p : Nat) (x : Path) : (tm.setPath p x).status = tm.status := rfl
@[simp] theorem setPath_raised (tm : Team) (p : Nat) (x : Path) : (tm.setPath p x).raised = tm.raised := rfl
@[simp] theorem setPath_raisedAt (tm : Team) (p : Nat) (x : Path) : (tm.setPath p x).raisedAt = tm.raisedAt := rfl
@[simp] theorem setPath_wdogLimit (tm : Team) (p : Nat) (x : Path) : (tm.setPath p x).wdogLimit = tm.wdogLimit := rfl
@[simp] theorem setPath_ycycles (tm : Team) (p : Nat) (x : Path) : (tm.setPath p x).ycycles = tm.ycycles := rfl
@[simp] theorem setPath_accBase (tm : Team) (p : Nat) (x : Path) : (tm.setPath p x).accBase = tm.accBase := rfl
@[simp] theorem setPath_accLim (tm : Team) (p : Nat) (x : Path) : (tm.setPath p x).accLim = tm.accLim := rfl
@[simp] theorem setPath_lineBase (tm : Team) (p : Nat) (x : Path) : (tm.setPath p x).lineBase = tm.lineBase := rfl
@[simp] theorem setPath_wids (tm : Team) (p : Nat) (x : Path) : (tm.setPath p x).wids = tm.wids := rfl
@[simp] theorem setPath_wid0 (tm : Team) (p : Nat) (x : Path) : (tm.setPath p x).wid0 = tm.wid0 := rfl
@[simp] theorem setPath_ports (tm : Team) (p : Nat) (x : Path) : (tm.setPath p x).ports = tm.ports := rfl
@[simp] theorem setPath_pending (tm : Team) (p : Nat) (x : Path) : (tm.setPath p x).pending = tm.pending := rfl
@[simp] theorem setPath_fli (tm : Team) (p : Nat) (x : Path) : (tm.setPath p x).fli = tm.fli := rfl
@[simp] theorem setPath_fliTaken (tm : Team) (p : Nat) (x : Path) : (tm.setPath p x).fliTaken = tm.fliTaken := rfl
@[simp] theorem setPath_deferred (tm : Team) (p : Nat) (x : Path) : (tm.setPath p x).deferred = tm.deferred := rfl
@[simp] theorem setPath_deferredAt (tm : Team) (p : Nat) (x : Path) : (tm.setPath p x).deferredAt = tm.deferredAt := rfl
@[simp] theorem setPath_residence (tm : Team) (p : Nat) (x : Path) : (tm.setPath p x).residence = tm.residence := rfl
@[simp] theorem setPath_place (tm : Team) (p : Nat) (x : Path) : (tm.setPath p x).place = tm.place := rfl
@[simp] theorem setPath_stopped (tm : Team) (p : Nat) (x : Path) : (tm.setPath p x).stopped = tm.stopped := rfl
@[simp] theorem setPath_fresh (tm : Team) (p : Nat) (x : Path) : (tm.setPath p x).fresh = tm.fresh := rfl
@[simp] theorem setPath_invroAt (tm : Team) (p : Nat) (x : Path) : (tm.setPath p x).invroAt = tm.invroAt := rfl
@[simp] theorem setPath_acquired (tm : Team) (p : Nat) (x : Path) : (tm.setPath p x).acquired = tm.acquired := rfl
@[simp] theorem setPath_retired (tm : Team) (p : Nat) (x : Path) : (tm.setPath p x).retired = tm.retired := rfl
@[simp] theorem setPath_atYield (tm : Team) (p : Nat) (x : Path) : (tm.setPath p x).atYield = tm.atYield := rfl
@[simp] theorem setPath_owned (tm : Team) (p : Nat) (x : Path) : (tm.setPath p x).owned = tm.owned := rfl
@[simp] theorem setPath_sampled (tm : Team) (p : Nat) (x : Path) : (tm.setPath p x).sampled = tm.sampled := rfl

end Sys2Proof.Machine
end

