-- ==== Sys2Proof/Laws/Tenancy.lean ====
section
/-! SUPPORT. A move of bytes between address spaces (R78): it keeps the memory's form, and every byte that neither
moves nor is moved to. -/

namespace Sys2Proof.Machine

open Sys2Proof

theorem relocate_wf (s : State) (dst : Nat → Option Nat) (h : Memory.wf s.mem) : Memory.wf (relocate s dst).mem :=
  Memory.writes_wf _ (Memory.without_wf _ h)

/-- A byte that stays, and to which none moves, reads as before. -/
theorem relocate_read (s : State) (dst : Nat → Option Nat) (h : Memory.wf s.mem) {x : Nat} (stays : dst x = none)
    (free : ∀ a, dst a ≠ some x) : Memory.read (relocate s dst).mem x = Memory.read s.mem x := by
  unfold relocate
  rw [Memory.read_writes_ne _ (Memory.without_wf _ h), Memory.read_without h]
  · simp [stays]
  · intro c hc
    obtain ⟨d, -, hd⟩ := List.mem_filterMap.1 hc
    obtain ⟨a, ha, rfl⟩ := Option.map_eq_some_iff.1 hd
    rintro rfl
    exact free _ ha

/-- It moves nothing but bytes and their errors. -/
@[simp] theorem relocate_teams (s : State) (dst : Nat → Option Nat) : (relocate s dst).teams = s.teams := rfl
@[simp] theorem relocate_crews (s : State) (dst : Nat → Option Nat) : (relocate s dst).crews = s.crews := rfl
@[simp] theorem relocate_tasks (s : State) (dst : Nat → Option Nat) : (relocate s dst).tasks = s.tasks := rfl
@[simp] theorem relocate_parts (s : State) (dst : Nat → Option Nat) : (relocate s dst).parts = s.parts := rfl
@[simp] theorem relocate_funcs (s : State) (dst : Nat → Option Nat) : (relocate s dst).funcs = s.funcs := rfl
@[simp] theorem relocate_cores (s : State) (dst : Nat → Option Nat) : (relocate s dst).cores = s.cores := rfl

end Sys2Proof.Machine
end

