-- ==== Sys2Proof/Laws/Vec.lean ====
section
/-! SUPPORT. What the vector slot does once its checks have passed: elements packed and read back, results
that enter flight, and the one next state of a vector instruction. -/

namespace Sys2Proof.Machine

open Sys2Proof

/-! ### Elements -/

theorem fld_packElems (w : Nat) (es : List Nat) (i : Nat) (hi : i < es.length) :
    fld (packElems w es) (w * i) w = es.getD i 0 % 2 ^ w := by
  induction es generalizing i with
  | nil => simp at hi
  | cons e es ih =>
    cases i with
    | zero => simp [packElems, fld]
    | succ i =>
      have h := ih i (by simpa using hi)
      have hp : 2 ^ (w * (i + 1)) = 2 ^ w * 2 ^ (w * i) := by rw [← pow_add]; ring_nf
      have hq : (e % 2 ^ w + 2 ^ w * packElems w es) / 2 ^ w = packElems w es := by
        rw [Nat.add_mul_div_left _ _ (by positivity), Nat.div_eq_of_lt (Nat.mod_lt _ (by positivity)), zero_add]
      simp only [packElems, fld, hp, ← Nat.div_div_eq_div_mul, hq]
      simpa [fld] using h

/-- Element i of a value built element by element. -/
theorem elemAt_mapElems (f : Fmt) (g : Nat → Nat × Flags) (i : Nat) (hi : i < f.elems) :
    elemAt f (mapElems f g).1 i = (g i).1 % 2 ^ f.width := by
  have h := fld_packElems f.width ((List.range f.elems).map (fun i => (g i).1)) i (by simpa using hi)
  simp only [elemAt, mapElems, List.map_map]
  rw [show (Prod.fst ∘ g) = fun i => (g i).1 from rfl, h]
  simp [List.getD, hi]

theorem mapElems_flags (f : Fmt) (g : Nat → Nat × Flags) :
    (mapElems f g).2 = joinFlags ((List.range f.elems).map (fun i => (g i).2)) := by
  simp [mapElems, Function.comp_def]

/-- What is said of each element and its flags is said of the whole value. -/
theorem elemWise_mapElems {f : Fmt} {g : Nat → Nat × Flags} {rule : Nat → Nat → Flags → Prop}
    (h : ∀ i, i < f.elems → rule i ((g i).1 % 2 ^ f.width) (g i).2) :
    ElemWise f rule (mapElems f g).1 (mapElems f g).2 :=
  ⟨fun i => (g i).2, fun i hi => elemAt_mapElems f g i hi ▸ h i hi, mapElems_flags f g⟩

theorem elemAt_lt (f : Fmt) (x i : Nat) : elemAt f x i < 2 ^ f.width := Nat.mod_lt _ (by positivity)

/-! ### Results enter flight -/

/-- Two results that differ at most in the mark of an overlap (R224). -/
def SameResult (g r : PendRes) : Prop := { g with clash := false } = { r with clash := false }

theorem addPending_old {tm : Team} {e g : PendRes} (h : g ∈ tm.pending) :
    ∃ k ∈ (addPending tm e).pending, SameResult k g := by
  unfold addPending
  split
  · refine ⟨if g.overlaps e then { g with clash := true } else g, ?_, ?_⟩
    · exact List.mem_append_left _ (List.mem_map.2 ⟨g, h, rfl⟩)
    · unfold SameResult; split <;> rfl
  · exact ⟨g, List.mem_append_left _ h, rfl⟩

theorem addPending_new (tm : Team) (e : PendRes) : ∃ k ∈ (addPending tm e).pending, SameResult k e := by
  unfold addPending
  split
  · exact ⟨{ e with clash := true }, by simp, rfl⟩
  · exact ⟨e, by simp, rfl⟩

theorem SameResult.trans {a b c : PendRes} (h : SameResult a b) (k : SameResult b c) : SameResult a c :=
  Eq.trans h k

theorem addResults_old {es : List PendRes} {tm : Team} {g : PendRes} (h : ∃ k ∈ tm.pending, SameResult k g) :
    ∃ k ∈ (addResults tm es).pending, SameResult k g := by
  induction es generalizing tm with
  | nil => exact h
  | cons e es ih =>
    obtain ⟨k, hk, hs⟩ := h
    obtain ⟨j, hj, hjs⟩ := addPending_old (e := e) hk
    exact ih ⟨j, hj, hjs.trans hs⟩

/-- Every result that is added is in flight. -/
theorem addResults_new {es : List PendRes} {tm : Team} {r : PendRes} (h : r ∈ es) :
    ∃ k ∈ (addResults tm es).pending, SameResult k r := by
  induction es generalizing tm with
  | nil => simp at h
  | cons e es ih =>
    rcases List.mem_cons.1 h with rfl | h
    · exact addResults_old (es := es) (tm := addPending tm r) (addPending_new tm r)
    · exact ih (tm := addPending tm e) h

theorem addPending_mem {tm : Team} {e k : PendRes} (h : k ∈ (addPending tm e).pending) :
    SameResult k e ∨ ∃ g ∈ tm.pending, SameResult k g := by
  unfold addPending at h
  split at h
  · rcases List.mem_append.1 h with h | h
    · obtain ⟨g, hg, rfl⟩ := List.mem_map.1 h
      exact Or.inr ⟨g, hg, by unfold SameResult; split <;> rfl⟩
    · rw [List.mem_singleton.1 h]; exact Or.inl rfl
  · rcases List.mem_append.1 h with h | h
    · exact Or.inr ⟨k, h, rfl⟩
    · rw [List.mem_singleton.1 h]; exact Or.inl rfl

/-- Nothing else is in flight than what was and what is added. -/
theorem addResults_mem {es : List PendRes} {tm : Team} {k : PendRes} (h : k ∈ (addResults tm es).pending) :
    (∃ r ∈ es, SameResult k r) ∨ ∃ g ∈ tm.pending, SameResult k g := by
  induction es generalizing tm with
  | nil => exact Or.inr ⟨k, h, rfl⟩
  | cons e es ih =>
    rcases ih (tm := addPending tm e) h with ⟨r, hr, hs⟩ | ⟨g, hg, hs⟩
    · exact Or.inl ⟨r, List.mem_cons_of_mem _ hr, hs⟩
    · rcases addPending_mem hg with h1 | ⟨j, hj, h1⟩
      · exact Or.inl ⟨e, by simp, hs.trans h1⟩
      · exact Or.inr ⟨j, hj, hs.trans h1⟩

/-- Adding results changes only what is in flight. -/
theorem addResults_eq (es : List PendRes) (tm : Team) :
    addResults tm es = { tm with pending := (addResults tm es).pending } := by
  induction es generalizing tm with
  | nil => rfl
  | cons e es ih =>
    have h : addPending tm e = { tm with pending := (addPending tm e).pending } := by
      unfold addPending; split <;> rfl
    have := ih (addPending tm e)
    simp only [addResults, List.foldl_cons] at this ⊢
    rw [this, h]

/-! ### The state after a vector instruction -/

@[simp] theorem popPorts_pending (s : State) (t : Nat) (codes : List Nat) :
    ((popPorts s t codes).team t).pending = (s.team t).pending := by
  simp [popPorts]

/-- Results that a vector instruction adds are in flight in its next state. -/
theorem vecNext_inFlight {s : State} {c : Ctx} {i : Instr} {sp : VSpec} {tag : Fmt} {pd : Nat} {across : Bool}
    {op : LaneIn → LaneOut} {r : PendRes}
    (h : r ∈ (vecPasses c across).flatMap (fun p => vecResults c (c.crew s) i sp tag pd op
      (passLanes (vecPasses c across)) (firstPass (vecPasses c across) == some p) p)) :
    InFlight (vecNext s c i sp tag pd across op) c.t r := by
  obtain ⟨k, hk, hs⟩ := addResults_new (tm := s.team c.t) h
  refine ⟨k, ?_, hs⟩
  have e : ((vecNext s c i sp tag pd across op).team c.t).pending =
      ((popPorts (s.land c.t ((vecPasses c across).flatMap (fun p => vecResults c (c.crew s) i sp tag pd op
      (passLanes (vecPasses c across)) (firstPass (vecPasses c across) == some p) p))) c.t
      ((vSources (vFieldsOf i) sp).map (fun q => q.2.1))).team c.t).pending := rfl
  rw [e, popPorts_pending]
  simpa using hk

/-- A ready vector slot answers one next state. -/
theorem vecRun_ready {s : State} {c : Ctx} {i : Instr} (hc : ctxOf s = some c) (h : vecReady s i = true)
    (tagOf : Ctx → Crew → VSpec → Fmt) (pd : Nat) (across : Bool) (op : LaneIn → LaneOut) :
    ∃ sp, vSpec c.width i = some sp ∧ (vFaults c.launch i).isEmpty = true ∧
      vecRun s i tagOf pd across op = .next (vecNext s c i sp (tagOf c (c.crew s) sp) pd across op) := by
  simp only [vecReady, hc] at h
  split at h
  · simp at h
  · rename_i sp hsp
    simp only [Bool.and_eq_true, Bool.not_eq_true', Option.isNone_iff_eq_none] at h
    refine ⟨sp, hsp, h.1.1, ?_⟩
    simp [vecRun, runSlot, hc, hsp, h.1.2, h.2]

/-- What a lane of an instruction reads. -/
def laneIn (s : State) (c : Ctx) (i : Instr) (sp : VSpec) (across : Bool) (p : Pass) (l : Nat) : LaneIn :=
  let src := vecSource c (c.crew s) p (vSources (vFieldsOf i) sp)
  { c := c, p := p, l := l, a := src 1 l, b := src 2 l, z := src 3 l, aOf := src 1, bOf := src 2
    all := passLanes (vecPasses c across) }

/-- The results of an instruction whose lanes all write D are in flight, each lane with what its
operation answers. -/
theorem vecNext_results {s : State} {c : Ctx} {i : Instr} {sp : VSpec} {tag : Fmt} {pd : Nat} {across : Bool}
    {op : LaneIn → LaneOut} (hD : sp.useD = true) (hw : ∀ x, (op x).wr = true) :
    VResultsIn (vecNext s c i sp tag pd across op) c (vecPasses c across) (vFieldsOf i) tag sp.lat
      (fun p l => (op (laneIn s c i sp across p l)).val) (fun p l => (op (laneIn s c i sp across p l)).flags) := by
  intro p hp hl
  obtain ⟨l0, ls, hls⟩ := List.exists_cons_of_ne_nil hl
  have mem : ∀ r, r ∈ vResult c p (vFieldsOf i).d.toNat ((vFieldsOf i).fmt == .int64) (vFieldsOf i).lat
      (firstPass (vecPasses c across) == some p) (some tag) sp.lat
      (laneVals p (fun l => (op (laneIn s c i sp across p l)).val))
      (joinFlags (p.lanes.map (fun l => (op (laneIn s c i sp across p l)).flags))) .v (some .bv) →
      InFlight (vecNext s c i sp tag pd across op) c.t r := by
    intro r hr
    refine vecNext_inFlight (List.mem_flatMap.2 ⟨p, hp, ?_⟩)
    simp only [vecResults, hD, if_true, vecLanes, List.map_map]
    refine List.mem_append_left _ ?_
    convert hr using 2
    all_goals simp [hls, hw, laneVals, laneIn, List.filter_map, Function.comp_def]
  have ne : (laneVals p (fun l => (op (laneIn s c i sp across p l)).val)).isEmpty = false := by
    simp [laneVals, hls]
  simp only
  split
  · rename_i hlat
    exact mem _ (by simp [vResult, ne, hlat])
  · rename_i hlat
    split
    · rename_i k hk
      exact mem _ (by simp [vResult, ne, hlat, hk])
    · rename_i k hk
      exact mem _ (by simp [vResult, ne, hlat, hk])
    · rename_i k hk
      intro hf
      refine mem _ ?_
      simp [vResult, hlat, hk, hf, laneVals, hls]
    · trivial

/-- A vector instruction that writes D in every lane completes with what its operation answers. -/
theorem vecRun_completes {form : VFields → Bool} {mk : VFields → Instr} {across : Bool} {lat : Ctx → Nat}
    {tag : State → Ctx → VFields → Fmt} {rule : LaneRule} {tagOf : VFields → Ctx → Crew → VSpec → Fmt}
    {pd : VFields → Nat} {op : VFields → LaneIn → LaneOut}
    (hf : ∀ f, vFieldsOf (mk f) = f) (hw : ∀ f x, (op f x).wr = true)
    (he : ∀ f s, form f = true → exec (mk f) s = vecRun s (mk f) (tagOf f) (pd f) across (op f))
    (hsp : ∀ f s c sp, form f = true → vSpec c.width (mk f) = some sp → (vFaults c.launch (mk f)).isEmpty = true →
      sp.useD = true ∧ sp.lat = lat c ∧ tagOf f c (c.crew s) sp = tag s c f ∧
      ∀ p ∈ vecPasses c across, ∀ l ∈ p.lanes,
        rule f s c p l (op f (laneIn s c (mk f) sp across p l)).val (op f (laneIn s c (mk f) sp across p l)).flags) :
    VecCompletesIf form mk across lat tag rule := by
  intro f s c hc hr hform
  obtain ⟨sp, h1, h2, h3⟩ := vecRun_ready hc hr (tagOf f) (pd f) across (op f)
  obtain ⟨hD, hl, ht, hrule⟩ := hsp f s c sp hform h1 h2
  refine ⟨_, _, _, (he f s hform).trans h3, ?_, hrule⟩
  have := vecNext_results (s := s) (c := c) (i := mk f) (sp := sp) (tag := tagOf f c (c.crew s) sp)
    (pd := pd f) (across := across) (op := op f) hD (hw f)
  rw [hf, hl, ht] at this
  exact ht ▸ this

/-! ### Forms, and what a lane reads -/

theorem reservedIf_nil {b : Bool} : reservedIf b = [] ↔ b = false := by
  cases b <;> simp [reservedIf, found]

/-- An accepted form has a format of its row, and SAT and RND only where the row allows them (R313, R340). -/
theorem vForm_fields {c : Ctx} {i : Instr} {sp : VSpec} (h : vSpec c.width i = some sp)
    (hv : (vFaults c.launch i).isEmpty = true) :
    (vFieldsOf i).fmt ∈ sp.fmts ∧ ((vFieldsOf i).sat = true → sp.sat = true) ∧
      ((vFieldsOf i).rnd ≠ .rne → sp.rnd = true) ∧ vExtra c.launch i = [] := by
  have e : c.launch.w = c.width := rfl
  simp only [vFaults, e, h, List.isEmpty_iff, List.append_eq_nil_iff, reservedIf_nil] at hv
  obtain ⟨⟨⟨⟨⟨⟨⟨⟨⟨_, h1⟩, h2⟩, _⟩, _⟩, _⟩, _⟩, h3⟩, _⟩, _⟩ := hv
  simp only [Bool.or_eq_false_iff, Bool.and_eq_false_iff, Bool.not_eq_false'] at h1 h2
  refine ⟨by simpa using h1, fun hs => ?_, fun hr => ?_, h3⟩
  · rcases h2.2 with h | h
    · exact h
    · exact absurd hs (by simp [h])
  · rcases h2.1.1.1 with h | h
    · exact h
    · simp at h; exact absurd h hr

theorem laneIn_a {s : State} {c : Ctx} {i : Instr} {sp : VSpec} {across : Bool} {p : Pass} {l : Nat}
    (h : sp.useA = true) : (laneIn s c i sp across p l).a = operand s c p (vFieldsOf i).a sp.fa l := by
  simp [laneIn, vecSource, vSources, h, operand]

theorem laneIn_z {s : State} {c : Ctx} {i : Instr} {sp : VSpec} {across : Bool} {p : Pass} {l : Nat}
    (h : sp.useC = true) : (laneIn s c i sp across p l).z = operand s c p (vFieldsOf i).c sp.fc l := by
  cases ha : sp.useA <;> cases hb : sp.useB <;> simp [laneIn, vecSource, vSources, h, ha, hb, operand]

theorem laneIn_b {s : State} {c : Ctx} {i : Instr} {sp : VSpec} {across : Bool} {p : Pass} {l : Nat}
    (h : sp.useB = true) :
    (laneIn s c i sp across p l).b = operand s c p (vFieldsOf i).b sp.fb l := by
  cases ha : sp.useA <;> simp [laneIn, vecSource, vSources, h, ha, operand]

theorem laneIn_aOf {s : State} {c : Ctx} {i : Instr} {sp : VSpec} {across : Bool} {p : Pass} {l k : Nat}
    (h : sp.useA = true) : (laneIn s c i sp across p l).aOf k = operand s c p (vFieldsOf i).a sp.fa k := by
  simp [laneIn, vecSource, vSources, h, operand]

end Sys2Proof.Machine
end

