-- ==== Sys2Proof/WellFormed.lean ====
section
/-! DEFINITION. Which instructions are well formed: those whose fields raise no decode fault under
the widest launch constants (R327), and, for a bundle, the whole bundle's checks. -/

namespace Sys2Proof

open Sys2Proof.Machine

/-- The widest launch constants: N = 1536, W = 1024, a PRIV kernel, no feature masked. -/
def widestLaunch : Launch := {}

/-- An instruction of a slot whose fields raise no decode fault. A step of another agent has no
encoding and is well formed. -/
def wellFormed (i : Instr) : Bool := (slotFaults widestLaunch i).isEmpty

/-- A bundle of 256 bits that raises no decode fault. -/
def wellFormedBundle (w : Nat) : Bool := (decodeFault widestLaunch w).isNone

end Sys2Proof
end

