-- ==== Sys2Proof/Tests/Slice0.lean ====
section
/-! SUPPORT. Tests: words that the spec works out, the decode checks, single steps with values from the spec's
examples and tables, and for each statement a state that meets its hypotheses. -/

namespace Sys2Proof.Tests

set_option Elab.async false

open Sys2Proof Sys2Proof.Machine

/-! ### Fields and states that tests start from -/

def v0 : VFields := ⟨4#11, 1#11, 2#11, 0#11, .int32, .rne, false, false, false, 0#2, false, 0#4, 0#8⟩
def m0 : MFields := ⟨0#11, 0#11, 0#8, 0#8, .none, 0#3, 0#3, 0#3, 0#4, false⟩
def x0 : XFields := ⟨0#7, 0#4, false, 0#4, 0#4, 0#10, 0#3, false, false, 0#3, false, false⟩
def l0 : LFields := ⟨4#10, 1#10, 2#10, 3#10, 0#2⟩

/-- The instruction's bundle is about to issue in the one team of a task of the PF. -/
def ready (i : Instr) : State := tentative (State.reset.withFetchWord (slotBits i) (encode i)) 1 0

/-- That, with the team changed. -/
def readyT (i : Instr) (g : Team → Team) : State := (ready i).modTeam 1 g

/-- V registers in lanes 0 to 31, by lane and alike. -/
def allV (rs : List (Nat × (Nat → Nat))) : Tab (Tab Word32) :=
  rs.map (fun (e : Nat × (Nat → Nat)) => (e.1, (List.range 32).map (fun (l : Nat) => (l, BitVec.ofNat 32 (e.2 l)))))
def sameV (rs : List (Nat × Nat)) : Tab (Tab Word32) := allV (rs.map (fun (e : Nat × Nat) => (e.1, fun _ => e.2)))
def sRegs (rs : List (Nat × Nat)) : Tab Word64 := rs.map (fun (e : Nat × Nat) => (e.1, BitVec.ofNat 64 e.2))

/-- The same in a bundle of several slots, where a fault is noted. -/
def several (s : State) : State := { s with issue := s.issue.map (fun (b : Issue) => { b with collect := true }) }

/-- The codes of the faults that the slots of the bundle have raised. -/
def raised (s : State) : List FaultCode := (s.issue.map Issue.faults).getD [] |>.map FaultInfo.code

/-- What an instruction answers. -/
def after (i : Instr) (s : State) : State := match exec i s with | .next t => t | _ => {}

/-- Each result in flight: where it lands, lane 0's value, and the flags of all lanes. -/
def results (t : State) : List (Dest × Option Nat × Nat) :=
  (t.team 1).pending.map (fun (r : PendRes) => (r.dest, (Tab.find r.vals 0).map BitVec.toNat, r.flags.toNat))

/-- What a vector instruction gives in lane 0, every lane holding the same values. -/
def vec (i : Instr) (rs : List (Nat × Nat)) : List (Dest × Option Nat × Nat) :=
  results (after i (readyT i (fun (tm : Team) => { tm with vregs := sameV rs })))

/-- The value of each lane of the first result. -/
def lanes (t : State) : List Nat :=
  match (t.team 1).pending with
  | r :: _ => (List.range 32).map (fun (l : Nat) => ((Tab.find r.vals l).getD 0#64).toNat)
  | [] => []

/-- The S register that a scalar instruction writes, and its value. -/
def scalar (i : Instr) (rs : List (Nat × Nat)) : List (Dest × Option Nat) :=
  (results (after i (readyT i (fun (tm : Team) => { tm with sregs := sRegs rs })))).map (fun q => (q.1, q.2.1))

/-- The slot's checks are met. -/
def vOk (i : Instr) (rs : List (Nat × Nat) := []) : Bool :=
  let s := readyT i (fun (tm : Team) => { tm with vregs := sameV rs })
  (ctxOf s).isSome && vecReady s i

/-! ### Words that the spec works out -/

/-- R323, R340, R352, R379, R345, R370, R375: vector words of the examples of chapters 11 to 13. -/
theorem test_decode_vector :
    decodeTableWord 80 0x0000_0040_1802_0020_1033 = some (.vfma { v0 with c := 3#11, fmt := .fp32 }) ∧
    decodeTableWord 80 0x0880_0180_06D0_003A_1C20 =
      some (.vcmp { v0 with d := 0x687#11, b := 0x6D0#11, aux := 0x22#8 }) ∧
    decodeTableWord 80 0x0480_0180_0000_0000_0865 =
      some (.vvote { v0 with d := 2#11, a := 0#11, b := 0#11, aux := 0x12#8 }) ∧
    decodeTableWord 80 0x1400_01C0_0002_0000_2806 =
      some (.vaddc { v0 with d := 10#11, a := 0#11, fmt := .uint32, aux := 0x50#8 }) ∧
    decodeTableWord 80 0x0140_01C0_0003_0020_2C06 =
      some (.vaddc { v0 with d := 11#11, b := 3#11, fmt := .uint32, aux := 5#8 }) ∧
    decodeTableWord 80 0x28C0_0240_0002_0020_2420 =
      some (.vcmp { v0 with d := 9#11, fmt := .int8, aux := 0xA3#8 }) ∧
    decodeTableWord 80 0x0080_0337_0802_0020_2053 =
      some (.vquant { v0 with d := 8#11, c := 0x6E1#11, fmt := .i4x, aux := 2#8 }) ∧
    decodeTableWord 80 0x05C0_0180_0603_0140_3060 =
      some (.vshuf { v0 with d := 12#11, a := 10#11, b := 0x603#11, aux := 0x17#8 }) := by decide +kernel

/-- R324, R314: memory words of the examples of chapters 14, 18 and 19. -/
theorem test_decode_memory :
    decodeTableWord 64 0x9800_4001_0010_0801 =
      some (.tld { m0 with ds := 8#11, a := 2#11, tid := 4#8, fmt := .fp32, flag := 3#4, fe := true }) ∧
    decodeTableWord 64 0x0001_8001_0028_0102 =
      some (.tst { m0 with ds := 1#11, a := 5#11, tid := 4#8, fmt := .int32 }) ∧
    decodeTableWord 64 0x8803_C040_7026_0701 =
      some (.tld { m0 with ds := 0x607#11, a := 0x604#11, tid := 1#8, off := 1#8, fmt := .int64, flag := 1#4, fe := true }) := by
  decide +kernel

/-- R325, R317, R441: command and lining words of the examples of chapter 15. -/
theorem test_decode_x :
    decodeTableWord 48 0x2060_0042_4201 =
      some (.copy { x0 with sd := 8#7, flag := 2#4, fe := true, hb := 1#4, shape := 6#3, follow := true }) ∧
    decodeTableWord 48 0x0060_0002_850B = some (.accout { x0 with sd := 20#7, flag := 4#4, fe := true, shape := 6#3 }) ∧
    decodeTableWord 48 0x4030_0801_0120 = some (.lfma { l0 with cls := 1#2 }) := by decide +kernel

/-- R326, R448, R318: control words of the examples of chapters 16 to 21. -/
theorem test_decode_control :
    decodeTableWord 32 0x0041_8330 = some (.saddi 3 3 1) ∧ decodeTableWord 32 0x0000_0C40 = some (.waitf 0xC#16 false) ∧
    decodeTableWord 32 0x0000_A214 = some (.split 2 10) ∧ decodeTableWord 32 0x0008_1416 = some (.regroup 20 16) ∧
    decodeTableWord 32 0x0000_3403 = some (.brs 4 3) ∧ decodeTableWord 32 0xFFFF_4409 = some (.loop 4 (-12#20)) ∧
    decodeTableWord 32 0x0003_0435 = some (.sli 4 3) ∧ decodeTableWord 32 0x0000_0210 = some (.pushm 2 false) ∧
    decodeTableWord 32 0x00C1_0350 = some (.spawn 3 2 3) ∧ decodeTableWord 32 0x0401_042C = some (.scmp 4 2 16 0) ∧
    decodeTableWord 32 0x01C3_0057 = some (.wrsys 6 7) ∧ decodeTableWord 32 0x0004_8D56 = some (.rdsys 13 9) := by
  decide +kernel

/-- The bundle of chapter 11's example, its eight words joined. -/
def exampleBundle : Nat := 0x0041_8330_0000_0000_0000_0000_0000_0000_0000_0000_0040_1802_0020_1033_9000_0204

/-- R307, R308, R309: an FMA guarded by P2 and a scalar increment with gap 5. -/
theorem test_decode_bundle : decodeBundle exampleBundle =
    { hdr := { (headerOf 0) with gap := 4#5, gv := 2#4, sv := true, sc := true }
      v := some (.vfma { v0 with c := 3#11, fmt := .fp32 }), m := none, x := none, c := some (.saddi 3 3 1) } := by
  decide +kernel

/-- R309, R312, R321, R323, R327: the variants of that bundle fault as the example says. -/
theorem test_bundle_variants :
    wellFormedBundle exampleBundle = true ∧
    decodeFault widestLaunch (exampleBundle + 2 ^ 110) = some (.reservedField, .v) ∧
    decodeFault widestLaunch (exampleBundle + 2 ^ 14) = some (.reservedField, .none) ∧
    decodeFault widestLaunch (exampleBundle + 6 * 2 ^ 32) = some (.illegalOp, .v) ∧
    decodeFault { widestLaunch with n := 64 } (exampleBundle + 0x3F * 2 ^ 53) = some (.regBounds, .v) ∧
    decodeFault { widestLaunch with n := 64 } (exampleBundle + 0x73F * 2 ^ 53) = none ∧
    decodeFault widestLaunch 0 = some (.illegalOp, .none) := by decide +kernel

/-! ### The decode checks: an ill-formed term for each -/

/-- The checks find exactly this fault and no other, under launch constants. -/
def refusedAs (l : Launch) (i : Instr) (c : FaultCode) : Bool :=
  let fs := (slotFaults l i).map Prod.snd
  !fs.isEmpty && fs.all (fun (d : FaultCode) => d == c)

def small : Launch := { n := 64, w := 64, priv := false, mask := 0x3FFF#14 }

/-- R313, R340: unused operands, formats, control fields, MOD, KEEP, LAT and AUX of the vector slot. -/
theorem test_ill_vector_fields :
    wellFormed (.vadd v0) = true ∧
    refusedAs widestLaunch (.vadd { v0 with c := 1#11 }) .reservedField = true ∧
    refusedAs widestLaunch (.plogic { v0 with a := 0x601#11, b := 0#11, fmt := .uint32 }) .reservedField = true ∧
    refusedAs widestLaunch (.vvote { v0 with b := 0#11 }) .reservedField = true ∧
    refusedAs widestLaunch (.vnot v0) .reservedField = true ∧
    refusedAs widestLaunch (.vadd { v0 with fmt := .fp32 }) .reservedField = true ∧
    refusedAs widestLaunch (.vadd { v0 with rnd := .rz }) .reservedField = true ∧
    refusedAs widestLaunch (.vadd { v0 with fzi := true }) .reservedField = true ∧
    refusedAs widestLaunch (.vadd { v0 with fzo := true }) .reservedField = true ∧
    refusedAs widestLaunch (.vmulh { v0 with sat := true }) .reservedField = true ∧
    refusedAs widestLaunch (.vadd { v0 with mod := 1#4 }) .reservedField = true ∧
    refusedAs widestLaunch (.vadd { v0 with keep := 3#2 }) .reservedField = true ∧
    refusedAs widestLaunch (.vadd { v0 with d := 0x687#11, lat := true, a := 2#11, b := 4#11, fmt := .int64 }) .reservedField = true ∧
    refusedAs widestLaunch (.vadd { v0 with aux := 1#8 }) .reservedField = true ∧
    refusedAs widestLaunch (.vsel { v0 with aux := 0x20#8 }) .reservedField = true := by decide +kernel

/-- R231, R232, R286, R294, R319, R321: operand codes of the vector slot. -/
theorem test_ill_vector_operands :
    refusedAs widestLaunch (.vadd { v0 with a := 0x68C#11 }) .illegalOperand = true ∧
    refusedAs widestLaunch (.vadd { v0 with a := 0x684#11, b := 2#11, fmt := .int64 }) .illegalOperand = true ∧
    refusedAs widestLaunch (.vadd { v0 with b := 0x6C0#11, fmt := .uint8 }) .illegalOperand = true ∧
    refusedAs widestLaunch (.vadd { v0 with a := 2#11, b := 3#11, fmt := .int64 }) .illegalOperand = true ∧
    refusedAs widestLaunch (.vadd { v0 with d := 0x6D0#11 }) .illegalOperand = true ∧
    refusedAs widestLaunch (.vadd { v0 with lat := true }) .illegalOperand = true ∧
    refusedAs { widestLaunch with n := 64 } (.vadd { v0 with d := 64#11 }) .regBounds = true ∧
    (slotFaults { widestLaunch with n := 64 } (.vadd { v0 with d := 63#11 })).isEmpty = true ∧
    refusedAs { widestLaunch with n := 64 } (.vadd { v0 with b := 64#11 }) .regBounds = true := by decide +kernel

/-- R352, R355, R365, R369, R370, R373, R377, R378, R380, R381, R382: the checks of single vector instructions. -/
theorem test_ill_vector_single :
    refusedAs widestLaunch (.vcmp { v0 with aux := 0x70#8 }) .reservedField = true ∧
    refusedAs widestLaunch (.vmovp { v0 with d := 0#11, b := 0#11, aux := 0x10#8 }) .illegalOperand = true ∧
    refusedAs widestLaunch (.vcvt { v0 with b := 0#11, aux := 6#8 }) .reservedField = true ∧
    refusedAs widestLaunch (.vunpk { v0 with b := 0#11, aux := 0x48#8 }) .reservedField = true ∧
    wellFormed (.vpack { v0 with fmt := .int8, aux := 8#8, c := 3#11, sat := true }) = true ∧
    refusedAs widestLaunch (.vpack { v0 with fmt := .int8, aux := 0x18#8, c := 3#11, sat := true }) .reservedField = true ∧
    refusedAs widestLaunch (.vdeq { v0 with fmt := .fp32, aux := 6#8 }) .reservedField = true ∧
    refusedAs widestLaunch (.vquant { v0 with fmt := .i4x, aux := 1#8, c := 3#11 }) .reservedField = true ∧
    refusedAs widestLaunch (.vshuf { v0 with aux := 0x2C#8 }) .reservedField = true ∧
    refusedAs { widestLaunch with w := 64 } (.vshuf { v0 with aux := 0x1C#8 }) .illegalOperand = true ∧
    refusedAs widestLaunch (.vperm { v0 with aux := 0x2C#8 }) .reservedField = true ∧
    refusedAs widestLaunch (.vbcast v0) .illegalOperand = true ∧
    refusedAs widestLaunch (.vred { v0 with b := 0#11, aux := 6#8 }) .reservedField = true ∧
    refusedAs widestLaunch (.vscan { v0 with b := 0#11, fmt := .fp32, aux := 3#8 }) .reservedField = true ∧
    refusedAs widestLaunch (.vgeti { v0 with a := 0x600#11 }) .illegalOperand = true ∧
    refusedAs widestLaunch (.vgeti { v0 with a := 1535#11, aux := 1#8 }) .regBounds = true ∧
    refusedAs widestLaunch (.vseti { v0 with d := 0x687#11 }) .illegalOperand = true ∧
    refusedAs widestLaunch (.vseti { v0 with d := 1535#11, aux := 1#8 }) .regBounds = true ∧
    refusedAs widestLaunch (.plogic { v0 with d := 0#11, b := 0#11, fmt := .uint32 }) .illegalOperand = true ∧
    refusedAs widestLaunch (.psetl { v0 with d := 0#11, b := 0#11 }) .illegalOperand = true ∧
    refusedAs widestLaunch (.psetl { v0 with d := 0#11, b := 0#11, aux := 0x31#8 }) .reservedField = true := by decide +kernel

/-- R315, R384, R385, R391-R410: the memory slot. -/
theorem test_ill_memory :
    wellFormed (.tld { m0 with fe := true }) = true ∧
    refusedAs widestLaunch (.invro { m0 with ds := 1#11 }) .reservedField = true ∧
    refusedAs widestLaunch (.rstat { m0 with ds := 0x601#11, fmt := .int64, a := 1#11 }) .reservedField = true ∧
    refusedAs widestLaunch (.sld { m0 with tid := 1#8 }) .reservedField = true ∧
    refusedAs widestLaunch (.aadd { m0 with fmt := .int32, fe := true, cnt := 1#3 }) .reservedField = true ∧
    refusedAs widestLaunch (.gskip { m0 with a := 0x601#11, off := 4#8 }) .reservedField = true ∧
    refusedAs widestLaunch (.aadd { m0 with fmt := .fp32, fe := true }) .reservedField = true ∧
    refusedAs widestLaunch (.tld { m0 with fe := true, cache := 5#3 }) .reservedField = true ∧
    refusedAs widestLaunch (.tld { m0 with fe := true, scope := 2#3 }) .reservedField = true ∧
    refusedAs widestLaunch (.tst { m0 with flag := 1#4 }) .reservedField = true ∧
    refusedAs widestLaunch (.sld { m0 with fe := true }) .reservedField = true ∧
    refusedAs widestLaunch (.tst { m0 with fmt := .int64, cnt := 4#3 }) .reservedField = true ∧
    refusedAs widestLaunch (.tld { m0 with fe := true, scope := 1#3, cache := 4#3 }) .reservedField = true ∧
    refusedAs { widestLaunch with mask := 0x800#14 } (.tld { m0 with fe := true, scope := 1#3 }) .featureMasked = true ∧
    refusedAs widestLaunch (.tst { m0 with scope := 1#3 }) .reservedField = true ∧
    refusedAs widestLaunch (.tred { m0 with fmt := .int32, scope := 1#3 }) .reservedField = true ∧
    refusedAs widestLaunch (.tred { m0 with fmt := .fp32, off := 3#8 }) .reservedField = true ∧
    refusedAs widestLaunch (.rel { m0 with ds := 0x601#11, fmt := .int64 }) .illegalOperand = true ∧
    refusedAs widestLaunch (.gcfg { m0 with a := 0x67D#11 }) .illegalOperand = true ∧
    refusedAs widestLaunch (.tld m0) .illegalOperand = true ∧
    refusedAs widestLaunch (.sst { m0 with ds := 0x687#11 }) .illegalOperand = true ∧
    refusedAs widestLaunch (.sld { m0 with ds := 0x601#11, cnt := 1#3 }) .illegalOperand = true ∧
    refusedAs widestLaunch (.sst { m0 with ds := 0x67F#11, cnt := 1#3 }) .illegalOperand = true ∧
    refusedAs widestLaunch (.radv { m0 with a := 0x6D0#11 }) .illegalOperand = true ∧
    refusedAs widestLaunch (.sld { m0 with ds := 1#11, fmt := .int64 }) .illegalOperand = true ∧
    refusedAs { widestLaunch with n := 64 } (.sld { m0 with ds := 63#11, cnt := 1#3 }) .regBounds = true ∧
    refusedAs { widestLaunch with n := 64 } (.sld { m0 with a := 64#11 }) .regBounds = true := by decide +kernel

/-- R317, R411, R421, R422, R429, R441, R444: the X slot. -/
theorem test_ill_x :
    wellFormed (.copy { x0 with sd := 8#7 }) = true ∧
    refusedAs widestLaunch (.accz { x0 with sd := 1#7 }) .reservedField = true ∧
    refusedAs widestLaunch (.copy { x0 with flag := 1#4 }) .reservedField = true ∧
    refusedAs widestLaunch (.copy { x0 with ha := 1#4 }) .reservedField = true ∧
    refusedAs widestLaunch (.fill { x0 with acc := 1#10 }) .reservedField = true ∧
    refusedAs widestLaunch (.copy { x0 with shape := 1#3 }) .reservedField = true ∧
    refusedAs widestLaunch (.mma { x0 with shape := 7#3 }) .reservedField = true ∧
    refusedAs widestLaunch (.lvreq { x0 with fe := true, shape := 3#3 }) .reservedField = true ∧
    refusedAs widestLaunch (.lvreq { x0 with fe := true, hb := 1#4 }) .reservedField = true ∧
    refusedAs widestLaunch (.lvreq { x0 with fe := true, acc := 3#10 }) .reservedField = true ∧
    refusedAs widestLaunch (.fill { x0 with acq := true }) .reservedField = true ∧
    refusedAs widestLaunch (.accz { x0 with rel := true }) .reservedField = true ∧
    refusedAs widestLaunch (.copys { x0 with atom := true }) .reservedField = true ∧
    refusedAs widestLaunch (.fill { x0 with follow := true }) .reservedField = true ∧
    refusedAs widestLaunch (.copy { x0 with acq := true, scope := 6#3 }) .reservedField = true ∧
    refusedAs widestLaunch (.copy { x0 with scope := 1#3 }) .reservedField = true ∧
    refusedAs { widestLaunch with mask := 2#14 } (.coll x0) .featureMasked = true ∧
    refusedAs widestLaunch (.coll { x0 with sd := 124#7 }) .illegalOperand = true ∧
    refusedAs widestLaunch (.lvreq x0) .illegalOperand = true ∧
    refusedAs widestLaunch (.lfma { l0 with cls := 3#2 }) .reservedField = true ∧
    refusedAs widestLaunch (.ladd l0) .reservedField = true ∧
    refusedAs widestLaunch (.llogic l0) .reservedField = true := by decide +kernel

/-- R456-R472: the control slot. -/
theorem test_ill_control :
    wellFormed (.scmp 1 2 3 6) = true ∧
    refusedAs widestLaunch (.scmp 1 2 3 7) .reservedField = true ∧
    refusedAs widestLaunch (.sshli 1 2 64) .reservedField = true ∧
    refusedAs widestLaunch (.sshri 1 2 64) .reservedField = true ∧
    refusedAs widestLaunch (.waitf 0 false) .reservedField = true ∧
    refusedAs widestLaunch (.clrf 0) .reservedField = true ∧
    refusedAs widestLaunch (.bar 0 17) .reservedField = true ∧
    refusedAs widestLaunch (.regroup 1 125) .illegalOperand = true ∧
    refusedAs widestLaunch (.rdsr 1 0x11) .illegalOperand = true ∧
    refusedAs widestLaunch (.wrsr 1 0x110) .illegalOperand = true ∧
    refusedAs widestLaunch (.lcmp 0x600) .illegalOperand = true ∧
    refusedAs { widestLaunch with n := 64 } (.lcmp 64) .regBounds = true ∧
    refusedAs small (.rdsys 1 2) .privileged = true ∧ refusedAs small (.wrsys 1 2) .privileged = true ∧
    refusedAs small (.dbgsplit 1 2 3) .privileged = true ∧ refusedAs small (.step 1 2 3) .privileged = true ∧
    refusedAs small (.dbgres 1 2 3) .privileged = true ∧ refusedAs small (.spawn 1 2 3) .featureMasked = true := by
  decide +kernel

/-- R101, R309, R310, R318, R322: the header, absent slots, LNG and two reads of one ring in a bundle. -/
theorem test_ill_bundles :
    decodeFault widestLaunch (2 ^ 29 + 1) = some (.illegalOp, .m) ∧
    decodeFault widestLaunch (2 ^ 32 + 1) = some (.reservedField, .v) ∧
    decodeFault widestLaunch (2 ^ 7 + 1) = some (.reservedField, .none) ∧
    decodeFault widestLaunch (slotBundle 48 (encode (.lfma { l0 with cls := 1#2 })) - 2 ^ 7) = some (.illegalOp, .x) ∧
    decodeFault widestLaunch (slotBundle 48 (encode (.copy x0)) + 2 ^ 7) = some (.illegalOp, .x) ∧
    decodeFault { widestLaunch with mask := 1#14, first := true, lining := true } 1 = some (.featureMasked, .none) ∧
    decodeFault widestLaunch (slotBundle 80 (encode (.vadd { v0 with a := 0x680#11, b := 0x680#11 }))) =
      some (.illegalOperand, .v) ∧
    decodeFault widestLaunch (slotBundle 80 (encode (.vadd { v0 with a := 0x680#11, b := 0x681#11 }))) = none ∧
    wellFormedBundle (slotBundle 32 (encode (.sshli 1 2 64))) = false := by decide +kernel

/-! ### Vector instructions: single steps -/

def i8 : VFields := { v0 with fmt := .int8 }
def bf : VFields := { v0 with fmt := .bf16 }
def f32 : VFields := { v0 with fmt := .fp32 }
def one1 : VFields := { v0 with b := 0#11 }
def f1 : VFields := { f32 with b := 0#11 }

/-- R344: INT8x4 elements 0x80, 0xFF, 0x01, 0x7F and 0x80, 0xFF, 0x01, 0x01; the sums wrap, or clamp with SATD. -/
theorem test_vadd : vec (.vadd i8) [(1, 0x7F01FF80), (2, 0x0101FF80)] = [(.vreg 4, some 0x8002FE00, 0)] ∧
    vec (.vadd { i8 with sat := true }) [(1, 0x7F01FF80), (2, 0x0101FF80)] = [(.vreg 4, some 0x7F02FE80, 32)] := by
  decide +kernel
/-- R344: 0 - 1 under UINT32, and clamped. -/
theorem test_vsub : vec (.vsub { v0 with fmt := .uint32 }) [(1, 0), (2, 1)] = [(.vreg 4, some 0xFFFFFFFF, 0)] ∧
    vec (.vsub { v0 with fmt := .uint32, sat := true }) [(1, 0), (2, 1)] = [(.vreg 4, some 0, 32)] := by decide +kernel
/-- R344: 0xFFFF × 2 in each INT16 half is -2, and -1 × 0x10000 under INT32. -/
theorem test_vmul : vec (.vmul { v0 with fmt := .int16 }) [(1, 0xFFFF0003), (2, 0x00020002)] = [(.vreg 4, some 0xFFFE0006, 0)] ∧
    vec (.vmul { v0 with fmt := .int16, sat := true }) [(1, 0x7FFF8000), (2, 0x00020002)] = [(.vreg 4, some 0x7FFF8000, 32)] := by
  decide +kernel
/-- R344: the upper half of -1 × 1 is all ones, and of 2^31 × 4 unsigned it is 2. -/
theorem test_vmulh : vec (.vmulh v0) [(1, 0xFFFFFFFF), (2, 1)] = [(.vreg 4, some 0xFFFFFFFF, 0)] ∧
    vec (.vmulh { v0 with fmt := .uint32 }) [(1, 0x80000000), (2, 4)] = [(.vreg 4, some 2, 0)] := by decide +kernel
/-- R344: 3 × -4 + 5. -/
theorem test_vmad : vec (.vmad { v0 with c := 3#11 }) [(1, 3), (2, 0xFFFFFFFC), (3, 5)] = [(.vreg 4, some 0xFFFFFFF9, 0)] := by
  decide +kernel
/-- R345: the example's low words, with the carry out in P5, and its high words, without a carry in. -/
theorem test_vaddc : vec (.vaddc { v0 with fmt := .uint32, aux := 0x50#8 }) [(1, 0xFFFFFFF0), (2, 0x20)] =
      [(.vreg 4, some 0x10, 0), (.pred 5, some 1, 0)] ∧
    vec (.vaddc { v0 with fmt := .uint32, aux := 0x50#8 }) [(1, 5), (2, 7)] =
      [(.vreg 4, some 12, 0), (.pred 5, some 0, 0)] := by decide +kernel
/-- R345: 1 - 2 borrows. -/
theorem test_vsubb : vec (.vsubb { v0 with fmt := .uint32, aux := 0x60#8 }) [(1, 1), (2, 2)] =
    [(.vreg 4, some 0xFFFFFFFF, 0), (.pred 6, some 1, 0)] := by decide +kernel
/-- R344: INT8 -1 against 1, and as UINT8. -/
theorem test_vmin : vec (.vmin i8) [(1, 0x000001FF), (2, 0x0000FF01)] = [(.vreg 4, some 0x0000FFFF, 0)] ∧
    vec (.vmin { i8 with fmt := .uint8 }) [(1, 0x01FF), (2, 0xFF01)] = [(.vreg 4, some 0x0101, 0)] := by decide +kernel
theorem test_vmax : vec (.vmax i8) [(1, 0x000001FF), (2, 0x0000FF01)] = [(.vreg 4, some 0x0101, 0)] := by decide +kernel
/-- R344: |-128 - 127| = 255 gives 0xFF, and 127 with SATD under SAT. -/
theorem test_vabsd : vec (.vabsd i8) [(1, 0x80), (2, 0x7F)] = [(.vreg 4, some 0xFF, 0)] ∧
    vec (.vabsd { i8 with sat := true }) [(1, 0x80), (2, 0x7F)] = [(.vreg 4, some 0x7F, 32)] := by decide +kernel
/-- R346: 10 + 1·5 + 2·6 + 3·7 + (-1)·8, and with B unsigned -1·255 in place of -1·-1. -/
theorem test_vdot4 : vec (.vdot4 { i8 with c := 3#11 }) [(1, 0xFF030201), (2, 0x08070605), (3, 10)] = [(.vreg 4, some 40, 0)] ∧
    vec (.vdot4 { i8 with c := 3#11, aux := 1#8 }) [(1, 0xFF), (2, 0xFF), (3, 0)] = [(.vreg 4, some 0xFFFFFF01, 0)] := by
  decide +kernel
/-- R347: the example's mask. -/
theorem test_vand : vec (.vand { v0 with fmt := .none }) [(1, 0x02807F05), (2, 0xFFFF00FF)] = [(.vreg 4, some 0x02800005, 0)] := by
  decide +kernel
theorem test_vor : vec (.vor v0) [(1, 0xF0F0), (2, 0x0FF0)] = [(.vreg 4, some 0xFFF0, 0)] := by decide +kernel
theorem test_vxor : vec (.vxor v0) [(1, 0xF0F0), (2, 0x0FF0)] = [(.vreg 4, some 0xFF00, 0)] := by decide +kernel
theorem test_vandn : vec (.vandn v0) [(1, 0xF0F0), (2, 0x0FF0)] = [(.vreg 4, some 0xF000, 0)] := by decide +kernel
theorem test_vnot : vec (.vnot one1) [(1, 0xF0F0)] = [(.vreg 4, some 0xFFFF0F0F, 0)] := by decide +kernel
/-- R348: element by element; a count of the width or more gives 0. -/
theorem test_vshl : vec (.vshl i8) [(1, 0x81818181), (2, 0x08070100)] = [(.vreg 4, some 0x00800281, 0)] := by decide +kernel
theorem test_vshr : vec (.vshr i8) [(1, 0x81818181), (2, 0x08070100)] = [(.vreg 4, some 0x00014081, 0)] := by decide +kernel
/-- R348: a count of the width or more gives copies of the sign bit. -/
theorem test_vsar : vec (.vsar i8) [(1, 0x81418181), (2, 0xFF070100)] = [(.vreg 4, some 0xFF00C081, 0)] := by decide +kernel
theorem test_vrot : vec (.vrot i8) [(1, 0x81818181), (2, 0x09080100)] = [(.vreg 4, some 0x03810381, 0)] := by decide +kernel
/-- R349: 8 bits at 4 of 0xFF0, sign-extended under INT32; a field that reaches past bit 31 is cut there. -/
theorem test_vbfx : vec (.vbfx v0) [(1, 0xFF0), (2, 0x0804)] = [(.vreg 4, some 0xFFFFFFFF, 0)] ∧
    vec (.vbfx { v0 with fmt := .uint32 }) [(1, 0xF0000000), (2, 0x3F1C)] = [(.vreg 4, some 0xF, 0)] := by decide +kernel
theorem test_vbfi : vec (.vbfi { v0 with c := 3#11 }) [(1, 0xAB), (2, 0x0808), (3, 0xFFFFFFFF)] =
      [(.vreg 4, some 0xFFFFABFF, 0)] ∧
    vec (.vbfi { v0 with c := 3#11 }) [(1, 0xAB), (2, 0x0008), (3, 0x1234)] = [(.vreg 4, some 0x1234, 0)] := by decide +kernel
/-- R350. -/
theorem test_vpopc : vec (.vpopc { i8 with b := 0#11 }) [(1, 0xFF0103AA)] = [(.vreg 4, some 0x08010204, 0)] := by decide +kernel
theorem test_vclz : vec (.vclz { i8 with b := 0#11 }) [(1, 0xFF010300)] = [(.vreg 4, some 0x00070608, 0)] := by decide +kernel
theorem test_vbrev : vec (.vbrev one1) [(1, 0x00000003)] = [(.vreg 4, some 0xC0000000, 0)] := by decide +kernel
/-- R351: 0xCA is (a AND b) OR (NOT a AND c); 0x96 is XOR. -/
theorem test_vlop3 : vec (.vlop3 { v0 with c := 3#11, aux := 0xCA#8 }) [(1, 0xFF00), (2, 0xABCD), (3, 0x1234)] =
      [(.vreg 4, some 0xAB34, 0)] ∧
    vec (.vlop3 { v0 with c := 3#11, aux := 0x96#8 }) [(1, 0xF0), (2, 0xCC), (3, 0xAA)] = [(.vreg 4, some 0x96, 0)] := by
  decide +kernel
/-- R352: the example, with and without ANY. -/
theorem test_vcmp : vec (.vcmp { i8 with aux := 0xA3#8 }) [(1, 0x02807F05), (2, 0x03018006)] =
      [(.vreg 4, some 0xFFFF00FF, 0), (.pred 3, some 1, 0)] ∧
    vec (.vcmp { i8 with aux := 0x23#8, fmt := .uint8 }) [(1, 0x02807F05), (2, 0x03018006)] =
      [(.vreg 4, some 0xFF00FFFF, 0), (.pred 3, some 0, 0)] := by decide +kernel
/-- R353, R354, R355: P0 holds; under NEG the other operand is taken. -/
theorem test_vsel : vec (.vsel v0) [(1, 7), (2, 9)] = [(.vreg 4, some 7, 0)] ∧
    vec (.vsel { v0 with aux := 0x10#8 }) [(1, 7), (2, 9)] = [(.vreg 4, some 9, 0)] := by decide +kernel
theorem test_vmov : vec (.vmov one1) [(1, 7)] = [(.vreg 4, some 7, 0)] ∧
    vec (.vmov { one1 with a := 0x6E1#11, fmt := .fp32 }) [] = [(.vreg 4, some 0x3F800000, 0)] := by decide +kernel
theorem test_vmovp : vec (.vmovp { one1 with a := 0#11 }) [] = [(.vreg 4, some 1, 0)] ∧
    vec (.vmovp { one1 with d := 0#11, aux := 0x12#8 }) [(1, 0x80000000)] = [(.pred 2, some 1, 0)] := by decide +kernel
/-- R356: E4M3 NaN, -0, the smallest subnormal and 1; a BF16 signalling NaN and -∞. -/
theorem test_vfclass : vec (.vfclass { f1 with fmt := .e4m3 }) [(1, 0x3801807F)] = [(.vreg 4, some 0x08070501, 0)] ∧
    vec (.vfclass { f1 with fmt := .bf16 }) [(1, 0xFF807F81)] = [(.vreg 4, some 0x00020000, 0)] := by decide +kernel
/-- R359: +0 from a cancellation under RNE and -0 under RDN; ∞ - ∞. -/
theorem test_vfadd : vec (.vfadd f32) [(1, 0x3F800000), (2, 0xBF800000)] = [(.vreg 4, some 0, 0)] ∧
    vec (.vfadd { f32 with rnd := .rdn }) [(1, 0x3F800000), (2, 0xBF800000)] = [(.vreg 4, some 0x80000000, 0)] := by
  decide +kernel
theorem test_vfsub : vec (.vfsub f32) [(1, 0x7F800000), (2, 0x7F800000)] = [(.vreg 4, some 0x7FC00000, 1)] ∧
    vec (.vfsub f32) [(1, 0x40000000), (2, 0x3F800000)] = [(.vreg 4, some 0x3F800000, 0)] := by decide +kernel
/-- R359, R301: the example's product rounded up; the greatest FP32 doubled overflows with NX, or is clamped with SATD. -/
theorem test_vfmul : vec (.vfmul { bf with rnd := .rup, b := 1#11 }) [(1, 0x3F813F81)] = [(.vreg 4, some 0x3F833F83, 16)] ∧
    vec (.vfmul f32) [(1, 0x7F7FFFFF), (2, 0x40000000)] = [(.vreg 4, some 0x7F800000, 20)] := by decide +kernel
/-- R359: the example's two rows. -/
theorem test_vfma : vec (.vfma { bf with b := 1#11, c := 2#11 }) [(1, 0x3F813F81), (2, 0xBF80BF80)] =
      [(.vreg 4, some 0x3C803C80, 16)] ∧
    vec (.vfma { bf with b := 1#11, c := 2#11, rnd := .rup }) [(1, 0x3F813F81), (2, 0xBF80BF80)] =
      [(.vreg 4, some 0x3C813C81, 16)] := by decide +kernel
/-- R359: -0 is less than +0, and a NaN gives way to a number. -/
theorem test_vfmin : vec (.vfmin f32) [(1, 0), (2, 0x80000000)] = [(.vreg 4, some 0x80000000, 0)] ∧
    vec (.vfmin f32) [(1, 0x7FC00000), (2, 0x3F800000)] = [(.vreg 4, some 0x3F800000, 0)] := by decide +kernel
theorem test_vfmax : vec (.vfmax f32) [(1, 0x80000000), (2, 0)] = [(.vreg 4, some 0, 0)] ∧
    vec (.vfmax f32) [(1, 0x7F800001), (2, 0x3F800000)] = [(.vreg 4, some 0x3F800000, 1)] := by decide +kernel
/-- R360: zeros of both signs are equal; a quiet NaN makes `.lt` false with NV, and `.un` true without. -/
theorem test_vfcmp : vec (.vfcmp { f32 with aux := 2#8 }) [(1, 0), (2, 0x80000000)] =
      [(.vreg 4, some 0xFFFFFFFF, 0), (.pred 2, some 1, 0)] ∧
    vec (.vfcmp { f32 with aux := 0x22#8 }) [(1, 0x7FC00000), (2, 0)] = [(.vreg 4, some 0, 1), (.pred 2, some 0, 0)] := by
  decide +kernel
/-- R361: 1 + 2·3 + 4·5 in BF16. -/
theorem test_vfdot2 : vec (.vfdot2 { bf with c := 3#11 }) [(1, 0x40804000), (2, 0x40A04040), (3, 0x3F800000)] =
    [(.vreg 4, some 0x41D80000, 0)] := by decide +kernel
/-- R361: four products of 1.0 and 2.0 in E4M3, and 1. -/
theorem test_vfdot4 : vec (.vfdot4 { f32 with fmt := .e4m3, c := 3#11 }) [(1, 0x38383838), (2, 0x40404040), (3, 0x3F800000)] =
    [(.vreg 4, some 0x41100000, 0)] := by decide +kernel
/-- R363, R364: 1 divided by 3 under RNE; 1 divided by -0 with DZ. -/
theorem test_vrcp : vec (.vrcp f1) [(1, 0x40400000)] = [(.vreg 4, some 0x3EAAAAAB, 16)] ∧
    vec (.vrcp f1) [(1, 0x80000000)] = [(.vreg 4, some 0xFF800000, 2)] := by decide +kernel
theorem test_vrsq : vec (.vrsq f1) [(1, 0x40800000)] = [(.vreg 4, some 0x3F000000, 0)] ∧
    vec (.vrsq f1) [(1, 0xBF800000)] = [(.vreg 4, some 0x7FC00000, 1)] := by decide +kernel
theorem test_vsqrt : vec (.vsqrt f1) [(1, 0x40000000)] = [(.vreg 4, some 0x3FB504F3, 16)] ∧
    vec (.vsqrt f1) [(1, 0x80000000)] = [(.vreg 4, some 0x80000000, 0)] := by decide +kernel
theorem test_vexp2 : vec (.vexp2 f1) [(1, 0x40A00000)] = [(.vreg 4, some 0x42000000, 0)] ∧
    vec (.vexp2 f1) [(1, 0xFF800000)] = [(.vreg 4, some 0, 0)] := by decide +kernel
theorem test_vlog2 : vec (.vlog2 f1) [(1, 0x3E000000)] = [(.vreg 4, some 0xC0400000, 0)] ∧
    vec (.vlog2 f1) [(1, 0)] = [(.vreg 4, some 0xFF800000, 2)] := by decide +kernel
theorem test_vsinp : vec (.vsinp f1) [(1, 0x3FC00000)] = [(.vreg 4, some 0xBF800000, 0)] ∧
    vec (.vsinp f1) [(1, 0xC0000000)] = [(.vreg 4, some 0x80000000, 0)] := by decide +kernel
theorem test_vcosp : vec (.vcosp f1) [(1, 0x40400000)] = [(.vreg 4, some 0xBF800000, 0)] ∧
    vec (.vcosp f1) [(1, 0x3F000000)] = [(.vreg 4, some 0, 0)] := by decide +kernel
theorem test_vtanh : vec (.vtanh f1) [(1, 0xFF800000)] = [(.vreg 4, some 0xBF800000, 0)] ∧
    vec (.vtanh f1) [(1, 0x80000000)] = [(.vreg 4, some 0x80000000, 0)] := by decide +kernel
/-- R367, R302: FP32 2.5 to INT32 rounds to even; INT32 to FP32. -/
theorem test_vcvt : vec (.vcvt { one1 with aux := 1#8 }) [(1, 0x40200000)] = [(.vreg 4, some 2, 16)] ∧
    vec (.vcvt { f1 with aux := 6#8 }) [(1, 0xFFFFFFFD)] = [(.vreg 4, some 0xC0400000, 0)] := by decide +kernel
/-- R367: the example: 500.0 becomes NaN with OF and NX, or 448 with SATD. -/
theorem test_vpack : vec (.vpack { v0 with d := 7#11, c := 7#11, fmt := .e4m3, aux := 0x11#8 })
      [(1, 0x43FA0000), (2, 0x3F800000), (7, 0x1234)] = [(.vreg 7, some 0x387F1234, 20)] ∧
    vec (.vpack { v0 with d := 7#11, c := 7#11, fmt := .e4m3, aux := 0x11#8, sat := true })
      [(1, 0x43FA0000), (2, 0x3F800000), (7, 0x1234)] = [(.vreg 7, some 0x387E1234, 32)] := by decide +kernel
/-- R367: elements 2 and 3 of INT8x4 widened to INT16x2. -/
theorem test_vunpk : vec (.vunpk { one1 with fmt := .int16, aux := 0x19#8 }) [(1, 0xFE7F0102)] = [(.vreg 4, some 0xFFFE007F, 0)] := by
  decide +kernel
/-- R370, R371: the example. -/
theorem test_vquant : vec (.vquant { v0 with d := 8#11, c := 0x6E1#11, fmt := .i4x, aux := 2#8 })
    [(1, 0x3E80C1A0), (2, 0x40403FC0)] = [(.vreg 8, some 0x3DA8, 16)] := by decide +kernel
/-- R369, R287: the register of the I4X example dequantised times 1: elements 0 and 1 of quad 0 are -20 and 0. -/
theorem test_vdeq : vec (.vdeq { bf with b := 0x6E1#11, aux := 0x0C#8 }) [(1, 0x978F3DA8)] = [(.vreg 4, some 0x0000C1A0, 0)] ∧
    vec (.vdeq { bf with b := 0x6E1#11, aux := 0x3C#8 }) [(1, 0x978F3DA8)] = [(.vreg 4, some 0xC0E040E0, 0)] := by decide +kernel
/-- R288, R368: the scale 0x7C is 1.5, times 2. -/
theorem test_vscale : vec (.vscale { f32 with aux := 1#8 }) [(1, 0x00007C00), (2, 0x40000000)] = [(.vreg 4, some 0x40400000, 0)] := by
  decide +kernel

/-- R375: XOR by 32 leaves a 32-lane segment, and DOWN by 1 takes the next lane's value, the last keeping its own. -/
theorem test_vshuf :
    lanes (after (.vshuf { v0 with d := 12#11, a := 10#11, b := 0x603#11, aux := 0x17#8 })
      (readyT (.vshuf { v0 with d := 12#11, a := 10#11, b := 0x603#11, aux := 0x17#8 })
        (fun (tm : Team) => { tm with vregs := allV [(10, id)], sregs := sRegs [(3, 32)] }))) = List.range 32 ∧
    lanes (after (.vshuf { v0 with b := 0x6D1#11, aux := 0x0A#8 }) (readyT (.vshuf { v0 with b := 0x6D1#11, aux := 0x0A#8 })
        (fun (tm : Team) => { tm with vregs := allV [(1, id)] }))) =
      (List.range 32).map (fun l => if l % 4 = 3 then l else l + 1) := by decide +kernel
/-- R376: every lane of a segment of 4 sends to its place 3 - b. -/
theorem test_vperm : lanes (after (.vperm { v0 with aux := 8#8 }) (readyT (.vperm { v0 with aux := 8#8 })
    (fun (tm : Team) => { tm with vregs := allV [(1, id), (2, fun l => 3 - l % 4)] }))) =
      (List.range 32).map (fun l => l / 4 * 4 + (3 - l % 4)) := by decide +kernel
/-- R377: lane 5 of each segment of 8. -/
theorem test_vbcast : lanes (after (.vbcast { v0 with b := 0x6D5#11, aux := 0x0C#8 })
    (readyT (.vbcast { v0 with b := 0x6D5#11, aux := 0x0C#8 }) (fun (tm : Team) => { tm with vregs := allV [(1, id)] }))) =
      (List.range 32).map (fun l => l / 8 * 8 + 5) := by decide +kernel
/-- R378: the example: 0 + … + 31 = 496; as INT8x4, the sum is clamped. -/
theorem test_vred :
    lanes (after (.vred { one1 with aux := 0x28#8 }) (readyT (.vred { one1 with aux := 0x28#8 })
      (fun (tm : Team) => { tm with vregs := allV [(1, id)] }))) = List.replicate 32 496 ∧
    vec (.vred { one1 with fmt := .int8, sat := true }) [(1, 0x80040300)] = [(.vreg 4, some 0x807F6000, 32)] := by decide +kernel
/-- R378: the sums below each lane in segments of 4, 0 where there is none. -/
theorem test_vscan : lanes (after (.vscan { one1 with aux := 0x90#8 }) (readyT (.vscan { one1 with aux := 0x90#8 })
    (fun (tm : Team) => { tm with vregs := allV [(1, fun _ => 1)] }))) = (List.range 32).map (fun l => l % 4) := by decide +kernel
/-- R379: the ballot of !P2 with P2 in lane 0, and the count of P0. -/
theorem test_vvote :
    lanes (after (.vvote { one1 with a := 0#11, aux := 0x12#8 }) (readyT (.vvote { one1 with a := 0#11, aux := 0x12#8 })
      (fun (tm : Team) => { tm with preds := [(2, 1#1024)] }))) = List.replicate 32 0xFFFFFFFE ∧
    lanes (after (.vvote { one1 with a := 0#11, aux := 0x60#8 }) (ready (.vvote { one1 with a := 0#11, aux := 0x60#8 }))) =
      List.replicate 32 32 := by decide +kernel
/-- R380: V8 + 3 by index, and one past the window of 4 raises REG_BOUNDS. -/
theorem test_vgeti : vec (.vgeti { v0 with a := 8#11, aux := 3#8 }) [(2, 3), (11, 77)] = [(.vreg 4, some 77, 0)] ∧
    raised (after (.vgeti { v0 with a := 8#11, aux := 3#8 }) (several (readyT (.vgeti { v0 with a := 8#11, aux := 3#8 })
      (fun (tm : Team) => { tm with vregs := sameV [(2, 4)] })))) = [.regBounds] := by decide +kernel
theorem test_vseti : vec (.vseti { v0 with d := 8#11, aux := 3#8 }) [(1, 77), (2, 3)] = [(.vreg 11, some 77, 0)] := by
  decide +kernel
/-- R381: P3 := majority of P1, P2 and P0, with P1 false and P2 true. -/
theorem test_plogic : results (after (.plogic { one1 with d := 0#11, a := 0x601#11, fmt := .uint32, aux := 0xE8#8 })
    (readyT (.plogic { one1 with d := 0#11, a := 0x601#11, fmt := .uint32, aux := 0xE8#8 })
      (fun (tm : Team) => { tm with sregs := sRegs [(1, 0x0213)], preds := [(2, 1#1024)] }))) = [(.pred 3, some 1, 0)] := by
  decide +kernel
/-- R382: LID < 20. -/
theorem test_psetl : lanes (after (.psetl { one1 with d := 0#11, a := 0x601#11, fmt := .uint32, aux := 2#8 })
    (readyT (.psetl { one1 with d := 0#11, a := 0x601#11, fmt := .uint32, aux := 2#8 })
      (fun (tm : Team) => { tm with sregs := sRegs [(1, 20)] }))) =
        (List.range 32).map (fun l => if l < 20 then 1 else 0) := by decide +kernel

/-! ### Memory, command and control instructions: single steps -/

def team (t : State) : Team := t.team 1
def path0 (t : State) : Path := (t.team 1).path 0
def crew (t : State) : Crew := t.crew 1

/-- The crew of the ready state with 1 KiB of shared memory, 16 accumulator rows and two rings. -/
def bigCrew : Crew :=
  { task := 1, teams := [1], shmBytes := 1024, accRows := 16, nrings := 2
    rings := [(1, { base := 0, slotsz := 8, slots := 4, fmt := .int32, producer := 3#32, consumer := 1#32 })] }

/-- An instruction is ready in a team of that crew with S registers as given. -/
def readyC (i : Instr) (ss : List (Nat × Nat)) (g : Team → Team := id) (cr : Crew := bigCrew) : State :=
  (readyT i (fun (tm : Team) => g { tm with sregs := sRegs ss, accLim := 16 })).setCrew 1 cr

def runC (i : Instr) (ss : List (Nat × Nat)) (g : Team → Team := id) (cr : Crew := bigCrew) : State :=
  after i (readyC i ss g cr)

/-- R399, R400: each lane loads from its own address plus OFF × 4, and lands after 14 cycles at least. -/
theorem test_sld :
    lanes (runC (.sld { m0 with ds := 4#11, a := 1#11, off := 1#8, fmt := .int32 }) []
      (fun (tm : Team) => { tm with vregs := allV [(1, fun l => 4 * l)] }) { bigCrew with shm := [(4, 7#8), (8, 9#8), (9, 1#8)] }) =
      7 :: 0x109 :: List.replicate 30 0 ∧
    (team (runC (.sld { m0 with ds := 4#11, a := 0x601#11, fmt := .int32 }) [])).pending.map PendRes.due = [14] := by
  decide +kernel
/-- R400: lanes that store to one byte leave the highest lane's value. -/
theorem test_sst :
    (crew (runC (.sst { m0 with ds := 4#11, a := 0x601#11, fmt := .int32 }) [(1, 8)]
      (fun (tm : Team) => { tm with vregs := allV [(4, fun l => 256 + l)] }))).shm = [(8, 31#8), (9, 1#8)] ∧
    raised (after (.sst { m0 with ds := 4#11, a := 0x601#11, fmt := .int32 })
      (several (readyC (.sst { m0 with ds := 4#11, a := 0x601#11, fmt := .int32 }) [(1, 1024)]))) = [.sharedBounds] := by
  decide +kernel
/-- R402: value q = 64·R + W·i + l, here row 2 with W = 32. -/
theorem test_accst :
    let t := runC (.accst { m0 with ds := 4#11, a := 0x6D0#11, off := 2#8, fmt := .fp32, cnt := 1#3 }) []
      (fun (tm : Team) => { tm with vregs := allV [(4, fun l => l), (5, fun l => 100 + l)] })
    Tab.get (crew t).acc 129 0#32 = 1#32 ∧ Tab.get (crew t).acc 165 0#32 = 105#32 := by decide +kernel
theorem test_accld :
    lanes (runC (.accld { m0 with ds := 4#11, a := 0x6D0#11, off := 2#8, fmt := .fp32 }) [] id
      { bigCrew with acc := [(131, 5#32)] }) = 0 :: 0 :: 0 :: 5 :: List.replicate 28 0 := by decide +kernel
/-- R403: a row at ACCLIM. -/
theorem test_acc_window :
    raised (after (.accld { m0 with ds := 4#11, a := 0x6D0#11, off := 16#8, fmt := .fp32 })
      (several (readyC (.accld { m0 with ds := 4#11, a := 0x6D0#11, off := 16#8, fmt := .fp32 }) []))) = [.accWindow] := by
  decide +kernel
/-- R405: two filled slots are consumed; a third is not there. -/
theorem test_radv :
    ((crew (runC (.radv { m0 with a := 0x6D2#11, off := 0x11#8 }) [])).ring 1).consumer = 3#32 ∧
    raised (after (.radv { m0 with a := 0x6D3#11, off := 0x11#8 })
      (several (readyC (.radv { m0 with a := 0x6D3#11, off := 0x11#8 }) []))) = [.ringMisuse] := by decide +kernel
theorem test_rstat : results (runC (.rstat { m0 with ds := 0x605#11, off := 1#8, fmt := .int64 }) []) =
    [(.sreg 5, some 0x1_0000_0003, 0)] := by decide +kernel
/-- R407: BASE 16, LSTRIDE 4, loops 2, 1, 1, 1. -/
theorem test_gcfg :
    (Tab.find (team (runC (.gcfg { m0 with a := 0x604#11, off := 2#8 })
      [(4, 16 + 4 * 2 ^ 32), (5, 0x0001_0001_0001_0002)])).ports 2).map (fun q => (q.pos, q.configured)) = some (0, true) := by
  decide +kernel
/-- R408: 5 vectors on from 0 in a port of 3 vectors. -/
theorem test_gskip :
    (Tab.get (team (runC (.gskip { m0 with a := 0x6D5#11, off := 2#8 }) []
      (fun (tm : Team) => { tm with ports := [(2, { cfg := [0#64, 0x0001_0001_0001_0003#64, 0#64, 0#64], configured := true })] }))).ports 2 {}).pos
        = 2 := by decide +kernel
/-- R410: INVRO empties the read-only L1. -/
theorem test_invro :
    (((after (.invro m0) ((ready (.invro m0)).modCore 0 (fun c => { c with ro := [⟨0, 0, 0#64, 0, []⟩] }))).core 0).ro) = [] := by
  decide +kernel
/-- R401: a shared atomic goes out with one unit for each lane, to be performed 14 cycles on. -/
theorem test_shared_atomic :
    ((runC (.saadd { m0 with ds := 4#11, a := 0x601#11, fmt := .int32, flag := 3#4, fe := true }) [(1, 8)]
      (fun (tm : Team) => { tm with vregs := allV [(4, fun l => l)] })).accesses.map
        (fun (e : Nat × Access) => (e.2.kind, e.2.flag, e.2.todo.length, e.2.earliest))) =
      [(.sharedAtomic 0, some 3, 32, 14)] := by decide +kernel

/-- A lining duplicate in a kernel that enables lining, with LINEBASE 8 and the shadows of V1 to V3 as given. -/
def linReady (i : Instr) (x y z : Nat) : State :=
  (readyT i (fun (tm : Team) => { tm with lineBase := 8, vregs := sameV [(9, x), (10, y), (11, z)] })).modTask 1
    (fun (k : Task) => { k with header := k.header ||| 0x200#64 })
def lin (i : Instr) (x y z : Nat) : List (Dest × Option Nat × Nat) := results (after i (linReady i x y z))

/-- R442: 2 · 3 + 1 from the shadows V9 to V11 into V12, and the other duplicates. -/
theorem test_lfma : lin (.lfma l0) 0x40000000 0x40400000 0x3F800000 = [(.vreg 12, some 0x40E00000, 0)] := by decide +kernel
theorem test_ladd : lin (.ladd { l0 with c := 0#10, cls := 1#2 }) 0x40004000 0x40403F80 0 = [(.vreg 12, some 0x40A04040, 0)] := by
  decide +kernel
theorem test_lmul : lin (.lmul { l0 with c := 0#10, cls := 2#2 }) 0x40003C00 0x42004200 0 = [(.vreg 12, some 0x46004200, 0)] := by
  decide +kernel
theorem test_liadd : lin (.liadd { l0 with c := 0#10, cls := 2#2 }) 0x7F01FF80 0x0101FF80 0 = [(.vreg 12, some 0x8002FE00, 0)] := by
  decide +kernel
theorem test_limul : lin (.limul { l0 with c := 0#10, cls := 1#2 }) 0xFFFF0003 0x00020002 0 = [(.vreg 12, some 0xFFFE0006, 0)] := by
  decide +kernel
theorem test_llogic : lin (.llogic { l0 with c := 0#10, cls := 3#2 }) 0xF0F0 0x0FF0 0 = [(.vreg 12, some 0xF000, 0)] := by
  decide +kernel

/-- R449: branches relative to the bundle. -/
theorem test_br : ((path0 (runC (.br (-1#20)) [])).pc + 32) % 2 ^ 64 = (path0 (ready (.br (-1#20)))).pc := by decide +kernel
theorem test_brp : (path0 (runC (.brp 2 5) [] (fun (tm : Team) => { tm with preds := [(2, 2#1024)] }))).pc =
      (path0 (ready (.brp 2 5))).pc + 160 ∧
    (path0 (runC (.brp 2 5) [])).pc = (path0 (ready (.brp 2 5))).pc + 32 := by decide +kernel
theorem test_brs : (path0 (runC (.brs 4 3) [(4, 2 ^ 63)])).pc = (path0 (ready (.brs 4 3))).pc + 96 ∧
    (path0 (runC (.brs 4 3) [])).pc = (path0 (ready (.brs 4 3))).pc + 32 := by decide +kernel
theorem test_brf : (path0 (runC (.brf 3 4) [] (fun (tm : Team) => { tm with flagSet := 8#16 }))).pc =
    (path0 (ready (.brf 3 4))).pc + 128 := by decide +kernel
theorem test_brm : (path0 (runC (.brm 4) [])).pc = (path0 (ready (.brm 4))).pc + 32 := by decide +kernel
/-- R451: the link register takes the next bundle's address. -/
theorem test_call : results (runC (.call 2 10) []) = [(.sreg 114, some ((path0 (ready (.call 2 10))).pc + 32), 0)] ∧
    (path0 (runC (.call 2 10) [])).pc = (path0 (ready (.call 2 10))).pc + 320 := by decide +kernel
theorem test_ret : (path0 (runC (.ret 5) [(5, 0x1000)])).pc = 0x1000 := by decide +kernel
theorem test_jmpi : (path0 (runC (.jmpi 5 6) [(5, 0x1000), (6, 2)])).pc = 0x1040 ∧
    raised (after (.jmpi 5 6) (several (readyC (.jmpi 5 6) [(5, 0x1008)]))) = [.illegalOperand] := by decide +kernel
/-- R450: at 1 the counter falls to 0 and the loop ends; at 0 nothing is written. -/
theorem test_loop : results (runC (.loop 4 (-12#20)) [(4, 1)]) = [(.sreg 4, some 0, 0)] ∧
    results (runC (.loop 4 (-12#20)) []) = [] := by decide +kernel
/-- R452: the stack under PUSHM, INVM, POPM and SETM, with P2 in lanes 0 to 3. -/
theorem test_pushm : (path0 (runC (.pushm 2 false) [] (fun (tm : Team) => { tm with preds := [(2, 15#1024)] }))).stack = [15#1024] ∧
    raised (after (.pushm 0 false) (several (readyC (.pushm 0 false) []
      (fun (tm : Team) => tm.modPath 0 (fun (p : Path) => { p with stack := List.replicate 64 0#1024 }))))) = [.mstackOvf] := by
  decide +kernel
theorem test_invm : (path0 (runC .invm [] (fun (tm : Team) => tm.modPath 0 (fun (p : Path) => { p with stack := [15#1024] })))).stack =
    [0xFFFFFFF0#1024] := by decide +kernel
theorem test_popm : (path0 (runC .popm [] (fun (tm : Team) => tm.modPath 0 (fun (p : Path) => { p with stack := [1#1024, 15#1024] })))).stack =
      [15#1024] ∧
    raised (after .popm (several (readyC .popm []))) = [.mstackUnf] := by decide +kernel
theorem test_setm : (path0 (runC (.setm 2 true) [] (fun (tm : Team) => { (tm.modPath 0 (fun (p : Path) => { p with stack := [15#1024] })) with
    preds := [(2, 15#1024)] }))).stack = [0xFFFFFFF0#1024] := by decide +kernel
/-- R453: the example's SPLIT: lanes 0 to 9 leave for path 1. -/
theorem test_split : let t := runC (.split 2 10) [] (fun (tm : Team) => { tm with preds := [(2, 0x3FF#1024)] })
    (path0 t).base = 0xFFFFFC00#1024 ∧ ((team t).path 1).base = 0x3FF#1024 ∧
      ((team t).path 1).pc = (path0 (ready (.split 2 10))).pc + 320 := by decide +kernel
/-- R454: a root path without children passes; with a child that has arrived it takes its lanes. -/
theorem test_join : let t := runC .join [] (fun (tm : Team) => { tm with
      paths := [(0, { (tm.path 0) with base := 0xFFFFFC00#1024 }), (1, { kind := .split, parent := 0, base := 0x3FF#1024, arrived := true })] })
    (path0 t).base = 0xFFFFFFFF#1024 ∧ Tab.find (team t).paths 1 = none := by decide +kernel
theorem test_exit : (team (runC .exit [])).retired = true := by decide +kernel
/-- R456: lanes 4 to 7 move to lanes 0 to 3 with V2; Sd counts them. -/
theorem test_regroup :
    let g (tm : Team) : Team := tm.modPath 0 (fun (p : Path) => { p with base := 0xF0#1024 })
    let h (tm : Team) : Team := { g tm with vregs := allV [(2, fun l => 10 * l)] }
    let t := runC (.regroup 20 16) [(16, 2 + 2 ^ 11)] h
    (path0 t).base = 15#1024 ∧ results t = [(.sreg 20, some 4, 0)] ∧
      Tab.get (Tab.get (team t).vregs 2 []) 3 0#32 = 70#32 := by decide +kernel

/-- R457: the scalar table. -/
theorem test_sadd : scalar (.sadd 3 1 2) [(1, 2 ^ 64 - 1), (2, 2)] = [(.sreg 3, some 1)] := by decide +kernel
theorem test_ssub : scalar (.ssub 3 1 2) [(1, 1), (2, 2)] = [(.sreg 3, some (2 ^ 64 - 1))] := by decide +kernel
theorem test_smul : scalar (.smul 3 1 2) [(1, 2 ^ 63), (2, 3)] = [(.sreg 3, some (2 ^ 63))] := by decide +kernel
theorem test_smulh : scalar (.smulh 3 1 2 false) [(1, 2 ^ 64 - 1), (2, 2)] = [(.sreg 3, some 1)] ∧
    scalar (.smulh 3 1 2 true) [(1, 2 ^ 64 - 1), (2, 2)] = [(.sreg 3, some (2 ^ 64 - 1))] := by decide +kernel
theorem test_sand : scalar (.sand 3 1 2) [(1, 12), (2, 10)] = [(.sreg 3, some 8)] := by decide +kernel
theorem test_sor : scalar (.sor 3 1 2) [(1, 12), (2, 10)] = [(.sreg 3, some 14)] := by decide +kernel
theorem test_sxor : scalar (.sxor 3 1 2) [(1, 12), (2, 10)] = [(.sreg 3, some 6)] := by decide +kernel
theorem test_sshl : scalar (.sshl 3 1 2) [(1, 3), (2, 63)] = [(.sreg 3, some (2 ^ 63))] ∧
    scalar (.sshl 3 1 2) [(1, 3), (2, 64)] = [(.sreg 3, some 0)] := by decide +kernel
theorem test_sshr : scalar (.sshr 3 1 2) [(1, 2 ^ 63), (2, 63)] = [(.sreg 3, some 1)] := by decide +kernel
theorem test_ssar : scalar (.ssar 3 1 2) [(1, 2 ^ 63), (2, 64)] = [(.sreg 3, some (2 ^ 64 - 1))] := by decide +kernel
theorem test_smin : scalar (.smin 3 1 2 true) [(1, 2 ^ 64 - 1), (2, 1)] = [(.sreg 3, some (2 ^ 64 - 1))] ∧
    scalar (.smin 3 1 2 false) [(1, 2 ^ 64 - 1), (2, 1)] = [(.sreg 3, some 1)] := by decide +kernel
theorem test_smax : scalar (.smax 3 1 2 true) [(1, 2 ^ 64 - 1), (2, 1)] = [(.sreg 3, some 1)] := by decide +kernel
theorem test_scmp : scalar (.scmp 3 1 2 2) [(1, 2 ^ 63), (2, 0)] = [(.sreg 3, some 1)] ∧
    scalar (.scmp 3 1 2 4) [(1, 2 ^ 63), (2, 0)] = [(.sreg 3, some 0)] := by decide +kernel
theorem test_ssel : scalar (.ssel 3 1 2) [(1, 5), (2, 6), (3, 1)] = [(.sreg 3, some 5)] ∧
    scalar (.ssel 3 1 2) [(1, 5), (2, 6)] = [(.sreg 3, some 6)] := by decide +kernel
theorem test_smov : scalar (.smov 3 1) [(1, 5)] = [(.sreg 3, some 5)] := by decide +kernel
theorem test_sdivu : scalar (.sdivu 3 1 2 true) [(1, 17), (2, 5)] = [(.sreg 3, some 2)] ∧
    scalar (.sdivu 3 1 2 false) [(1, 17)] = [(.sreg 3, some (2 ^ 64 - 1))] := by decide +kernel
/-- R458: IMM is sign-extended. -/
theorem test_saddi : scalar (.saddi 3 1 (-1#10)) [(1, 5)] = [(.sreg 3, some 4)] := by decide +kernel
theorem test_sandi : scalar (.sandi 3 1 (-2#10)) [(1, 2 ^ 63 + 7)] = [(.sreg 3, some (2 ^ 63 + 6))] := by decide +kernel
theorem test_sori : scalar (.sori 3 1 0x200) [] = [(.sreg 3, some (2 ^ 64 - 512))] := by decide +kernel
theorem test_sshli : scalar (.sshli 3 1 63) [(1, 3)] = [(.sreg 3, some (2 ^ 63))] := by decide +kernel
theorem test_sshri : scalar (.sshri 3 1 4) [(1, 0xFF)] = [(.sreg 3, some 15)] := by decide +kernel
/-- R459. -/
theorem test_sli : scalar (.sli 3 0x8000) [] = [(.sreg 3, some (2 ^ 64 - 2 ^ 15))] := by decide +kernel
theorem test_slih : scalar (.slih 3 0xABCD) [(3, 0x1111_2222_3333_4444)] = [(.sreg 3, some 0x1111_2222_ABCD_4444)] := by decide +kernel
theorem test_slix : scalar (.slix 3 0xABCD) [(3, 0x1111_2222_3333_4444)] = [(.sreg 3, some 0x1111_ABCD_3333_4444)] := by decide +kernel
theorem test_sliy : scalar (.sliy 3 0xABCD) [(3, 0x1111_2222_3333_4444)] = [(.sreg 3, some 0xABCD_2222_3333_4444)] := by decide +kernel

/-- R248, R468: ACCLIM, TASKID and MSDEPTH; a 1 clears a STATUS bit; LINEBASE must be a multiple of 16 up to 512. -/
theorem test_rdsr : results (runC (.rdsr 7 3) []) = [(.sreg 7, some 16, 0)] ∧
    results (runC (.rdsr 7 0x0E) [] (fun (tm : Team) => tm.modPath 0 (fun (p : Path) => { p with stack := [1#1024, 3#1024] }))) =
      [(.sreg 7, some 2, 0)] := by decide +kernel
theorem test_wrsr : (team (runC (.wrsr 7 0) [(7, 0x112)] (fun (tm : Team) => { tm with status := 0x133#64 }))).status = 0x21#64 ∧
    (team (runC (.wrsr 7 4) [(7, 512)])).lineBase = 512 := by decide +kernel
/-- R460: WAITF holds the path with stall reason 2 until all its flags are set; CLRF leaves a flag with an operation pending. -/
theorem test_waitf : (path0 (runC (.waitf 0xC false) [] (fun (tm : Team) => { tm with flagSet := 4#16 }))).stall = 2 ∧
    (path0 (runC (.waitf 0xC true) [] (fun (tm : Team) => { tm with flagSet := 4#16 }))).stall ≠ 2 := by decide +kernel
theorem test_clrf : (team (runC (.clrf 0xC) [] (fun (tm : Team) => { tm with flagSet := 0xF#16, flagCount := [(3, 1)] }))).flagSet = 0xB#16 := by
  decide +kernel
/-- R461: a WAITC for 64 bytes waits at 63. -/
theorem test_waitc : (path0 (runC (.waitc 2 5) [(5, 64)] id { bigCrew with chans := [(2, { cwp := 63#64 })] })).waitVal = some 64#64 ∧
    (path0 (runC (.waitc 2 5) [(5, 64)] id { bigCrew with chans := [(2, { cwp := 64#64 })] })).waitVal = none := by decide +kernel
/-- R462: a barrier of two teams holds the first arrival with stall reason 5. -/
theorem test_bar : (path0 (runC (.bar 3 2) [])).stall = 5 ∧ ((crew (runC (.bar 3 2) [])).bar 3).arrived = [0] := by decide +kernel
/-- R463: a SASHP by another team, and a SASHT that waits with stall reason 6. -/
theorem test_sashp : raised (after (.sashp 0 false) (several (readyC (.sashp 0 false) [] id { bigCrew with sash := 1 }))) =
    [.sashViolation] := by decide +kernel
theorem test_sasht : (path0 (runC .sasht [] id { bigCrew with sash := 1 })).stall = 6 := by decide +kernel
/-- R464, R465, R466. -/
theorem test_spawn : (runC (.spawn 3 5 6) [(5, 0x100), (6, 9)]).ops.map Prod.snd =
    [.spawn 1 0 0x100#64 9#64 3 (path0 (ready (.spawn 3 5 6))).pc 0 none] := by decide +kernel
theorem test_signal : (runC (.signal 5 6) [(5, 0x100), (6, 9)]).ops.map Prod.snd = [.signal 1 0 0x100#64 9#64 [] false] := by
  decide +kernel
theorem test_waithem : (path0 (runC (.waithem 5) [(5, 1)])).stall = 21 := by decide +kernel
theorem test_trap : raised (after (.trap 7) (several (ready (.trap 7)))) = [.softwareTrap] := by decide +kernel
theorem test_bkpt : after .bkpt (ready .bkpt) = ready .bkpt := by decide +kernel
/-- R470: an address off the grid raises ALIGN. -/
theorem test_rdsys : raised (after (.rdsys 13 9) (several (readyC (.rdsys 13 9) [(9, 4)]))) = [.align] := by decide +kernel
theorem test_wrsys : raised (after (.wrsys 6 7) (several (readyC (.wrsys 6 7) [(6, 4)]))) = [.align] := by decide +kernel

/-! ### States that meet the hypotheses of the statements: the vector slot -/

def edge : VFields := { v0 with d := 15#11, a := 15#11, b := 0x67F#11, keep := 1#2 }
def edgeC : VFields := { edge with c := 15#11 }
def edge1 : VFields := { edge with b := 0#11 }

def allOk (is : List Instr) : Bool := is.all (fun (i : Instr) => vOk i [(15, 0x7F800001)])

theorem witness_integerArithmetic : allOk [.vadd edge, .vsub { edge with sat := true }, .vmul { edge with fmt := .int4 },
    .vmulh { edge with fmt := .uint8 }, .vmad { edgeC with sat := true }, .vmin { edge with d := 0x687#11 },
    .vmax { edge with d := 0x687#11, lat := true }, .vabsd { edge with d := 14#11, a := 14#11, fmt := .int64 }] = true := by
  decide +kernel

theorem witness_carriesAndDotProducts : allOk [.vaddc { edge with aux := 0xF1#8 }, .vsubb { edge with aux := 0x1F#8 },
    .vdot4 { edgeC with fmt := .int8, aux := 1#8, sat := true }] = true := by decide +kernel

theorem witness_logicAndShifts : allOk [.vand edge, .vor edge, .vxor edge, .vandn edge, .vnot edge1,
    .vlop3 { edgeC with aux := 0xFF#8 }, .vshl edge, .vshr { edge with fmt := .int4 }, .vsar { edge with fmt := .none }, .vrot edge,
    .vbrev { edge1 with d := 14#11, a := 14#11, fmt := .int64 }] = true := by decide +kernel

theorem witness_fieldsAndCounts : allOk [.vbfx edge, .vbfi edgeC, .vpopc edge1, .vclz { edge1 with fmt := .int4 }] = true := by
  decide +kernel

theorem witness_compares : allOk [.vcmp { edge with aux := 0xEF#8 }, .vcmp { edge with fmt := .int4 },
    .vfcmp { edge with fmt := .fp32, aux := 0xFF#8 }, .vfcmp { edge with fmt := .bf16 }] = true := by decide +kernel

theorem witness_movesAndClasses : allOk [.vsel { edge with aux := 0x1F#8 }, .vmov edge1,
    .vmovp { edge1 with a := 0#11, keep := 0#2, aux := 0xF#8 }, .vmovp { edge1 with d := 0#11, aux := 0x1F#8 },
    .vfclass { edge1 with fmt := .e2m1 }] = true := by decide +kernel

/-- A rounding by one place, an exact one, and the three invalid operations with the value that each gives. -/
theorem witness_roundingAndInvalidOperations :
    ((-1 : Int) < 0 ∧ 2 ^ ((0 : Int) - (-1)).toNat ∣ 6) ∧ (FVal.nan true).isNaN = true ∧
    Rounded v0 .fp32 (addV .rne (.nan true) (.fin false 1 0)) [.nan true, .fin false 1 0] 0x7FC00000 flNV ∧
    Rounded v0 .bf16 (mulV (.fin false 1 0) (.nan false)) [.fin false 1 0, .nan false] 0x7FC0 0#6 ∧
    Rounded v0 .fp16 (addV .rne (.inf true) (.inf false)) [.inf true, .inf false] 0x7E00 flNV ∧
    Rounded v0 .fp32 (fmaV .rne (.fin true 0 0) (.inf false) (.nan false)) [.fin true 0 0, .inf false, .nan false] 0x7FC00000 flNV := by
  unfold Rounded
  decide +kernel

theorem witness_floatArithmetic : allOk [.vfadd { edge with fmt := .fp32, rnd := .rdn, sat := true }, .vfsub { edge with fmt := .bf16 },
    .vfmul { edge with fmt := .fp16, fzi := true, fzo := true }, .vfma { edgeC with fmt := .fp32, mod := 15#4 },
    .vfmin { edge with fmt := .fp32, mod := 11#4 }, .vfmax { edge with fmt := .bf16 }] = true := by decide +kernel

theorem witness_floatDotProducts : allOk [.vfdot2 { edgeC with fmt := .bf16 }, .vfdot4 { edgeC with fmt := .e5m2, aux := 1#8 }] = true := by
  decide +kernel

/-- Each special function is ready, and each row of the table has an input: infinities, zeros, negative numbers, and for the
exact rows 2^-126 and 2^127, the powers of two, and ±1.5 and ±2 half-turns. -/
theorem witness_specialFunctions :
    allOk [.vrcp { edge1 with fmt := .fp32 }, .vrsq { edge1 with fmt := .bf16 }, .vsqrt { edge1 with fmt := .fp16 },
      .vexp2 { edge1 with fmt := .fp32 }, .vlog2 { edge1 with fmt := .fp32 }, .vsinp { edge1 with fmt := .fp32 },
      .vcosp { edge1 with fmt := .fp32 }, .vtanh { edge1 with fmt := .fp32, mod := 9#4 }] = true ∧
    (let twice (x : Nat) (h : Int) : Bool := match decodeF .fp32 x with
       | .fin n m d => decide ((if n then -(m : Int) else m) * 2 ^ (d + 1).toNat = h * 2 ^ (-(d + 1)).toNat)
       | _ => false
     let int (x : Nat) (k : Int) : Bool := match decodeF .fp32 x with
       | .fin n m d => decide ((if n then -(m : Int) else m) * 2 ^ d.toNat = k * 2 ^ (-d).toNat)
       | _ => false
     decodeF .fp32 0x7F800000 = .inf false ∧ decodeF .fp32 0xFF800000 = .inf true ∧ decodeF .fp32 0x7FC00000 = .nan false ∧
     int 0xC2FC0000 (-126) = true ∧ int 0x42FE0000 127 = true ∧ twice 0x3FC00000 3 = true ∧ twice 0xBFC00000 (-3) = true ∧
     twice 0x40000000 4 = true ∧ twice 0xC0000000 (-4) = true ∧
     (match decodeF .fp32 0x80000000 with | .fin true 0 _ => true | _ => false) = true ∧
     (match decodeF .fp32 1 with | .fin false m _ => m == 2 ^ 0 | _ => false) = true) := by decide +kernel

theorem witness_conversions : allOk [.vcvt { edge1 with aux := 1#8 }, .vcvt { edge1 with fmt := .uint32, aux := 6#8, sat := true },
    .vunpk { edge1 with fmt := .int16, aux := 0x19#8 }, .vpack { edgeC with fmt := .e4m3, aux := 0x11#8, sat := true }] = true := by
  decide +kernel

/-- VQUANT's four cases of outliers at places 0 and 3, by the rounded values 7.5 (8, out of range) and 7. -/
theorem witness_scalingAndQuantisation :
    allOk [.vscale { edge with fmt := .fp32, aux := 3#8 }, .vdeq { edge with fmt := .bf16, aux := 0x3C#8 },
      .vquant { edgeC with fmt := .i4x, aux := 0x12#8 }, .vquant { edgeC with fmt := .e2m1, aux := 0x21#8 }] = true ∧
    outlier .rne (decodeF .bf16 0x40F0) = true ∧ outlier .rne (decodeF .bf16 0x40E0) = false ∧
    ltV (decodeF .bf16 0x40F0).abs (decodeF .bf16 0xC1A0).abs = true ∧
    ltV (decodeF .bf16 0xC1A0).abs (decodeF .bf16 0x40F0).abs = false := by decide +kernel

/-- The lane moves are ready; under VPERM lane 31 receives from lane 0, the highest that sends to it, and lane 0 from none. -/
theorem witness_laneMoves :
    allOk [.vshuf { edge with aux := 0x17#8 }, .vshuf { edge with aux := 0#8 }, .vshuf { edge with aux := 1#8 },
      .vshuf { edge with aux := 2#8 }, .vbcast { edge with aux := 0x14#8 }, .vvote { edge1 with a := 0#11, keep := 0#2, aux := 0x7F#8 },
      .vvote { edge1 with a := 0#11, keep := 0#2 }] = true ∧
    (let f : VFields := v0
     let s := readyT (.vperm f) (fun (tm : Team) => { tm with vregs := allV [(2, fun l => if l = 0 then 31 else 32)] })
     vecReady s (.vperm f) = true ∧ (opd f.d.toNat).isV = true ∧ f.lat = false ∧ (ctxOf s).any (fun (c : Ctx) =>
       (vecPasses c true).all (fun (p : Pass) => decide (31 ∈ p.lanes) && decide (0 ∈ p.lanes) && p.lanes.all (fun k =>
         (decide (laneIndex s c p f k < 32) && decide (k - k % 32 + laneIndex s c p f k = 31)) == (k == 0)))) = true) := by
  decide +kernel

theorem witness_reductions :
    allOk ([0, 1, 2, 3, 4, 5].flatMap (fun op => [.vred { edge1 with aux := BitVec.ofNat 8 op },
      .vscan { edge1 with aux := BitVec.ofNat 8 (op + 0x80) }])) = true ∧ edge1.fmt.isInt = true ∧
    allOk ([.fp32, .bf16].flatMap (fun g => [0, 1, 2].flatMap (fun op => [.vred { edge1 with fmt := g, aux := BitVec.ofNat 8 op },
      .vscan { edge1 with fmt := g, aux := BitVec.ofNat 8 (op + 0x80) }]))) = true ∧ Fmt.isFloat .fp32 = true ∧
    Fmt.isFloat .bf16 = true ∧
    (let f : VFields := { edge1 with aux := 0x80#8 }
     let s := ready (.vscan f)
     (ctxOf s).any (fun (c : Ctx) => (vecPasses c true).all (fun (p : Pass) => decide (0 ∈ p.lanes) &&
       decide (segOf c (fld f.aux.toNat 3 4) = 2 ^ 5) && Nat.testBit f.aux.toNat 7)) = true) := by decide +kernel

/-- An index at the end of the window and one past it, PLOGIC with bits 15 and 16 of Sk and with no predicate, and PSETL. -/
theorem witness_indirectRegistersAndPredicates :
    (let inWindow (i : Instr) (f : VFields) (s : State) (n : Nat) : Bool := vecReady s i && (ctxOf s).any (fun (c : Ctx) =>
       c.vPasses.all (fun (p : Pass) => p.lanes.all (fun l => operand s c p f.b .none l % 2 ^ 32 == n)) && n == f.aux.toNat)
     let past (i : Instr) (f : VFields) (s : State) : Bool := vecReady s i && (ctxOf s).any (fun (c : Ctx) =>
       c.vPasses.any (fun (p : Pass) => decide (0 ∈ p.lanes) && decide (f.aux.toNat < operand s c p f.b .none 0 % 2 ^ 32)))
     let at_ (i : Instr) (n : Nat) : State := readyT i (fun (tm : Team) => { tm with vregs := sameV [(2, n)] })
     let g : VFields := { v0 with a := 8#11, aux := 7#8 }
     let h : VFields := { v0 with d := 8#11, aux := 7#8 }
     inWindow (.vgeti g) g (at_ (.vgeti g) 7) 7 = true ∧ inWindow (.vseti h) h (at_ (.vseti h) 7) 7 = true ∧
     past (.vgeti g) g (at_ (.vgeti g) 8) = true ∧ past (.vseti h) h (at_ (.vseti h) 8) = true) ∧
    (let pl : VFields := { v0 with d := 0#11, a := 0x601#11, b := 0#11, fmt := .uint32 }
     let with1 (n : Nat) : State := readyT (.plogic pl) (fun (tm : Team) => { tm with sregs := sRegs [(1, n)] })
     let k (s : State) : Nat := ((ctxOf s).map (fun (c : Ctx) => c.sreg (pl.a.toNat - 0x600))).getD 0
     (ctxOf (with1 0)).any (fun (c : Ctx) => !idle c.vPasses) = true ∧
     k (with1 0xFFFF) < 2 ^ 16 ∧ fld (k (with1 0xFFFF)) 0 4 ≠ 0 ∧ 2 ^ 16 ≤ k (with1 0x10001) ∧ fld (k (with1 0xFFF0)) 0 4 = 0) ∧
    allOk [.psetl { edge1 with d := 0#11, fmt := .uint32, aux := 0x2F#8 }, .psetl { edge1 with d := 0#11, aux := 1#8 }] = true := by
  decide +kernel

/-- A step that raises nothing is no raise, and a false guard makes the slot idle. -/
theorem witness_vectorFrame : ∃ (s t : State) (c : Ctx), (vOpcode (.vadd edge)).isSome = true ∧ ctxOf s = some c ∧
    vecReady s (.vadd edge) = true ∧ exec (.vadd edge) s = .next t ∧ (∀ g, t ≠ raise s c .v g) := by
  have h : (ctxOf (ready (.vadd edge))).isSome = true := by decide +kernel
  obtain ⟨c, hc⟩ := Option.isSome_iff_exists.1 h
  refine ⟨ready (.vadd edge), after (.vadd edge) (ready (.vadd edge)), c, by decide +kernel, hc, by decide +kernel, ?_, ?_⟩
  · have hg : (match exec (.vadd edge) (ready (.vadd edge)) with | .next _ => true | _ => false) = true := by decide +kernel
    unfold after
    revert hg
    cases exec (.vadd edge) (ready (.vadd edge)) <;> simp
  · exact ne_raise_of_noFault hc (by unfold NoFaultYet; decide +kernel) .v

theorem witness_vectorFrame_idle : (ctxOf { ready (.vadd edge) with
    issue := (ready (.vadd edge)).issue.map (fun (b : Issue) => { b with hdr := { b.hdr with nv := true } }) }).any
      (fun (c : Ctx) => idle c.vPasses) = true := by decide +kernel

/-! ### The memory slot and the X slot -/

/-- The bytes of a descriptor of 32-bit elements in tiles of 4 KiB (R107): one dimension of 1,024 a tile, or two of 32. -/
def descBytesOf (rank fmt sh0 sh1 flags : Nat) : List Byte :=
  leBytes 8 (1 + 8 * rank + 64 * fmt + 2 ^ 13 * 12 + flags) ++ leBytes 4 64 ++ leBytes 4 (if rank = 2 then 64 else 0) ++ leBytes 16 0 ++
    [BitVec.ofNat 8 sh0, BitVec.ofNat 8 sh1] ++ leBytes 6 0 ++ leBytes 8 0x10000 ++ leBytes 80 0

/-- Tensor 4 of the task: FP32, its one tile present and writable at 0x20000. -/
def withTensor (s : State) (rank : Nat) (flags : Nat := 0) : State :=
  { s.modTask 1 (fun (k : Task) =>
      { k with descs := [(4, descBytesOf rank 1 (if rank = 2 then 5 else 10) (if rank = 2 then 5 else 0) flags)] }) with
    mem := Memory.write s.mem (hostFlat 0x10000) (leBytes 8 (0x20000 + 7)) }

/-- A tensor access of tensor 0 at the address in S1, here the second word of a 64 KiB line, or of tensor 4 at S2. -/
def flatReady (i : Instr) : State := readyT i (fun (tm : Team) => { tm with sregs := sRegs [(1, 0x1_0000)] })
def tiledReady (i : Instr) : State :=
  withTensor (readyT i (fun (tm : Team) => { tm with sregs := sRegs [(2, 60)] })) 1 (2 ^ 19)

def tensorMeets (i : Instr) (f : MFields) (op : TensorOp) (s : State) : Bool :=
  tensorReady s f op && (mOpcode i).isSome &&
    (ctxOf s).any (fun (c : Ctx) => (descOf s c.tm.task f.tid.toNat).isSome)

def mem0 : MFields := { m0 with ds := 4#11, a := 0x601#11, fmt := .int32, flag := 15#4, fe := true }
def mem4 : MFields := { m0 with ds := 4#11, a := 0x602#11, tid := 4#8, fmt := .fp32, off := 3#8, fe := true }

/-- Tensor 0 and a tiled tensor, where element 63 is the last and the four elements after it are padded. -/
theorem witness_tensorAccessesIssue :
    tensorMeets (.tld mem0) mem0 { kind := .load, loads := true } (flatReady (.tld mem0)) = true ∧
    tensorMeets (.tld { mem4 with cnt := 4#3 }) { mem4 with cnt := 4#3 } { kind := .load, loads := true }
      (tiledReady (.tld { mem4 with cnt := 4#3 })) = true ∧
    tensorMeets (.tld { mem4 with scope := 1#3 }) { mem4 with scope := 1#3 } { kind := .versioned, versioned := true, loads := true }
      (tiledReady (.tld { mem4 with scope := 1#3 })) = true ∧
    tensorMeets (.tst mem0) mem0 { kind := .store, write := true } (flatReady (.tst mem0)) = true ∧
    tensorMeets (.tst mem4) mem4 { kind := .store, write := true } (tiledReady (.tst mem4)) = true ∧
    tensorMeets (.tred { mem0 with off := 5#8 }) mem0 { kind := .combine 5, write := true, clamps := true }
      (flatReady (.tred { mem0 with off := 5#8 })) = true ∧
    tensorMeets (.rold mem0) mem0 { kind := .readOnly, loads := true } (flatReady (.rold mem0)) = true := by decide +kernel

theorem witness_globalAtomics :
    let op (n : Nat) : TensorOp :=
      { kind := .atomic n, write := true, loads := true, atomicUnit := true, two := n == 7, clamps := true }
    ([(Instr.aadd, 0), (.amin, 1), (.amax, 2), (.aand, 3), (.aor, 4), (.axor, 5), (.axchg, 6), (.acas, 7)].all
      (fun (e : (MFields → Instr) × Nat) => tensorMeets (e.1 mem0) mem0 (op e.2) (flatReady (e.1 mem0)))) = true ∧
    tensorMeets (.afadd { mem0 with fmt := .fp32 }) { mem0 with fmt := .fp32 } (op 0) (flatReady (.afadd { mem0 with fmt := .fp32 })) = true ∧
    (2 ^ 32 - 1 < 2 ^ 32 ∧ 0 < 32 ∧ Fmt.int32.isFloat = false) := by decide +kernel

/-- One unit of an access of lane 31, of a task of the function, at 0x1000 of host memory, which holds 1, 2, 3 and 4. -/
def oneAccess (kind : AccessKind) (fmt : Fmt) (fn : Nat) : State :=
  let u : MUnit := { lane := 31, addr := some (hostFlat 0x1000), val := 0xFFFFFFFF#64, val2 := 9#64 }
  let a : Access := { team := 1, kind := kind, flag := some 3, dest := some (4, false), fmt := fmt, todo := [u] }
  { (ready (.br 1)).modTask 1 (fun (k : Task) => { k with fn := fn }) with mem := Memory.write [] (hostFlat 0x1000) [1#8, 2#8, 3#8, 4#8], accesses := [(7, a)] }

theorem witness_accessesArePerformed :
    ([(AccessKind.load, Fmt.int32, false, pfFn), (.store, .int32, false, pfFn), (.atomic 0, .fp32, false, pfFn),
        (.atomic 7, .uint32, false, pfFn), (.load, .int32, true, pfFn), (.load, .int32, false, 0), (.store, .int32, false, 0),
        (.atomic 0, .fp32, false, 0), (.atomic 7, .int32, false, 0), (.load, .int32, true, 0)].all (fun e =>
      let s := { oneAccess e.1 e.2.1 e.2.2.2 with eccBad := if e.2.2.1 then [hostFlat 0x1000 / 32] else [] }
      let a := Tab.get s.accesses 7 {}
      let k := s.task (s.team a.team).task
      onCore s a.team && Machine.ready s a && decide (k.fn = e.2.2.2) && decide (Memory.wf s.mem)
        && (if e.2.2.2 == pfFn then decide (cohortAt s pfFn k.ts = { fn := pfFn, ts := k.ts }) else
          (cohortAt s k.fn k.ts).bytes.isEmpty && (match trackUnit s k a (hostFlat 0x1000) 4 with
            | .ok s1 => decide (s1 = { s with cohorts := s1.cohorts, funcs := s1.funcs }) && !buffered s1 k.fn k.ts
                && (cohortAt s1 k.fn k.ts).bytes.isEmpty
            | _ => false))
        && (unitBad s k e.1 (hostFlat 0x1000) 4).isSome == e.2.2.1 && a.got.isEmpty
        && a.todo.length == 1 && !blocked s 7 a a.todo && decide (a.earliest ≤ s.now) && a.todo.all (fun (u : MUnit) =>
          u.addr == some (hostFlat 0x1000) && u.elem == 0 && u.bits == 32 && decide (u.lane < 1024) && a.fmt == e.2.1))) = true := by decide +kernel

def sharedMeets (f : MFields) (reads two : Bool) (i : Instr) : Bool :=
  let s := readyC i [(1, 1020)]
  sharedReady s f reads two && (ctxOf s).any (fun (c : Ctx) => decide (Memory.wf ((atomicsFirst s c f).crew 1).shm))

/-- The last word of shared memory. -/
theorem witness_sharedMemoryAccesses :
    let f : MFields := { m0 with ds := 4#11, a := 0x601#11, fmt := .int32 }
    let g : MFields := { f with fe := true }
    sharedMeets f false false (.sld f) = true ∧ sharedMeets f true false (.sst f) = true ∧
    ([Instr.saadd, .samin, .samax, .saand, .saor, .saxor, .saxchg].all (fun (i : MFields → Instr) => sharedMeets g true false (i g))) = true ∧
    sharedMeets { g with fmt := .fp32 } true false (.safadd { g with fmt := .fp32 }) = true ∧
    sharedMeets g true true (.sacas g) = true := by decide +kernel

/-- The last row of the window; an ACCST of the last 10 cycles and one of 10 cycles ago. -/
theorem witness_accumulatorWindow :
    let f : MFields := { m0 with ds := 4#11, a := 0x6D0#11, off := 15#8, fmt := .fp32, cnt := 1#3 }
    accReady (readyC (.accld f) []) f false = true ∧ accReady (readyC (.accst f) []) f true = true ∧
    (ctxOf (readyC (.accst f) [])).any (fun (c : Ctx) => c.mPasses.all (fun (p : Pass) => p.lanes == List.range 32 &&
      p.lanes.all (fun (l : Nat) => decide (64 * c.tm.accBase + c.accElem f p 1 l = 64 * 15 + 32 + l)))) = true := by decide +kernel

/-- Counts 2 and 3 against a ring of 4 slots with 2 filled, alone, behind an advance that waits, and behind a shared atomic whose
fence waits for an irrevocable access; behind one that is performed first; a ring that is not there, a good and a bad port configuration. -/
theorem witness_ringsAndPorts :
    let mk (i : Instr) (ss : List (Nat × Nat)) (q : Ctx → Crew → Bool) : Bool :=
      let s := readyC i ss
      (ctxOf s).any (fun (c : Ctx) => !idle c.mPasses && q c (s.crew c.tm.crew))
    let radv (f : MFields) (q : Nat → Ring → Bool) : Bool :=
      mk (.radv f) [] (fun c cr => decide (f.off.toNat % 16 < cr.nrings) && q (c.countOf f c.mPasses) (cr.ring (f.off.toNat % 16)))
    radv { m0 with a := 0x6D2#11, off := 0x11#8 } (fun a r => decide (0 < a ∧ a ≤ r.slots ∧ a ≤ r.filled)) = true ∧
    radv { m0 with a := 0x6D3#11, off := 0x11#8 } (fun a r => decide (0 < a ∧ a ≤ r.slots ∧ r.filled < a)) = true ∧
    radv { m0 with a := 0x6D2#11, off := 1#8 } (fun a r => decide (0 < a ∧ a ≤ r.slots ∧ r.filled + a ≤ r.slots)) = true ∧
    radv { m0 with a := 0x6D5#11, off := 1#8 } (fun a r => decide (r.slots < a)) = true ∧
    (let f : MFields := { m0 with a := 0x6D2#11, off := 1#8 }
     let one : State := readyC (.radv f) []
     let behind (a : Nat) : State := { one with ops := [(9, .radv 1 1 a true [])] }
     let u : MUnit := { lane := 0 }
     let stuck : State := { one with accesses := [(6, { team := 1, irrevocable := true, todo := [u] }),
       (7, { team := 1, kind := .sharedAtomic 0, after := [6], todo := [{ u with addr := some 0 }] })] }
     let r := one.crew 1 |>.ring 1
     let free : State := { one with accesses := [(7, { team := 1, kind := .sharedAtomic 0, todo := [{ u with addr := some 0 }] })] }
     (openAtomics one 1 none).isEmpty && radvPending one 1 1 true == 0 && (openAtomics (behind 1) 1 none).isEmpty &&
       radvPending (behind 1) 1 1 true == 1 && decide (r.filled + (1 + 1) ≤ r.slots) && decide (r.slots < r.filled + (2 + 1)) &&
       radvPending { behind 1 with ops := [(9, .radv 1 1 1 false [])] } 1 1 false == 1 && decide (r.filled < 2 + 1) && !(openAtomics (settleAtomics stuck 1 none) 1 none).isEmpty && !(openAtomics free 1 none).isEmpty &&
       (openAtomics (settleAtomics free 1 none) 1 none).isEmpty && radvPending (settleAtomics free 1 none) 1 1 true == 0 &&
       ((settleAtomics free 1 none).team 1).crew == 1) = true ∧
    mk (.radv { m0 with a := 0x6D1#11, off := 2#8 }) [] (fun _ cr => decide (cr.nrings ≤ 2)) = true ∧
    ([1#8, 2#8].all (fun (o : BitVec 8) => mk (.rstat { m0 with ds := 0x67F#11, off := o, fmt := .int64 }) []
      (fun c cr => (firstPass c.mPasses).isSome && decide (cr.nrings ≤ o.toNat) == (o == 2#8)))) = true ∧
    opd 0x67F = .s 127 ∧
    (let cfg (w1 : Nat) : Bool := mk (.gcfg { m0 with a := 0x67C#11 }) [(124, 16), (125, w1)] (fun c _ =>
       (firstPass c.mPasses).any (fun (p : Pass) =>
         portBad ((List.range 4).map (fun i => BitVec.ofNat 64 (readS c.tm c.fr p.start (124 + i)))) == (w1 == 0)))
     cfg 0x0001_0001_0001_FFFF = true ∧ cfg 0 = true) := by decide +kernel

/-- A region over all of tensor 0 with its word at 0x2000. -/
def withRegion (s : State) : State :=
  s.modTask 1 (fun (k : Task) => { k with regions := [leBytes 8 0 ++ leBytes 8 0x2000 ++ leBytes 48 0] })

theorem witness_orderingInstructions :
    let f : MFields := { m0 with ds := 0x687#11, a := 0x601#11, fmt := .int64, flag := 15#4, fe := true }
    let s := withRegion (readyC (.acq f) [])
    (ctxOf s).any (fun (c : Ctx) => !idle c.mPasses && regionOf s c.tm.task 0 == some 0x2000 &&
      (regionOf s c.tm.task 1).isNone && (sobBad s (c.tk s) 0x2000).isNone &&
      (sobBad { s with eccBad := [hostFlat 0x2000 / 32] } (c.tk s) 0x2000).isSome) = true := by decide +kernel

/-- Slots that act in no lane, and a slot of each kind that raises nothing. -/
theorem witness_slotFrames :
    let neg (i : Instr) : State := { ready i with issue := (ready i).issue.map (fun (b : Issue) =>
      { b with hdr := { b.hdr with nm := true, nx := true, nc := true } }) }
    let quiet (i : Instr) (s : State) : Prop := NoFaultYet s ∧ NoFaultYet (after i s) ∧ (ctxOf s).isSome = true ∧
      (s.func (s.task (s.team 1).task).fn).wpEn = false
    (ctxOf (neg (.invro m0))).any (fun (c : Ctx) => idle c.mPasses) = true ∧
    (ctxOf (neg (.accz x0))).any (fun (c : Ctx) => idle c.xPasses) = true ∧
    (ctxOf (neg .popm)).any (fun (c : Ctx) => !c.controlGuard) = true ∧
    quiet (.tst mem0) (flatReady (.tst mem0)) ∧ quiet (.lvreq { x0 with fe := true }) (ready (.lvreq { x0 with fe := true })) ∧
    quiet (.lfma l0) (ready (.lfma l0)) ∧ quiet (.split 0 1) (ready (.split 0 1)) := by
  unfold NoFaultYet
  decide +kernel

def xMeets (i : Instr) (s : State) (q : State → Ctx → Pass → Bool) : Bool :=
  (xOpcode i).isSome && (ctxOf s).any (fun (c : Ctx) => (firstPass c.xPasses).any (fun (p : Pass) => q s c p))

/-- S registers that hold a command's words, from S8 on. -/
def words (ws : List Nat) : List (Nat × Nat) := (List.range ws.length).map (fun i => (8 + i, ws.getD i 0))

def ext (a b c d : Nat) : Nat := a + 2 ^ 16 * b + 2 ^ 32 * c + 2 ^ 48 * d

/-- A copy inside shared memory up to its last byte, one byte past it, a gather, a scatter, a fill, and a follow-on. -/
theorem witness_copyCommands :
    let x : XFields := { x0 with sd := 8#7, flag := 15#4, fe := true }
    let fault (mk : XFields → Instr) (g : XFields) (kind : Nat) (ws : List Nat) : Option (Option FaultCode) :=
      let s := withTensor (readyC (mk g) (words ws)) 2
      (ctxOf s).bind (fun (c : Ctx) => (firstPass c.xPasses).map (fun (p : Pass) =>
        (copyFault s c (copyCommand s c p g kind)).map FaultInfo.code))
    fault .copy x 1 [0x31, 0, 0, 512 * 2 ^ 32, ext 512 1 1 1, 1] = some none ∧
    fault .copy x 1 [0x31, 0, 0, 516 * 2 ^ 32, ext 512 1 1 1, 1] = some (some .sharedBounds) ∧
    fault .copyg x 2 [4 * 64, 0, 0, 0, ext 4 3 1 1, 1 + 2 ^ 32 * 64] = some none ∧
    fault .copys x 3 [0x10 + 4 * 2 ^ 14 + 3 * 2 ^ 28, 0, 0, 0, ext 4 3 1 1, 1 + 2 ^ 32 * 64] = some none ∧
    fault .fill x 4 [2 + 64 * 2 ^ 32, 0, 0, 0, ext 960 1 1 1, 1 + 2 ^ 32 * 0xAABBCCDD] = some none ∧
    fault .copy { x with follow := true, ha := 1#4, hb := 1#4, shape := 6#3 } 1
      [1 + 64 * 4, 0, 0, 0, ext 4 4 1 1, 1, 0, 0, 3 * 2 + 3 * 32, 0, 0, 0] = some (some .ringMisuse) := by decide +kernel

/-- A ring 1 of FP16 slots of 512 bytes, which is A and B of a step of 16 rows. -/
def mxCrew : Crew := { bigCrew with rings := [(1, { slotsz := 32, slots := 2, fmt := .fp16, producer := 1#32 })], nrings := 2 }

theorem witness_matrixCommands :
    let x : XFields := { x0 with sd := 8#7, flag := 15#4, fe := true, ha := 1#4, hb := 1#4, shape := 6#3 }
    let z : XFields := { x0 with shape := 6#3 }
    let at_ (i : Instr) (ws : List Nat) (cr : Crew) : State := readyC i (words ws) id cr
    let mma (mk : XFields → Instr) (kind : Nat) (ws : List Nat) (cr : Crew) : Option (Option FaultCode) :=
      let s := at_ (mk x) ws cr
      (ctxOf s).bind (fun (c : Ctx) => (firstPass c.xPasses).map (fun (p : Pass) =>
        (mxFault s c (mxCommand s c p x kind 4) true).map FaultInfo.code))
    let out (ws : List Nat) : Option (Option FaultCode) :=
      let s := at_ (.accout { z with sd := 8#7 }) ws mxCrew
      (ctxOf s).bind (fun (c : Ctx) => (firstPass c.xPasses).map (fun (p : Pass) =>
        (accoutFault s c { z with sd := 8#7 } (mxCommand s c p { z with sd := 8#7 } 11 2)).map FaultInfo.code))
    mma .mma 8 [3 * 2 + 3 * 32, 0, 0, 0] mxCrew = some none ∧
    mma .mma 8 [3 * 2 + 3 * 32, 0, 0, 0] { mxCrew with sash := 1 } = some (some .sashViolation) ∧
    mma .mmas 9 [3 * 2 + 3 * 32, 0, 0, 0] mxCrew = some (some .illegalOperand) ∧
    mma .mmas 9 [1 + 4 * 2 + 4 * 32 + 2 ^ 29 + 2 ^ 33, 0, 0, 0]
      { mxCrew with rings := [(1, { slotsz := 32, slots := 2, producer := 1#32 })] } = some none ∧
    out [1 + 0 * 2 ^ 32, 0] = some none ∧ out [1 + 2 * 2 ^ 32, 0] = some (some .align) ∧
    xMeets (.accz z) (at_ (.accz z) [] mxCrew) (fun s c p => decide ((c.crew s).sash = c.tm.tix) &&
      decide (z.acc.toNat + (mxCommand s c p z 10 0).m = c.tm.accLim)) = true ∧
    xMeets (.accz { z with acc := 1#10 }) (at_ (.accz { z with acc := 1#10 }) [] mxCrew) (fun s c p =>
      decide ((c.crew s).sash = c.tm.tix) && decide (c.tm.accLim < 1 + (mxCommand s c p z 10 0).m)) = true ∧
    xMeets (.accz z) (at_ (.accz z) [] { mxCrew with sash := 1 }) (fun s c _ => decide ((c.crew s).sash ≠ c.tm.tix)) = true := by
  decide +kernel

theorem witness_collectivesAndLeave :
    let x : XFields := { x0 with sd := 8#7, flag := 15#4, fe := true }
    let bad (n : Nat) (b : Bool) : Bool := xMeets (.coll x) (readyC (.coll x) (words [2 + 32 * Fmt.int32.code, 0, 0, 64, n]))
      (fun _ c p => collBad (c.words p 8 5) == b)
    let s := readyC (.lvreq x) []
    let holds : State := s.modDie 0 (fun (d : Die) => { d with granted := [{ engine := 0, core := 0, cost := 24 }] })
    let die (s : State) (q : Nat → Nat → Bool) : Bool := xMeets (.lvreq x) s (fun s c _ =>
      q (lvreqEngine s c x).2 ((s.die (dieOf (c.core s))).holds (lvreqEngine s c x).1))
    die s (fun cost h => decide (h < cost)) = true ∧ die holds (fun cost h => decide (cost ≤ h)) = true ∧
    bad 0 true = true ∧ bad 1 false = true ∧ bad (2 ^ 32 - 1) false = true ∧ bad (2 ^ 32) true = true ∧
    Tab.get (s.team 1).flagCount 15 0 = 0 := by decide +kernel

/-- Shadows up to V15, one past it, and a kernel without lining. -/
theorem witness_liningDuplicates :
    let s := linReady (.lfma l0) 0 0 0
    (ctxOf s).any (fun (c : Ctx) => (c.tk s).lining && !idle c.xPasses && decide (7 + c.tm.lineBase < c.tm.nregs) &&
      decide (c.tm.nregs = 8 + c.tm.lineBase)) = true ∧
    (ctxOf (ready (.lfma l0))).any (fun (c : Ctx) => !(c.tk (ready (.lfma l0))).lining) = true := by decide +kernel

/-! ### The control slot -/

/-- A control-slot instruction whose guard holds in a state of which more is said. -/
def cMeets (i : Instr) (s : State) (q : Ctx → Bool) : Bool :=
  isControl i && (ctxOf s).any (fun (c : Ctx) => c.controlGuard && q c)

def tdBase (m : Mask) (tm : Team) : Team := tm.modPath 0 (fun (p : Path) => { p with base := m })
def tdStack (st : List Mask) (tm : Team) : Team := tm.modPath 0 (fun (p : Path) => { p with stack := st })

/-- Predicates that hold in the last lane only and in none, S15 at 0, 1 and 2, flag 15, an empty mask, and targets on and off
the grid. -/
theorem witness_branches :
    let p1 : Team → Team := fun (tm : Team) => { tm with preds := [(15, 0x80000000#1024)], flagSet := 0x8000#16 }
    let holds (c : Ctx) (k : Nat) : Bool := (maskLanes c.pa.active).any (fun l => readP c.tm c.fr c.cyc k l)
    cMeets (.br (-0x80000#20)) (readyC (.br (-0x80000#20)) []) (fun _ => true) = true ∧
    cMeets (.brp 15 1) (readyC (.brp 15 1) [] p1) (fun c => holds c 15) = true ∧
    cMeets (.brp 15 1) (readyC (.brp 15 1) []) (fun c => !holds c 15) = true ∧
    cMeets (.brs 15 1) (readyC (.brs 15 1) [(15, 1)]) (fun c => decide (c.sreg 15 ≠ 0)) = true ∧
    cMeets (.brs 15 1) (readyC (.brs 15 1) []) (fun c => decide (c.sreg 15 = 0)) = true ∧
    cMeets (.brf 15 1) (readyC (.brf 15 1) [] p1) (fun _ => ((readyC (.brf 15 1) [] p1).team 1).flagSet.getLsbD 15) = true ∧
    cMeets (.brf 15 1) (readyC (.brf 15 1) []) (fun _ => !((readyC (.brf 15 1) []).team 1).flagSet.getLsbD 15) = true ∧
    cMeets (.brm 1) (readyC (.brm 1) [] (tdStack [0#1024])) (fun c => decide (c.pa.active = 0#1024)) = true ∧
    cMeets (.brm 1) (readyC (.brm 1) []) (fun c => decide (c.pa.active ≠ 0#1024)) = true ∧
    cMeets (.call 15 1) (readyC (.call 15 1) []) (fun _ => true) = true ∧
    cMeets (.ret 127) (readyC (.ret 127) [(127, 2 ^ 64 - 32)]) (fun c => decide (c.sreg 127 % 32 = 0)) = true ∧
    cMeets (.ret 127) (readyC (.ret 127) [(127, 31)]) (fun c => decide (c.sreg 127 % 32 ≠ 0)) = true ∧
    cMeets (.jmpi 1 2) (readyC (.jmpi 1 2) [(1, 32), (2, 2 ^ 64 - 1)]) (fun c =>
      decide ((c.sreg 1 + 32 * c.sreg 2) % 2 ^ 64 % 32 = 0)) = true ∧
    ([0, 1, 2].all (fun n => cMeets (.loop 15 1) (readyC (.loop 15 1) [(15, n)]) (fun c => c.sreg 15 == n))) = true := by
  decide +kernel

/-- Stacks of 0, 1, 63 and 64 entries; a SPLIT with no lane, with a free path, and with a full table; a JOIN whose child has
arrived and one whose child has not; an EXIT of the last path and of another. -/
theorem witness_masksAndPaths :
    let depth (i : Instr) (n : Nat) : Bool :=
      cMeets i (readyC i [] (tdStack (List.replicate n 1#1024))) (fun c => c.pa.stack.length == n)
    let kid (arrived : Bool) (tm : Team) : Team :=
      { tm with paths := tm.paths ++ [(1, { kind := .split, parent := 0, base := 0#1024, arrived := arrived })] }
    let full (tm : Team) : Team := { tm with paths := (List.range 8).map (fun (i : Nat) => (i, tm.path 0)) }
    ([0, 1, 63, 64].all (fun n => depth (.pushm 15 true) n && depth .invm n && depth .popm n && depth (.setm 15 true) n)) = true ∧
    cMeets (.split 15 1) (readyC (.split 15 1) []) (fun c =>
      (maskLanes c.pa.active).all (fun l => !readP c.tm c.fr c.cyc 15 l)) = true ∧
    cMeets (.split 0 1) (readyC (.split 0 1) []) (fun c => c.tm.freePath == some 1 &&
      (maskLanes c.pa.active).any (fun l => readP c.tm c.fr c.cyc 0 l)) = true ∧
    cMeets (.split 0 1) (readyC (.split 0 1) [] full) (fun c => c.tm.freePath.isNone) = true ∧
    cMeets .join (readyC .join [] (kid true)) (fun c => (joinKids c.tm c.p).length == 1 &&
      (joinKids c.tm c.p).all (fun (e : Nat × Path) => e.2.arrived)) = true ∧
    cMeets .join (readyC .join [] (kid false)) (fun c => (joinKids c.tm c.p).any (fun (e : Nat × Path) => !e.2.arrived)) = true ∧
    cMeets .exit (readyC .exit []) (fun c => c.tm.paths.length == 1 && ((readyC .exit []).issue.map Issue.faults) == some []) = true ∧
    cMeets .exit (readyC .exit [] (kid false)) (fun c => (Tab.find c.tm.paths 1).isSome) = true := by decide +kernel

/-- A good list up to V15, one past it, a reserved bit, and two paths. -/
theorem witness_regroup :
    let i : Instr := .regroup 127 124
    let range (c : Ctx) (n : Nat) : Nat := fld (c.sreg (124 + n / 2)) (32 * (n % 2)) 32
    let bad (c : Ctx) : Bool := (List.range 8).any (fun n => decide (fld (range c n) 22 10 ≠ 0))
    let past (c : Ctx) : Bool := (List.range 8).any (fun n => decide (fld (range c n) 11 11 ≠ 0) &&
      decide (c.tm.nregs < fld (range c n) 0 11 + fld (range c n) 11 11))
    cMeets i (readyC i [(127, 2 ^ 32 * (15 + 2 ^ 11))] (tdBase 0x80000001#1024)) (fun c => !bad c && !past c &&
      c.tm.paths.length == 1 && c.pa.stack.isEmpty) = true ∧
    cMeets i (readyC i [(127, 2 ^ 32 * (15 + 2 * 2 ^ 11))]) (fun c => !bad c && past c) = true ∧
    cMeets i (readyC i [(127, 2 ^ 63)]) bad = true ∧
    cMeets i (readyC i [] (tdStack [1#1024])) (fun c => !bad c && !past c && decide (c.pa.stack ≠ [])) = true := by decide +kernel

theorem witness_scalarArithmetic :
    ([Instr.sadd 127 126 125, .ssub 127 126 125, .smul 127 126 125, .smulh 1 2 3 false, .smulh 1 2 3 true, .sand 1 2 3, .sor 1 2 3,
      .sxor 1 2 3, .sshl 1 2 3, .sshr 1 2 3, .ssar 1 2 3, .smin 1 2 3 true, .smax 1 2 3 false, .scmp 1 2 3 6, .ssel 1 2 3, .smov 1 2,
      .sdivu 1 2 3 false, .sdivu 1 2 3 true, .saddi 1 2 0x200, .sandi 1 2 3, .sori 1 2 3, .sshli 1 2 63, .sshri 1 2 63, .sli 1 0x8000,
      .slih 1 2, .slix 1 2, .sliy 1 2].all (fun (i : Instr) => cMeets i (readyC i [(125, 2 ^ 64 - 1)]) (fun _ => true))) = true ∧
    (6#3 : BitVec 3) ≠ 7#3 := by decide +kernel

/-- Every listed register, and for the writes LINEBASE 512 and 513, a window set by the leader up to the last row, one past it,
by another team, and of a team that the crew does not have. -/
theorem witness_systemRegisters :
    ((List.range 17 ++ [0x20, 0x2F, 0x100, 0x10F]).all (fun n =>
      cMeets (.rdsr 127 (BitVec.ofNat 16 n)) (readyC (.rdsr 127 (BitVec.ofNat 16 n)) []) (fun _ => true))) = true ∧
    cMeets (.wrsr 1 0) (readyC (.wrsr 1 0) []) (fun _ => true) = true ∧ cMeets (.wrsr 1 1) (readyC (.wrsr 1 1) []) (fun _ => true) = true ∧
    cMeets (.wrsr 1 4) (readyC (.wrsr 1 4) [(1, 512)]) (fun c => decide (c.sreg 1 % 16 = 0 ∧ c.sreg 1 ≤ 512)) = true ∧
    cMeets (.wrsr 1 4) (readyC (.wrsr 1 4) [(1, 513)]) (fun c => decide (¬ (c.sreg 1 % 16 = 0 ∧ c.sreg 1 ≤ 512))) = true ∧
    (let win (n v : Nat) (g : Team → Team) : Option (Bool × Bool × Bool) :=
       let i : Instr := .wrsr 1 (BitVec.ofNat 16 n)
       let s := readyC i [(1, v)] g
       (ctxOf s).map (fun (c : Ctx) => (decide (c.tm.tix ≠ 0),
         decide ((c.crew s).accRows < c.sreg 1 % 2 ^ 11 + c.sreg 1 / 2 ^ 16 % 2 ^ 11),
         decide ((s.task (c.crew s).task).teamsPerCrew ≤ n - 0x100)))
     win 0x100 (8 + 2 ^ 16 * 8) id = some (false, false, false) ∧ win 0x100 (8 + 2 ^ 16 * 9) id = some (false, true, false) ∧
     win 0x100 0 (fun (tm : Team) => { tm with tix := 1 }) = some (true, false, false) ∧
     win 0x10F 0 id = some (false, false, true)) := by decide +kernel

theorem witness_flagsAndChannels :
    let flags (v : BitVec 16) (tm : Team) : Team := { tm with flagSet := v }
    cMeets (.waitf 0x8001 false) (readyC (.waitf 0x8001 false) [] (flags 0x8001)) (fun _ => true) = true ∧
    cMeets (.waitf 0x8001 false) (readyC (.waitf 0x8001 false) [] (flags 0x8000)) (fun c =>
      !waitfHolds ((readyC (.waitf 0x8001 false) [] (flags 0x8000)).team c.t) 0x8001 false) = true ∧
    cMeets (.waitf 0x8001 true) (readyC (.waitf 0x8001 true) [] (flags 0x8000)) (fun c =>
      waitfHolds ((readyC (.waitf 0x8001 true) [] (flags 0x8000)).team c.t) 0x8001 true) = true ∧
    cMeets (.clrf 0x8000) (readyC (.clrf 0x8000) []) (fun _ => true) = true ∧
    ([0, 1].all (fun n => cMeets (.waitc 15 127) (readyC (.waitc 15 127) [(127, n)]) (fun c =>
      c.pa.waitVal.isNone && decide (((c.crew (readyC (.waitc 15 127) [(127, n)])).chan 15).cwp.toNat + n = c.sreg 127)))) = true ∧
    cMeets (.waitf 0 true) (readyC (.waitf 0 true) []) (fun c => !waitfHolds ((readyC (.waitf 0 true) []).team c.t) 0 true) = true ∧
    (let s := ready (.waitf 1 false)
     let acq : State := { s with ops := [(9, .acq 1 0 0 0x2000 none none 0 4)] }
     (flagOps s 1 0).isEmpty && (flagCopies s 1 0).isEmpty && (flagMx s 1 0).isEmpty && s.accesses.isEmpty &&
       flagReason acq 1 0 == 16) = true := by
  decide +kernel

/-- A crew of two live teams, the second of which is a copy of the first with index 1, of a task launched with two. -/
def twoTeams (i : Instr) (ss : List (Nat × Nat)) (cr : Crew) (g : Team → Team := id) : State :=
  let s := (readyC i ss g { cr with teams := [1, 2] }).modTask 1 (fun (k : Task) =>
    { k with lrec := { k.lrec with ctl := BitVec.ofNat 64 (2 ^ 31) } })
  { s with teams := s.teams ++ [(2, { s.team 1 with tix := 1 })] }

theorem witness_crewSynchronisation :
    let i : Instr := .bar 15 2
    let bar (cr : Crew) (q : Ctx → Barrier → Bool) : Bool :=
      let s := twoTeams i [] cr
      cMeets i s (fun c => !c.pa.barPass && decide (c.p < 8) && decide (c.tm.paths = [(c.p, c.pa)]) &&
        !((s.crew c.tm.crew).bar 15).arrived.contains c.tm.tix && teamAt s (s.crew c.tm.crew) c.tm.tix == some c.t &&
        q c ((s.crew c.tm.crew).bar 15))
    let sash (i : Instr) (cr : Crew) (q : State → Ctx → Crew → Bool) : Bool :=
      let s := twoTeams i [] cr
      cMeets i s (fun c => q s c (c.crew s))
    let withBar (b : Barrier) : Crew := { bigCrew with bars := [(15, b)] }
    bar bigCrew (fun _ b => b.arrived.isEmpty && decide (b.arrived.length + 1 < 2)) = true ∧
    bar (withBar { arrived := [1], target := 2 }) (fun _ b => b.target == 2 && decide (2 ≤ b.arrived.length + 1)) = true ∧
    bar (withBar { arrived := [1], target := 3 }) (fun _ b => !b.arrived.isEmpty && b.target != 2) = true ∧
    cMeets i (twoTeams i [] bigCrew (fun (tm : Team) => tm.modPath 0 (fun (p : Path) => { p with barPass := true })))
      (fun c => c.pa.barPass) = true ∧
    sash .sasht bigCrew (fun s c cr => decide (cr.sash = c.tm.tix ∧ cr.sashFrom ≤ s.now)) = true ∧
    sash .sasht { bigCrew with sashFrom := 1 } (fun s c cr => decide (¬ (cr.sash = c.tm.tix ∧ cr.sashFrom ≤ s.now))) = true ∧
    sash (.sashp 0 false) { bigCrew with sash := 1 } (fun _ c cr => decide (cr.sash ≠ c.tm.tix)) = true ∧
    sash (.sashp 2 true) bigCrew (fun s c cr => decide (cr.sash = c.tm.tix ∧ (s.task cr.task).teamsPerCrew ≤ 2)) = true ∧
    sash (.sashp 1 true) bigCrew (fun s c cr => decide (cr.sash = c.tm.tix ∧ 1 < (s.task cr.task).teamsPerCrew) &&
      (teamAt s cr (1 % (s.task cr.task).teamsPerCrew)).isSome) = true ∧
    sash (.sashp 0 false) bigCrew (fun s c cr => decide (cr.sash = c.tm.tix) &&
      (teamAt s cr ((c.tm.tix + 1) % (s.task cr.task).teamsPerCrew)).isSome) = true := by decide +kernel

theorem witness_taskOperations :
    cMeets (.spawn 15 127 126) (readyC (.spawn 15 127 126) []) (fun _ => true) = true ∧
    cMeets (.signal 127 126) (readyC (.signal 127 126) []) (fun _ => true) = true ∧
    ([0, 1].all (fun n => cMeets (.waithem 5) (readyC (.waithem 5) [(5, n)]) (fun c =>
      decide (c.sreg 5 = ((readyC (.waithem 5) [(5, n)]).func (c.tk (readyC (.waithem 5) [(5, n)])).fn).hemline.toNat + n)))) = true := by
  decide +kernel

/-- A debugged task of the PF with breakpoints on and one with them off; shadows that agree, that differ in lane 0, and that lie
past N. -/
theorem witness_trapsAndChecks :
    let dbg : State := ((readyC .bkpt []).modTask 1 (fun (k : Task) => { k with debug := true })).modFunc pfFn
      (fun (f : Func) => { f with dbgCtl := 2#4 })
    let lin (v : BitVec 11) : State := (readyT (.lcmp v) (fun (tm : Team) => { tm with lineBase := 8, vregs := [(8, [(0, 1#32)])] })).modTask 1
      (fun (k : Task) => { k with header := k.header ||| 0x200#64 })
    let live (s : State) (c : Ctx) : Bool := (s.func (c.tk s).fn).dbgCtl.getLsbD 1 && (c.tk s).debug && ((c.tk s).fn == pfFn)
    let differs (c : Ctx) (v l : Nat) : Bool := readV c.tm c.fr c.cyc v l != readV c.tm c.fr c.cyc (v + c.tm.lineBase) l
    cMeets (.trap 255) (ready (.trap 255)) (fun _ => true) = true ∧
    cMeets .bkpt dbg (fun c => live dbg c && decide ((dbg.func pfFn).stopTail.toNat - (dbg.func pfFn).stopHead.toNat < 16)) = true ∧
    cMeets .bkpt (readyC .bkpt []) (fun c => !live (readyC .bkpt []) c) = true ∧
    cMeets (.lcmp 7) (lin 7) (fun c => (c.tk (lin 7)).lining && decide (7 + c.tm.lineBase < c.tm.nregs) &&
      (maskLanes c.pa.active).all (fun l => !differs c 7 l)) = true ∧
    cMeets (.lcmp 0) (lin 0) (fun c => (c.tk (lin 0)).lining && (maskLanes c.pa.active).all (fun l => differs c 0 l == (l == 0))) = true ∧
    cMeets (.lcmp 8) (lin 8) (fun c => (c.tk (lin 8)).lining && decide (c.tm.nregs = 8 + c.tm.lineBase)) = true ∧
    cMeets (.lcmp 0) (ready (.lcmp 0)) (fun c => !(c.tk (ready (.lcmp 0))).lining) = true := by decide +kernel

/-- A privileged team beside a task of VF 5 in slot 3, of crew 9 and team 0, whose path 0 is held or not. -/
def beside (i : Instr) (sel crew : Nat) (held : Bool) : State :=
  let s := readyC i [(9, sel), (10, crew)]
  { s with tasks := s.tasks ++ [(50, { fn := 5, slot := 3, phase := .running })]
           crews := s.crews ++ [(51, { task := 50, number := 9, teams := [52] })]
           teams := s.teams ++ [(52, { task := 50, crew := 51, paths := [(0, { base := maskUpTo 32, held := held })] })] }

theorem witness_privilegedAccess :
    let sel (lane : Nat) : Nat := 3 + 5 * 2 ^ 16 + lane * 2 ^ 32
    let target (i : Instr) (lane crew : Nat) (held : Bool) : Option (Option (Bool × Bool)) :=
      let s := beside i (sel lane) crew held
      (ctxOf s).map (fun (c : Ctx) => (dbgTarget s (fld (c.sreg 9) 16 8) (c.sreg 9) (c.sreg 10)).map (fun g =>
        ((targetPaths s g).any (fun j => ((s.team g.t).path j).held),
          maskHas ((s.team g.t).path g.p).active lane && (s.team g.t).freePath.isSome)))
    ([Instr.dbgsplit 13 9 10, .step 13 9 10, .dbgres 13 9 10].all (fun (i : Instr) =>
      target i 31 9 true == some (some (true, true)) && target i 31 9 false == some (some (false, true)) &&
      target i 31 8 true == some none && cMeets i (beside i (sel 31) 9 true) (fun _ => true))) = true ∧
    ([0, 1, 7, 8].all (fun n => cMeets (.rdsys 13 9) (readyC (.rdsys 13 9) [(9, n)]) (fun c => c.sreg 9 % 8 == n % 8) &&
      cMeets (.wrsys 9 13) (readyC (.wrsys 9 13) [(9, n)]) (fun c => c.sreg 9 % 8 == n % 8))) = true := by decide +kernel

/-! ### What happens between bundles -/

/-- A state with one running task of the PF. -/
def live0 : State := ready .bkpt
def withOp (s : State) (op : PendOp) : State := { s with ops := (9, op) :: s.ops }
def answers (i : Instr) (s : State) : Bool := match exec i s with | .next _ => true | _ => false

/-- A result due now for each kind of destination, lanes 0 and 1023, one not due, and a stopped team's image. -/
theorem witness_resultsLand :
    let due (r : PendRes) : State := live0.modTeam 1 (fun (tm : Team) => { tm with pending := [r] })
    let ok (r : PendRes) : Bool := landingDue (due r) 1 && !r.clash && decide ((r.vals.map Prod.fst).Nodup)
    let both : List (Nat × Word64) := [(0, 5#64), (1023, 7#64)]
    ok { due := 0, dest := .vreg 4, vals := both, tag := some .fp32, flags := 0x3F#6 } = true ∧
    ok { due := 0, dest := .sreg 127, vals := [(0, 5#64)] } = true ∧
    (ok { due := 0, dest := .pred 15, vals := both } && both.all (fun q => decide (q.1 < 1024))) = true ∧
    ok { due := 0, dest := .vpair 4, vals := both } = true ∧ ok { due := 0, dest := .latchOnly } = true ∧
    ok { due := 0, dest := .nothing } = true ∧ ok { due := 1, dest := .nothing } = false ∧
    fliDue ((due { due := 5, dest := .nothing }).modTeam 1 (fun (tm : Team) => { tm with stopped := true })) 1 = true := by decide +kernel

/-- Walks of present and absent entries, in flight, waiting and stopped; invalidations that wait and that do not; records complete, refused
and not there. -/
theorem witness_memoryEvents_walks :
    let w0 : TileWalk := { task := 1, team := 1, tensor := 3, entry := 64 }
    let walk (fl st : Bool) : State := withOp live0 (.walk { w0 with flying := fl, stopped := st, record := if st then some 7 else none })
    let is (s : State) (q : TileWalk → Bool) : Bool := match Tab.find s.ops 9 with | some (.walk x) => q x | _ => false
    let wf (s : State) : Bool := is s (fun x => x.stopped && decide (x.path < 8)) && walkOfRecord s 7 == some 9
    let entry (v : Byte) : Bool :=
      let s := { walk true false with mem := [(hostFlat 64, v)] }
      (BitVec.ofNat 64 (gNat s pfFn 64 8)).getLsbD 0 && (eccHit s (flatOf s pfFn 64) 8).isNone
    let inv (busy : Bool) (es : List Nat) : State := ({ live0 with accesses := [(3, { team := 1, entries := es })] }).modFunc pfFn
      (fun (f : Func) => { f with tinva := 0#64, tinvn := 1#64, tinvBusy := busy, tinvMark := 4, tinvFrom := 0, tinvLen := 1 })
    let failing : Access := { team := 1, tensor := 3, bads := [{ code := .tileProtection, lane := 31, step := 7 }] }
    (let s := { walk true false with accesses := [(3, failing)] }
     let u := endWalk s 9 { w0 with flying := true }
     decide (u.accesses = [(3, failing)]) && onCore u 1 && (faultOf 3 false failing.bads).any (fun f => f.code == .tileProtection)
       && decide (∀ e ∈ (endWalk (walk true false) 9 { w0 with flying := true }).accesses, e.2.bads = [])) = true ∧
    entry 1#8 = true ∧ entry 0#8 = false ∧ wf (walk false true) = true ∧ wf (walk false false) = false ∧
    is (walk true false) (fun x => x.flying && !x.stopped) = true ∧ is (walk false false) (fun x => !x.flying) = true ∧ (live0.task 1).stopping.isNone ∧
    tinvWaits (inv true [0]) pfFn = true ∧ tinvWaits (inv true [15]) pfFn = true ∧ tinvWaits (inv true [16]) pfFn = false ∧
    ((inv true [16]).func pfFn).tinvBusy = true ∧ ((inv false []).func pfFn).tinvBusy = false := by decide +kernel

theorem witness_memoryEvents_pages :
    let pr (v : Byte) (i tail : Nat) : State := ({ live0 with
        pages := [{ fn := pfFn, entry := 64, record := some i, parked := [(1, 0)] }]
        mem := [(hostFlat (32 * i + 24), v)] }).modFunc pfFn
      (fun (f : Func) => { f with prEn := true, prLogsz := 6#4, prTail := BitVec.ofNat 64 tail })
    let counted (s : State) (i : Nat) (r : Nat) : Bool :=
      let f := s.func pfFn
      let cpl := gNat s pfFn (recordAddr f i + 24) 8
      decide (¬ (f.prEn = false ∨ cpl % 2 = 0 ∨ f.prTail.toNat ≤ i ∨ i + 2 ^ f.prLogsz.toNat < f.prTail.toNat ∨ i ∈ f.prDone)) &&
        (s.pages.find? (fun q => q.hasIndex pfFn i)).isSome && decide (cpl / 2 % 8 = r)
    let ctl (en : Bool) : Func := { ({ } : Func) with prEn := en, prHead := 5#64 }
    counted (pr 1 0 64) 0 0 = true ∧ counted (pr 15 63 64) 63 7 = true ∧ counted (pr 1 0 65) 0 0 = false ∧
    (Tab.find (pr 3 0 64).teams 1).isSome = true ∧
    ([6, 12].all (fun n => decide (6 ≤ (BitVec.ofNat 64 (1 + 2 * n)).toNat / 2 % 16) && (BitVec.ofNat 64 (1 + 2 * n)).getLsbD 0 &&
      decide ((BitVec.ofNat 64 (1 + 2 * n)).toNat / 2 % 16 ≤ 12))) = true ∧
    (live0.func pfFn).prEn = false ∧ live0.pages = [] ∧ (live0.setFunc pfFn (ctl true)).func pfFn = ctl true ∧
    (4#64).toNat < (ctl true).prHead.toNat ∧ (ctl true).prHead.toNat ≤ (5#64).toNat := by decide +kernel

/-- Words below and at the value an ACQ waits for; a REL with and without a write to wait for; a SIGNAL of a frontier task and of
one launched under a prediction; nothing holds their words. -/
theorem witness_memoryEvents_tokens :
    let acq (v : Nat) : State := withOp live0 (.acq 1 0 0 64 (some 127) (some (BitVec.ofNat 64 v)) 15 0)
    let rel (ws : List Nat) : State := withOp { live0 with accesses := [(3, { todo := [{ lane := 0, sobs := [64] }] })] } (.rel 1 0 0 64 (some 127) (some 15) 0 ws)
    let sig (l : List Nat) : State := (withOp live0 (.signal 1 0 71#64 5#64 [] false)).modTask 1 (fun (k : Task) => { k with predicted := l })
    let plain (s : State) : Bool := onCore s 1 && (s.task (s.team 1).task).fn == pfFn && (cohortAt s pfFn (s.task 1).ts).bytes.isEmpty
    let free (s : State) (flat : Nat) (w : Bool) : Bool := !wordHeld s 1 0 9 flat w && (eccHit s flat 8).isNone
    ([0, 1].all (fun v => onCore (acq v) 1 && free (acq v) (flatOf (acq v) pfFn 64) false && (match trackRead (acq v) pfFn ((acq v).task 1).ts (flatOf (acq v) pfFn 64) 8 with
      | .ok s1 => leNat (cohortBytes s1 pfFn ((acq v).task 1).ts (flatOf (acq v) pfFn 64) 8) == 0
      | _ => false))) = true ∧
    plain (rel [3]) = true ∧ (Tab.find (rel [3]).accesses 3).isSome = true ∧ (Tab.find (rel [4]).accesses 4) = none ∧
    ((Tab.find (rel [3]).accesses 3).any (fun x => x.boundTo 64 && !mayLinger 0 x)) = true ∧ free (rel [4]) (hostFlat 64) true = true ∧ free (sig []) (hostFlat 64) true = true ∧
    relBehind (rel [4]) 9 1 0 64 = false ∧ Memory.wf live0.mem ∧
    plain (sig []) = true ∧ mayIrrevocable (sig []) ((sig []).task 1) = true ∧ mayIrrevocable (sig [1]) ((sig [1]).task 1) = false ∧
    hostOk (sig []) ((71#64).toNat / 8 * 8) 8 = true ∧ Tab.find (sig []).accesses 9 = none := by decide +kernel

/-- A FILL of N bytes at the head of channel 0, not started and started. -/
def fillOf (n : Nat) (started : Bool) (done : Nat := 0) (ring : Nat := 0) : CopyCmd :=
  { id := 77, kind := 4, team := 1, flag := some 3, started := started, done := done
    desc := [BitVec.ofNat 64 ring, 0#64, 0#64, 0#64, BitVec.ofNat 64 (n + 2 ^ 16 + 2 ^ 32 + 2 ^ 48), BitVec.ofNat 64 (1 + 2 ^ 32 * 0xABCD)] }
def withCopy (q : CopyCmd) : State := live0.setCrew 1 { bigCrew with chans := [(0, { queue := [q, fillOf 1 false] })] }

/-- Streams of 16,384 and 16,385 bytes, one through a ring that it fills, one that has landed, and the last unit of 36 bytes, with
192 and 193 bytes of the cycle gone and with another channel before it. -/
theorem witness_engineEvents_copy :
    let head (s : State) : Bool := crewRuns (s.crew 1) && decide (copyEngine 1 0 = 49)
    let s (n : Nat) := withCopy (fillOf n false)
    let ring : CopyCmd := fillOf 256 false 0 (2 ^ 22 + 2 ^ 26)
    let st (done : Nat) : CopyCmd := fillOf 100 true done
    head (s 16385) = true ∧ copyLen (s 16385) (fillOf 16385 false) = 16385 ∧ copyLen (s 16384) (fillOf 16384 false) = 16384 ∧
    hasLeave (s 16385) 0 (copyEngine 1 0) copyCost = false ∧
    copyMayStart (s 16384) ((s 16384).crew 1) (fillOf 16384 false) = true ∧ copyIrrevocable (s 16384) (fillOf 16384 false) = false ∧
    (copyMayStart (withCopy ring) ((withCopy ring).crew 1) ring && ring.rmode == 1 && ring.ring == 1 &&
      decide (copyLen (withCopy ring) ring / (((withCopy ring).crew 1).ring ring.ring).sz = 2)) = true ∧
    copyLanded (withCopy (st 100)) 0 (st 100) = true ∧ copyLanded (s 16385) 0 (fillOf 16385 true) = false ∧
    ([0, 64, 99].all (fun d => !copyLanded (withCopy (st d)) 0 (st d) && !chanAhead (withCopy (st d)) 0 1 0 &&
      (st d).wants.isEmpty && (st d).dir == 0 && (st d).rmode == 0 && (st d).count == 100 &&
      (st d).d 0 0 4 == 0)) = true ∧ Memory.wf bigCrew.shm ∧
    (let withCore (co : Core) : State := (withCopy (st 64)).setCore 0 co
     copyMoved (withCore { copyBytes := 192 }) 0 + 64 ≤ 256 ∧ 256 < copyMoved (withCore { copyBytes := 193 }) 0 + 64 ∧
     (let s := (withCore { copyTurns := [(1, 5)], copyPtr := 21 }).modCrew 1 (fun cr => { cr with chans := (5, { queue := [st 64] }) :: cr.chans })
      chanAhead s 0 1 0 = true)) := by decide +kernel

def withMx (q : MxCmd) : State := { live0.setCrew 1 bigCrew with now := 100, cores := [(0, { matrix := [q] })] }
def mxOf (kind : Nat) (start : Option Nat) (rowsDone : Bool := false) : MxCmd :=
  { id := 5, kind := kind, x := x0, team := 1, crew := 1, start := start, rowsDone := rowsDone, flag := some 3
    desc := [BitVec.ofNat 64 (2 + 2 ^ 5 * 1 + 2 ^ 11 + 2 ^ 12), 0#64, 0#64, 0#64], rows := List.range (mxShape 0).1 }
def mxGranted (s : State) : State :=
  { s with dies := [(0, { granted := [{ engine := mxEngine 0, core := 0, cost := 24 }] })] }

/-- A step without leave, ready and not ready; effects 8, 24 and 32 cycles after the start. -/
theorem witness_engineEvents_matrix :
    let q (k : Nat) : MxCmd := mxOf k none
    let begins (s : State) (q : MxCmd) : Bool := mxNext s 0 == some q && mxMayStart s 0 q && (match mxBegin s 0 q with
      | .ok s1 _ => (s1.core 0).matrix.contains q
      | _ => false)
    let due (k n : Nat) (r : Bool) : MxCmd := mxOf k (some (100 - n)) r
    mxNext (withMx (q 8)) 0 = some (q 8) ∧ hasLeave (withMx (q 8)) 0 (mxEngine 0) (mxCost (q 8).fmtA.width) = false ∧
    hasLeave (mxGranted (withMx (q 8))) 0 (mxEngine 0) (mxCost (q 8).fmtA.width) = true ∧
    begins (mxGranted (withMx { q 8 with x := { x0 with ha := 1#4, hb := 1#4 } })) { q 8 with x := { x0 with ha := 1#4, hb := 1#4 } } = true ∧
    begins (withMx (q 10)) (q 10) = true ∧ mxMayStart { withMx (q 10) with now := 3 } 0 (q 10) = false ∧
    mxDue (withMx (due 8 8 false)) 0 8 MxCmd.consDone = some (due 8 8 false) ∧ mxDue (withMx (due 8 7 false)) 0 8 MxCmd.consDone = none ∧
    ([8, 9, 10, 11].all (fun k => mxDue (withMx (due k 24 false)) 0 24 MxCmd.rowsDone == some (due k 24 false) &&
      (due k 24 false).rows == (List.range (due k 24 false).m).map (fun i => 0 + i))) = true ∧
    mxDue (withMx (due 11 32 true)) 0 32 (fun m => m.kind != 11 || !m.rowsDone) = some (due 11 32 true) ∧
    (due 11 32 true).e 0 8 1 = 0 := by decide +kernel

/-- Messages that agree and that do not; requests within the ceiling and past it; leave that is idle and that has lapsed. -/
theorem witness_engineEvents_leave :
    let d : List Word64 := [BitVec.ofNat 64 (32 * Fmt.int32.code), 0#64, 64#64, 64#64, 1#64, 2#64, 0#64]
    let coll : State := withOp live0 (.coll 1 0 d (some 3) 0 [] (some [1#8, 2#8, 3#8, 4#8]) none)
    let leave : State := { coll with dies := [(0, { granted := [{ engine := collEngine 0, core := 0, cost := collCost }] })] }
    let sent (m : List Byte) : List (List Byte) := [[], collMatch d ++ m]
    let good : List (List Byte) := sent (collHeader d 0 ++ [5#8, 6#8, 7#8, 8#8])
    let ask (c : Nat) : State := { live0 with now := 100000, dies := [(0, { queue := [{ engine := 3, core := 1, cost := c }] })] }
    let held (x : Leave) : State := { live0 with now := 100000, dies := [(0, { granted := [x] })] }
    let idle : Leave := { engine := 3, core := 1, cost := 24, idleSince := some (100000 - us 2) }
    crewRuns (coll.crew (coll.team 1).crew) = true ∧ (coll.task (coll.team 1).task).fn = pfFn ∧
    collMeant d good = true ∧ collMeant d [[], []] = false ∧ collTurn coll 9 d = true ∧ collTurn leave 9 d = true ∧
    hasLeave coll 0 (collEngine 0) collCost = false ∧ hasLeave leave 0 (collEngine 0) collCost = true ∧
    collAgrees d (collData d good) = true ∧ collMeant d (sent []) = true ∧ collAgrees d (collData d (sent [])) = false ∧
    (collResult d [1#8, 2#8, 3#8, 4#8] (collData d good)).length = 4 ∧
    leaveFits (ask 240) 0 = true ∧ leaveFits (ask 241) 0 = false ∧
    leaveIdle (held idle) 0 3 = true ∧ engineBusy (held idle) 3 = false ∧ leaveIdle (held { idle with idleSince := some (100001 - us 2) }) 0 3 = false ∧
    ((held { idle with reservation := true }).die 0).granted.any (fun x => x.engine == 3 && x.lapsed 100000) = true := by decide +kernel

/-! ### Partitions and functions -/

def slot5 : PSlot := { owner := 5#8, len := 100#14, drain := 10#10, donee := 6#8 }
def slot6 : PSlot := { owner := 6#8, len := 20#14, drain := 10#10 }
def part0 : Part :=
  { en := true, started := true, bays := 1#32, live := [slot5, slot6], runVf := some 5, isOpen := true, specWays := 4#4 }
def vf : Func := { en := true, part := 0#5, segBase := 1#9, segCount := 2#9, ways := 0xFF000F#24, donateOut := true, donateIn := true }

/-- Partition 0 with VFs 5 and 6 bound, at a time. -/
def withPart (x : Part) (now : Nat := 0) (f : Func := vf) (g : Func := vf) : State :=
  { now := now, parts := [(0, x)], funcs := [(5, f), (6, { g with segBase := 3#9 })] }

/-- The first and the last cycle but one of a drain window, edges with and without a change of work, a debit, an opening, and an
owner that is paused. -/
theorem witness_slotSteps :
    let s := withPart part0
    let quiet : State := withPart { part0 with live := [slot5] } (us 100)
    let last : State := withPart { part0 with curSlot := 1, live := [slot6, slot6], slotAt := 0, runVf := some 6 } (us 20)
    let hand : Part := { part0 with edgeStep := .flushing, isOpen := false, runVf := none, edgeY := some 5 }
    let saving : State := withPart { part0 with edgeStep := .saving, isOpen := false, runVf := none, edgeAt := us 100, edgeY := some 6 } (us 100)
    let idle : State := withPart { part0 with runVf := none } 0 { vf with paused := true }
    drainDue (withPart part0 (us 90 - 1)) 0 = false ∧ drainDue (withPart part0 (us 90)) 0 = true ∧
    drainDue (withPart part0 (us 100 - 1)) 0 = true ∧ edgeDue (withPart part0 (us 100 - 1)) 0 = false ∧
    (edgeDue (withPart part0 (us 100)) 0 && !edgeSilent (withPart part0 (us 100)) 0) = true ∧
    ((part0.edgeStep == .none) && (saving.part 0).edgeStep == .saving && decide ((saving.part 0).edgeAt ≤ saving.now) &&
      (saving.part 0).edgeX.isNone && (saving.part 0).toSave.isEmpty && (saving.part 0).saveEnd.isEmpty &&
      decide (saving.now - 1 < (saving.part 0).edgeAt)) = true ∧
    (edgeDue (withPart { hand with slotAt := 0 } (us 100)) 0 && !edgeSilent (withPart { hand with slotAt := 0 } (us 100)) 0) = true ∧
    (edgeDue quiet 0 && edgeSilent quiet 0) = true ∧ (edgeDue last 0 && edgeSilent last 0) = true ∧
    (let h := withPart hand 0 { vf with owed := 3 }
     flushDone h 0 && mayRun h 0 5 && (h.func 5).spilled.isEmpty && decide (0 < min (h.func 5).owed (usLeft h 0)) && holdDue h 0) = true ∧
    openDue (withPart { part0 with isOpen := false }) 0 = true ∧ openDue (withPart { part0 with isOpen := false, openAt := 1 }) 0 = false ∧
    holdDue s 0 = false ∧ donationDue (withPart { part0 with donated := true }) 0 = false ∧ donationDue idle 0 = true := by decide +kernel

/-- A free partition that may be enabled, one whose bays are taken and one with a VF bound; commits of good and bad slots; scrubs of a
free granule, of one that a VF holds and of one past the end, and of the partition's last, and while a slot is leased. -/
theorem witness_partitionRegisters :
    let off : Part := { bays := 1#32, clean := BitVec.allOnes 384, shadow := [(0, { len := 20#14, drain := 10#10 })] }
    let s (x : Part) (more : Tab Part) : State := { parts := (0, x) :: more }
    let slots : List PSlot := [{ len := 20#14, drain := 10#10 }]
    (!off.en && mayEnablePart (s off []) 0 { off with nslotm1 := 0#4 }) = true ∧
    mayEnablePart (s off [(1, { en := true, bays := 1#32 })]) 0 off = false ∧
    boundVfs (withPart part0) 0 = [5, 6] ∧ boundVfs (s { off with en := true } []) 0 = [] ∧
    slots.all (slotOk (s off []) 0 10) = true ∧ slots.all (slotOk (s off []) 0 11) = false ∧
    granuleCount (withPart part0) 0 = 11 ∧
    ([(0, false), (1, true), (4, true), (5, false), (10, false)].all
      (fun e => granuleBound (withPart part0) 0 e.1 192 == e.2)) = true ∧
    ((1#64 : Word64).getLsbD 0 && !(1#64 : Word64).getLsbD 15 && (0x8001#64 : Word64).getLsbD 15 && (0x10000#64 : Word64).getLsbD 16) = true ∧
    ([true, false].all (fun on => let x : Part := { part0 with scrubBusy := true, leases := if on then [(0, 1, 5)] else [] }
      slotLeased (withPart x) 0 == on && ((withPart x).part 0).scrubBusy && !slotLeased (withPart { x with en := false, started := false }) 0)) = true ∧
    Memory.wf (withPart part0).mem := by decide +kernel

/-- A VF that may be enabled and one whose granules are another's; VFs running, PAUSED and not; a segment that may grow by one
granule and one that runs into its neighbour's. -/
theorem witness_functionRegisters :
    let clean : Part := { part0 with clean := BitVec.allOnes 384, runVf := none }
    let off : Func := { vf with en := false, ctxb := BitVec.ofNat 64 (2 ^ 48) }
    let s (f : Func) (x : Part := clean) : State := withPart x 0 f
    let grown (f : Func) (g : Func) (c : Nat) : Bool :=
      let w := withPart clean 0 f g
      (List.range c).all (fun i => decide (i < f.segCount.toNat) || (clean.clean.getLsbD (1 + i) && !granuleBound w 0 (1 + i) 5))
    mayEnableVf (s off) 5 { off with ways := 0x00FF00#24 } = true ∧ mayEnableVf (s off) 5 { off with segBase := 2#9 } = false ∧
    ((s vf).func 5).en = true ∧ ((s { vf with paused := true }).func 5).paused = true ∧ ((s vf).part 0).runVf ≠ some 5 ∧
    ((s vf part0).part 0).runVf = some 5 ∧ ((s vf).part 0).edgeStep = .none ∧
    grown { vf with segCount := 1#9 } vf 2 = true ∧ grown vf vf 3 = false ∧ granuleCount (s vf) 0 = 11 ∧
    (3#64 : Word64).getLsbD 1 = true := by decide +kernel

/-! ### Issue events, faults, the device and the steward -/

/-- A bundle outside the code, with and without a prediction; a breakpoint of the last number; a path whose step is over in this
cycle and one whose step is not; stops that await a bundle that is done and one that is not; a sample, one into a full ring, and one that is not due. -/
theorem witness_issueEvents :
    let outside (l : List Nat) : State := live0.modTask 1 (fun (k : Task) => { k with codeLen := 0, predicted := l })
    let bp (w : Word64) (hit : Bool) : State :=
      (((live0.modTask 1 (fun (k : Task) => { k with debug := true, codeSlot := 9 })).modFunc pfFn
        (fun (f : Func) => { f with dbgCtl := 2#4, bkpt := [(7, w)] })).modTeam 1 (fun (tm : Team) =>
          tm.modPath 0 (fun (p : Path) => { p with hitDone := hit })))
    let at_ : Word64 := BitVec.ofNat 64 (3 + 2 ^ 8 * 9 + 2 ^ 16 * ((path0 live0).pc / 32 - (live0.task 1).codeBase / 32))
    let st (at_ : Nat) : State := live0.modTeam 1 (fun (tm : Team) => tm.modPath 0 (fun (p : Path) => { p with stepped := true, readyAt := at_ }))
    let smp (ctl tail : Nat) : State := live0.modFunc pfFn (fun (f : Func) =>
      { f with smpCtl := BitVec.ofNat 64 ctl, smpTail := BitVec.ofNat 64 tail })
    (ctxOf live0).isSome = true ∧
    ([[], [1]].all (fun l => (ctxOf (outside l)).any (fun (c : Ctx) =>
      fetchFault (outside l) ((outside l).team c.t) c.pc == some (.illegalOp, .none) &&
      isSpeculative (outside l) ((outside l).task 1) == (l == [1]) && ((outside l).team c.t).deferred.isNone &&
      ((outside l).task 1).stopping.isNone && quietable (stopTeams (outside l) 1) (teamsOfTask (stopTeams (outside l) 1) 1)))) = true ∧
    (let s (pa : Path) : State := live0.modTeam 1 (fun (tm : Team) => tm.setPath 0 { pa with stopAfter := [(0x0D, 3)] })
     bundleDone (s (path0 live0)) ((s (path0 live0)).team 1) 0 ((s (path0 live0)).team 1 |>.path 0) = true ∧
     bundleDone (s { path0 live0 with parked := true }) ((s (path0 live0)).team 1) 0 { path0 live0 with parked := true } = false) ∧
    hitOf (bp at_ false) 1 0 = some 7 ∧ hitOf (bp at_ true) 1 0 = none ∧ hitOf live0 1 0 = none ∧
    stepDue (st 0) 1 0 = true ∧ stepDue (st 1) 1 0 = false ∧
    sampleDue (smp 1 0) 0 = true ∧ sampleDue (smp 0 0) 0 = false ∧ runnerOf (smp 1 0) 0 = some pfFn ∧ nextTeam (smp 1 0) 0 = some 1 ∧
    ((smp 1 1023).func pfFn).smpSize = 1024 ∧ inSeg (smp 1 1023) pfFn (32 * 1023) 32 = true ∧ Memory.wf (smp 1 1024).mem := by decide +kernel

/-- A fault in a task that runs under a prediction, of a team that has recorded one and of one that has not, and in one that does
not, which may save and may not, which must wait for an access that waits, and which has one before it. -/
theorem witness_faultsStopOrDefer :
    let f : FaultInfo := { code := .align, slot := .m, addr := 3 }
    let s (l : List Nat) : State := live0.modTask 1 (fun (k : Task) => { k with predicted := l })
    let held : State := (s [1]).modTeam 1 (fun (tm : Team) => { tm with deferred := some f })
    let roomy : State := { s [] with pfCtxb := BitVec.ofNat 64 (2 ^ 48) }
    let kept (w : State) : Bool :=
      let q := quiesce (stopTeams w 1) 1
      (storeTask (q.modTask 1 (fun y => { y with faulted := true, stopping := none })) 1
        (faultRecord (q.task 1).taskid (w.team 1).wid0 0 0 f false)).isSome
    (isSpeculative (s [1]) ((s [1]).task 1) && deferrable f.code && ((s [1]).team 1).deferred.isNone) = true ∧
    (isSpeculative held (held.task 1) && (held.team 1).deferred.isSome) = true ∧
    isSpeculative (s []) ((s []).task 1) = false ∧ kept (s []) = false ∧
    ([s [], roomy].all (fun w => (w.task 1).stopping.isNone && quietable (stopTeams w 1) (teamsOfTask (stopTeams w 1) 1))) = true ∧
    (let w : State := withOp { s [] with accesses := [(6, { team := 1, walks := [9], todo := [{ lane := 0 }] })] } (.walk { stopped := true })
     quietable (stopTeams w 1) (teamsOfTask (stopTeams w 1) 1)) = false ∧
    (let w := (s []).modTask 1 (fun k => { k with stopping := some ⟨0, 0, 0, f⟩ })
     (w.task 1).stopping.isSome && !isSpeculative w (w.task 1)) = true ∧
    f.code ≠ .liningMismatch ∧ f.code ≠ .walkSegment ∧ f.code ≠ .tileNotPresent ∧ deferrable .watchdog = false ∧
    kept roomy = true ∧ (let q := quiesce (stopTeams roomy 1) 1
     Memory.wf q.mem ∧ (q.task 1).slot < 64 ∧ Nat.testBit (q.func pfFn).trcCtl.toNat 0 = false) := by decide +kernel

/-- Ports 11 and 12 with 2 and 3 resends and 1 and 2 lanes gone; accesses and commands of a port; a first sample, one after 10 µs and
one too early; repairs that wait, for their partition and for one before them, copy and find no reserve. -/
theorem witness_deviceEvents :
    let acc : State := { live0 with accesses := [(7, { team := 1, todo := [{ lane := 3, addr := some (spaceBase (hostSpace + 1)) }] })] }
    let lost (bad : Nat) : LinkPort := { badLanes := bad }
    let at_ (sense : Option Nat) : State := { now := us 20, cores := [(5, { senseAt := sense })] }
    let rep (g : State → State) : State := g { rowsUsed := [(300, 31), (301, 32)], reserveUsed := [(1, 4), (2, 5)] }
    let core (c : Core) : State := { cores := [(5, c), (12, { (coreReset 12) with cstate := 1#2 })] }
    (Tab.find acc.accesses 7).any isRemote = true ∧ Tab.find live0.accesses 77 = none ∧
    (let q : CopyCmd := { fillOf 64 true with kind := 1, desc := [BitVec.ofNat 64 (16 + 2 ^ 14), 0#64, 0#64, 0#64, BitVec.ofNat 64 (ext 64 1 1 1), 1#64] }
     (engineOwner (withCopy q) 77).isSome) = true ∧
    ([some (us 10), none].all (fun o => sampleTime (at_ o) ((at_ o).core 5)) && !sampleTime (at_ (some (us 20))) ((at_ (some (us 20))).core 5) &&
      !sampleTime (at_ (some (us 11))) ((at_ (some (us 11))).core 5)) = true ∧
    (Tab.get ({ ports := [(11, lost 2)] } : State).ports 11 {} = lost 2 ∧ (lost 1).badLanes < 2 ∧ (lost 2).down = false) ∧
    (let w : State := { repairs := [.row 3] }
     w.repairs ≠ [] ∧ (rep id).repairs = [] ∧ Repair.core 5 ∉ w.repairs ∧ 1 ∈ (rep (fun s => { s with chanCopy := [1] })).chanCopy) ∧
    (let scrub : State := { parts := [(3, { scrubBusy := true, bays := 0x10#32 })] }
     let leased : State := withPart { part0 with curSlot := 0, leases := [(0, 5, 5)] }
     repairHeld scrub (.row 300) && repairHeld scrub (.channel 300) && !repairHeld (rep id) (.row 300) && !repairHeld (rep id) (.channel 300) &&
       bayLeased { leased with chanCopy := [1] } (1 / 64) && !bayLeased (rep id) (1 / 64)) = true ∧
    repairWaits (rep id) (300 / 64) = false ∧ repairWaits (rep (fun s => { s with chanCopy := [1] })) (300 / 64) = true ∧
    Tab.get (rep id).rowsUsed 300 0 < 32 ∧ 32 ≤ Tab.get (rep id).rowsUsed 301 0 ∧ Tab.get (rep id).reserveUsed (300 / 256) 0 < 5 ∧
    5 ≤ Tab.get (rep id).reserveUsed (513 / 256) 0 ∧ 300 ∉ (rep id).chanRetired ∧
    partOfBay (rep id) 0 = none ∧ repairWaits (rep id) 0 = false ∧ partOfBay (withPart part0) 0 = some 0 ∧ repairWaits (withPart part0) 0 = false ∧
    (specSet (withPart part0) 0 0).contains 4 = false ∧ (withPart part0).repairs = [] ∧ boundVfs (withPart part0) 0 = [5, 6] ∧
    ((core { failing := true }).core 5).failing = true ∧ crewsToMove (core { failing := true }) 5 = [] ∧
    coreMoving (core { failing := true }) 5 = false ∧ (core { failing := true }).repairs = [] ∧
    repairWaits (core { failing := true }) (5 / 13) = false ∧ spareOf (core { failing := true }) 5 = some 12 ∧
    spareOf { cores := (List.range 13).map (fun c => (c, { (coreReset c) with cstate := 0#2, failing := c == 5 })) } 5 = none := by
  decide +kernel

/-- Images in the range and past the host's space; requests that the device answers, that are masked, that wait for a swap and that
are posted; grants that give a lease back; a profiling lease in its last frame and one that is over. -/
theorem witness_stewardAndMailbox :
    let st (n : Nat) (cmd : Nat) : State := { stSrc := BitVec.ofNat 64 (2 ^ 64 - 64), stLen := BitVec.ofNat 64 n, stCmd := some cmd }
    let req (code : Nat) (feat : BitVec 14) (busy : Bool) : State :=
      { funcs := [(191, { vf with msg := [(0, BitVec.ofNat 64 code)], feat := feat, mbBusy := busy })] }
    let own (code : Nat) : Bool := code == 0 || (decide (5 < code) && decide (code < 0x8000))
    let post (s : State) : Bool := !(s.func 191).mbBusy
    let lease (fr : Nat) : State := withPart { part0 with frames := BitVec.ofNat 32 fr, leases := [(3, 4, 5), (9, 9, 6)] }
    hostOk (st 64 1) (2 ^ 64 - 64) 64 = true ∧ hostOk (st 65 1) (2 ^ 64 - 64) 65 = false ∧ (st 64 2).stCmd = some 2 ∧ (st 64 3).stCmd = some 3 ∧
    ([0, 6, 0x7FFF].all own && [1, 5, 0x8000].all (fun n => !own n)) = true ∧
    post (req 4 0x1000 false) = true ∧ masked (req 4 0x1000 false) 191 12 = true ∧ masked (req 3 0x2000 false) 191 13 = true ∧
    (req 4 0x2FFF false).stCmd ≠ some 1 ∧ ((req 5 0 true).setFunc 191 { vf with mbBusy := true, mbCode := 5, mbArg := 4 }).func 191 =
      { vf with mbBusy := true, mbCode := 5, mbArg := 4 } ∧
    masked (req 4 0x2FFF false) 191 12 = false ∧ post (req 1 0 true) = false ∧ ((req 3 0 true).func 191).mbHeld = false ∧
    leaseOver (lease 6) 5 = false ∧ leaseOver (lease 7) 5 = true := by decide +kernel

/-! ### Sealing and attestation -/

/-- An image of one entry and one bundle, under the stamp of this product (R65). -/
def testImage : List Byte :=
  leBytes 4 0x4F544332 ++ leBytes 4 1 ++ leBytes 16 Config.stampS7.toNat ++ leBytes 4 1 ++ leBytes 4 1 ++ leBytes 4 0x40 ++
    leBytes 4 0x60 ++ leBytes 24 0 ++ leBytes 32 2 ++ leBytes 32 1

def sealing : State :=
  { pfCodeb := BitVec.ofNat 64 (2 ^ 20 + 2 ^ 48), mem := Memory.write [] (hostFlat 0x1000) testImage
    funcs := [(pfFn, { sealSrc := 0x1000#64, sealLen := 0x80#64 })] }

theorem sealing_image : sealImage sealing pfFn = some testImage := by
  have hs : (inSeg sealing pfFn (sealing.func pfFn).sealSrc.toNat (sealing.func pfFn).sealLen.toNat) = true := by decide +kernel
  have hf : flatOf sealing pfFn (sealing.func pfFn).sealSrc.toNat = hostFlat 0x1000 := by decide +kernel
  have hl : (sealing.func pfFn).sealLen.toNat = testImage.length := by decide +kernel
  have hb : gBytes sealing pfFn (sealing.func pfFn).sealSrc.toNat (sealing.func pfFn).sealLen.toNat = testImage := by
    rw [gBytes, hf, hl]
    exact Memory.bytes_write_same Memory.wf_nil (hostFlat 0x1000) testImage
  simp only [sealImage, hs, hb, Bool.and_true, beq_self_eq_true, Bool.true_or, if_true]

theorem testImage_stamp : imageStamp testImage = true := by
  have h : fieldAt testImage 8 16 = Config.stampS7.toNat :=
    (leNat_leBytes 16 Config.stampS7.toNat).trans (Nat.mod_eq_of_lt Config.stampS7.isLt)
  simp [imageStamp, stampOf, h]

/-- The handle of slot 3 with some check field, read back field by field. -/
theorem handle_fields (c : BitVec 24) :
    let w := (BitVec.ofNat 128 (192 + 2 ^ 8 * 3 + 2 ^ 16 * 7 + 2 ^ 32 + 2 ^ 48 * 2 + 2 ^ 80 * 5 + 2 ^ 104 * c.toNat)).toNat
    w = 192 + 2 ^ 8 * 3 + 2 ^ 16 * 7 + 2 ^ 32 + 2 ^ 48 * 2 + 2 ^ 80 * 5 + 2 ^ 104 * c.toNat := by
  have := c.isLt
  simp only [BitVec.toNat_ofNat]
  omega

/-- A seal that passes its checks, one that does not, a release under a valid and under an invalid handle, the end of a release of
an object that is used and that is not, and a report that may be written. -/
theorem witness_sealingAndAttestation :
    (sealImage sealing pfFn = some testImage ∧ sealCode sealing pfFn = 0 ∧ (sealing.func pfFn).sealBusy = false ∧
      sealLimit sealing pfFn ≤ 256 ∧ Memory.wf sealing.mem) ∧
    sealCode {} 5 = 6 ∧ handleSlot {} 5 0#128 = none ∧
    (∃ (s : State) (h : BitVec 128) (x : SealedSlot), handleSlot s pfFn h = some (3, x)) ∧
    (let x : SealedSlot := { live := true, releasing := true }
     let s (slot : Nat) : State := live0.modFunc pfFn (fun (f : Func) => { f with sealBusy := true, slots := [(slot, x)] })
     let used := (live0.task 1).codeSlot
     objectUsed (s used) pfFn used = true ∧ objectUsed (s (used + 1)) pfFn (used + 1) = false ∧
     ((s used).func pfFn).slots.find? (fun e => e.2.releasing) = some (used, x)) ∧
    inSeg live0 pfFn 512 (report live0 pfFn).length = true := by
  refine ⟨⟨sealing_image, ?_, by decide +kernel, by decide +kernel, Memory.write_wf _ _ Memory.wf_nil⟩, by decide +kernel,
    by decide +kernel, ?_, by decide +kernel, by decide +kernel⟩
  · have h1 : (fieldAt testImage 0 4 != 0x4F544332 || fieldAt testImage 4 2 != 1) = false := by decide +kernel
    have h2 : imageShape testImage = true := by decide +kernel
    have h3 : imageFields testImage = true := by decide +kernel
    have h4 : ¬ sealLimit sealing pfFn ≤ ((sealing.func pfFn).slots.filter (fun e => e.2.live)).length := by decide +kernel
    have h5 : (codeGaps sealing pfFn (objectUnits (fieldAt testImage 0x1C 4) (fieldAt testImage 0x18 4))).isEmpty = false := by
      decide +kernel
    simp [sealCode, sealing_image, h1, h2, h3, testImage_stamp, h4, h5]
  · let lo : Nat := 192 + 2 ^ 8 * 3 + 2 ^ 16 * 7 + 2 ^ 32 + 2 ^ 48 * 2 + 2 ^ 80 * 5
    let x : SealedSlot := { live := true, gen := 7#16, base := 2, len := 5, entries := [(2#64, 0)] }
    refine ⟨{ funcs := [(pfFn, { slots := [(3, x)] })] }, BitVec.ofNat 128 (lo + 2 ^ 104 * (Config.handleCheck (BitVec.ofNat 104 lo)).toNat), x, ?_⟩
    have hw := handle_fields (Config.handleCheck (BitVec.ofNat 104 lo))
    have hx : Tab.get (State.func { funcs := [(pfFn, { slots := [(3, x)] })] } pfFn).slots 3 {} = x := by decide +kernel
    have hb : ∀ c : Nat, BitVec.ofNat 104 (lo + 2 ^ 104 * c) = BitVec.ofNat 104 lo := fun c =>
      BitVec.eq_of_toNat_eq (by simp only [BitVec.toNat_ofNat, Nat.add_mul_mod_self_left])
    have hc := (Config.handleCheck (BitVec.ofNat 104 lo)).isLt
    have hn : fld (BitVec.ofNat 128 (lo + 2 ^ 104 * (Config.handleCheck (BitVec.ofNat 104 lo)).toNat)).toNat 8 8 = 3 := by
      rw [hw, fld]; omega
    simp only [handleSlot, hn, hx]
    rw [hw, hb]
    generalize (Config.handleCheck (BitVec.ofNat 104 lo)).toNat = c at hc ⊢
    have fields : fld (lo + 2 ^ 104 * c) 0 8 = 192 ∧ fld (lo + 2 ^ 104 * c) 16 16 = 7 ∧ fld (lo + 2 ^ 104 * c) 32 16 = 1 ∧
        fld (lo + 2 ^ 104 * c) 48 32 = 2 ∧ fld (lo + 2 ^ 104 * c) 80 24 = 5 ∧ fld (lo + 2 ^ 104 * c) 104 24 = c := by
      simp only [fld, lo]; omega
    generalize lo + 2 ^ 104 * c = w at fields ⊢
    simp [fields, x, pfFn]

/-! ### Writes from outside, queues and crews -/

theorem witness_writesFromOutside :
    let busy : State := { funcs := [(191, { vf with mbBusy := true })] }
    Memory.wf busy.mem ∧ (busy.func 191).mbBusy = true ∧ (1#64 : Word64).getLsbD 0 = true ∧ (191 < 192 ∧ 5 ≠ pfFn ∧ (7 % 8 ≠ 0)) := by
  decide +kernel

/-- The word of the slot-3 handle and a record that launches its entry 0: 1 crew of 1 team, widths 5, 0, 27, 32, 0 and 0. -/
def handleNat : Nat :=
  let lo : Nat := 192 + 2 ^ 8 * 3 + 2 ^ 16 * 7 + 2 ^ 32 + 2 ^ 48 * 2 + 2 ^ 80 * 5
  lo + 2 ^ 104 * (Config.handleCheck (BitVec.ofNat 104 lo)).toNat
def sealed3 : SealedSlot := { live := true, gen := 7#16, base := 2, len := 5, entries := [(2#64, 0)] }
def recordOf (graph : Bool) : List Byte :=
  leBytes 16 handleNat ++ (if graph then leBytes 8 0 ++ leBytes 8 (2 ^ 50) ++ leBytes 96 0
    else leBytes 8 (2 ^ 20) ++ leBytes 8 (5 + 2 ^ 12 * 27 + 2 ^ 18 * 32) ++ leBytes 8 (1 + 2 ^ 32 + 2 ^ 48) ++ leBytes 8 1 ++ leBytes 80 0)

/-- A node: its kind, next and alternative node, prediction, address and count. -/
def nodeOf (kind next alt pred addr count : Nat) : List Byte :=
  leBytes 8 (kind + 2 ^ 4 * next + 2 ^ 16 * alt + 2 ^ 28 * pred) ++ leBytes 8 addr ++ leBytes 16 count

/-- The PF's queue 63 has that record at its head; in the code area lie the two nodes of an empty graph. -/
def queued (graph : Bool) : State :=
  { live0 with
      pfCodeb := BitVec.ofNat 64 (2 ^ 20 + 2 ^ 48)
      mem := (List.range 128).map (fun (i : Nat) => (hostFlat 0x4000 + i, (recordOf graph).getD i 0#8)) ++
        Memory.write [] (hostFlat (2 ^ 20 + 64)) (nodeOf (15 + 2 ^ 33) 1 0 0 0 0 ++ leBytes 32 0)
      funcs := [(pfFn, { slots := [(3, sealed3)], queues := [(63, { qbase := 0x4000#64, en := true, logsz := 4#4, qtailv := 1#64 })] })] }

/-- Sizes 3, 4 and 15, a ring inside and outside the segment; tail values that stand, fall back and run ahead; a queue that may be
served and one that may not; tasks whose tokens hold, do not hold and are bad. -/
theorem witness_queuesAndDispatch :
    let q5 (base : Nat) : Queue := { qbase := BitVec.ofNat 64 base, qtaila := 8#64 }
    let s5 (base : Nat) : State := { live0 with funcs := [(5, { vf with qmax := 3#7, queues := [(2, q5 base)] })] }
    let y (base : Nat) : Queue := { q5 base with logsz := 4#4 }
    let wait (a : Nat) (v : Nat) (ph : Phase) : Task :=
      { live0.task 1 with phase := ph, lrec := { (live0.task 1).lrec with waita := [BitVec.ofNat 64 a], waitv := [BitVec.ofNat 32 v] } }
    ([(2, true), (3, false)].all (fun e => queueAllowed (s5 0) 5 e.1 == e.2)) = true ∧
    queueOutside (s5 0) 5 (y 0) = false ∧ queueOutside (s5 (2 ^ 31)) 5 (y (2 ^ 31)) = true ∧ ([3, 4, 15].map (fun n => 2 * n / 2 % 16)) = [3, 4, 15] ∧
    (tokenOk (queued false) pfFn 0 8 && runs (queued false) pfFn && ((queued false).func pfFn |>.queue 63).en) = true ∧
    runs (s5 0) 5 = false ∧ Memory.wf live0.mem ∧
    (running (queued false) freePart == some pfFn && mayDispatch (queued false) freePart) = true ∧
    mayDispatch (withPart { part0 with draining := true }) 0 = false ∧ running (withPart { part0 with runVf := none }) 0 = none ∧
    chosenQueue (queued false) freePart pfFn = some (63, 0) ∧ dispatchSlot (queued false) pfFn = some 1 ∧
    freeSlots { queued false with tasks := (List.range 64).map (fun i => (i + 1, { live0.task 1 with slot := i })) } pfFn = [] ∧
    runs live0 pfFn = true ∧ badToken live0 pfFn (wait 0x4000 0 .waiting).lrec = none ∧
    badToken { live0 with hostBad := [4] } pfFn (wait 0x4000 0 .waiting).lrec = some 0x4000 ∧
    tokensHold live0 pfFn (wait 0x4000 0 .waiting).lrec = true ∧ tokensHold live0 pfFn (wait 0x4000 1 .waiting).lrec = false := by decide +kernel

theorem record_handle (s : State) (h : (s.func pfFn).slots = [(3, sealed3)]) :
    handleSlot s pfFn (BitVec.ofNat 128 handleNat) = some (3, sealed3) := by
  have hc := (Config.handleCheck (BitVec.ofNat 104 (192 + 2 ^ 8 * 3 + 2 ^ 16 * 7 + 2 ^ 32 + 2 ^ 48 * 2 + 2 ^ 80 * 5))).isLt
  have hw : (BitVec.ofNat 128 handleNat).toNat = handleNat := by
    simp only [BitVec.toNat_ofNat, handleNat] at *; omega
  have hb : BitVec.ofNat 104 handleNat = BitVec.ofNat 104 (192 + 2 ^ 8 * 3 + 2 ^ 16 * 7 + 2 ^ 32 + 2 ^ 48 * 2 + 2 ^ 80 * 5) :=
    BitVec.eq_of_toNat_eq (by simp only [BitVec.toNat_ofNat, handleNat, Nat.add_mul_mod_self_left])
  have f : fld handleNat 0 8 = 192 ∧ fld handleNat 8 8 = 3 ∧ fld handleNat 16 16 = 7 ∧ fld handleNat 32 16 = 1 ∧ fld handleNat 48 32 = 2 ∧
      fld handleNat 80 24 = 5 ∧ fld handleNat 104 24 =
        (Config.handleCheck (BitVec.ofNat 104 (192 + 2 ^ 8 * 3 + 2 ^ 16 * 7 + 2 ^ 32 + 2 ^ 48 * 2 + 2 ^ 80 * 5))).toNat := by
    simp only [fld, handleNat]; omega
  simp only [handleSlot, hw, hb, f, h]
  simp [sealed3, pfFn, Tab.get, Tab.find]

/-- What the head of the queue reads. -/
def headOf (graph : Bool) : List Byte := Memory.bytes (queued graph).mem (hostFlat 0x4000) 128

theorem record_codeh (graph : Bool) : (parseRecord (headOf graph)).codeh = BitVec.ofNat 128 handleNat := by
  have hc := (Config.handleCheck (BitVec.ofNat 104 (192 + 2 ^ 8 * 3 + 2 ^ 16 * 7 + 2 ^ 32 + 2 ^ 48 * 2 + 2 ^ 80 * 5))).isLt
  have hr : ((headOf graph).drop 0).take 16 = leBytes 16 handleNat := by cases graph <;> rfl
  have h : fieldAt (headOf graph) 0 16 = handleNat := by
    rw [fieldAt, hr, leNat_leBytes]
    refine Nat.mod_eq_of_lt ?_
    simp only [handleNat] at *; omega
  simp only [parseRecord, h]

theorem queued_head (graph : Bool) : headBytes (queued graph) pfFn (((queued graph).func pfFn).queue 63) = some (headOf graph) := by
  have h : tokenOk (queued graph) pfFn (ringBase (((queued graph).func pfFn).queue 63).qbase.toNat +
      128 * ((((queued graph).func pfFn).queue 63).qhead.toNat % 2 ^ (((queued graph).func pfFn).queue 63).logsz.toNat)) 128 = true := by
    cases graph <;> decide +kernel
  have hf : tokenFlat (queued graph) pfFn (ringBase (((queued graph).func pfFn).queue 63).qbase.toNat +
      128 * ((((queued graph).func pfFn).queue 63).qhead.toNat % 2 ^ (((queued graph).func pfFn).queue 63).logsz.toNat)) = hostFlat 0x4000 := by
    cases graph <;> decide +kernel
  simp only [headBytes, h, hf, if_true, headOf]

/-- The records at the head of the queue pass their checks, as a launch and as a graph; one without a valid handle fails the first. -/
theorem witness_queuesAndDispatch_record :
    headBytes (queued false) pfFn (((queued false).func pfFn).queue 63) = some (headOf false) ∧
    (parseRecord (headOf false)).graph = false ∧
    recordCode (queued false) pfFn (clampStamp (queued false) pfFn (parseRecord (headOf false)).tstamp).2 (parseRecord (headOf false)) = none ∧
    recordCode live0 pfFn 0#64 {} = some 1 ∧
    headBytes (queued true) pfFn (((queued true).func pfFn).queue 63) = some (headOf true) ∧
    (parseRecord (headOf true)).graph = true ∧ masked (queued true) pfFn 6 = false ∧
    chosenQueue (queued true) freePart pfFn = some (63, 0) ∧
    (match startWalk (queued true) pfFn 63 (parseRecord (headOf true)) with | .ok _ => true | .error _ => false) = true := by
  refine ⟨queued_head false, by decide +kernel, ?_, by decide +kernel, queued_head true, by decide +kernel, by decide +kernel, by decide +kernel, ?_⟩
  · rw [recordCode, record_codeh, record_handle _ (by decide +kernel)]
    decide +kernel
  · rw [startWalk, record_codeh, record_handle _ (by decide +kernel)]
    decide +kernel

/-- The bays but the first are a partition's. -/
def oneBay : State := { live0 with parts := [(7, { en := true, bays := 0xFFFFFFFE#32 })] }

/-- The running task with a second one that waits for its first crew, of so many teams' worth of rows. -/
def admitting (ctl : Nat) (since : Option Nat := none) : State :=
  { oneBay with
      now := us 100
      tasks := live0.tasks ++ [(2, { live0.task 1 with
        phase := .admitting, nextCrew := 0, slot := 1, unplacedSince := since
        lrec := { (live0.task 1).lrec with ctl := BitVec.ofNat 64 ctl, counts := BitVec.ofNat 64 (1 + 2 ^ 32 + 2 ^ 48), counts2 := 1#32 } })] }

/-- A speculative task of the same function with a crew of its own. -/
def withYounger (s : State) : State :=
  { s with tasks := s.tasks ++ [(30, { live0.task 1 with ts := 5#64, slot := 9 })]
           crews := s.crews ++ [(31, { task := 30, core := 1 })] }

/-- Crews that fit a core and that fit none; frontier tasks that have waited 100 µs and less; retired crews, idle and with a command;
yields with and without a waiting team that fits; moves that find a core; watchdogs of 1 and 2 units at 1,024 cycles. -/
theorem witness_crewEvents :
    let fit := admitting (2 ^ 20)
    let huge (since : Option Nat) := admitting (5 * 2 ^ 16 + 96 * 2 ^ 20) since
    let retired : State := live0.modTeam 1 (fun (tm : Team) => { tm with retired := true })
    let loaded : State := { retired with ops := [(9, .rel 1 0 0 64 none none 0 [])] }
    let home := (live0.crew 1).core
    let yields (h : Team) : State :=
      let s := live0.modTeam 1 (fun (tm : Team) => { tm with atYield := true })
      { s with teams := s.teams ++ [(2, h)], cores := Tab.set s.cores home { (s.core home) with standby := [2] } }
    let fits (h : Team) : Bool := decide (fastRows (yields h) home + ((yields h).team 2).rows ≤ 4096 + ((yields h).team 1).rows) &&
      ((yields h).team 2).residence == .standby
    let moving : State := oneBay.setCrew 1 { (live0.crew 1) with syncing := true }
    let goes : State := oneBay.setCrew 1 { (live0.crew 1) with moving := some ⟨14, 9, 0, 0⟩ }
    let need : Need := { teams := 1, rows := (live0.team 1).rows, shm := 0, acc := 0 }
    let dog (n : Nat) (l : List Nat) : State := (live0.modTask 1 (fun (k : Task) => { k with predicted := l })).modTeam 1
      (fun (tm : Team) => { tm with wdogLimit := BitVec.ofNat 16 n, ycycles := 1024 })
    (running fit freePart == some pfFn && mayAdmit fit freePart && (nextPlacement fit freePart (admitOrder fit pfFn)).isSome) = true ∧
    nextPlacement (huge none) freePart (admitOrder (huge none) pfFn) = none ∧
    mayAdmit (withPart { part0 with draining := true }) 0 = false ∧ running (withPart part0) 0 = some 5 ∧
    placementLate (huge (some 0)) freePart = some 2 ∧ placementLate (huge (some 1)) freePart = none ∧
    youngestResident (huge (some 0)) pfFn = none ∧ (youngestResident (withYounger (huge (some 0))) pfFn).map Task.slot = some 9 ∧
    ((retired.crew 1).teams = [1] ∧ (retired.team 1).retired = true ∧ crewIdle retired 1 = true) ∧ crewIdle loaded 1 = false ∧
    yieldDue (yields { crew := 1 }) 1 = true ∧ yieldDue live0 1 = false ∧ fits { crew := 1 } = true ∧ fits { crew := 1, nregs := 1024, words := 32 } = false ∧
    migrationDue moving 1 = true ∧ migrationDue live0 1 = false ∧ (moving.task 1).part = freePart ∧ (moving.part freePart).draining = false ∧
    (goes.crew 1).moving = some ⟨14, 9, 0, 0⟩ ∧
    (chooseCore moving freePart need [home] false).isSome = true ∧ chooseCore moving freePart { need with rows := 20481 } [home] false = none ∧
    watchdogDue (dog 1 []) 1 = true ∧ watchdogDue (dog 2 []) 1 = false ∧
    isSpeculative (dog 1 []) ((dog 1 []).task 1) = false ∧ isSpeculative (dog 1 [4]) ((dog 1 [4]).task 1) = true := by decide +kernel

def withTasks (ks : List Task) : State := { oneBay with tasks := (List.range ks.length).map (fun (i : Nat) => (i + 1, ks.getD i {})) }

/-- A frontier cohort that may commit and two that may not; waits of 50 µs and less; SPAWNs without a free task slot; a task that may
replay its fault; a stuck task with and without room to save it; saved tasks whose headers are and are not in memory. -/
theorem witness_cohortEvents :
    let k0 : Task := live0.task 1
    let done (l : List Nat) (ph : Phase) : State := withTasks [{ k0 with phase := ph, predicted := l }]
    let sp : PendOp := .spawn 1 0 0x4000#64 0#64 3 0 0 none
    let full (extra : Task) : State := { withOp (withTasks ((List.range 63).map (fun (i : Nat) => { k0 with slot := i }) ++ [extra])) sp with now := us 50 }
    let stuck (room : Nat) : State :=
      ({ live0 with now := us 20, pfCtxb := BitVec.ofNat 64 room }.modTask 1 (fun (k : Task) => { k with stuckSince := some 0 })).modTeam 1
        (fun (tm : Team) => tm.modPath 0 (fun (p : Path) => { p with parked := true }))
    let saved (w : State) : State := w.modTask 1 (fun (k : Task) => { k with saved := true })
    let susp (l : List Nat) : State := live0.modTask 1 (fun (k : Task) => { k with suspended := true, predicted := l })
    (commitDue (done [] .finished) pfFn && runs (done [] .finished) pfFn && (cohortTasks (done [] .finished) pfFn 0#64 == [1]) &&
      ((done [] .finished).task 1).lrec.siga == 0#64) = true ∧
    commitDue (done [4] .finished) pfFn = false ∧ commitDue (done [] .running) pfFn = false ∧
    spawnLate (full { k0 with slot := 63, ts := 5#64 }) pfFn = some 9 ∧ spawnLate { full { k0 with slot := 63 } with now := us 50 - 1 } pfFn = none ∧
    (youngestSlotted (full { k0 with slot := 63, ts := 5#64 }) pfFn).map Task.slot = some 63 ∧
    spawnSlot (full { k0 with slot := 63 }) pfFn 1 = none ∧ spawnSlot (withOp live0 sp) pfFn 1 = some 1 ∧
    (let ordered : State := { withOp live0 sp with opOrder := [(9, [7])], accesses := [(7, { team := 1 })] }
     ((withOp live0 sp).orderOf 9).isEmpty && (ordered.orderOf 9).any (fun i => (Tab.find ordered.accesses i).isSome)) = true ∧
    (onCore (withOp live0 sp) 1 && runs (withOp live0 sp) pfFn && specWaysOf (withOp live0 sp) pfFn == 0) = true ∧
    (match spawnRecord live0 k0 (childStamp k0 0#64) 0x4001 with | .error e => e.code == .align | _ => false) = true ∧
    replayDue (susp []) 1 = true ∧ replayDue (susp [4]) 1 = false ∧ ((susp []).task 1).walkStop = false ∧ ((susp []).task 1).stopping.isNone ∧
    parkSaveDue (stuck 0) 1 = true ∧ parkSaveDue { stuck 0 with now := us 20 - 1 } 1 = false ∧
    storeTask (quiesce (stuck 0) 1) 1 (leBytes 64 0) = none ∧ (storeTask (quiesce (stuck (2 ^ 48)) 1) 1 (leBytes 64 0)).isSome = true ∧
    restoreDue (saved live0) 1 = true ∧ restoreDue live0 1 = false ∧
    (let w := (saved live0).modCrew 1 (fun cr => { cr with saved := true })
     headersOk w 1 (savedCrews w 1) = false) := by decide +kernel

/-- A saved task whose block lies in memory comes back where it finds a core, and waits where it does not. -/
theorem witness_cohortEvents_restore :
    let w := (storeTask { oneBay with pfCtxb := BitVec.ofNat 64 (2 ^ 48) } 1 (leBytes 64 0)).getD {}
    let seat (w : State) : Option State :=
      seatAll (readBlock w 1 (savedCrews w 1)) (w.task 1).part w.now (w.task 1).avoid (fun _ => none) (savedCrews w 1)
    restoreDue w 1 = true ∧ headersOk w 1 (savedCrews w 1) = true ∧ (seat w).any (fun u => (u.task 1).ovrlim == 0) = true ∧
    (seat { w with parts := [(7, { en := true, bays := 0xFFFFFFFF#32 })] }).isNone = true ∧
    (let x := live0.modTask 1 (fun (k : Task) => { k with saved := true, block := 4096, blockLen := 64, image := List.replicate 64 0#8 })
     blockNow x 1 = (x.task 1).image) := by decide +kernel

/-- A wait for an entry of a full set that a younger cohort holds. -/
theorem witness_cohortEvents_capacity :
    let s (now : Nat) : State :=
      { live0 with now := now, accesses := [(7, { team := 1, fullSince := some 0, fullLine := 40 })]
                   cohorts := [{ fn := pfFn, ts := 5#64, lines := [40] }] }
    fullWait (s (us 50)) 7 = some (pfFn, 0, 40) ∧ fullDue (s (us 50)) 7 = true ∧ fullDue (s (us 50 - 1)) 7 = false ∧ fullWait live0 7 = none ∧
    youngest ((setHolders (s (us 50)) pfFn 40).filter (fun c => c.ts != hem (s (us 50)) pfFn)) =
      some { fn := pfFn, ts := 5#64, lines := [40] } := by
  refine ⟨by decide +kernel, by decide +kernel, by decide +kernel, by decide +kernel, ?_⟩
  have h : hem { live0 with now := us 50, accesses := [(7, { team := 1, fullSince := some 0, fullLine := 40 })]
                            cohorts := [{ fn := pfFn, ts := 5#64, lines := [40] }] } pfFn = 0#64 := by decide +kernel
  simp [setHolders, h, youngest]

/-- A SPAWN's template that passes the checks of a record. -/
theorem witness_cohortEvents_spawn : spawnRecord (queued false) (live0.task 1) (childStamp (live0.task 1) 0#64) 0x4000 = .ok (parseRecord (headOf false)) := by
  have hb : fnBytes (queued false) pfFn 0#64 0x4000 128 = headOf false := by
    have hf : flatOf (queued false) pfFn 0x4000 = hostFlat 0x4000 := by decide +kernel
    have hc : cohortAt (queued false) pfFn 0#64 = { fn := pfFn, ts := 0#64 } := by decide +kernel
    simp only [fnBytes, hf, cohortBytes, hc, Tab.find, headOf, Memory.bytes_eq]
  have hs : childStamp (live0.task 1) 0#64 = 0#64 := by decide +kernel
  have hr : recordCode (queued false) pfFn 0#64 (parseRecord (headOf false)) = none := by
    rw [recordCode, record_codeh, record_handle _ (by decide +kernel)]
    decide +kernel
  have hg : (parseRecord (headOf false)).graph = false := by decide +kernel
  have hi : inSeg (queued false) pfFn 0x4000 128 = true := by decide +kernel
  have hk : (live0.task 1).fn = pfFn ∧ (live0.task 1).ts = 0#64 := by decide +kernel
  simp [spawnRecord, hs, hk, hb, hr, hg, hi]

/-- A walk of the PF at node 1 of three, which is as given; at 0x4000 is a template, and at 0x5000 the number 5. -/
def walking (node : List Byte) (g : Walk → Walk) : State :=
  let w : Walk := { lrec := { codeh := BitVec.ofNat 128 handleNat }, fn := pfFn, slot := 3, nnode := 3 }
  { live0 with
      pfCodeb := BitVec.ofNat 64 (2 ^ 20 + 2 ^ 48)
      mem := Memory.write (Memory.write (Memory.write [] (hostFlat 0x4000) (leBytes 16 0 ++ (recordOf false).drop 16)) (hostFlat 0x5000)
        [5#8]) (hostFlat (2 ^ 20 + 32 * 3)) node
      funcs := [(pfFn, { slots := [(3, sealed3)], walk := some (g w), hemline := 3#64 })] }

/-- Each kind of node at the walk's place; TSNEXT at and after HEMLINE; words 0 and 5; predictions allowed, forbidden and at the
limit of 4; WHILE counts below and at the limit; SPAWNSETs of 1 and 64. -/
theorem witness_walkerNodes :
    let at_ (kind : Nat) (node : List Byte) (g : Walk → Walk) (q : State → Walk → List Byte → Bool) : Bool :=
      let s := walking node g
      (walkAt s freePart kind).any (fun (e : Nat × Walk × List Byte) => e.1 == pfFn && q s e.2.1 e.2.2)
    let room (s : State) (w : Walk) (b : List Byte) : Bool := launchRoom s pfFn w b != 0
    let word (v : Nat) (s : State) (b : List Byte) : Bool := nodeWord s pfFn (fieldAt b 8 8) == some v
    let ts (n : Nat) (w : Walk) : Walk := { w with tsnext := BitVec.ofNat 64 n }
    let past (n pred : Nat) (w : Walk) : Walk := { ts 4 w with
      predicts := (List.range n).map (fun i => { id := i, node := 1, tsnext := 4#64, taken := pred == 1 }) }
    ((List.range 7).all (fun k => at_ k (nodeOf k 2 0 0 0x5000 1) id (fun _ _ _ => true))) = true ∧
    at_ 1 (nodeOf 1 2 0 0 (2 ^ 64 - 64) 0) id (fun s w b => room s w b && (templateCode s pfFn w (fieldAt b 8 8)).isSome) = true ∧
    ([1, 64].all (fun n => at_ 6 (nodeOf 6 2 0 0 (2 ^ 64 - 64) n) id (fun s w b => room s w b && fieldAt b 16 4 == n &&
      (templateCode s pfFn w (fieldAt b 8 8)).isSome))) = true ∧
    ([(2, 0), (2, 3), (3, 0), (3, 3)].all (fun e => at_ e.1 (nodeOf e.1 2 0 0 0x5000 0) (ts e.2) (fun s w b =>
      decide (w.tsnext.toNat ≤ (hem s pfFn).toNat) && word 5 s b))) = true ∧
    at_ 2 (nodeOf 2 2 0 0 0x6000 0) id (fun s _ b => word 0 s b) = true ∧
    ([0, 1, 2, 3].all (fun pr => at_ 2 (nodeOf 2 2 0 pr 0x5000 0) (past 3 1) (fun s w b =>
      decide ((hem s pfFn).toNat < w.tsnext.toNat) && nodePred b == pr && w.predicts.length == 3))) = true ∧
    at_ 3 (nodeOf 3 2 0 1 0x5000 9) (past 4 1) (fun s w b => decide ((hem s pfFn).toNat < w.tsnext.toNat) && nodePred b != 0 &&
      w.predicts.length == 4) = true ∧
    ([8, 9].all (fun n => at_ 3 (nodeOf 3 2 0 0 0x5000 9) (fun w => { w with counts := [(1, n)] }) (fun _ w b =>
      fieldAt b 16 4 == 9 && Tab.get w.counts w.pos 0 == n))) = true ∧
    ([5, 6].all (fun n => at_ 4 (nodeOf 4 2 0 0 0x5000 n) id (fun s w b => word 5 s b && w.predicts.isEmpty && fieldAt b 16 8 == n))) = true ∧
    (List.range 7).all (fun k => (walkAt live0 freePart k).isNone) = true := by decide +kernel

/-- Predictions whose COND is and is not at the frontier, right and wrong; a SIGTOK that is due; a walk that is over. -/
theorem witness_walkerNodes_rest :
    let node := nodeOf 2 2 0 1 0x5000 0
    let pr (n : Nat) (taken : Bool) (w : Walk) : Walk := { w with predicts := [{ id := 8, node := 1, tsnext := BitVec.ofNat 64 n, taken := taken }] }
    let sig (w : Walk) : Walk := { w with sigtoks := [{ addr := 0x5000, tsnext := 3#64, above := some 2#64 }] }
    let due (s : State) (x : SigTok) : Bool := x.under.isEmpty && x.above.all (fun t => decide (t.toNat < (hem s pfFn).toNat))
    running (walking node id) freePart = some pfFn ∧
    ([true, false].all (fun b => ((walking node (pr 3 b)).func pfFn).walk.any (fun w => w.predicts.any (fun d =>
      decide (d.tsnext.toNat ≤ (hem (walking node (pr 3 b)) pfFn).toNat) && d.taken == b &&
      nodeWord (walking node (pr 3 b)) pfFn (fieldAt (nodeBytes (walking node (pr 3 b)) pfFn w d.node) 8 8) == some 5)))) = true ∧
    ((walking node (pr 4 true)).func pfFn).walk.any (fun w => w.predicts.any (fun d =>
      decide ((hem (walking node (pr 4 true)) pfFn).toNat < d.tsnext.toNat))) = true ∧
    ((walking node sig).func pfFn).walk.any (fun w => (w.sigtoks.find? (due (walking node sig))).isSome &&
      nodeWord (walking node sig) pfFn 0x5000 == some 5) = true ∧ Memory.wf (walking node sig).mem ∧
    ((walking node id).func pfFn).walk.any (fun w => (w.sigtoks.find? (due (walking node id))).isNone) = true ∧
    ((walking node (fun w => { w with ended := true, lrec := { w.lrec with siga := 0x7000#64 } })).func pfFn).walk.any (fun w =>
      w.ended && w.predicts.isEmpty && w.sigtoks.isEmpty && (walkTasks (walking node id) pfFn).isEmpty &&
      decide (w.lrec.siga ≠ 0#64) && tokenOk (walking node id) pfFn w.lrec.siga.toNat 8) = true := by decide +kernel

/-- The template passes the checks of a record under the walk's handle. -/
theorem witness_walkerNodes_template :
    templateCode (walking (nodeOf 1 2 0 0 0x4000 0) id) pfFn { lrec := { codeh := BitVec.ofNat 128 handleNat } } 0x4000 = none := by
  have hi : inSeg (walking (nodeOf 1 2 0 0 0x4000 0) id) pfFn 0x4000 128 = true := by decide +kernel
  have hr : recordCode (walking (nodeOf 1 2 0 0 0x4000 0) id) pfFn (clampStamp (walking (nodeOf 1 2 0 0 0x4000 0) id) pfFn
      (templateRecord (walking (nodeOf 1 2 0 0 0x4000 0) id) pfFn { lrec := { codeh := BitVec.ofNat 128 handleNat } } 0x4000).tstamp).2
      (templateRecord (walking (nodeOf 1 2 0 0 0x4000 0) id) pfFn { lrec := { codeh := BitVec.ofNat 128 handleNat } } 0x4000) = none := by
    rw [recordCode, show (templateRecord (walking (nodeOf 1 2 0 0 0x4000 0) id) pfFn { lrec := { codeh := BitVec.ofNat 128 handleNat } }
      0x4000).codeh = BitVec.ofNat 128 handleNat from rfl, record_handle _ (by decide +kernel)]
    decide +kernel
  have hg : (templateRecord (walking (nodeOf 1 2 0 0 0x4000 0) id) pfFn { lrec := { codeh := BitVec.ofNat 128 handleNat } } 0x4000).graph =
      false := by decide +kernel
  simp [templateCode, hi, hr, hg]

/-- VF 5 with a debug lease whose window names path 0, or all paths, of its one team, which has a segment of some granules. -/
def window (sel crew held : Nat) (arg2 : Nat) (seg : Nat := 0) (g : Team → Team := id) : State :=
  ((beside .bkpt 0 0 (held == 1)).setFunc 5 { vf with
    dbgLease := true, dbgSel := BitVec.ofNat 64 sel, dbgCrew := BitVec.ofNat 64 crew, dbgArg2 := BitVec.ofNat 64 arg2
    segCount := BitVec.ofNat 9 seg }).modTeam 52 g

/-- A window with no lease, with a STEP that runs, with no target, and with one that is held or not; lanes 31 and 32 of 32; a full path table; a segment that
holds the areas and an empty one; V15, V16 and a register that a result will reach; an S register. -/
theorem witness_debugWindow :
    let target (s : State) (q : DbgTarget → Bool) : Bool := (s.func 5).dbgLease && !dbgBusy s (s.func 5) && ((s.task 1).block == 0) && (dbgTarget s 5 (s.func 5).dbgSel.toNat (s.func 5).dbgCrew.toNat).any q
    let held (s : State) (d : DbgTarget) : Bool := ((s.team d.t).path d.p).held
    let lane (s : State) (d : DbgTarget) : Bool := maskHas ((s.team d.t).path d.p).active ((s.func 5).dbgArg2.toNat / 2 ^ 11 % 2 ^ 10)
    let inPath (s : State) (d : DbgTarget) : Bool :=
      maskHas ((s.team d.t).path d.p).base ((s.func 5).dbgArg2.toNat / 2 ^ 11 % 2 ^ 10)
    let areas (s : State) (d : DbgTarget) : Bool :=
      let tm := s.team d.t
      inSeg s 5 0 (contextArea (s.task d.k) (s.crew tm.crew) (snapTeam tm s.free s.now)).length &&
        inSeg s 5 0 (crewArea s (s.crew tm.crew)).length
    let s (arg2 : Nat) (g : Team → Team := id) : State := window 3 9 1 arg2 0 g
    let fullTable (tm : Team) : Team := { tm with paths := (List.range 8).map (fun (i : Nat) => (i, tm.path 0)) }
    let coming (tm : Team) : Team := { tm with pending := [{ due := 9, dest := .vreg 15 }] }
    (let w := (s 0).modTeam 52 (fun tm => tm.modPath 0 (fun p => { p with stepping := true }))
     dbgBusy w { w.func 5 with dbgStep := some 52 } = true) ∧
    ((beside .bkpt 0 0 true).func 5).dbgLease = false ∧ dbgBusy (window 3 8 1 0) ((window 3 8 1 0).func 5) = false ∧ dbgTarget (window 3 8 1 0) 5 3 8 = none ∧
    target (s 0) (fun d => held (s 0) d && (targetPaths (s 0) d).all (fun j => ((s 0).team d.t).path j |>.held)) = true ∧
    target (window (3 + 2 ^ 13) 9 0 0) (fun d => !held (window (3 + 2 ^ 13) 9 0 0) d && (targetPaths (window (3 + 2 ^ 13) 9 0 0) d == [0])) = true ∧
    target (s (31 * 2 ^ 11)) (fun d => lane (s (31 * 2 ^ 11)) d && ((s (31 * 2 ^ 11)).team d.t).freePath == some 1) = true ∧
    target (s (32 * 2 ^ 11)) (fun d => !lane (s (32 * 2 ^ 11)) d && !inPath (s (32 * 2 ^ 11)) d) = true ∧
    target (s 0 fullTable) (fun d => lane (s 0 fullTable) d && ((s 0 fullTable).team d.t).freePath.isNone) = true ∧
    target (window 3 9 1 0 1) (areas (window 3 9 1 0 1)) = true ∧ target (s 0) (fun d => !areas (s 0) d) = true ∧
    Memory.wf (window 3 9 1 0 1).mem ∧ opd 15 = .v 15 ∧ opd 16 = .v 16 ∧ opd 0x67F = .s 127 ∧
    target (s 15) (fun d => inPath (s 15) d && decide (15 < ((s 15).team d.t).nregs) && !hasPending (s 15) d.t (.vreg 15)) = true ∧
    target (s 16) (fun d => decide (((s 16).team d.t).nregs = 16)) = true ∧
    target (s 15 coming) (fun d => hasPending (s 15 coming) d.t (.vreg 15)) = true ∧
    target (s 0x67F) (fun d => ((s 0x67F).team d.t).paths.all (fun e => e.2.held) && !hasPending (s 0x67F) d.t (.sreg 127)) = true := by
  decide +kernel

/-! ### Decoding, the step and the machine as a whole -/

/-- A word of each slot's width, a bundle of four slots and one of none. -/
theorem witness_encodingRoundTrip :
    let b (v m x c : Option Instr) : Bundle :=
      { hdr := { (decodeBundle 0).hdr with sv := v.isSome, sm := m.isSome, sx := x.isSome, sc := c.isSome }, v := v, m := m, x := x, c := c }
    let ok (b : Bundle) : Bool := (b.hdr.sv == b.v.isSome) && (b.hdr.sm == b.m.isSome) && (b.hdr.sx == b.x.isSome) && (b.hdr.sc == b.c.isSome) &&
      b.v.all (fun i => slotBits i == 80) && b.m.all (fun i => slotBits i == 64) && b.x.all (fun i => slotBits i == 48) &&
      b.c.all (fun i => slotBits i == 32)
    ok (b (some (.vadd v0)) (some (.tld m0)) (some (.lfma l0)) (some (.loop 15 (-0x80000#20)))) = true ∧ ok (b none none none none) = true ∧
    slotBits .illegalOp = 0 ∧ decodeTableWord 32 0xFFFF_4409 = some (.loop 4 (-12#20)) := by decide +kernel

/-- An entry of the agenda that is an event and one that is a slot's; states where a timed event, an upkeep and a bundle come next, with
one slot, with none, a word of zeros, a fault of the decoder, and a guard that is false. -/
theorem witness_stepRunsTheInstruction :
    let bare (w : Nat) : State :=
      let s := State.reset.withFetchWord 32 0
      { s with mem := Memory.write [] (flatOf s pfFn (codeArea s pfFn).1) (leBytes 32 w) }
    let next (s : State) : Bool := (takeAgenda s.now s.agenda).isNone && (internalEvent s).isNone && (upkeep s).isNone &&
      issuePick s == some (1, 0) && (Tab.find s.teams 1).any (fun tm => (Tab.find tm.paths 0).any (fun pa => pa.replay.isNone))
    let fault (s : State) : Option (FaultCode × Slot) := fetchFault s (s.team 1) ((s.team 1).path 0).pc
    let none_ (w : Nat) : Bool := (fun (b : Bundle) => b.v.isNone && b.m.isNone && b.x.isNone && b.c.isNone) (decodeBundle w)
    let one (i : Instr) : Bool := (fun (b : Bundle) => b.v.toList ++ b.m.toList ++ b.x.toList ++ b.c.toList == [i])
      (decodeBundle (slotBundle (slotBits i) (encode i)))
    let off (w : Nat) : Bool := (ctxOf (tentative (bare w) 1 0)).any (fun (c : Ctx) => nullified c (decodeBundle w))
    let guarded : Nat := encodeBundle { hdr := { (decodeBundle 0).hdr with sc := true, gc := 2#4 }, c := some (.br 1) }
    takeAgenda 0 [(5, .illegalOp), (0, .linkTrain true)] = some (.linkTrain true, [(5, .illegalOp)]) ∧
    isBundled (.linkTrain true) = false ∧ isBundled (.br 1) = true ∧
    ([Instr.vadd v0, .tld mem0, .lfma l0, .br 1].all (fun i => one i && next (bare (slotBundle (slotBits i) (encode i))) &&
      fault (bare (slotBundle (slotBits i) (encode i))) == none && !off (slotBundle (slotBits i) (encode i)))) = true ∧
    (next (bare 0) && fault (bare 0) == some (.illegalOp, .none) &&
      (fetchBad (bare 0) ((bare 0).team 1) (((bare 0).team 1).path 0).pc).isNone) = true ∧
    (let bad (w : Nat) : State := { bare w with eccBad := [flatOf (bare w) pfFn (codeArea (bare w) pfFn).1 / 32] }
     next (bad 31) && fault (bad 31) == some (.memUncorrectable, .none)) = true ∧
    (next (bare 31) && fault (bare 31) == none && none_ 31) = true ∧
    (let w := slotBundle 80 (encode (.vadd { v0 with d := 16#11 })); next (bare w) && fault (bare w) == some (.regBounds, .v)) = true ∧
    (next (bare guarded) && off guarded && fault (bare guarded) == none) = true ∧
    internalEvent (live0.modTeam 1 (fun (tm : Team) => { tm with pending := [{ due := 0, dest := .nothing }] })) = some (.resultLanding 1) ∧
    (upkeep (live0.modTeam 1 (fun (tm : Team) => { tm with residence := .exchanging 0 none }))).isSome = true := by decide +kernel

theorem witness_everyStepKeepsMemoryCanonical : State.reset.MemOk ∧ (withCopy (fillOf 100 true)).MemOk := by
  unfold State.MemOk
  decide +kernel

end Sys2Proof.Tests
end

section
/-! PROOFS. Writes from outside: a peer's message and a register write of the host. Each page of a function's BAR index 0
has one lemma that leads to the page's own write; each doorbell has one that leads to its instruction. -/

namespace Sys2Proof.Machine

open Sys2Proof

/-! ### Signal-table entries -/

theorem Tab.find_map {α β : Type} (t : Tab α) (f : α → β) (n : Nat) :
    Tab.find (t.map (fun e => (e.1, f e.2))) n = (Tab.find t n).map f := by
  induction t with
  | nil => rfl
  | cons e t ih =>
    obtain ⟨k, v⟩ := e
    by_cases hk : k = n <;> simp [Tab.find, hk, ih]

theorem Tab.get_map {α : Type} (t : Tab α) (f : α → α) (n : Nat) {d : α} (hd : f d = d) :
    Tab.get (t.map (fun e => (e.1, f e.2))) n d = f (Tab.get t n d) := by
  rw [Tab.get, Tab.get, Tab.find_map]
  cases Tab.find t n with
  | none => exact hd.symm
  | some _ => rfl

/-- A partition, listed or not, keeps the signal-table entries that a written range does not meet, and no other (R142). -/
theorem part_dropSignals (s : State) (flat n p : Nat) :
    (dropSignals s flat n).part p =
      { s.part p with signals := (s.part p).signals.filter (fun g => apart g.addr 8 flat n) } :=
  Tab.get_map s.parts (fun x => { x with signals := x.signals.filter (fun g => apart g.addr 8 flat n) }) p rfl

theorem mem_signals_dropSignals {s : State} {flat n p : Nat} {g : SigEntry} :
    g ∈ ((dropSignals s flat n).part p).signals ↔ g ∈ (s.part p).signals ∧ apart g.addr 8 flat n = true := by
  simp [part_dropSignals]

/-! ### A write of a peer -/

/-- The state after a message that brings bytes to a flat address (R142). -/
def peerWritten (s : State) (flat : Nat) (bs : List Byte) : State :=
  { dropSignals s flat bs.length with
    mem := Memory.write s.mem flat bs
    eccBad := healWords s.eccBad (fun a => decide (flat ≤ a) && decide (a < flat + bs.length)) }

theorem exec_peerWrite (space addr : Nat) (bs : List Byte) (s : State) :
    exec (.peerWrite space addr bs) s = .next (peerWritten s (spaceBase space + addr) bs) := rfl

theorem peerWritten_sameBytesBut {s : State} (flat : Nat) (bs : List Byte) (h : Memory.wf s.mem) :
    SameBytesBut s (peerWritten s flat bs) flat bs.length := fun _ hx => Memory.read_write_ne h hx

theorem peerWritten_bytes {s : State} (flat : Nat) (bs : List Byte) (h : Memory.wf s.mem) :
    Memory.bytes (peerWritten s flat bs).mem flat bs.length = bs := Memory.bytes_write_same h flat bs

theorem mem_signals_peerWritten {s : State} {flat p : Nat} {bs : List Byte} {g : SigEntry} :
    g ∈ ((peerWritten s flat bs).part p).signals ↔ g ∈ (s.part p).signals ∧ apart g.addr 8 flat bs.length = true :=
  mem_signals_dropSignals

/-! ### The pages of BAR index 0 -/

theorem exec_registerWrite (fn bar off : Nat) (v : Word64) (s : State) :
    exec (.registerWrite fn bar off v) s = .next (hostWrite s fn bar off v) := rfl

theorem bitAt_toNat (v : Word64) (i : Nat) : bitAt v.toNat i = v.getLsbD i := rfl

section Pages

variable (s : State) (fn off : Nat) (v : Word64)

theorem hostWrite_unaligned (bar : Nat) (h : off % 8 ≠ 0) : hostWrite s fn bar off v = s := by
  simp [hostWrite, h]

/-- Below 64 KiB a function's own pages answer (R44). -/
theorem hostWrite_view (h8 : off % 8 = 0) (h : off < 0x10000) : hostWrite s fn 0 off v = viewWrite s fn off v := by
  simp [hostWrite, h8, h]

/-- From 64 KiB on, only the PF has registers (R46, R47). -/
theorem hostWrite_beyondView (hfn : fn ≠ pfFn) (h : 0x10000 ≤ off) : hostWrite s fn 0 off v = s := by
  simp [hostWrite, hfn, Nat.not_lt.2 h]

theorem hostWrite_firstPage (h : off < 0x1000) : hostWrite s fn 0 off v = s := by
  by_cases h8 : off % 8 = 0
  · rw [hostWrite_view s fn off v h8 (by omega), viewWrite, if_pos h]
  · exact hostWrite_unaligned s fn off v 0 h8

theorem viewWrite_reserved (h : 0x7000 ≤ off) (h' : off < 0x8000) : viewWrite s fn off v = s := by
  simp only [viewWrite]
  repeat rw [if_neg (by omega)]
  rw [if_pos h']

theorem hostWrite_reservedPage (h : 0x7000 ≤ off) (h' : off < 0x8000) : hostWrite s fn 0 off v = s := by
  by_cases h8 : off % 8 = 0
  · rw [hostWrite_view s fn off v h8 (by omega), viewWrite_reserved s fn off v h h']
  · exact hostWrite_unaligned s fn off v 0 h8

theorem hostWrite_vfstat : hostWrite s fn 0 0x1000 v = s.setFunc fn (statusWriteReg (s.func fn) v.toNat) := rfl

/-- QCTL is the second register of a queue's 64-byte block (R53). -/
theorem hostWrite_qctl (q : Nat) (hq : q < 64) : hostWrite s fn 0 (0x3000 + 64 * q + 8) v = qctlWrite s fn q v := by
  have block : (0x3000 + 64 * q + 8 - 0x3000) / 64 = q := by omega
  have reg : (0x3000 + 64 * q + 8) % 64 / 8 = 1 := by omega
  rw [hostWrite_view s fn _ v (by omega) (by omega)]
  simp only [viewWrite]
  rw [if_neg (by omega), if_neg (by omega), if_neg (by omega), if_pos (by omega), block, reg]
  rfl

theorem hostWrite_mailCtl : hostWrite s fn 0 0x2080 v = mailWrite s fn 0x80 v := rfl

theorem hostWrite_sealcmd : hostWrite s fn 0 0x4010 v = sealWrite s fn 0x10 v := rfl

theorem hostWrite_attgo : hostWrite s fn 0 0x5028 v = attWrite s fn 0x28 v := rfl

theorem hostWrite_prctl : hostWrite s fn 0 0x6008 v = prctlWrite s fn v := rfl

theorem hostWrite_prhead : hostWrite s fn 0 0x6018 v = prheadSet s fn v := rfl

theorem hostWrite_tinvgo : hostWrite s fn 0 0x6040 v = if v.getLsbD 0 then tinvGo s fn else s := rfl

theorem hostWrite_dbgctl : hostWrite s fn 0 0x8010 v = dbgWrite s fn 0x10 v := rfl

end Pages

/-! ### The doorbells -/

theorem sendMail_busy {s : State} {fn : Nat} (h : (s.func fn).mbBusy = true) : sendMail s fn = s := by
  simp [sendMail, h]

theorem mailWrite_send (s : State) (fn : Nat) {v : Word64} (h : v.getLsbD 0 = true) :
    mailWrite s fn 0x80 v = sendMail s fn := by
  cases hb : (s.func fn).mbBusy with
  | true => rw [sendMail_busy hb, mailWrite, if_pos hb]
  | false => simp [mailWrite, hb, bitAt_toNat, h]

theorem sealWrite_start (s : State) (fn : Nat) : sealWrite s fn 0x10 1#64 = sealNow s fn := by
  cases hb : (s.func fn).sealBusy <;> simp [sealWrite, sealNow, hb]

theorem sealWrite_release (s : State) (fn : Nat) : sealWrite s fn 0x10 2#64 = releaseNow s fn := by
  cases hb : (s.func fn).sealBusy <;> simp [sealWrite, releaseNow, hb]

theorem attWrite_go (s : State) (fn : Nat) : attWrite s fn 0x28 1#64 = attestNow s fn := rfl

/-- A command code written to the debug window is that command; a VF without a lease has no window (R264, R271). -/
theorem dbgWrite_command (s : State) (fn : Nat) (v : Word64) :
    dbgWrite s fn 0x10 v = dbgWindow s fn (v.toNat % 256) := by
  cases hl : fn != pfFn && !(s.func fn).dbgLease <;> simp [dbgWrite, dbgWindow, hl]

/-! ### The PF's mailbox blocks -/

/-- Each VF has 1 KiB of the PF's pages from 64 KiB on (R46). -/
theorem hostWrite_pfMail (s : State) {vf off : Nat} (v : Word64) (hvf : vf < 192) (h8 : off % 8 = 0) (h : off < 0x400) :
    hostWrite s pfFn 0 (0x10000 + off + 0x400 * vf) v = pfMailWrite s vf off v := by
  have block : (0x10000 + off + 0x400 * vf - 0x10000) / 0x400 = vf := by omega
  have reg : (0x10000 + off + 0x400 * vf - 0x10000) % 0x400 = off := by omega
  have aligned : (0x10000 + off + 0x400 * vf) % 8 = 0 := by omega
  have above : ¬ 0x10000 + off + 0x400 * vf < 0x10000 := by omega
  have below : 0x10000 + off + 0x400 * vf < 0x40000 := by omega
  simp [hostWrite, aligned, above, below, block, reg]

theorem pfMailWrite_reply {s : State} {vf : Nat} {v : Word64} (h : v.getLsbD 0 = true) (hb : (s.func vf).mbBusy = true) :
    pfMailWrite s vf 0x80 v = replyMail s vf (BitVec.ofNat 8 (v.toNat / 2 ^ 8)) := by
  have status : BitVec.ofNat 8 (fld v.toNat 8 8) = BitVec.ofNat 8 (v.toNat / 2 ^ 8) :=
    BitVec.eq_of_toNat_eq (by simp [fld])
  simp [pfMailWrite, hb, bitAt_toNat, h, status]

/-! ### The obligation -/

theorem peerWrite_reaches (s : State) (space addr : Nat) (bs : List Byte) : let a := spaceBase space + addr
    ∃ t, exec (.peerWrite space addr bs) s = .next t ∧ t.teams = s.teams ∧ t.crews = s.crews ∧
      (Memory.wf s.mem → SameBytesBut s t a bs.length ∧ Memory.bytes t.mem a bs.length = bs) ∧
      ∀ p, ∀ g ∈ (t.part p).signals, g ∈ (s.part p).signals ∧ apart g.addr 8 a bs.length = true :=
  ⟨_, exec_peerWrite space addr bs s, rfl, rfl,
    fun h => ⟨peerWritten_sameBytesBut _ bs h, peerWritten_bytes _ bs h⟩, fun _ _ hg => mem_signals_peerWritten.1 hg⟩

/-- VFSTAT clears the bits where 1 is written, and nothing else of the function (R49). -/
theorem registerWrite_vfstat (s : State) (fn : Nat) (v : Word64) :
    ∃ t, exec (.registerWrite fn 0 0x1000 v) s = .next t ∧ SameBytes s t ∧
      t.func fn = statusWriteReg (s.func fn) v.toNat :=
  ⟨_, exec_registerWrite fn 0 0x1000 v s, fun _ => rfl, by rw [hostWrite_vfstat, func_setFunc]⟩

theorem registerWrite_mailboxReply (s : State) {vf : Nat} {v : Word64} (hvf : vf < 192) (h : v.getLsbD 0 = true)
    (hb : (s.func vf).mbBusy = true) :
    exec (.registerWrite pfFn 0 (0x10080 + 0x400 * vf) v) s =
      exec (.mailboxReply vf (BitVec.ofNat 8 (v.toNat / 2 ^ 8))) s := by
  rw [exec_registerWrite, hostWrite_pfMail s (off := 0x80) v hvf (by decide) (by decide), pfMailWrite_reply h hb]
  rfl

/-- Settles O50: each kind of write through the lemma about its page. -/
theorem writesFromOutside : Obligations.WritesFromOutside := by
  unfold Obligations.WritesFromOutside
  refine ⟨peerWrite_reaches, fun s fn off v => ?_, fun s vf v hvf h hb => registerWrite_mailboxReply s hvf h hb⟩
  simp only [exec_registerWrite]
  refine ⟨fun h => ?unaligned, fun h => ?first, fun h h' => ?reserved, fun hfn h => ?beyond, fun q hq => ?queue,
    fun h => ?mail, fun h => ?sealAttest, fun h => ?release, rfl, rfl, fun h => ?invalidate,
    fun h => ?halt, fun h => ?resume, fun h => ?step, fun h => ?split, fun h => ?snapteam, fun h => ?snapcrew,
    fun h => ?poke, registerWrite_vfstat s fn v⟩
  case unaligned => rw [hostWrite_unaligned s fn off v 0 h]
  case first => rw [hostWrite_firstPage s fn off v h]
  case reserved => rw [hostWrite_reservedPage s fn off v h h']
  case beyond => rw [hostWrite_beyondView s fn off v hfn h]
  case queue => rw [hostWrite_qctl s fn v q hq]; exact ⟨rfl, rfl⟩
  case mail => rw [hostWrite_mailCtl, mailWrite_send s fn h]; rfl
  case sealAttest =>
    rw [h, hostWrite_sealcmd, sealWrite_start, hostWrite_attgo, attWrite_go]
    exact ⟨rfl, rfl⟩
  case release => rw [h, hostWrite_sealcmd, sealWrite_release]; rfl
  case invalidate => rw [hostWrite_tinvgo, if_pos h]; rfl
  case halt | resume | step | split | snapteam | snapcrew | poke => rw [h, hostWrite_dbgctl, dbgWrite_command]; rfl

end Sys2Proof.Machine
end

section
/-! PROOFS. What device reset leaves: every table is empty, so each part of the state is at its reset value. -/

namespace Sys2Proof.Machine

open Sys2Proof

theorem reset_memOk : State.reset.MemOk := ⟨Memory.wf_nil, by simp [State.reset]⟩

theorem reset_part (p : Nat) : State.reset.part p = {} := rfl

theorem reset_core (c : Nat) : State.reset.core c = coreReset c := rfl

theorem reset_slotLeased (p : Nat) : slotLeased State.reset p = false := rfl

theorem reset_statWord (p : Nat) : statWord State.reset p = 0xFF0 := by
  simp [statWord, reset_part, reset_slotLeased, b2n]

/-- The sixteen slot registers of a partition block read its shadow table (R80, R88). -/
theorem partRead_slot (s : State) (p : Nat) {i : Nat} (hi : i < 16) :
    partRead s p (0x80 + 8 * i) = (Tab.get (s.part p).shadow i {}).word := by
  have index : (0x80 + 8 * i - 0x80) / 8 = i := by omega
  have low : ∀ off, off < 0x80 → ((0x80 + 8 * i == off) = false) := fun off h => by
    simp only [beq_eq_false_iff_ne]
    omega
  have notClean : ¬ (0x28 ≤ 0x80 + 8 * i ∧ 0x80 + 8 * i ≤ 0x50) := by omega
  have slots : 0x80 ≤ 0x80 + 8 * i ∧ 0x80 + 8 * i ≤ 0xF8 := by omega
  simp only [partRead, low _ (by decide : 0 < 0x80), low _ (by decide : 8 < 0x80), low _ (by decide : 0x10 < 0x80),
    low _ (by decide : 0x18 < 0x80), low _ (by decide : 0x20 < 0x80), Bool.false_eq_true, if_false, if_neg notClean,
    if_pos slots, index]

/-- A slot that nothing has written has no owner and no donee (R88). -/
theorem pslot_word_default : ({} : PSlot).word = 0xFF + 0xFF * 2 ^ 32 := by simp [PSlot.word]

theorem reset_vfstat (f : Nat) : vfstat State.reset (State.reset.func f) = 0 := rfl

/-- The first twelve cores of a bay bear the module's logical numbers, and the last is its spare (R13, R15). -/
theorem coreReset_regular (bay : Nat) {i : Nat} (hi : i < 12) :
    coreReset (13 * bay + i) = { logical := some (12 * bay + i) } := by
  have place : (13 * bay + i) % 13 = i := by omega
  have below : (13 * bay + i) / 13 = bay := by omega
  simp [coreReset, place, below, hi.ne, Nat.mul_comm bay 12]

theorem coreReset_spare (bay : Nat) : coreReset (13 * bay + 12) = { cstate := 1#2 } := by
  simp [coreReset]

/-- Settles O60: the parts of the state at reset, each through the lemma about it. -/
theorem resetState : Obligations.ResetState := by
  unfold Obligations.ResetState
  refine ⟨reset_memOk, rfl, rfl, rfl, rfl, rfl, rfl, rfl, rfl, rfl, rfl, rfl, rfl,
    fun p => ⟨rfl, rfl, rfl, rfl, reset_statWord p, fun i hi => (partRead_slot _ p hi).trans pslot_word_default⟩,
    fun f => ⟨rfl, rfl, reset_vfstat f, rfl, rfl, rfl, fun q => ⟨rfl, rfl⟩⟩, fun d => ⟨rfl, rfl, rfl⟩,
    fun bay i _ hi => ?_⟩
  rw [reset_core]
  rcases Nat.lt_succ_iff_lt_or_eq.1 hi with h | rfl
  · rw [coreReset_regular bay h]
    exact ⟨rfl, rfl, rfl, rfl, rfl, fun _ => ⟨rfl, rfl⟩, fun h' => absurd h' h.ne⟩
  · rw [coreReset_spare]
    exact ⟨rfl, rfl, rfl, rfl, rfl, fun h' => absurd h' (by decide), fun _ => ⟨rfl, rfl⟩⟩

end Sys2Proof.Machine
end

section
/-! PROOFS. The steward's commands, the mailbox and the profiling lease (R41, R42, R47, R51, R52, R102). A posted request that
goes on changes one function's mailbox and the interrupts, and nothing else. -/

namespace Sys2Proof.Machine

open Sys2Proof

/-- What every step of a fold keeps, the fold keeps. -/
theorem foldl_keeps {σ α β : Type} (g : σ → β) {f : σ → α → σ} (h : ∀ s a, g (f s a) = g s) (l : List α) (s : σ) :
    g (l.foldl f s) = g s := by
  induction l generalizing s with
  | nil => rfl
  | cons a l ih => rw [List.foldl_cons, ih, h]

/-! ### Parts of the state -/

theorem func_modFunc (s : State) (n : Nat) (g : Func → Func) : (s.modFunc n g).func n = g (s.func n) :=
  func_setFunc s n _

theorem part_modPart (s : State) (p : Nat) (g : Part → Part) : (s.modPart p g).part p = g (s.part p) :=
  part_setPart s p _

theorem part_modFunc (s : State) (n : Nat) (g : Func → Func) (p : Nat) : (s.modFunc n g).part p = s.part p := rfl

/-! ### Requests that go on -/

/-- A request that goes on, answered or delivered, waits no longer, and no other part of the state changes but the
interrupts. -/
theorem passMail_eq (s : State) (vf : Nat) :
    ∃ f irqs, passMail s vf = { s.setFunc vf f with irqs := irqs } ∧ f.mbHeld = false := by
  unfold passMail
  split
  · exact ⟨_, _, rfl, rfl⟩
  · exact ⟨_, _, rfl, rfl⟩

theorem foldl_passMail_eq (l : List Nat) (s : State) :
    ∃ fs irqs, l.foldl passMail s = { s with funcs := fs, irqs := irqs } := by
  induction l generalizing s with
  | nil => exact ⟨_, _, rfl⟩
  | cons v l ih =>
    obtain ⟨f, irqs, h, -⟩ := passMail_eq s v
    obtain ⟨fs, irqs', h'⟩ := ih (passMail s v)
    exact ⟨fs, irqs', by rw [List.foldl_cons, h', h]; rfl⟩

theorem passMail_mbHeld {s : State} {vf n : Nat} (h : n = vf ∨ (s.func n).mbHeld = false) :
    ((passMail s vf).func n).mbHeld = false := by
  obtain ⟨f, irqs, hp, hf⟩ := passMail_eq s vf
  rw [hp]
  show ((s.setFunc vf f).func n).mbHeld = false
  by_cases hn : n = vf
  · rw [hn, func_setFunc, hf]
  · rw [func_setFunc_ne _ _ _ _ hn]
    exact h.resolve_left hn

theorem foldl_passMail_mbHeld {l : List Nat} {s : State} {n : Nat} (h : n ∈ l ∨ (s.func n).mbHeld = false) :
    ((l.foldl passMail s).func n).mbHeld = false := by
  induction l generalizing s with
  | nil => exact h.resolve_left List.not_mem_nil
  | cons v l ih =>
    refine ih ?_
    rcases h with h | h
    · rcases List.mem_cons.1 h with rfl | h
      · exact .inr (passMail_mbHeld (.inl rfl))
      · exact .inl h
    · exact .inr (passMail_mbHeld (.inr h))

theorem Tab.mem_of_find {α : Type} {t : Tab α} {n : Nat} {v : α} (h : Tab.find t n = some v) : (n, v) ∈ t := by
  induction t with
  | nil => simp [Tab.find] at h
  | cons e t ih =>
    obtain ⟨k, w⟩ := e
    by_cases hk : k = n
    · simp_all [Tab.find]
    · exact List.mem_cons_of_mem _ (ih (by simpa [Tab.find, hk] using h))

/-- After a firmware swap no request waits (R42). -/
theorem releaseMail_mbHeld (s : State) (n : Nat) : ((releaseMail s).func n).mbHeld = false := by
  refine foldl_passMail_mbHeld ?_
  cases hf : Tab.find s.funcs n with
  | none => exact .inr (by simp [State.func, Tab.get, hf])
  | some f =>
    cases hh : f.mbHeld with
    | true =>
      exact .inl (List.mem_map.2 ⟨(n, f), List.mem_filter.2 ⟨Tab.mem_of_find hf, hh⟩, rfl⟩)
    | false => exact .inr (by rw [State.func, Tab.get_of_find _ hf, hh])

/-! ### The steward's commands -/

/-- STCMD_SWAP_IMAGE ends with the result of its checks, and the image runs when they pass (R42). -/
theorem stcmdSwapImage_ends {s : State} (h : s.stCmd = some 1) :
    ∃ t, exec .stcmdSwapImage s = .next t ∧ SameBytes s t ∧ t.stCmd = none ∧ t.stResult = BitVec.ofNat 8 (imageResult s) ∧
      t.fwImage = (if imageResult s = 0 then some (stagedImage s) else s.fwImage) ∧
      t.recovery = (if imageResult s = 0 then false else s.recovery) ∧ ∀ n, (t.func n).mbHeld = false := by
  have run : exec .stcmdSwapImage s = .next (releaseMail (swapImage s)) := by
    show execStcmdSwapImage s = _
    simp [execStcmdSwapImage, h]
  obtain ⟨fs, irqs, hr⟩ := foldl_passMail_eq (((swapImage s).funcs.filter (fun e => e.2.mbHeld)).map Prod.fst) (swapImage s)
  have hr : releaseMail (swapImage s) = { swapImage s with funcs := fs, irqs := irqs } := hr
  refine ⟨_, run, ?_, ?_, ?_, ?_, ?_, releaseMail_mbHeld _⟩
  all_goals rw [hr]
  all_goals by_cases h0 : imageResult s = 0
  all_goals simp [swapImage, endCommand, h0, SameBytes]

theorem stcmdRead_ends {s : State} (h : s.stCmd = some 2) : exec .stcmdRead s = .next (if s.stAddr.toNat % 8 = 0
    then { s with stData := BitVec.ofNat 64 (devRead s s.stAddr.toNat), stCmd := none, stResult := 0#8 }
    else { s with stCmd := none, stResult := 3#8 }) := by
  show execStcmdRead s = _
  by_cases h8 : s.stAddr.toNat % 8 = 0 <;> simp [execStcmdRead, endCommand, h, h8]

theorem stcmdWrite_ends {s : State} (h : s.stCmd = some 3) : exec .stcmdWrite s = .next (if s.stAddr.toNat % 8 = 0
    then { devWrite s s.stAddr.toNat s.stData with stCmd := none, stResult := 0#8 }
    else { s with stCmd := none, stResult := 3#8 }) := by
  show execStcmdWrite s = _
  by_cases h8 : s.stAddr.toNat % 8 = 0 <;> simp [execStcmdWrite, endCommand, h, h8]

/-! ### MAILBOX_SEND -/

/-- The code of the request that SEND would post (R52). -/
def requestCode (f : Func) : Nat := (Tab.get f.msg 0 0#64).toNat % 2 ^ 16

/-- The state in which a request has been posted, and has not gone on (R51). -/
def posted (s : State) (vf : Nat) : State :=
  s.setFunc vf { s.func vf with mbBusy := true, posted := (s.func vf).msg, mbCode := requestCode (s.func vf)
                                mbArg := (Tab.get (s.func vf).msg 1 0#64).toNat, mbHeld := s.stCmd == some 1 }

section Send

variable {s : State} {vf : Nat}

theorem exec_mailboxSend (vf : Nat) (s : State) : exec (.mailboxSend vf) s = .next (sendMail s vf) := rfl

theorem sendMail_ignored (h : (s.func vf).mbBusy = true ∨ 192 ≤ vf) : sendMail s vf = s := by
  rcases h with h | h <;> simp [sendMail, h]

theorem sendMail_posts (hb : (s.func vf).mbBusy = false) (hvf : vf < 192) :
    sendMail s vf = if s.stCmd = some 1 then posted s vf else passMail (posted s vf) vf := by
  by_cases h : s.stCmd = some 1 <;> simp [sendMail, posted, requestCode, fld, hb, hvf, h]

theorem masked_posted (fn bit : Nat) : masked (posted s vf) fn bit = masked s fn bit := by
  by_cases h : fn = vf
  · rw [h, masked, masked, posted, func_setFunc]
  · rw [masked, masked, posted, func_setFunc_ne _ _ _ _ h]

theorem passMail_answered {status : Nat} (h : deviceAnswer s vf (s.func vf).mbCode = some status) :
    passMail s vf = answerMail s vf status := by simp [passMail, h]

theorem passMail_delivered (h : deviceAnswer s vf (s.func vf).mbCode = none) : passMail s vf = deliverMail s vf := by
  simp [passMail, h]

theorem func_answerMail (status : Nat) : (answerMail s vf status).func vf =
    { s.func vf with mbBusy := false, mbHeld := false, mbDone := true, mbStatus := BitVec.ofNat 8 status } :=
  func_setFunc _ _ _

theorem func_deliverMail : (deliverMail s vf).func vf = { s.func vf with mbHeld := false } := func_setFunc _ _ _

theorem func_posted : (posted s vf).func vf =
    { s.func vf with mbBusy := true, posted := (s.func vf).msg, mbCode := requestCode (s.func vf)
                     mbArg := (Tab.get (s.func vf).msg 1 0#64).toNat, mbHeld := s.stCmd == some 1 } := func_setFunc _ _ _

end Send

/-- The codes that the device knows nothing of, and those of a lease that the VF may not have (R52, R101). -/
theorem deviceAnswer_unknown {s : State} {vf code : Nat} (h : code = 0 ∨ 5 < code ∧ code < 0x8000) :
    deviceAnswer s vf code = some 2 := by
  have below : ¬ 0x8000 ≤ code := by omega
  have unknown : code = 0 ∨ 5 < code := h.imp_right And.left
  simp [deviceAnswer, below, unknown]

theorem deviceAnswer_shut {s : State} {vf code : Nat} (h : code = 4 ∧ masked s vf 12 = true ∨ code = 3 ∧ masked s vf 13 = true) :
    deviceAnswer s vf code = some 1 := by
  rcases h with ⟨rfl, h⟩ | ⟨rfl, h⟩ <;> simp [deviceAnswer, h]

theorem deviceAnswer_none {s : State} {vf code : Nat} (own : ¬ (code = 0 ∨ 5 < code ∧ code < 0x8000))
    (shut : ¬ (code = 4 ∧ masked s vf 12 = true ∨ code = 3 ∧ masked s vf 13 = true)) : deviceAnswer s vf code = none := by
  by_cases above : 0x8000 ≤ code
  · simp [deviceAnswer, above]
  · have known : ¬ (code = 0 ∨ 5 < code) := by omega
    simp [deviceAnswer, above, known, shut]

/-! ### MAILBOX_REPLY and the leases -/

theorem endProfiling_func (s : State) (vf : Nat) : (endProfiling s vf).func vf = { s.func vf with profLease := false } :=
  func_modFunc _ vf _

/-- The end of a VF's profiling lease takes its frames from its partition, and no other's (R102). -/
theorem mem_leases_endProfiling (s : State) (vf : Nat) (l : Nat × Nat × Nat) : let p := (s.func vf).part.toNat
    l ∈ ((endProfiling s vf).part p).leases ↔ l ∈ (s.part p).leases ∧ l.2.2 ≠ vf := by
  intro p
  have left : ((endProfiling s vf).part p).leases = (s.part p).leases.filter (fun l => l.2.2 != vf) := by
    rw [endProfiling, part_modFunc, part_modPart]
  simp [left]

theorem memWrite_funcs (s : State) (a : Nat) (bs : List Byte) : (memWrite s a bs).funcs = s.funcs := rfl

theorem memWrite_irqs (s : State) (a : Nat) (bs : List Byte) : (memWrite s a bs).irqs = s.irqs := rfl

/-- Saving what a debug command has changed touches no function and no interrupt. -/
theorem syncSaved_funcs_irqs (s : State) (k : Nat) : (syncSaved s k).funcs = s.funcs ∧ (syncSaved s k).irqs = s.irqs := by
  unfold syncSaved
  dsimp only
  split
  · exact ⟨rfl, rfl⟩
  · simp only [State.modTask, setTask_funcs, setTask_irqs]
    constructor
    · exact foldl_keeps State.funcs (fun s _ => memWrite_funcs s _ _) _ s
    · exact foldl_keeps State.irqs (fun s _ => memWrite_irqs s _ _) _ s

/-- The end of a debug lease clears the VF's debug context and leaves the rest of the VF (R266, R276). -/
theorem endDebug_func (s : State) (vf : Nat) :
    (endDebug s vf).func vf = { s.func vf with dbgCtl := 0#4, bkpt := [], wpt := [] } := by
  unfold endDebug
  dsimp only
  rw [func_modFunc, State.func, foldl_keeps State.funcs (fun s _ => (syncSaved_funcs_irqs s _).1)]
  rfl

theorem endDebug_irqs (s : State) (vf : Nat) : (endDebug s vf).irqs = s.irqs :=
  foldl_keeps State.irqs (fun s _ => (syncSaved_funcs_irqs s _).2) _ _

section Grant

variable (s : State) (vf : Nat)

theorem grantMail_profiling (h : (s.func vf).mbCode = 3) :
    ((grantMail s vf).func vf).profLease = true ∧
      ((Tab.get (s.func vf).msg 1 0#64).toNat, (s.func vf).mbArg, vf) ∈ ((grantMail s vf).part (s.func vf).part.toNat).leases := by
  have begins := show grantMail s vf = _ from if_pos (by simpa using h)
  rw [begins, func_modFunc, part_modFunc, part_modPart]
  exact ⟨rfl, List.mem_append_right _ (List.mem_singleton.2 rfl)⟩

theorem grantMail_debug (h : (s.func vf).mbCode = 4) : ((grantMail s vf).func vf).dbgLease = true := by
  simp [grantMail, h]

theorem grantMail_endProfiling (h : (s.func vf).mbCode = 5) (ha : (s.func vf).mbArg = 3) :
    grantMail s vf = endProfiling s vf := by simp [grantMail, h, ha]

theorem grantMail_endDebug (h : (s.func vf).mbCode = 5) (ha : (s.func vf).mbArg = 4) :
    ((grantMail s vf).func vf).dbgLease = false ∧ ((grantMail s vf).func vf).dbgCtl = 0#4 := by
  have ends : grantMail s vf = (endDebug s vf).modFunc vf (fun f => { f with dbgLease := false }) := by
    simp [grantMail, h, ha]
  rw [ends, func_modFunc, endDebug_func]
  exact ⟨rfl, rfl⟩

/-- Only the end of a debug lease writes memory: it writes the saved blocks again. -/
theorem grantMail_mem (h : ¬ ((s.func vf).mbCode = 5 ∧ (s.func vf).mbArg = 4)) : (grantMail s vf).mem = s.mem := by
  unfold grantMail
  dsimp only
  split
  · rfl
  · split
    · rfl
    · split
      · rfl
      · split
        · rename_i h54
          exact absurd (by simpa using h54) h
        · rfl

theorem grantMail_irqs : (grantMail s vf).irqs = s.irqs := by
  unfold grantMail
  dsimp only
  split
  · rfl
  · split
    · rfl
    · split
      · rfl
      · split
        · exact endDebug_irqs s vf
        · rfl

end Grant

theorem exec_mailboxReply (vf : Nat) (status : Byte) (s : State) :
    exec (.mailboxReply vf status) s = .next (replyMail s vf status) := rfl

/-- What of the device a reply's status changes before the answer (R51). -/
def granted (s : State) (vf : Nat) (status : Byte) : State := if status = 0#8 then grantMail s vf else s

theorem replyMail_answers {s : State} {vf : Nat} {status : Byte} (hb : (s.func vf).mbBusy = true) (hh : (s.func vf).mbHeld = false) :
    replyMail s vf status = answerMail (granted s vf status) vf status.toNat := by
  simp [replyMail, granted, hb, hh]

theorem replyMail_ignored {s : State} {vf : Nat} {status : Byte} (h : (s.func vf).mbBusy = false ∨ (s.func vf).mbHeld = true) :
    replyMail s vf status = s := by
  rcases h with h | h <;> simp [replyMail, h]


/-! ### The obligation -/

/-- A request that the device answers itself (R51, R52). -/
theorem mailboxSend_answered {s : State} {vf status : Nat} (hb : (s.func vf).mbBusy = false) (hvf : vf < 192)
    (hc : s.stCmd ≠ some 1) (ha : deviceAnswer (posted s vf) vf (requestCode (s.func vf)) = some status) :
    ∃ t, exec (.mailboxSend vf) s = .next t ∧ (t.func vf).mbBusy = false ∧ (t.func vf).mbStatus = BitVec.ofNat 8 status ∧
      (t.func vf).mbDone = true := by
  have hp : sendMail s vf = answerMail (posted s vf) vf status := by
    rw [sendMail_posts hb hvf, if_neg hc, passMail_answered (by rw [func_posted]; exact ha)]
  refine ⟨_, (exec_mailboxSend vf s).trans (congrArg _ hp), ?_⟩
  rw [func_answerMail]
  exact ⟨rfl, rfl, rfl⟩

/-- A request that goes to the PF raises its vector 0 (R51). -/
theorem mailboxSend_delivered {s : State} {vf : Nat} (hb : (s.func vf).mbBusy = false) (hvf : vf < 192)
    (hc : s.stCmd ≠ some 1) (ha : deviceAnswer (posted s vf) vf (requestCode (s.func vf)) = none) :
    ∃ t, exec (.mailboxSend vf) s = .next t ∧ SameBytes s t ∧ (t.func vf).mbBusy = true ∧ (t.func vf).posted = (s.func vf).msg ∧
      (t.func vf).mbHeld = false ∧ Tab.get t.irqs (pfFn * 8) 0 = Tab.get s.irqs (pfFn * 8) 0 + 1 := by
  have hp : sendMail s vf = deliverMail (posted s vf) vf := by
    rw [sendMail_posts hb hvf, if_neg hc, passMail_delivered (by rw [func_posted]; exact ha)]
  refine ⟨_, (exec_mailboxSend vf s).trans (congrArg _ hp), fun _ => rfl, ?_⟩
  rw [func_deliverMail, func_posted]
  exact ⟨rfl, rfl, rfl, Tab.get_set_same _ _ _ _⟩

/-- A request waits through a firmware swap, and raises nothing (R42). -/
theorem mailboxSend_held {s : State} {vf : Nat} (hb : (s.func vf).mbBusy = false) (hvf : vf < 192) (hc : s.stCmd = some 1) :
    ∃ t, exec (.mailboxSend vf) s = .next t ∧ SameBytes s t ∧ (t.func vf).mbBusy = true ∧ (t.func vf).posted = (s.func vf).msg ∧
      (t.func vf).mbHeld = true ∧ t.irqs = s.irqs := by
  have hp : sendMail s vf = posted s vf := by rw [sendMail_posts hb hvf, if_pos hc]
  refine ⟨_, (exec_mailboxSend vf s).trans (congrArg _ hp), fun _ => rfl, ?_⟩
  rw [func_posted, hc]
  exact ⟨rfl, rfl, rfl, rfl⟩

/-- A reply ends the request with its status and vector 0 of the VF, and STATUS 0 begins or ends a lease (R51, R102). -/
theorem mailboxReply_ends {s : State} {vf : Nat} {status : Byte} (hb : (s.func vf).mbBusy = true) (hh : (s.func vf).mbHeld = false) :
    let f := s.func vf
    ∃ t, exec (.mailboxReply vf status) s = .next t ∧
      (¬ (status = 0#8 ∧ f.mbCode = 5 ∧ f.mbArg = 4) → SameBytes s t) ∧ (t.func vf).mbBusy = false ∧
      (t.func vf).mbStatus = status ∧ (t.func vf).mbDone = true ∧ Tab.get t.irqs (vf * 8) 0 = Tab.get s.irqs (vf * 8) 0 + 1 ∧
      (status ≠ 0#8 → (t.func vf).dbgLease = f.dbgLease ∧ (t.func vf).profLease = f.profLease) ∧
      (status = 0#8 → f.mbCode = 4 → (t.func vf).dbgLease = true) ∧
      (status = 0#8 → f.mbCode = 5 → f.mbArg = 3 → (t.func vf).profLease = false) ∧
      (status = 0#8 → f.mbCode = 5 → f.mbArg = 4 → (t.func vf).dbgLease = false ∧ (t.func vf).dbgCtl = 0#4) ∧
      (status = 0#8 → f.mbCode = 3 → (t.func vf).profLease = true ∧
        ((Tab.get f.msg 1 0#64).toNat, f.mbArg, vf) ∈ (t.part f.part.toNat).leases) := by
  intro f
  have irqs : (granted s vf status).irqs = s.irqs := by
    unfold granted
    split
    · exact grantMail_irqs s vf
    · rfl
  refine ⟨_, (exec_mailboxReply vf status s).trans (congrArg _ (replyMail_answers hb hh)), fun h x => ?bytes, ?_⟩
  case bytes =>
    show Memory.read (granted s vf status).mem x = _
    unfold granted
    split
    · rw [grantMail_mem s vf fun hc => h ⟨by assumption, hc⟩]
    · rfl
  rw [func_answerMail]
  refine ⟨rfl, by simp, rfl, ?irq, fun h => ?refused, fun h hc => ?debug, fun h hc ha => ?endProf, fun h hc ha => ?endDbg,
    fun h hc => ?prof⟩
  case irq =>
    rw [← irqs]
    exact Tab.get_set_same _ _ _ _
  case refused => rw [granted, if_neg h]; exact ⟨rfl, rfl⟩
  case debug => rw [granted, if_pos h]; exact grantMail_debug s vf hc
  case endProf =>
    rw [granted, if_pos h, grantMail_endProfiling s vf hc ha, endProfiling_func]
  case endDbg => rw [granted, if_pos h]; exact grantMail_endDebug s vf hc ha
  case prof =>
    rw [granted, if_pos h]
    exact grantMail_profiling s vf hc

theorem profilingLeaseEnd_ends {s : State} {vf : Nat} (h : leaseOver s vf = true) : let p := (s.func vf).part.toNat
    ∃ t, exec (.profilingLeaseEnd vf) s = .next t ∧ SameBytes s t ∧ (t.func vf).profLease = false ∧
      ∀ l, l ∈ (t.part p).leases ↔ l ∈ (s.part p).leases ∧ l.2.2 ≠ vf :=
  ⟨endProfiling s vf, if_pos h, fun _ => rfl, by rw [endProfiling_func], mem_leases_endProfiling s vf⟩

/-- Settles O48: each command, request and lease through the lemma about its end. -/
theorem stewardAndMailbox : Obligations.StewardAndMailbox := by
  unfold Obligations.StewardAndMailbox
  refine ⟨fun s => ⟨fun h => ?noSwap, fun h => ?swap⟩,
    fun s => ⟨fun h => ?noRead, fun h => ?noWrite, stcmdRead_ends, stcmdWrite_ends⟩,
    fun s vf => ⟨fun h => (exec_mailboxSend vf s).trans (congrArg _ (sendMail_ignored h)), mailboxSend_held, fun hb hvf hc =>
      ⟨fun own => mailboxSend_answered hb hvf hc (deviceAnswer_unknown own), fun _ shut => ?shut, fun own shut => ?deliver⟩⟩,
    fun s vf status => ⟨fun h => (exec_mailboxReply vf status s).trans (congrArg _ (replyMail_ignored h)), mailboxReply_ends⟩,
    fun s vf => ⟨fun h => ?noEnd, profilingLeaseEnd_ends⟩⟩
  case noSwap => exact if_pos (by simpa using h)
  case swap =>
    obtain ⟨t, run, bytes, cmd, result, image, recovery, held⟩ := stcmdSwapImage_ends h
    have hr : imageResult s = if hostOk s s.stSrc.toNat s.stLen.toNat = false then 4 else
        if Config.imageOk (stagedImage s) = false then 1 else
        if (Config.imageSvn (stagedImage s)).toNat < Config.fwSvn.toNat then 2 else 0 := by simp [imageResult]
    rw [hr] at result image recovery
    exact ⟨t, run, bytes, cmd, result, image, recovery, fun e _ => held e.1⟩
  case noRead | noWrite => exact if_pos (by simpa using h)
  case shut => exact mailboxSend_answered hb hvf hc (deviceAnswer_shut (by simpa only [masked_posted, requestCode] using shut))
  case deliver => exact mailboxSend_delivered hb hvf hc (deviceAnswer_none own (by simpa only [masked_posted, requestCode] using shut))
  case noEnd => exact if_neg (by simp [h])

end Sys2Proof.Machine
end

section
/-! PROOFS. Device reset, links, sensors and repairs (R21-R24, R32-R41). A repair that is detected waits, or is carried out on
the state as it is; each kind of repair has a lemma that says what it leaves. -/

namespace Sys2Proof.Machine

open Sys2Proof

theorem sameBytes_of_mem {s t : State} (h : t.mem = s.mem) : SameBytes s t := fun x => by rw [h]

theorem core_setCore_ne (s : State) (n m : Nat) (x : Core) (h : m ≠ n) : (s.setCore n x).core m = s.core m := by
  simp [State.core, State.setCore, Tab.get_set_ne _ _ _ _ _ h]

/-! ### The bits of the management page (R47) -/

theorem noteRepair_eq (s : State) : ∃ irqs, noteRepair s = { s with repair := true, irqs := irqs } := by
  by_cases h : s.repair = true
  · refine ⟨s.irqs, ?_⟩
    rw [noteRepair, if_pos h, ← h]
  · exact ⟨_, if_neg h⟩

theorem noteReduced_eq (s : State) : ∃ irqs, noteReduced s = { s with reduced := true, irqs := irqs } := by
  by_cases h : s.reduced = true
  · refine ⟨s.irqs, ?_⟩
    rw [noteReduced, if_pos h, ← h]
  · exact ⟨_, if_neg h⟩

theorem noteThermal_eq (s : State) : ∃ irqs, noteThermal s = { s with thermal := true, irqs := irqs } := by
  by_cases h : s.thermal = true
  · refine ⟨s.irqs, ?_⟩
    rw [noteThermal, if_pos h, ← h]
  · exact ⟨_, if_neg h⟩

theorem noteRepair_repair (s : State) : (noteRepair s).repair = true := by
  obtain ⟨irqs, h⟩ := noteRepair_eq s
  rw [h]

/-! ### Device reset (R41) -/

/-- HBM that no partition maps is less than a space (R16, R18). -/
theorem spaceOf_bareOf {bays : List Nat} (hb : ∀ b ∈ bays, b < 32) {a : Nat} (ha : a < 2 ^ 64) :
    spaceOf (bareOf bays a) = bareSpace := by
  have bay : ∀ i, bays.getD i 0 < 32 := fun i => by
    rw [List.getD_eq_getElem?_getD]
    cases h : bays[i]? with
    | none => simp
    | some b => exact hb b (List.mem_of_getElem? h)
  have offset : (64 * bays.getD (a / 4096 % (64 * bays.length) / 64) 0 + a / 4096 % (64 * bays.length) % 64) * chanBytes +
      a / 4096 / (64 * bays.length) * 4096 + a % 4096 < 2 ^ 64 := by
    have chan : 64 * bays.getD (a / 4096 % (64 * bays.length) / 64) 0 + a / 4096 % (64 * bays.length) % 64 ≤ 2047 := by
      have := bay (a / 4096 % (64 * bays.length) / 64)
      omega
    have row : a / 4096 / (64 * bays.length) ≤ 2 ^ 46 := by
      rw [← Nat.div_div_eq_div_mul]
      exact (Nat.div_le_self _ _).trans (by omega)
    have := Nat.mul_le_mul_right chanBytes chan
    simp only [chanBytes] at this ⊢
    omega
  unfold bareOf spaceOf spaceBase
  dsimp only
  omega

/-- A partition that goes off moves its own bytes to the HBM of its bays, and no other byte (R78). -/
theorem unmapPart_read {s : State} {p a : Nat} (h : Memory.wf s.mem) (hp : spaceOf a ≠ p) (hb : spaceOf a ≠ bareSpace) :
    Memory.read (unmapPart s p).mem a = Memory.read s.mem a := by
  refine relocate_read s _ h (by simp [hp]) fun x hx => hb ?_
  obtain ⟨-, hx⟩ := Option.ite_none_right_eq_some.1 hx
  rw [← Option.some.inj hx]
  refine spaceOf_bareOf (fun b hb => ?_) (Nat.mod_lt _ (by decide))
  exact List.mem_range.1 (List.mem_filter.1 hb).1

theorem foldl_unmapPart_read (ps : List Nat) {s : State} {a : Nat} (h : Memory.wf s.mem) (hp : ∀ p ∈ ps, spaceOf a ≠ p)
    (hb : spaceOf a ≠ bareSpace) : Memory.read (ps.foldl unmapPart s).mem a = Memory.read s.mem a := by
  induction ps generalizing s with
  | nil => rfl
  | cons p ps ih =>
    rw [List.foldl_cons, ih (s := unmapPart s p) (relocate_wf s _ h) fun q hq => hp q (List.mem_cons_of_mem _ hq),
      unmapPart_read h (hp p (by simp)) hb]

/-- With no partition on, there is nothing to move. -/
theorem unmapAll_of_off {s : State} (h : ∀ e ∈ s.parts, e.2.en = false) : unmapAll s = s := by
  have : s.parts.filter (fun e => e.2.en) = [] := List.filter_eq_nil_iff.2 fun e he => by simp [h e he]
  rw [unmapAll, this]
  rfl

theorem unmapAll_read {s : State} {a : Nat} (h : Memory.wf s.mem) (hp : ∀ e ∈ s.parts, e.1 < 32) (ha : 32 ≤ spaceOf a)
    (hb : spaceOf a ≠ bareSpace) : Memory.read (unmapAll s).mem a = Memory.read s.mem a := by
  refine foldl_unmapPart_read _ h (fun p hm => ?_) hb
  obtain ⟨e, he, rfl⟩ := List.mem_map.1 hm
  have := hp e (List.mem_filter.1 he).1
  omega

theorem deviceReset_leaves (s : State) : ∃ t, exec .deviceReset s = .next t ∧
    t.recovery = !Config.imageOk (runningImage s) ∧ t.now = 0 ∧ ((∀ e ∈ s.parts, e.2.en = false) → SameBytes s t) ∧
    (Memory.wf s.mem → (∀ e ∈ s.parts, e.1 < 32) → ∀ a, 32 ≤ spaceOf a → spaceOf a ≠ bareSpace →
      Memory.read t.mem a = Memory.read s.mem a) ∧
    t.teams = [] ∧ t.crews = [] ∧ t.tasks = [] ∧ (∀ f, (t.func f).en = false) ∧ (∀ p, (t.part p).en = false) ∧
    ∀ c, t.core c = coreReset c :=
  ⟨_, rfl, rfl, rfl, fun h => sameBytes_of_mem (show (unmapAll s).mem = s.mem by rw [unmapAll_of_off h]),
    fun h hp a ha hb => unmapAll_read h hp ha hb, rfl, rfl, rfl, fun _ => rfl, fun _ => rfl, fun _ => rfl⟩

/-! ### Links (R23, R24) -/

theorem linkCrcError_cases (s : State) (port n : Nat) : let x := Tab.get s.ports port {}
    let y : LinkPort := { badLanes := x.badLanes + 1, down := x.down || decide (2 ≤ x.badLanes) }
    let u : State := noteRepair { s with ports := Tab.set s.ports port y }
    (12 ≤ port → exec (.linkCrcError port n) s = .next s) ∧
    (port < 12 → n < 3 → exec (.linkCrcError port n) s = .next { s with transients := (s.now, .lane port) :: s.transients }) ∧
    (port < 12 → 3 ≤ n → u.repair = true ∧
      (x.down = true ∨ x.badLanes < 2 → exec (.linkCrcError port n) s = .next u) ∧
      (x.down = false → 2 ≤ x.badLanes →
        exec (.linkCrcError port n) s = .next ((opsOnPort u port).foldl linkLost u.bump))) := by
  intro x y u
  have run : exec (.linkCrcError port n) s = execLinkCrcError port n s := rfl
  have lane (hp : port < 12) (hn : 3 ≤ n) : exec (.linkCrcError port n) s =
      .next (if y.down && !x.down then (opsOnPort u port).foldl linkLost u.bump else u) := by
    rw [run, execLinkCrcError, if_neg (by omega), if_neg (by omega)]
    rfl
  refine ⟨fun h => if_pos h, fun hp hn => ?transient, fun hp hn => ⟨noteRepair_repair _, fun h => ?up, fun h h2 => ?lost⟩⟩
  case transient =>
    rw [run, execLinkCrcError, if_neg (by omega), if_pos hn]
    rfl
  case up =>
    rw [lane hp hn, if_neg]
    rcases h with h | h
    · simp [h]
    · simp [y, Nat.not_le.2 h]
  case lost => rw [lane hp hn, if_pos (by simp [y, h, h2])]

theorem portDown_cases (s : State) (port id : Nat) : let x := Tab.get s.ports port {}
    let u : State := { s with ports := Tab.set s.ports port { x with down := true } }
    (12 ≤ port → exec (.portDown port [id]) s = .next s) ∧
    (port < 12 → exec (.portDown port []) s = .next u) ∧
    (∀ a, port < 12 → Tab.find s.accesses id = some a → isRemote a = true → exec (.portDown port [id]) s = .next (takeFault
      (cancelAccess u id a) a.team (standingPath (s.team a.team) a.path) a.pc
      { code := .linkError, slot := .m, tensor := a.tensor, lanes := maskOf (a.todo.map MUnit.lane).eraseDups })) ∧
    (port < 12 → Tab.find s.accesses id = none → engineRemote s id = true →
      exec (.portDown port [id]) s = .next (engineFault u id { code := .linkError, slot := .x })) := by
  intro x u
  have down (ops : List Nat) (hp : port < 12) : exec (.portDown port ops) s = .next (ops.foldl linkLost u) :=
    if_neg (Nat.not_le.2 hp)
  refine ⟨fun h => if_pos h, down [], fun a hp ha hr => ?access, fun hp ha hr => ?engine⟩
  case access =>
    have ha : Tab.find u.accesses id = some a := ha
    rw [down [id] hp]
    show Host.Outcome.next (linkLost u id) = _
    simp only [linkLost, ha, hr, Bool.not_true, Bool.false_eq_true, if_false]
    rfl
  case engine =>
    have ha : Tab.find u.accesses id = none := ha
    have hr : engineRemote u id = true := hr
    rw [down [id] hp]
    show Host.Outcome.next (linkLost u id) = _
    simp only [linkLost, ha, hr, if_true]

/-! ### Sensors (R32-R34, R156) -/

theorem crew_migrates_askMigrations {s : State} {core : Nat} (h : (s.core core).hot = true) :
    ∀ e ∈ (askMigrations s core).crews, e.2.core = core → e.2.saved = false → (s.task e.2.task).migratable = true →
      e.2.migrate = true := by
  intro e he hc hs hm
  rw [askMigrations, if_pos h] at he
  obtain ⟨e', -, rfl⟩ := List.mem_map.1 he
  by_cases asks : (e'.2.core == core && !e'.2.saved && (s.task e'.2.task).migratable) = true
  · simp only [if_pos asks]
  · simp only [if_neg asks] at hc hs hm
    exact absurd (by simp [hc, hs, hm]) asks

/-- A sample changes its core, the crews that ask to migrate, and at 115 °C the die and the management page (R32, R33). -/
theorem sensorSample_cases {s : State} {core : Nat} (temp : BitVec 11) (h : sampleTime s (s.core core) = true) :
    ∃ t, exec (.sensorSample core temp) s = .next t ∧ t.mem = s.mem ∧ t.core core = senseCore (s.core core) s.now temp ∧
      t.crews = (askMigrations (s.modCore core (fun c => senseCore c s.now temp)) core).crews ∧
      (460 ≤ temp.toNat → (t.die (dieOf core)).stopped = true ∧ t.thermal = true) := by
  have cores (u : State) : (askMigrations u core).cores = u.cores := by
    unfold askMigrations
    dsimp only
    split <;> rfl
  have mem (u : State) : (askMigrations u core).mem = u.mem := by
    unfold askMigrations
    dsimp only
    split <;> rfl
  let u := askMigrations (s.modCore core (fun c => senseCore c s.now temp)) core
  have sampled : u.core core = senseCore (s.core core) s.now temp := by
    rw [State.core, cores]
    exact core_setCore s core _
  have run : exec (.sensorSample core temp) s = .next (if 460 ≤ temp.toNat then
      noteThermal (u.modDie (dieOf core) (fun d => { d with stopped := true })) else u) := by
    show execSensorSample core temp s = _
    rw [execSensorSample, if_neg (by simp [h])]
    split <;> rfl
  by_cases hot : 460 ≤ temp.toNat
  · rw [if_pos hot] at run
    refine ⟨_, run, ?_⟩
    obtain ⟨irqs, hn⟩ := noteThermal_eq (u.modDie (dieOf core) (fun d => { d with stopped := true }))
    rw [hn]
    exact ⟨mem _, sampled, rfl, fun _ => ⟨congrArg Die.stopped (die_setDie u _ _), rfl⟩⟩
  · rw [if_neg hot] at run
    exact ⟨u, run, mem _, sampled, rfl, fun h => absurd h hot⟩

theorem sensorSample_takes {s : State} {core : Nat} (temp : BitVec 11) (h : sampleTime s (s.core core) = true) :
    let c := s.core core
    let inRow (n : Nat) : Nat := if c.senseAt = some (s.now - us 10) then n + 1 else 1
    let up := if 380 < temp.toNat then inRow c.hotRun else 0
    let down := if temp.toNat < 352 then inRow c.coolRun else 0
    ∃ t, exec (.sensorSample core temp) s = .next t ∧ SameBytes s t ∧ (t.core core).temp = temp ∧
      (t.core core).senseAt = some s.now ∧ (t.core core).hotRun = up ∧ (t.core core).coolRun = down ∧
      ((t.core core).hot = true ↔ (c.hot = true ∨ 20 ≤ up) ∧ down < 200) ∧
      ((t.core core).noLeave = true ↔ 420 ≤ temp.toNat ∨ 400 ≤ temp.toNat ∧ c.noLeave = true) ∧
      (460 ≤ temp.toNat → (t.die (dieOf core)).stopped = true ∧ t.thermal = true) ∧
      ((t.core core).hot = true → ∀ e ∈ t.crews, e.2.core = core → e.2.saved = false →
        (s.task e.2.task).migratable = true → e.2.migrate = true) := by
  intro c inRow up down
  obtain ⟨t, run, mem, hcore, crews, die⟩ := sensorSample_cases temp h
  have next (n : Nat) : (if c.senseAt == some (s.now - us 10) then n else 0) + 1 = inRow n := by
    simp only [inRow, beq_iff_eq]
    split <;> omega
  have hup : (senseCore c s.now temp).hotRun = up := by simp only [senseCore, next, up]
  have hdown : (senseCore c s.now temp).coolRun = down := by simp only [senseCore, next, down]
  refine ⟨t, run, sameBytes_of_mem mem, ?_, ?_, ?_, ?_, ?_, ?_, die, fun hot => ?crews⟩
  case crews =>
    rw [crews]
    refine crew_migrates_askMigrations ?_
    rw [State.modCore, core_setCore, ← hcore]
    exact hot
  all_goals rw [hcore]
  · rfl
  · rfl
  · exact hup
  · exact hdown
  · show ((c.hot || decide (20 ≤ (senseCore c s.now temp).hotRun)) && !decide (200 ≤ (senseCore c s.now temp).coolRun)) = true ↔ _
    rw [hup, hdown]
    simp
  · show (if 420 ≤ temp.toNat then true else if temp.toNat < 400 then false else c.noLeave) = true ↔ _
    by_cases h1 : 420 ≤ temp.toNat
    · simp [h1]
    · by_cases h2 : temp.toNat < 400
      · simp [h1, h2]
      · simp [h1, h2, Nat.not_lt.1 h2]

theorem droopEvent_counts (s : State) (core : Nat) : ∃ t, exec (.droopEvent core) s = .next t ∧ SameBytes s t ∧
    (t.core core).droop = true ∧ (t.core core).droopCnt.toNat = min ((s.core core).droopCnt.toNat + 1) 0xFFFF ∧
    s.now ∈ (t.core core).droopTimes := by
  refine ⟨_, rfl, fun _ => rfl, ?_⟩
  rw [State.modCore, core_setCore]
  refine ⟨rfl, ?_, List.mem_cons_self ..⟩
  dsimp only
  by_cases hc : (s.core core).droopCnt = 0xFFFF#16
  · rw [hc]
    rfl
  · have := (s.core core).droopCnt.isLt
    have : (s.core core).droopCnt.toNat ≠ 0xFFFF := fun h => hc (BitVec.eq_of_toNat_eq h)
    rw [if_neg (by simpa using hc), BitVec.toNat_add]
    simp only [BitVec.toNat_ofNat]
    omega

/-! ### The order of repairs (R40) -/

/-- A repair waits behind those detected before it, and while it is held back (R40, R102). -/
theorem detect_waits {s : State} {r : Repair} (h : s.repairs ≠ [] ∨ repairHeld s r = true) :
    detect s r = { s with repairs := s.repairs ++ [r] } := by
  by_cases hr : s.repairs = []
  · have held : repairHeld { s with repairs := [r] } r = true := h.resolve_left (absurd hr)
    simp [detect, repairNext, hr, held]
  · simp [detect, hr]

/-- The first one that need not wait is carried out at once. -/
theorem detect_now {s t : State} {r : Repair} (hr : s.repairs = []) (hh : repairHeld s r = false)
    (ht : carryOut s r = some t) : detect s r = t := by
  have held : repairHeld { s with repairs := [r] } r = false := hh
  have same : { s with repairs := [] } = s := by rw [← hr]
  simp [detect, repairNext, hr, held, same, ht]

theorem repairHeld_way (s : State) (slice way : Nat) : repairHeld s (.way slice way) = repairWaits s slice :=
  Bool.or_false _

theorem repairHeld_core (s : State) (core : Nat) : repairHeld s (.core core) = repairWaits s (core / 13) :=
  Bool.or_false _

/-! ### HBM (R35, R37) -/

section Memory

variable {s : State} {chan : Nat}

theorem retireChannel_copies (h : Tab.get s.reserveUsed (chan / 256) 0 < 5) : SameBytes s (retireChannel s chan) ∧
    chan ∈ (retireChannel s chan).chanCopy ∧
    Tab.get (retireChannel s chan).reserveUsed (chan / 256) 0 = Tab.get s.reserveUsed (chan / 256) 0 + 1 := by
  rw [retireChannel, if_pos h]
  exact ⟨fun _ => rfl, List.mem_append_right _ (List.mem_singleton.2 rfl), Tab.get_set_same _ _ _ _⟩

/-- A stack whose reserve is used up asks the PF for a granule (R37). -/
theorem retireChannel_asks (h : 5 ≤ Tab.get s.reserveUsed (chan / 256) 0) : SameBytes s (retireChannel s chan) ∧
    (retireChannel s chan).chanCopy = s.chanCopy ∧ Tab.get (retireChannel s chan).releaseAsked (chan / 256) false = true := by
  rw [retireChannel, if_neg (Nat.not_lt.2 h)]
  obtain ⟨irqs, hn⟩ := noteRepair_eq { s with releaseAsked := Tab.set s.releaseAsked (chan / 256) true }
  rw [hn]
  exact ⟨fun _ => rfl, rfl, Tab.get_set_same _ _ _ _⟩

theorem retireRow_full (h : 32 ≤ Tab.get s.rowsUsed chan 0) : retireRow s chan = retireChannel s chan :=
  if_neg (Nat.not_lt.2 h)

theorem retireRow_remaps (h : Tab.get s.rowsUsed chan 0 < 32) : SameBytes s (retireRow s chan) ∧
    (retireRow s chan).repair = true ∧ Tab.get (retireRow s chan).rowsUsed chan 0 = Tab.get s.rowsUsed chan 0 + 1 ∧
    (retireRow s chan).chanCopy = s.chanCopy := by
  rw [retireRow, if_pos h]
  obtain ⟨irqs, hn⟩ := noteRepair_eq { s with rowsUsed := Tab.set s.rowsUsed chan (Tab.get s.rowsUsed chan 0 + 1) }
  rw [hn]
  exact ⟨fun _ => rfl, rfl, Tab.get_set_same _ _ _ _, rfl⟩

theorem replaceChannel_leaves (s : State) (chan : Nat) : SameBytes s (replaceChannel s chan) ∧
    chan ∉ (replaceChannel s chan).chanCopy ∧ chan ∈ (replaceChannel s chan).chanRetired ∧
    Tab.get (replaceChannel s chan).rowsUsed chan 0 = 0 ∧ (replaceChannel s chan).repair = true := by
  obtain ⟨irqs, hn⟩ := noteRepair_eq { s with
    chanCopy := s.chanCopy.filter (· != chan), chanHeld := s.chanHeld.filter (· != chan)
    chanRetired := chan :: s.chanRetired, rowsUsed := Tab.set s.rowsUsed chan 0 }
  rw [replaceChannel, hn]
  exact ⟨fun _ => rfl, by simp, List.mem_cons_self .., Tab.get_set_same _ _ _ _, rfl⟩

end Memory

/-! ### L2 ways (R38) -/

/-- The mask of a function without one way. -/
def withoutWay (way : Nat) (f : Func) : Func := { f with ways := f.ways &&& ~~~(BitVec.ofNat 24 (2 ^ way)) }

theorem withoutWay_getLsbD (way : Nat) (f : Func) {j : Nat} (hj : j < 24) :
    (withoutWay way f).ways.getLsbD j = (f.ways.getLsbD j && j != way) := by
  have one : (BitVec.ofNat 24 (2 ^ way)).getLsbD j = (j == way) := by
    rw [BitVec.getLsbD_ofNat, Nat.testBit_two_pow]
    by_cases h : j = way
    · simp [h, h ▸ hj]
    · simp [h, Ne.symm h]
  rw [withoutWay, BitVec.getLsbD_and, BitVec.getLsbD_not, one, decide_eq_true hj, Bool.true_and]
  rfl

/-- A way that leaves the masks of some functions leaves each of them. -/
theorem foldl_withoutWay_getLsbD (way : Nat) {j : Nat} (hj : j < 24) (vs : List Nat) (s : State) (v : Nat) :
    ((vs.foldl (fun s v => s.modFunc v (withoutWay way)) s).func v).ways.getLsbD j =
      ((s.func v).ways.getLsbD j && (j != way || !vs.contains v)) := by
  induction vs generalizing s with
  | nil => simp
  | cons w vs ih =>
    rw [List.foldl_cons, ih]
    by_cases hv : v = w
    · subst hv
      rw [func_modFunc, withoutWay_getLsbD way _ hj]
      cases j != way <;> simp
    · rw [State.modFunc, func_setFunc_ne _ _ _ _ hv]
      simp [hv]

theorem clearWay_getLsbD (s : State) (p way : Nat) {v j : Nat} (hv : v ∈ boundVfs s p) (hj : j < 24) :
    ((clearWay s p way).func v).ways.getLsbD j = ((s.func v).ways.getLsbD j && j != way) := by
  refine (foldl_withoutWay_getLsbD way hj (boundVfs s p) s v).trans ?_
  simp [hv]

theorem clearWay_leaves (s : State) (p way : Nat) :
    (clearWay s p way).mem = s.mem ∧ (clearWay s p way).waysRetired = s.waysRetired :=
  ⟨foldl_keeps State.mem (fun s v => (rfl : (s.modFunc v (withoutWay way)).mem = s.mem)) _ s,
    foldl_keeps State.waysRetired (fun s v => (rfl : (s.modFunc v (withoutWay way)).waysRetired = s.waysRetired)) _ s⟩

/-- The state in which a way's retirement has been noted (R35, R38). -/
def wayNoted (s : State) (slice way : Nat) : State :=
  noteRepair { s with waysRetired := (slice, way) :: s.waysRetired.filter (· != (slice, way)) }

theorem retireWay_unmapped {s : State} {slice : Nat} (way : Nat) (h : partOfBay s slice = none) :
    retireWay s slice way = wayNoted s slice way := by
  obtain ⟨irqs, hn⟩ := noteRepair_eq { s with waysRetired := (slice, way) :: s.waysRetired.filter (· != (slice, way)) }
  have h' : partOfBay (wayNoted s slice way) slice = none := by rw [wayNoted, hn]; exact h
  rw [wayNoted] at h' ⊢
  simp only [retireWay, h']

theorem retireWay_private {s : State} {slice way p : Nat} (h : partOfBay s slice = some p)
    (hs : (specSet s p slice).contains way = false) : retireWay s slice way = clearWay (wayNoted s slice way) p way := by
  obtain ⟨irqs, hn⟩ := noteRepair_eq { s with waysRetired := (slice, way) :: s.waysRetired.filter (· != (slice, way)) }
  have h' : partOfBay (wayNoted s slice way) slice = some p := by rw [wayNoted, hn]; exact h
  rw [wayNoted] at h' ⊢
  simp only [retireWay, h, h', hs, Bool.not_false, if_true]

/-- Noting it changes none of the parts from which the repair is carried out. -/
theorem wayNoted_leaves (s : State) (slice way : Nat) : (wayNoted s slice way).mem = s.mem ∧
    (slice, way) ∈ (wayNoted s slice way).waysRetired ∧ (wayNoted s slice way).repair = true ∧
    (wayNoted s slice way).funcs = s.funcs := by
  obtain ⟨irqs, hn⟩ := noteRepair_eq { s with waysRetired := (slice, way) :: s.waysRetired.filter (· != (slice, way)) }
  rw [wayNoted, hn]
  exact ⟨rfl, List.mem_cons_self .., rfl, rfl⟩

/-! ### Cores (R36) -/

theorem quietable_nil (s : State) : quietable s [] = true := by
  have bound (t : State) : boundFor t [] = [] := by simp [boundFor]
  have follows : followsWait s [] = false := by simp [followsWait, followsLeft]
  simp [quietable, bound, follows]

/-- A core without crews is retired at once (R36). -/
theorem carryOut_core_idle {s : State} {core : Nat} (hf : (s.core core).failing = true) (hm : coreMoving s core = false)
    (hc : crewsToMove s core = []) : carryOut s (.core core) = some (retireCore s core) := by
  have quiet : coreQuiet s core = true := by simp [coreQuiet, hc, teamsOfCrews, quietable_nil]
  simp [carryOut, hf, hm, quiet]

theorem retireCore_idle {s : State} {core : Nat} (hc : crewsToMove s core = []) :
    retireCore s core = swapCore (dropLeave (countRetire s core) core) core (spareOf s core) := by
  simp [retireCore, hc]

/-- Counting the retirement and dropping the core's leave touches functions and dies only. -/
theorem dropLeave_countRetire_eq (s : State) (core : Nat) :
    ∃ fs ds, dropLeave (countRetire s core) core = { s with funcs := fs, dies := ds } := by
  unfold countRetire
  split <;> exact ⟨_, _, rfl⟩

/-- A core that is retired: it bears no number, and nothing is left in it (R36). -/
def retiredCore (x : Core) : Core :=
  { x with cstate := 2#2, logical := none, failing := false, blame := none, ttb := [], ro := [], standby := [], matrix := [] }

section Swap

variable (s : State) (core : Nat)

/-- The spare takes the logical number of the core (R36). -/
theorem swapCore_spare {c : Nat} (hc : c ≠ core) : let t := swapCore s core (some c)
    t.mem = s.mem ∧ (t.core core).cstate = 2#2 ∧ (t.core core).logical = none ∧ (t.core c).cstate = 0#2 ∧
      (t.core c).logical = (s.core core).logical ∧ t.repair = true := by
  intro t
  let spare (x : Core) : Core := { x with cstate := 0#2, logical := (s.core core).logical }
  let u := (s.modCore core retiredCore).modCore c spare
  have old : u.core core = retiredCore (s.core core) :=
    (core_setCore_ne _ c core _ hc.symm).trans (core_setCore s core _)
  have new : u.core c = spare ((s.modCore core retiredCore).core c) := core_setCore _ c _
  obtain ⟨irqs, hn⟩ := noteRepair_eq u
  have ht : t = { u with repair := true, irqs := irqs } := hn
  rw [ht]
  show u.mem = s.mem ∧ (u.core core).cstate = 2#2 ∧ (u.core core).logical = none ∧ (u.core c).cstate = 0#2 ∧
    (u.core c).logical = (s.core core).logical ∧ true = true
  rw [old, new]
  exact ⟨rfl, rfl, rfl, rfl, rfl, rfl⟩

/-- Without a spare the number becomes vacant (R36). -/
theorem swapCore_vacant : let t := swapCore s core none
    t.mem = s.mem ∧ (t.core core).cstate = 2#2 ∧ (t.core core).logical = none ∧
      t.vacant = s.vacant ++ (s.core core).logical.toList ∧ t.repair = true ∧ t.reduced = true := by
  intro t
  let u : State := { s.modCore core retiredCore with vacant := s.vacant ++ (s.core core).logical.toList }
  have old : u.core core = retiredCore (s.core core) := core_setCore s core _
  obtain ⟨irqs, hn⟩ := noteRepair_eq u
  obtain ⟨irqs', hn'⟩ := noteReduced_eq (noteRepair u)
  have ht : t = { u with repair := true, reduced := true, irqs := irqs' } := by
    refine hn'.trans ?_
    rw [hn]
  rw [ht]
  show u.mem = s.mem ∧ (u.core core).cstate = 2#2 ∧ (u.core core).logical = none ∧
    u.vacant = s.vacant ++ (s.core core).logical.toList ∧ true = true ∧ true = true
  rw [old]
  exact ⟨rfl, rfl, rfl, rfl, rfl, rfl⟩

end Swap

/-! ### The obligation -/

theorem channel_repairs (s : State) (chan : Nat) : let n := Tab.get s.rowsUsed chan 0
    let stack := chan / 256
    let used := Tab.get s.reserveUsed stack 0
    let copies (i : Instr) : Prop :=
      (used < 5 → ∃ t, exec i s = .next t ∧ SameBytes s t ∧ chan ∈ t.chanCopy ∧ Tab.get t.reserveUsed stack 0 = used + 1) ∧
      (5 ≤ used → ∃ t, exec i s = .next t ∧ SameBytes s t ∧ t.chanCopy = s.chanCopy ∧ Tab.get t.releaseAsked stack false = true)
    exec (.hbmCorrectableError chan false) s = .next { s with transients := (s.now, .row chan) :: s.transients } ∧
    (s.repairs ≠ [] ∨ repairHeld s (.row chan) = true →
      exec (.hbmCorrectableError chan true) s = .next { s with repairs := s.repairs ++ [.row chan] }) ∧
    (s.repairs ≠ [] ∨ repairHeld s (.channel chan) = true →
      exec (.pseudoChannelRetire chan) s = .next { s with repairs := s.repairs ++ [.channel chan] }) ∧
    (s.repairs = [] → repairHeld s (.channel chan) = false → copies (.pseudoChannelRetire chan)) ∧
    (s.repairs = [] → repairHeld s (.row chan) = false → (32 ≤ n → copies (.hbmCorrectableError chan true)) ∧
      (n < 32 → ∃ t, exec (.hbmCorrectableError chan true) s = .next t ∧ SameBytes s t ∧ t.repair = true ∧
        Tab.get t.rowsUsed chan 0 = n + 1 ∧ t.chanCopy = s.chanCopy)) ∧
    (chan ∉ s.chanCopy → exec (.channelCopyDone chan) s = .next s) ∧
    (chan ∈ s.chanCopy → bayLeased s (chan / 64) = true →
      exec (.channelCopyDone chan) s = .next { s with chanHeld := chan :: s.chanHeld.filter (· != chan) }) ∧
    (chan ∈ s.chanCopy → bayLeased s (chan / 64) = false → ∃ t, exec (.channelCopyDone chan) s = .next t ∧ SameBytes s t ∧ chan ∉ t.chanCopy ∧
      chan ∈ t.chanRetired ∧ Tab.get t.rowsUsed chan 0 = 0 ∧ t.repair = true) := by
  intro n stack used copies
  have row : exec (.hbmCorrectableError chan true) s = .next (detect s (.row chan)) := rfl
  have channel : exec (.pseudoChannelRetire chan) s = .next (detect s (.channel chan)) := rfl
  have done : exec (.channelCopyDone chan) s = execChannelCopyDone chan s := rfl
  have copied {i : Instr} (run : exec i s = .next (retireChannel s chan)) : copies i :=
    ⟨fun h => ⟨_, run, retireChannel_copies h⟩, fun h => ⟨_, run, retireChannel_asks h⟩⟩
  refine ⟨rfl, fun h => ?_, fun h => ?_, fun hr hh => copied ?_, fun hr hh => ⟨fun hn => copied ?_, fun hn => ?_⟩, fun h => ?_,
    fun h hl => ?_, fun h hl => ⟨_, ?_, replaceChannel_leaves s chan⟩⟩
  · rw [row, detect_waits h]
  · rw [channel, detect_waits h]
  · rw [channel, detect_now hr hh rfl]
  · rw [row, detect_now hr hh rfl, retireRow_full hn]
  · exact ⟨_, by rw [row, detect_now hr hh rfl], retireRow_remaps hn⟩
  · simp [done, execChannelCopyDone, h]
  · simp [done, execChannelCopyDone, h, hl]
  · simp [done, execChannelCopyDone, h, hl]

theorem wayRetire_waits (s : State) (slice way : Nat) :
    exec (.l2WayRetire slice way false) s = .next { s with transients := (s.now, .way slice way) :: s.transients } ∧
    (s.repairs ≠ [] ∨ repairWaits s slice = true →
      exec (.l2WayRetire slice way true) s = .next { s with repairs := s.repairs ++ [.way slice way] }) :=
  ⟨rfl, fun h => congrArg _ (detect_waits (by rwa [repairHeld_way]))⟩

theorem wayRetire_carriedOut (s : State) (slice way : Nat) (hr : s.repairs = []) (hw : repairWaits s slice = false) :
    (partOfBay s slice = none → ∃ t, exec (.l2WayRetire slice way true) s = .next t ∧ SameBytes s t ∧
      (slice, way) ∈ t.waysRetired ∧ t.repair = true) ∧
    (∀ p, partOfBay s slice = some p → (specSet s p slice).contains way = false → way < 24 → ∃ t,
      exec (.l2WayRetire slice way true) s = .next t ∧ SameBytes s t ∧ (slice, way) ∈ t.waysRetired ∧
      ∀ v ∈ boundVfs s p, ∀ j, j < 24 → (t.func v).ways.getLsbD j = ((s.func v).ways.getLsbD j && j != way)) := by
  have run : exec (.l2WayRetire slice way true) s = .next (retireWay s slice way) :=
    congrArg _ (detect_now hr (by rw [repairHeld_way, hw]) rfl)
  obtain ⟨mem, retired, repair, funcs⟩ := wayNoted_leaves s slice way
  refine ⟨fun hp => ?_, fun p hp hs _ => ?_⟩
  · rw [retireWay_unmapped way hp] at run
    exact ⟨_, run, sameBytes_of_mem mem, retired, repair⟩
  · rw [retireWay_private hp hs] at run
    obtain ⟨mem', retired'⟩ := clearWay_leaves (wayNoted s slice way) p way
    refine ⟨_, run, sameBytes_of_mem (mem'.trans mem), retired'.symm ▸ retired, fun v hv j hj => ?_⟩
    rw [clearWay_getLsbD _ p way (by rw [boundVfs, funcs]; exact hv) hj, State.func, funcs]
    rfl

theorem coreRetirement_cases (s : State) (core : Nat) :
    ((s.core core).failing = false ∨ .core core ∈ s.repairs → exec (.coreRetirement core) s = .next s) ∧
    ((s.core core).failing = true → .core core ∉ s.repairs → s.repairs ≠ [] ∨ repairWaits s (core / 13) = true →
      exec (.coreRetirement core) s = .next { s with repairs := s.repairs ++ [.core core] }) ∧
    ((s.core core).failing = true → s.repairs = [] → repairWaits s (core / 13) = false → coreMoving s core = false →
      crewsToMove s core = [] →
      (∀ c, spareOf s core = some c → c ≠ core → ∃ t, exec (.coreRetirement core) s = .next t ∧ SameBytes s t ∧
        (t.core core).cstate = 2#2 ∧ (t.core core).logical = none ∧ (t.core c).cstate = 0#2 ∧
        (t.core c).logical = (s.core core).logical ∧ t.repair = true) ∧
      (spareOf s core = none → ∃ t, exec (.coreRetirement core) s = .next t ∧ SameBytes s t ∧
        (t.core core).cstate = 2#2 ∧ (t.core core).logical = none ∧ t.vacant = s.vacant ++ (s.core core).logical.toList ∧
        t.repair = true ∧ t.reduced = true)) := by
  have run : exec (.coreRetirement core) s = execCoreRetirement core s := rfl
  refine ⟨fun h => ?_, fun hf hn h => ?_, fun hf hr hw hm hc => ?_⟩
  · rcases h with h | h <;> simp [run, execCoreRetirement, h]
  · simp [run, execCoreRetirement, hf, hn, detect_waits (r := .core core) (by rwa [repairHeld_core])]
  · obtain ⟨fs, ds, left⟩ := dropLeave_countRetire_eq s core
    have retire : exec (.coreRetirement core) s = .next (swapCore { s with funcs := fs, dies := ds } core (spareOf s core)) := by
      rw [← left, ← retireCore_idle hc]
      simp [run, execCoreRetirement, hf, hr, detect_now hr (by rw [repairHeld_core, hw]) (carryOut_core_idle hf hm hc)]
    refine ⟨fun c hs hne => ?_, fun hs => ?_⟩
    · obtain ⟨mem, rest⟩ := swapCore_spare { s with funcs := fs, dies := ds } core hne
      rw [hs] at retire
      exact ⟨_, retire, sameBytes_of_mem mem, rest⟩
    · obtain ⟨mem, rest⟩ := swapCore_vacant { s with funcs := fs, dies := ds } core
      rw [hs] at retire
      exact ⟨_, retire, sameBytes_of_mem mem, rest⟩

/-- Settles O47: each event of the device through the lemma about it. -/
theorem deviceEvents : Obligations.DeviceEvents := by
  unfold Obligations.DeviceEvents
  exact ⟨deviceReset_leaves, fun _ _ => rfl, linkCrcError_cases, portDown_cases,
    fun s core temp => ⟨fun h => if_pos (by simp [h]), sensorSample_takes temp⟩, droopEvent_counts, channel_repairs,
    wayRetire_waits, wayRetire_carriedOut, coreRetirement_cases⟩

end Sys2Proof.Machine
end

section
/-! PROOFS. Leave and flags (R26, R27, R29, R233): what a request, a grant and a release leave of a die, and what the end of an
operation leaves of its flag. -/

namespace Sys2Proof.Machine

open Sys2Proof

/-! ### Parts of the state -/

theorem crew_modCrew (s : State) (n : Nat) (g : Crew → Crew) : (s.modCrew n g).crew n = g (s.crew n) := crew_setCrew s n _

theorem core_modCore (s : State) (n : Nat) (g : Core → Core) : (s.modCore n g).core n = g (s.core n) := core_setCore s n _

theorem team_modTeam (s : State) (n : Nat) (g : Team → Team) : (s.modTeam n g).team n = g (s.team n) := team_setTeam s n _

/-! ### Flags -/

/-- The end of an operation lowers its flag's count by 1 and sets the flag at 0 (R233), in any state in which the team has the
flags that it had before. -/
theorem flagDown_flagDone {s u : State} {tm : Nat} (fl : Option Nat)
    (h : (u.team tm).flagCount = (s.team tm).flagCount) : FlagDown s (flagDone u tm fl) tm fl := by
  rintro n hn rfl
  show Tab.get ((u.modTeam tm _).team tm).flagCount n 0 = _ ∧ _
  rw [flagDone, team_modTeam, h]
  refine ⟨Tab.get_set_same _ _ _ _, fun hc => ?_⟩
  have last : (Tab.get (s.team tm).flagCount n 0 - 1 == 0) = true := by simp; omega
  have bit : (BitVec.ofNat 16 (2 ^ n)).getLsbD n = true := by
    rw [BitVec.getLsbD_ofNat, Nat.testBit_two_pow]
    simp [hn]
  simp only [last, if_true, BitVec.getLsbD_or, bit, Bool.or_true]

theorem flagDone_eq (s : State) (tm : Nat) (fl : Option Nat) : ∃ ts, flagDone s tm fl = { s with teams := ts } := by
  cases fl with
  | none => exact ⟨s.teams, rfl⟩
  | some k => exact ⟨_, rfl⟩

/-! ### Requests for leave (R26) -/

theorem sumCosts_eq (l : List Leave) : sumCosts l = (l.map Leave.cost).sum := by
  rw [List.sum_eq_foldl, List.foldl_map]
  rfl

/-- A request joins the queue somewhere: no other request goes, and none comes. -/
theorem enqueueLeave_perm (d : Die) (r : Leave) : (enqueueLeave d r).queue.Perm (r :: d.queue) :=
  List.perm_middle.trans ((List.filter_append_perm _ d.queue).cons r)

theorem asked_enqueueLeave (d : Die) (r : Leave) : (enqueueLeave d r).asked r.engine = d.asked r.engine + r.cost := by
  have queued : sumCosts ((enqueueLeave d r).queue.filter (fun x => x.engine == r.engine)) =
      r.cost + sumCosts (d.queue.filter (fun x => x.engine == r.engine)) := by
    rw [sumCosts_eq, sumCosts_eq, (((enqueueLeave_perm d r).filter _).map _).sum_eq]
    simp
  rw [Die.asked, queued, Die.asked]
  show d.holds r.engine + _ = _
  omega

/-- Once a command has asked, its engine holds or has asked for what it needs (R26). -/
theorem askLeave_asked (s : State) (core e cost : Nat) (op : Option Nat) (res : Bool) :
    cost ≤ ((askLeave s core e cost op res).die (dieOf core)).asked e := by
  unfold askLeave
  dsimp only
  split
  · assumption
  · rw [die_setDie]
    refine le_of_le_of_eq ?_ (asked_enqueueLeave _ _).symm
    dsimp only
    omega

theorem askLeave_eq (s : State) (core e cost : Nat) (op : Option Nat) (res : Bool) :
    ∃ ds, askLeave s core e cost op res = { s with dies := ds } := by
  unfold askLeave
  dsimp only
  split
  · exact ⟨s.dies, rfl⟩
  · exact ⟨_, rfl⟩

/-! ### Grants and releases (R26, R27, R29) -/

/-- What a die's granted list gains when a request is granted: a reservation renews those of its engine (R444). -/
def grantedNow (s : State) (d : Die) (r : Leave) (rest : List Leave) : Die :=
  let renew (x : Leave) : Leave :=
    if r.reservation && x.engine == r.engine && x.reservation then { x with at_ := s.now } else x
  { d with queue := rest, pointer := (r.core % 104 + 1) % 104
           granted := d.granted.map renew ++ [{ r with at_ := s.now, op := none }] }.note s.now

theorem grantedNow_total (s : State) (d : Die) (r : Leave) (rest : List Leave) :
    (grantedNow s d r rest).total = d.total + r.cost := by
  have cost (x : Leave) : (if r.reservation && x.engine == r.engine && x.reservation then { x with at_ := s.now } else x).cost =
      x.cost := by split <;> rfl
  show sumCosts (_ ++ [_]) = _
  rw [Die.total, sumCosts_eq, sumCosts_eq, List.map_append, List.sum_append, List.map_map]
  simp only [Function.comp_def, cost, List.map_singleton, List.sum_singleton]

/-- A grant changes its die, and of the rest only the request's operation and flag. -/
theorem leaveGrant_granted {s : State} {die : Nat} {r : Leave} {rest : List Leave} (hq : (s.die die).queue = r :: rest)
    (hf : leaveFits s die = true) :
    ∃ t, exec (.leaveGrant die) s = .next t ∧ t.die die = grantedNow s (s.die die) r rest := by
  let u := s.setDie die (grantedNow s (s.die die) r rest)
  have hu : u.die die = grantedNow s (s.die die) r rest := die_setDie s die _
  have run : exec (.leaveGrant die) s = match r.op with
      | none => .next u
      | some id =>
        match Tab.find u.ops id with
        | some (.lvreq t _ flag _) => .next (flagDone { u with ops := Tab.erase u.ops id } t (some flag))
        | _ => .next u := by
    show execLeaveGrant die s = _
    simp only [execLeaveGrant, hq, hf, Bool.not_true, Bool.false_eq_true, if_false]
    rfl
  rw [run]
  split
  · exact ⟨u, rfl, hu⟩
  · split
    · exact ⟨_, rfl, hu⟩
    · exact ⟨u, rfl, hu⟩

theorem leaveGrant_cases (s : State) (die : Nat) :
    (leaveFits s die = false → exec (.leaveGrant die) s = .next s) ∧
    (∀ r rest, (s.die die).queue = r :: rest → leaveFits s die = true → ∃ t, exec (.leaveGrant die) s = .next t ∧
      (t.die die).queue = rest ∧ (t.die die).total = (s.die die).total + r.cost ∧
      (t.die die).total ≤ 10 * (s.die die).ceil.toNat) := by
  refine ⟨fun h => ?_, fun r rest hq hf => ?_⟩
  · show execLeaveGrant die s = _
    unfold execLeaveGrant
    dsimp only
    split
    · rfl
    · simp [h]
  · obtain ⟨t, run, hd⟩ := leaveGrant_granted hq hf
    have ceiling : (s.die die).total + r.cost ≤ 10 * (s.die die).ceil.toNat := by
      simp only [leaveFits, hq, Bool.and_eq_true, decide_eq_true_eq] at hf
      exact hf.1.1
    refine ⟨t, run, by rw [hd]; rfl, ?_, ?_⟩
    · rw [hd, grantedNow_total]
    · rw [hd, grantedNow_total]
      exact ceiling

theorem leave_ends (s : State) (die e : Nat) :
    (leaveIdle s die e = true → engineBusy s e = false → ∃ t, exec (.leaveRelease die e) s = .next t ∧
      (∀ x ∈ (t.die die).granted, x.engine = e → x.reservation = true) ∧
      ∀ x, x.engine ≠ e → (x ∈ (t.die die).granted ↔ x ∈ (s.die die).granted)) ∧
    ((s.die die).granted.any (fun x => x.engine == e && x.lapsed s.now) = true → ∃ t, exec (.lvreqLapse die e) s = .next t ∧
      (∀ x ∈ (t.die die).granted, x.engine = e → x.lapsed s.now = false) ∧
      ∀ x, x.engine ≠ e → (x ∈ (t.die die).granted ↔ x ∈ (s.die die).granted)) := by
  refine ⟨fun hi hb => ⟨_, if_pos (by simp [hi, hb]), ?_⟩, fun h => ⟨_, if_pos h, ?_⟩⟩
  · rw [die_setDie]
    refine ⟨fun x hx he => ?_, fun x he => ?_⟩
    · simpa [he] using (List.mem_filter.1 hx).2
    · exact List.mem_filter.trans (and_iff_left (by simp [he]))
  · rw [die_setDie]
    refine ⟨fun x hx he => ?_, fun x he => ?_⟩
    · simpa [he] using (List.mem_filter.1 hx).2
    · exact List.mem_filter.trans (and_iff_left (by simp [he]))

end Sys2Proof.Machine
end

section
/-! PROOFS. The copy channel (R413, R414, R419, R420, R425): how its head starts, waits, moves a unit and ends. -/

namespace Sys2Proof.Machine

open Sys2Proof

/-! ### The start of a channel's head (R420, R426) -/

theorem leaveStarts_eq (s : State) (core e : Nat) : ∃ ds, leaveStarts s core e = { s with dies := ds } := ⟨_, rfl⟩

theorem chanOf_setChan (cr : Crew) (n : Nat) (ch : Channel) : (cr.setChan n ch).chanOf n = ch := Tab.get_set_same _ _ _ _

theorem crew_setHead (s : State) (crew n : Nat) (c : CopyCmd) : let ch := (s.crew crew).chanOf n
    (setHead s crew n c).crew crew = (s.crew crew).setChan n { ch with queue := c :: ch.queue.drop 1 } := crew_modCrew s crew _

/-- A head that starts takes its place in its ring, and stays the head (R420). -/
theorem copyBegin_starts (s : State) (crew n : Nat) (c : CopyCmd) : let t := copyBegin s crew n c
    t.mem = s.mem ∧
    (∃ c', ((t.crew crew).chanOf n).queue = c' :: ((s.crew crew).chanOf n).queue.drop 1 ∧ c'.started = true ∧ c'.id = c.id) ∧
    (c.rmode = 1 → ((t.crew crew).ring c.ring).reserved =
      ((s.crew crew).ring c.ring).reserved ++ [(c.id, copyLen s c / ((s.crew crew).ring c.ring).sz)]) := by
  intro t
  let noted (cr : Crew) : Crew := { (if c.rmode == 1 then
      cr.setRing c.ring ((cr.ring c.ring).reserve c.id (ringSlots (cr.ring c.ring) (copyLen s c))) else cr) with logging := true }
  obtain ⟨c', ht, started, id⟩ : ∃ c', t = setHead (s.modCrew crew noted) crew n c' ∧ c'.started = true ∧ c'.id = c.id :=
    ⟨_, rfl, rfl, rfl⟩
  have chans : (noted (s.crew crew)).chanOf n = (s.crew crew).chanOf n := by
    simp only [noted]
    split <;> rfl
  have head := crew_setHead (s.modCrew crew noted) crew n c'
  rw [crew_modCrew, chans] at head
  rw [ht, head]
  refine ⟨rfl, ⟨c', by rw [chanOf_setChan], started, id⟩, fun hm => ?_⟩
  show ((noted (s.crew crew)).ring c.ring).reserved = _
  simp only [noted, hm, beq_self_eq_true, if_true]
  exact congrArg Ring.reserved (Tab.get_set_same _ _ _ _)

section Head

variable {s : State} {crew chan : Nat} {q : CopyCmd} {rest : List CopyCmd}

theorem copyStart_asks (hq : ((s.crew crew).chanOf chan).queue = q :: rest) (hf : q.fault = none)
    (hr : crewRuns (s.crew crew) = true) (hs : q.started = false) (long : 16384 < copyLen s q)
    (hl : hasLeave s (s.crew crew).core (copyEngine crew chan) copyCost = false) :
    exec (.copyStart crew chan) s = .next (askLeave s (s.crew crew).core (copyEngine crew chan) copyCost none false) := by
  show execCopyStart crew chan s = _
  simp [execCopyStart, hq, hf, hr, hs, copyNeedsLeave, long, hl]

theorem copyStart_starts (hq : ((s.crew crew).chanOf chan).queue = q :: rest) (hf : q.fault = none)
    (hr : crewRuns (s.crew crew) = true) (hs : q.started = false)
    (hl : 16384 < copyLen s q → hasLeave s (s.crew crew).core (copyEngine crew chan) copyCost = true)
    (hm : copyMayStart s (s.crew crew) q = true) (hi : copyIrrevocable s q = false) :
    ∃ ds, exec (.copyStart crew chan) s = .next (copyBegin { s with dies := ds } crew chan q) := by
  have run : exec (.copyStart crew chan) s = execCopyStart crew chan s := rfl
  by_cases long : 16384 < copyLen s q
  · obtain ⟨ds, begun⟩ := leaveStarts_eq s (s.crew crew).core (copyEngine crew chan)
    exact ⟨ds, by simp [run, execCopyStart, hq, hf, hr, hs, copyNeedsLeave, long, hl long, hm, hi, begun]⟩
  · exact ⟨s.dies, by simp [run, execCopyStart, hq, hf, hr, hs, copyNeedsLeave, long, hm, hi]⟩

/-! ### The steps of a started head (R413, R414) -/

theorem noteErrors_nil (s : State) : noteErrors s [] = s := by
  show { s with eccBad := s.eccBad ++ [] } = s
  rw [List.append_nil]

theorem copyUnitLand_eq (hq : ((s.crew crew).chanOf chan).queue = q :: rest) (hf : q.fault = none)
    (hr : crewRuns (s.crew crew) = true) (hs : q.started = true) : exec (.copyUnitLand crew chan []) s = .next (
      if copyLanded s (s.crew crew).core q then copyFinish s crew (s.crew crew).core chan q
      else if !copyLeave s (s.crew crew).core crew chan q then
        askLeave s (s.crew crew).core (copyEngine crew chan) copyCost none false
      else if chanAhead s (s.crew crew).core crew chan || 256 < copyMoved s (s.crew crew).core + 64 then
        s.modCore (s.crew crew).core (fun co => { co with copyTurns := co.copyTurns ++ [(crew, chan)] })
      else landNext s crew chan q) := by
  show execCopyUnitLand crew chan [] s = _
  simp only [execCopyUnitLand, hq, noteErrors_nil, hs, hf, hr, Bool.not_true, Option.isSome_none, Bool.or_self, Bool.false_eq_true,
    if_false]
  split
  · rfl
  · split
    · rfl
    · split <;> rfl

theorem copyLeave_of_hasLeave {core : Nat} (h : 16384 < copyLen s q → hasLeave s core (copyEngine crew chan) copyCost = true) :
    copyLeave s core crew chan q = true := by
  by_cases long : 16384 < copyLen s q <;> simp [copyLeave, copyNeedsLeave, long, h]

theorem copyLeave_gone {core : Nat} (long : 16384 < copyLen s q) (h : hasLeave s core (copyEngine crew chan) copyCost = false) :
    copyLeave s core crew chan q = false := by simp [copyLeave, copyNeedsLeave, long, h]

end Head

/-! ### The end of a head (R419, R420) -/

theorem ringAdvance_leaves (s : State) (crew : Nat) (c : CopyCmd) : let t := ringAdvance s crew c
    t.mem = s.mem ∧ t.teams = s.teams ∧ (t.crew crew).chans = (s.crew crew).chans ∧ (t.crew crew).shm = (s.crew crew).shm := by
  intro t
  have crew' : t.crew crew = _ := crew_modCrew s crew _
  refine ⟨rfl, rfl, ?_⟩
  rw [crew']
  dsimp only
  split
  · exact ⟨rfl, rfl⟩
  · split <;> exact ⟨rfl, rfl⟩

theorem ownSees_eq (s : State) (c : CopyCmd) : ∃ as, ownSees s c = { s with accesses := as } := by
  unfold ownSees
  split
  · exact ⟨s.accesses, rfl⟩
  · exact ⟨_, rfl⟩

/-- A head without a follow-on leaves its channel when it ends, and its flag's count falls (R233, R419). -/
theorem copyFinish_ends {c : CopyCmd} (hf : c.follow = none) (s : State) (crew core n : Nat) :
    let ch := (s.crew crew).chanOf n
    let t := copyFinish s crew core n c
    t.mem = s.mem ∧ FlagDown s t c.team c.flag ∧ (t.crew crew).chanOf n = { ch with queue := ch.queue.drop 1 } ∧
      (t.crew crew).shm = (s.crew crew).shm := by
  intro ch t
  let u := if c.advanced then s else ownSees (ringAdvance s crew c) c
  obtain ⟨mem, teams, chans, shm⟩ : u.mem = s.mem ∧ u.teams = s.teams ∧ (u.crew crew).chans = (s.crew crew).chans ∧
      (u.crew crew).shm = (s.crew crew).shm := by
    simp only [u]
    split
    · exact ⟨rfl, rfl, rfl, rfl⟩
    · obtain ⟨as, h⟩ := ownSees_eq (ringAdvance s crew c) c
      rw [h]
      exact ringAdvance_leaves s crew c
  let v := u.modCrew crew (fun cr => cr.setChan n { cr.chanOf n with queue := (cr.chanOf n).queue.drop 1 })
  have ht : t = flagDone v c.team c.flag := by
    simp only [t, copyFinish, hf]
    rfl
  have crewV : v.crew crew = (u.crew crew).setChan n { ch with queue := ch.queue.drop 1 } := by
    have hch : (u.crew crew).chanOf n = ch := by
      rw [Crew.chanOf, chans]
      rfl
    rw [crew_modCrew, hch]
  obtain ⟨ts, hd⟩ := flagDone_eq v c.team c.flag
  refine ⟨?_, ?_, ?_⟩
  · rw [ht, hd]
    exact mem
  · rw [ht]
    refine flagDown_flagDone c.flag ?_
    show (Tab.get u.teams c.team {}).flagCount = _
    rw [teams]
    rfl
  · have crewT : t.crew crew = v.crew crew := by rw [ht, hd]; rfl
    rw [crewT, crewV]
    exact ⟨chanOf_setChan _ _ _, shm⟩

/-! ### A unit of a FILL (R414, R425) -/

/-- The low byte of each element, in the order of the stream. -/
theorem leBytes_packElems (vals : List Nat) : leBytes vals.length (packElems 8 vals) = vals.map (BitVec.ofNat 8) := by
  induction vals with
  | nil => rfl
  | cons v vals ih =>
    have low : BitVec.ofNat 8 (v % 2 ^ 8 + 2 ^ 8 * packElems 8 vals) = BitVec.ofNat 8 v :=
      BitVec.eq_of_toNat_eq (by simp only [BitVec.toNat_ofNat]; omega)
    have high : (v % 2 ^ 8 + 2 ^ 8 * packElems 8 vals) / 256 = packElems 8 vals := by omega
    rw [List.length_cons, leBytes, packElems, low, high, ih, List.map_cons]

/-- An engine's write puts its bytes where it says (R205). -/
theorem engineWrite_leaves (cr : Crew) (off : Nat) (bs : List Byte) :
    (engineWrite cr off bs).shm = Memory.write cr.shm off bs ∧ (engineWrite cr off bs).chans = cr.chans := by
  unfold engineWrite
  dsimp only
  split <;> exact ⟨rfl, rfl⟩

/-- The bytes of a range that have been laid at an address, and those that were there elsewhere. -/
def laidOver (cr : Crew) (a : Nat) (bs : List Byte) (x : Nat) : Byte :=
  if a ≤ x ∧ x < a + bs.length then bs.getD (x - a) 0#8 else cr.byte x

theorem read_write {m : Memory} (h : Memory.wf m) (a : Nat) (bs : List Byte) (x : Nat) : Memory.read (Memory.write m a bs) x =
    if a ≤ x ∧ x < a + bs.length then bs.getD (x - a) 0#8 else Memory.read m x := by
  split
  · rename_i hx
    obtain ⟨i, rfl⟩ := Nat.exists_eq_add_of_le hx.1
    rw [Memory.read_write_same h a bs i (by omega), Nat.add_sub_cancel_left]
  · exact Memory.read_write_ne h (by omega)

theorem laidOver_nil (cr : Crew) (a x : Nat) : laidOver cr a [] x = cr.byte x := if_neg (by simp)

theorem laidOver_take_succ (cr : Crew) (a : Nat) {bs : List Byte} {n : Nat} (hn : n < bs.length) (x : Nat) :
    laidOver cr a (bs.take (n + 1)) x = if x = a + n then bs.getD n 0#8 else laidOver cr a (bs.take n) x := by
  have len : (bs.take (n + 1)).length = n + 1 := by simp; omega
  have len' : (bs.take n).length = n := by simp; omega
  rw [laidOver, laidOver, len, len']
  by_cases hx : x = a + n
  · simp [hx]
  · rw [if_neg hx]
    by_cases range : a ≤ x ∧ x < a + n
    · have low : x - a < n := by omega
      rw [if_pos (by omega), if_pos range]
      simp [low, Nat.lt_succ_of_lt low]
    · rw [if_neg (by omega), if_neg range]

section Stream

variable {cr : Crew} {c : CopyCmd}

theorem copyDstAt_dense (hm : c.rmode = 0) (hd : c.dir = 0) (cr : Crew) (b : Nat) : copyDstAt cr c b = c.soff + b := by
  simp [copyDstAt, hm, hd]

/-- A stream that is laid densely into shared memory stands there byte by byte, and changes nothing else of the crew's bytes
and channels (R414, R420). -/
theorem writeStream_lays (hr : c.byRows = false) (hm : c.rmode = 0) (hd : c.dir = 0) (h : Memory.wf cr.shm) (b0 : Nat) (bs : List Byte) :
    let m := writeStream cr c b0 bs
    m.2 = c ∧ m.1.chans = cr.chans ∧ ∀ x, m.1.byte x = laidOver cr (c.soff + b0) bs x := by
  suffices upTo : ∀ n, n ≤ bs.length → let m := (List.range n).foldl (fun q i =>
      let a := copyDstAt cr c (b0 + i)
      let c' : CopyCmd := if c.byRows then { q.2 with wrote := Tab.set q.2.wrote a q.1.wlog.length } else q.2
      (engineWrite q.1 a [bs.getD i 0#8], c')) (cr, c)
      m.2 = c ∧ m.1.chans = cr.chans ∧ Memory.wf m.1.shm ∧ ∀ x, m.1.byte x = laidOver cr (c.soff + b0) (bs.take n) x by
    obtain ⟨same, chans, -, bytes⟩ := upTo bs.length le_rfl
    rw [List.take_length] at bytes
    exact ⟨same, chans, bytes⟩
  intro n hn
  induction n with
  | zero => exact ⟨rfl, rfl, h, fun x => (laidOver_nil cr _ x).symm⟩
  | succ n ih =>
    obtain ⟨same, chans, wf, bytes⟩ := ih (by omega)
    rw [List.range_succ, List.foldl_append]
    simp only [List.foldl_cons, List.foldl_nil, hr, Bool.false_eq_true, if_false, copyDstAt_dense hm hd] at same chans wf bytes ⊢
    obtain ⟨shm, chans'⟩ := engineWrite_leaves ((List.range n).foldl (fun q i =>
      (engineWrite q.1 (c.soff + (b0 + i)) [bs.getD i 0#8], q.2)) (cr, c)).1 (c.soff + (b0 + n)) [bs.getD n 0#8]
    refine ⟨same, chans'.trans chans, ?_, fun x => ?_⟩
    · rw [shm]
      exact Memory.write_wf _ _ wf
    · rw [Crew.byte, shm, read_write wf, laidOver_take_succ cr _ hn, ← bytes, List.length_singleton, ← Nat.add_assoc]
      by_cases hx : x = c.soff + b0 + n
      · simp [hx]
      · rw [if_neg hx, if_neg (by omega)]
        rfl

end Stream

theorem noteUnit_eq (s : State) (core crew chan n : Nat) : ∃ cs, noteUnit s core crew chan n = { s with cores := cs } := by
  unfold noteUnit
  dsimp only
  split
  · exact ⟨s.cores, rfl⟩
  · exact ⟨_, rfl⟩

/-- A FILL of shared memory that is not atomic and goes through no ring (R425). -/
structure DenseFill (q : CopyCmd) : Prop where
  kind : q.kind = 4
  dir : q.dir = 0
  rmode : q.rmode = 0
  atom : q.atom = false

/-- The bytes of a unit of n bytes, from the first that has not landed: the pattern goes round every 4 bytes of the stream
(R425). -/
def fillBytes (q : CopyCmd) (n : Nat) : List Byte :=
  (List.range n).map (fun i => BitVec.ofNat 8 (fld q.auxw (8 * ((q.done + i) % 4)) 8))

section Fill

variable {q : CopyCmd}

theorem DenseFill.dstGlobal (h : DenseFill q) : q.dstGlobal = false := by simp [CopyCmd.dstGlobal, h.dir]

theorem DenseFill.isFill (h : DenseFill q) : q.isFill = true := by simp [CopyCmd.isFill, h.kind]

theorem DenseFill.srcGlobal (h : DenseFill q) : q.srcGlobal = false := by simp [CopyCmd.srcGlobal, h.isFill]

theorem DenseFill.byRows (h : DenseFill q) : q.byRows = false := by simp [CopyCmd.byRows, h.kind]

theorem DenseFill.copyBits_eq (h : DenseFill q) (s : State) : copyBits s q = 8 := by
  simp [copyBits, CopyCmd.boxTid, h.dstGlobal, h.srcGlobal]

theorem DenseFill.copyLen_eq (h : DenseFill q) (s : State) : copyLen s q = q.count := by
  simp [copyLen, h.copyBits_eq]

theorem DenseFill.atomTiles_eq (h : DenseFill q) (s : State) (core : Nat) : atomTiles s core q = [] := by
  simp [atomTiles, h.atom]

theorem DenseFill.copyLanded_eq (h : DenseFill q) (s : State) (core : Nat) : copyLanded s core q = decide (q.count ≤ q.done) := by
  simp [copyLanded, h.copyLen_eq, h.atomTiles_eq]

theorem unitElems_bytes (q : CopyCmd) (len : Nat) : unitElems q len 8 = (List.range (min 64 (len - q.done))).map (q.done + ·) := by
  simp [unitElems]

theorem DenseFill.sharedElem_eq (h : DenseFill q) (cr : Crew) (fr e : Nat) :
    sharedElem cr q fr 8 e = fld q.auxw (8 * (e % 4)) 8 := by
  simp [sharedElem, h.isFill, h.dstGlobal, leNat, fld]

/-- A unit that has elements is laid into shared memory at once: it needs no walk and waits for nothing (R425). -/
theorem DenseFill.landElems_eq (h : DenseFill q) (hb : q.buf = none) {s : State} {crew : Nat} (wf : Memory.wf (s.crew crew).shm)
    (core : Nat) {n : Nat} (hn : 0 < n) : landElems s crew core q 8 ((List.range n).map (q.done + ·)) =
      .ok (s.setCrew crew (writeStream (s.crew crew) q q.done (fillBytes q n)).1) q := by
  obtain ⟨same, -, -⟩ := writeStream_lays h.byRows h.rmode h.dir wf q.done (fillBytes q n)
  have rows : readRows (s.crew crew) q s.free ((List.range n).map (q.done + ·)) = q := by simp [readRows, h.byRows]
  have misses : unitMisses s core q ((List.range n).map (q.done + ·)) = none := by
    simp [unitMisses, h.srcGlobal, h.dstGlobal]
  have first : ((List.range n).map (q.done + ·)).headD 0 = q.done := by
    cases n with
    | zero => simp at hn
    | succ n => simp [List.range_succ_eq_map]
  let vals := (List.range n).map (fun i => fld q.auxw (8 * ((q.done + i) % 4)) 8)
  have bytes : leBytes n (packElems 8 vals) = fillBytes q n := by
    have := leBytes_packElems vals
    simpa [vals, fillBytes, Function.comp_def] using this
  have narrow (e : Nat) : fld q.auxw (8 * (e % 4)) 8 % 2 ^ 64 = fld q.auxw (8 * (e % 4)) 8 :=
    Nat.mod_eq_of_lt ((Nat.mod_lt _ (by decide)).trans (by decide))
  have source : readSource s crew core q 8 ((List.range n).map (q.done + ·)) = .ok (.done s
      (((List.range n).map (q.done + ·)).map (fun e =>
        { lane := 0, idx := e, val := BitVec.ofNat 64 (fld q.auxw (8 * (e % 4)) 8) }))) := by
    simp [readSource, hb, h.srcGlobal, h.sharedElem_eq]
  have read : (((List.range n).map (q.done + ·)).map (fun e =>
      ({ lane := 0, idx := e, val := BitVec.ofNat 64 (fld q.auxw (8 * (e % 4)) 8) } : MUnit))).map (fun u => u.val.toNat) = vals := by
    simp only [List.map_map, Function.comp_def, BitVec.toNat_ofNat, narrow, vals]
  simp only [landElems, rows, misses, unitMoves, h.dir, source, read, h.dstGlobal, first, List.length_map, List.length_range,
    Nat.mul_div_cancel _ (by decide : 0 < 8), bytes, same]
  rfl

/-- CWP of a channel counts n bytes more (R414). -/
def countUnit (chan n : Nat) (cr : Crew) : Crew :=
  cr.setChan chan { cr.chanOf chan with cwp := (cr.chanOf chan).cwp + BitVec.ofNat 64 n }

/-- One unit of 64 bytes, or what is left of the stream, lands and CWP counts it (R414). -/
theorem DenseFill.copyAdvance_eq (h : DenseFill q) (hb : q.buf = none) (hw : q.wants = []) (hd : q.done < q.count) {s : State}
    {crew : Nat} (wf : Memory.wf (s.crew crew).shm) (core : Nat) : let n := min 64 (q.count - q.done)
    copyAdvance s crew core q =
      .ok ((s.setCrew crew (writeStream (s.crew crew) q q.done (fillBytes q n)).1).modCrew crew (countUnit (q.d 0 0 4) n)).bump
        { q with done := q.done + n, words := [] } := by
  intro n
  have land := h.landElems_eq hb wf core (n := n) (by omega)
  simp only [copyAdvance, h.atomTiles_eq, h.copyLen_eq, h.copyBits_eq, hw, h.atom, List.isEmpty_nil, Bool.not_true, Bool.false_and,
    Bool.false_eq_true, if_false, List.length_nil, Nat.not_lt_zero, hd, if_true, landUnit, h.byRows, unitElems_bytes, land, n]
  rfl

/-- What the last step of a unit leaves: its head stays, or leaves its channel when the unit was the last (R414, R419). -/
theorem copyFinish_or_stay {c : CopyCmd} (hf : c.follow = none) (landed : Bool) (s : State) (crew core n : Nat) :
    let t := if landed then copyFinish s crew core n c else s
    t.mem = s.mem ∧ ((t.crew crew).chanOf n).cwp = ((s.crew crew).chanOf n).cwp ∧ (t.crew crew).shm = (s.crew crew).shm := by
  cases landed with
  | false => exact ⟨rfl, rfl, rfl⟩
  | true =>
    obtain ⟨mem, -, chan, shm⟩ := copyFinish_ends hf s crew core n
    refine ⟨mem, ?_, shm⟩
    rw [if_pos rfl, chan]

/-- A unit that has landed puts its command at the head of the channel (R414). -/
theorem landNext_ok {s s' : State} {crew chan : Nat} {q' : CopyCmd}
    (h : copyAdvance s crew (s.crew crew).core q = .ok s' q') (hf : q'.follow = none) : let t := landNext s crew chan q
    t.mem = s'.mem ∧ ((t.crew crew).chanOf chan).cwp = ((s'.crew crew).chanOf chan).cwp ∧ (t.crew crew).shm = (s'.crew crew).shm := by
  intro t
  obtain ⟨cs, noted⟩ := noteUnit_eq (setHead (clearFull s' q.id) crew chan q') (s.crew crew).core crew chan (q'.done - q.done)
  obtain ⟨v, hv⟩ : ∃ v : State, v = { setHead (clearFull s' q.id) crew chan q' with cores := cs } := ⟨_, rfl⟩
  have ht : t = if copyLanded v (s.crew crew).core q' then copyFinish v crew (s.crew crew).core chan q' else v := by
    rw [hv, ← noted]
    simp only [t, landNext, h]
  have crewV : v.crew crew = (s'.crew crew).setChan chan
      { (s'.crew crew).chanOf chan with queue := q' :: ((s'.crew crew).chanOf chan).queue.drop 1 } := by
    rw [hv]
    exact crew_setHead (clearFull s' q.id) crew chan q'
  have memV : v.mem = s'.mem := by
    rw [hv]
    rfl
  obtain ⟨mem, cwp, shm⟩ := copyFinish_or_stay hf (copyLanded v (s.crew crew).core q') v crew (s.crew crew).core chan
  rw [ht, mem, cwp, shm, crewV, chanOf_setChan]
  exact ⟨memV, rfl, rfl⟩

theorem countUnit_leaves (chan n : Nat) (cr : Crew) :
    ((countUnit chan n cr).chanOf chan).cwp = (cr.chanOf chan).cwp + BitVec.ofNat 64 n ∧ (countUnit chan n cr).shm = cr.shm := by
  rw [countUnit, chanOf_setChan]
  exact ⟨rfl, rfl⟩

/-- The head of a channel lands its unit (R414, R425). -/
theorem DenseFill.landNext_lays (h : DenseFill q) {s : State} {crew chan : Nat} (hb : q.buf = none) (hw : q.wants = [])
    (hf : q.follow = none) (hc : q.d 0 0 4 = chan) (hd : q.done < q.count) (wf : Memory.wf (s.crew crew).shm) :
    let n := min 64 (q.count - q.done)
    let t := landNext s crew chan q
    t.mem = s.mem ∧ ((t.crew crew).chanOf chan).cwp = ((s.crew crew).chanOf chan).cwp + BitVec.ofNat 64 n ∧
      ∀ x, (t.crew crew).byte x = laidOver (s.crew crew) (q.soff + q.done) (fillBytes q n) x := by
  intro n t
  obtain ⟨-, chans, bytes⟩ := writeStream_lays h.byRows h.rmode h.dir wf q.done (fillBytes q n)
  obtain ⟨m, hm⟩ : ∃ m, m = (writeStream (s.crew crew) q q.done (fillBytes q n)).1 := ⟨_, rfl⟩
  have advance := h.copyAdvance_eq hb hw hd wf (s.crew crew).core
  rw [hc] at advance
  rw [← hm] at chans bytes
  obtain ⟨mem, cwp, shm⟩ := landNext_ok (chan := chan) advance hf
  have moved : (((s.setCrew crew m).modCrew crew (countUnit chan n)).bump).crew crew = countUnit chan n m :=
    (crew_modCrew (s.setCrew crew m) crew _).trans (congrArg _ (crew_setCrew s crew m))
  obtain ⟨cwpM, shmM⟩ := countUnit_leaves chan n m
  have old : m.chanOf chan = (s.crew crew).chanOf chan := by
    rw [Crew.chanOf, chans]
    rfl
  rw [← hm, moved] at cwp shm
  refine ⟨mem, by rw [cwp, cwpM, old], fun x => ?_⟩
  rw [Crew.byte, shm, shmM]
  exact bytes x

end Fill

/-- What the copy channels take: starts, waits, units and ends (R26, R413, R414, R419, R420, R425). -/
theorem copyChannel_steps (s : State) (crew chan : Nat) (q : CopyCmd) (rest : List CopyCmd)
    (hq : ((s.crew crew).chanOf chan).queue = q :: rest) (hf : q.fault = none) (hr : crewRuns (s.crew crew) = true) :
    let e := copyEngine crew chan
    let core := (s.crew crew).core
    let long := 16384 < copyLen s q
    (q.started = false → long → hasLeave s core e copyCost = false → ∃ t, exec (.copyStart crew chan) s = .next t ∧
      copyCost ≤ (t.die (dieOf core)).asked e ∧ t.crews = s.crews) ∧
    (q.started = false → (long → hasLeave s core e copyCost = true) → copyMayStart s (s.crew crew) q = true →
      copyIrrevocable s q = false → ∃ t q', exec (.copyStart crew chan) s = .next t ∧ SameBytes s t ∧
        ((t.crew crew).chanOf chan).queue = q' :: rest ∧ q'.started = true ∧ q'.id = q.id ∧
        (q.rmode = 1 → ((t.crew crew).ring q.ring).reserved =
          ((s.crew crew).ring q.ring).reserved ++ [(q.id, copyLen s q / ((s.crew crew).ring q.ring).sz)])) ∧
    (q.started = true → copyLanded s core q = true → q.follow = none →
      ∃ t, exec (.copyUnitLand crew chan []) s = .next t ∧ SameBytes s t ∧ ((t.crew crew).chanOf chan).queue = rest ∧
        FlagDown s t q.team q.flag) ∧
    (q.started = true → copyLanded s core q = false → long → hasLeave s core e copyCost = false →
      ∃ t, exec (.copyUnitLand crew chan []) s = .next t ∧ copyCost ≤ (t.die (dieOf core)).asked e ∧ t.crews = s.crews) ∧
    (q.started = true → copyLanded s core q = false → (long → hasLeave s core e copyCost = true) → (chanAhead s core crew chan = true ∨ 256 < copyMoved s core + 64) →
      ∃ t, exec (.copyUnitLand crew chan []) s = .next t ∧ SameBytes s t ∧ t.crews = s.crews ∧
        (crew, chan) ∈ (t.core core).copyTurns) ∧
    (q.started = true → q.kind = 4 → q.dir = 0 → q.rmode = 0 → q.buf = none → q.follow = none → q.atom = false →
      q.d 0 0 4 = chan → q.done < q.count → q.wants = [] → (long → hasLeave s core e copyCost = true) → chanAhead s core crew chan = false → copyMoved s core + 64 ≤ 256 →
      Memory.wf (s.crew crew).shm →
      let n := min 64 (q.count - q.done)
      ∃ t, exec (.copyUnitLand crew chan []) s = .next t ∧ SameBytes s t ∧
        ((t.crew crew).chanOf chan).cwp = ((s.crew crew).chanOf chan).cwp + BitVec.ofNat 64 n ∧
        ∀ x, (t.crew crew).byte x = if q.soff + q.done ≤ x ∧ x < q.soff + q.done + n
          then BitVec.ofNat 8 (fld q.auxw (8 * ((x - q.soff) % 4)) 8) else (s.crew crew).byte x) := by
  intro e core long
  have leave (hl : long → hasLeave s core e copyCost = true) : copyLeave s (s.crew crew).core crew chan q = true :=
    copyLeave_of_hasLeave hl
  refine ⟨fun hs hl he => ?ask, fun hs hl hm hi => ?start, fun hs hd hn => ?ends, fun hs hd hl he => ?askAgain,
    fun hs hd hl hw => ?turn, fun hs hk hdir hm hb hn ha hc hd hw hl hch hmv wf => ?fill⟩
  case ask =>
    obtain ⟨ds, h⟩ := askLeave_eq s core e copyCost none false
    exact ⟨_, copyStart_asks hq hf hr hs hl he, askLeave_asked .., by rw [h]⟩
  case start =>
    obtain ⟨ds, run⟩ := copyStart_starts hq hf hr hs hl hm hi
    obtain ⟨mem, ⟨q', queue, started, id⟩, ring⟩ := copyBegin_starts { s with dies := ds } crew chan q
    refine ⟨_, q', run, sameBytes_of_mem mem, queue.trans ?_, started, id, ring⟩
    show q' :: ((s.crew crew).chanOf chan).queue.drop 1 = _
    rw [hq]
    rfl
  case ends =>
    have run := copyUnitLand_eq hq hf hr hs
    rw [if_pos hd] at run
    obtain ⟨mem, flag, ch, -⟩ := copyFinish_ends hn s crew core chan
    refine ⟨_, run, sameBytes_of_mem mem, ?_, flag⟩
    rw [ch, hq]
    rfl
  case askAgain =>
    have run := copyUnitLand_eq hq hf hr hs
    have gone : copyLeave s (s.crew crew).core crew chan q = false := copyLeave_gone hl he
    rw [if_neg (by simp [hd, core]), if_pos (by simp [gone])] at run
    obtain ⟨ds, h⟩ := askLeave_eq s core e copyCost none false
    exact ⟨_, run, askLeave_asked .., by rw [h]⟩
  case turn =>
    have run := copyUnitLand_eq hq hf hr hs
    rw [if_neg (by simp [hd, core]), if_neg (by simp [leave hl]), if_pos (by simpa using hw)] at run
    refine ⟨_, run, fun _ => rfl, rfl, ?_⟩
    rw [core_modCore]
    exact List.mem_append_right _ (List.mem_singleton.2 rfl)
  case fill =>
    have dense : DenseFill q := ⟨hk, hdir, hm, ha⟩
    have run := copyUnitLand_eq hq hf hr hs
    rw [if_neg (by simp [dense.copyLanded_eq, hd]), if_neg (by simp [leave hl]),
      if_neg (by simp [hch, core, Nat.not_lt.2 hmv])] at run
    obtain ⟨mem, cwp, bytes⟩ := dense.landNext_lays hb hw hn hc hd wf
    refine ⟨_, run, sameBytes_of_mem mem, cwp, fun x => ?_⟩
    rw [bytes x, laidOver, fillBytes, List.length_map, List.length_range]
    split
    · rename_i hx
      have place : q.done + (x - (q.soff + q.done)) = x - q.soff := by omega
      have below : x - (q.soff + q.done) < min 64 (q.count - q.done) := by omega
      simp [below, place]
    · rfl

end Sys2Proof.Machine
end

section
/-! PROOFS. The matrix engine (R427, R428, R432-R435): the start of a step, its consumer advances, its rows, and ACCOUT's
bytes. -/

namespace Sys2Proof.Machine

open Sys2Proof

/-! ### The commands of a core -/

theorem mem_setMx {s : State} {core : Nat} {q q' : MxCmd} (h : q ∈ (s.core core).matrix) (id : q'.id = q.id) :
    q' ∈ ((setMx s core q').core core).matrix := by
  rw [setMx, core_modCore]
  exact List.mem_map.2 ⟨q, h, if_pos (by simp [id])⟩

theorem notMem_dropMx (s : State) (core id : Nat) : ∀ m ∈ ((dropMx s core id).core core).matrix, m.id ≠ id := by
  intro m hm
  rw [dropMx, core_modCore] at hm
  simpa using (List.mem_filter.1 hm).2

/-- The due command is one of its core's, and what it is due for is not done (R428). -/
theorem mxDue_found {s : State} {core n : Nat} {done : MxCmd → Bool} {q : MxCmd} (h : mxDue s core n done = some q) :
    q ∈ (s.core core).matrix ∧ done q = false := by
  have found := List.find?_some h
  rw [Bool.and_eq_true, Bool.not_eq_true'] at found
  exact ⟨List.mem_of_find?_eq_some h, found.1⟩

/-! ### The start of a step (R427, R428, R432) -/

theorem mxReadOperands_id {s : State} {core : Nat} {q q' : MxCmd} (h : mxReadOperands s core q = .ok q') : q'.id = q.id := by
  unfold mxReadOperands at h
  split at h
  · cases h
    rfl
  · dsimp only at h
    split at h
    · cases h
      rfl
    all_goals cases h

theorem mxBegin_id {s s' : State} {core : Nat} {q q' : MxCmd} (h : mxBegin s core q = .ok s' q') : q'.id = q.id := by
  unfold mxBegin at h
  dsimp only at h
  split at h
  · cases h
  · cases h
  · rename_i c _ read
    have id := mxReadOperands_id read
    split at h
    · cases h
    · split at h
      · cases h
      · cases h
      · split at h
        all_goals
          cases h
          exact id

/-- A command that needs leave has it (R26). -/
theorem mxLeave_held {s : State} {core : Nat} {q : MxCmd}
    (h : q.isMma = true → hasLeave s core (mxEngine core) (mxCost q.fmtA.width) = true) :
    (q.isMma && !hasLeave s core (mxEngine core) (mxCost q.fmtA.width)) = false := by
  cases hq : q.isMma with
  | false => rfl
  | true => simp [h hq]

/-- A command that begins takes its place in the matrix queue as read, and the core notes the cycle (R428). -/
theorem matrixStart_begins {s s1 : State} {core : Nat} {q q1 : MxCmd} (next : mxNext s core = some q)
    (leave : q.isMma = true → hasLeave s core (mxEngine core) (mxCost q.fmtA.width) = true) (may : mxMayStart s core q = true)
    (begun : mxBegin s core q = .ok s1 q1) (queued : q ∈ (s1.core core).matrix) :
    ∃ t, exec (.matrixStepStart core) s = .next t ∧ (t.core core).lastStart = some s1.now ∧ q1 ∈ (t.core core).matrix := by
  obtain ⟨u, hu, ⟨ds, dies⟩⟩ : ∃ u, u = (if q1.isMma then leaveStarts s1 core (mxEngine core) else s1) ∧
      ∃ ds, u = { s1 with dies := ds } := by
    refine ⟨_, rfl, ?_⟩
    split
    · exact leaveStarts_eq s1 core _
    · exact ⟨s1.dies, rfl⟩
  have run : exec (.matrixStepStart core) s = .next ((setMx (clearFull u q1.id) core q1).modCore core
      (fun co => { co with lastStart := some (setMx (clearFull u q1.id) core q1).now })) := by
    show execMatrixStepStart core s = _
    simp only [execMatrixStepStart, next, mxLeave_held leave, may, begun, Bool.not_true, Bool.false_eq_true, if_false, hu]
  have there : q1 ∈ ((setMx (clearFull u q1.id) core q1).core core).matrix := by
    refine mem_setMx ?_ (mxBegin_id begun)
    rw [dies]
    exact queued
  refine ⟨_, run, ?_, ?_⟩
  · rw [core_modCore, dies]
    rfl
  · rw [core_modCore]
    exact there

theorem matrixStart_cases (s : State) (core : Nat) (q : MxCmd) (next : mxNext s core = some q) :
    (q.isMma = true → hasLeave s core (mxEngine core) (mxCost q.fmtA.width) = false →
      ∃ t, exec (.matrixStepStart core) s = .next t ∧
        mxCost q.fmtA.width ≤ (t.die (dieOf core)).asked (mxEngine core)) ∧
    (∀ s1 q1, (q.isMma = true → hasLeave s core (mxEngine core) (mxCost q.fmtA.width) = true) →
      mxMayStart s core q = true → mxBegin s core q = .ok s1 q1 → q ∈ (s1.core core).matrix →
      ∃ t, exec (.matrixStepStart core) s = .next t ∧ (t.core core).lastStart = some s1.now ∧ q1 ∈ (t.core core).matrix) ∧
    ((q.isMma = true → hasLeave s core (mxEngine core) (mxCost q.fmtA.width) = true) →
      mxMayStart s core q = false → exec (.matrixStepStart core) s = .next s) := by
  have run : exec (.matrixStepStart core) s = execMatrixStepStart core s := rfl
  refine ⟨fun mma gone => ⟨_, ?_, askLeave_asked s core _ _ none false⟩,
    fun s1 q1 leave may begun queued => matrixStart_begins next leave may begun queued, fun leave may => ?_⟩
  · simp only [run, execMatrixStepStart, next, mma, gone, Bool.not_false, Bool.and_self, if_true]
  · simp only [run, execMatrixStepStart, next, mxLeave_held leave, may, Bool.not_false, Bool.false_eq_true, if_false, if_true]

/-! ### The consumer advances (R428, R430) -/

theorem ring_setRing (cr : Crew) (g h : Nat) (r : Ring) : (cr.setRing g r).ring h = if g = h then r else cr.ring h := by
  split
  · next same =>
    subst same
    exact Tab.get_set_same _ _ _ _
  · next other => exact Tab.get_set_ne _ _ _ _ _ (Ne.symm other)

/-- A ring's consumer count is one more when the advance is made and names it. -/
def advanced (on : Bool) (g h : Nat) : Nat := if on && g == h then 1 else 0

/-- One consumer advance of a matrix command. -/
def consumeIf (cr : Crew) (on : Bool) (g : Nat) : Crew := if on then cr.setRing g ((cr.ring g).consume 1) else cr

theorem consumer_consumeIf (cr : Crew) (on : Bool) (g h : Nat) :
    ((consumeIf cr on g).ring h).consumer = (cr.ring h).consumer + BitVec.ofNat 32 (advanced on g h) := by
  cases on with
  | false => simp [consumeIf, advanced]
  | true =>
    by_cases same : g = h
    · subst same
      simp [consumeIf, advanced, ring_setRing, Ring.consume]
    · simp [consumeIf, advanced, ring_setRing, same]

/-- The advances of an MMA or MMAS, in the order in which they are made. -/
def mxAdvances (q : MxCmd) (cr : Crew) : Crew :=
  consumeIf (consumeIf (consumeIf (consumeIf cr (q.e 0 11 1 == 1) q.x.ha.toNat) (q.e 0 12 1 == 1) q.x.hb.toNat)
    (q.scaled && q.e 0 37 1 == 1) (q.e 0 29 4)) (q.scaled && q.e 0 38 1 == 1) (q.e 0 33 4)

theorem mxConsume_eq (s : State) {q : MxCmd} (h : q.consDone = false) :
    mxConsume s q = if q.isMma then s.modCrew q.crew (mxAdvances q) else s := by
  cases hq : q.isMma with
  | false => simp [mxConsume, hq]
  | true =>
    simp only [mxConsume, hq, h, Bool.not_true, Bool.or_self, Bool.false_eq_true, if_false, if_true]
    rfl

theorem matrixOperands_done (s : State) (core : Nat) (q : MxCmd) (due : mxDue s core 8 MxCmd.consDone = some q) :
    ∃ t, exec (.matrixOperandsDone core) s = .next t ∧ SameBytes s t ∧
      ∀ h, let one (on : Bool) (g : Nat) : Nat := if on && g == h then 1 else 0
        ((t.crew q.crew).ring h).consumer = ((s.crew q.crew).ring h).consumer + BitVec.ofNat 32 (if q.isMma then
          one (q.e 0 11 1 == 1) q.x.ha.toNat + one (q.e 0 12 1 == 1) q.x.hb.toNat +
          one (q.scaled && q.e 0 37 1 == 1) (q.e 0 29 4) + one (q.scaled && q.e 0 38 1 == 1) (q.e 0 33 4) else 0) := by
  obtain ⟨-, undone⟩ := mxDue_found due
  have run : exec (.matrixOperandsDone core) s = .next (setMx (mxConsume s q) core { q with consDone := true, pins := [] }) := by
    show execMatrixOperandsDone core s = _
    simp only [execMatrixOperandsDone, due]
  have consumed := mxConsume_eq s undone
  refine ⟨_, run, sameBytes_of_mem ?_, fun h => ?_⟩
  · show (mxConsume s q).mem = s.mem
    rw [consumed]
    split <;> rfl
  · show (((mxConsume s q).crew q.crew).ring h).consumer = _
    rw [consumed]
    cases q.isMma with
    | false => simp
    | true =>
      simp only [if_true, crew_modCrew, mxAdvances, consumer_consumeIf, BitVec.ofNat_add, BitVec.add_assoc]
      rfl

/-! ### The rows (R428, R433-R435) -/

/-- The last value that a list of writes gives an entry stands there: here all its writes of the entry agree. -/
theorem Tab.get_setAll_of_mem {α : Type} {l : List (Nat × α)} {k : Nat} {v : α} (h : (k, v) ∈ l) (same : ∀ w, (k, w) ∈ l → w = v)
    (t : Tab α) (d : α) : Tab.get (Tab.setAll t l) k d = v := by
  induction l using List.reverseRecOn with
  | nil => simp at h
  | append_singleton l e ih =>
    rw [Tab.setAll, List.foldl_append]
    obtain ⟨n, w⟩ := e
    by_cases hn : n = k
    · subst hn
      exact (Tab.get_set_same _ _ _ _).trans (same w (by simp))
    · refine (Tab.get_set_ne _ _ _ _ _ (Ne.symm hn)).trans (ih ?_ fun w hw => same w (by simp [hw]))
      simpa [Ne.symm hn] using h

theorem Tab.get_setAll_of_notMem {α : Type} {l : List (Nat × α)} {k : Nat} (h : ∀ e ∈ l, e.1 ≠ k) (t : Tab α) (d : α) :
    Tab.get (Tab.setAll t l) k d = Tab.get t k d := by
  induction l generalizing t with
  | nil => rfl
  | cons e l ih =>
    rw [Tab.setAll, List.foldl_cons]
    refine (ih (fun x hx => h x (by simp [hx])) _).trans (Tab.get_set_ne _ _ _ _ _ (Ne.symm (h e (by simp))))

theorem accSet_get_of_mem {l : List (Nat × Nat × Nat)} {r j v : Nat} (h : (r, j, v) ∈ l)
    (narrow : ∀ e ∈ l, e.2.1 < 64) (same : ∀ w, (r, j, w) ∈ l → w = v) (cr : Crew) :
    Tab.get (accSet cr l).acc (64 * r + j) 0#32 = BitVec.ofNat 32 v := by
  have hj : j < 64 := narrow _ h
  refine Tab.get_setAll_of_mem (List.mem_map.2 ⟨_, h, by simp [Nat.mul_comm]⟩) (fun w hw => ?_) _ _
  obtain ⟨⟨r', j', v'⟩, hm, he⟩ := List.mem_map.1 hw
  have hj' : j' < 64 := narrow _ hm
  obtain ⟨key, rfl⟩ := Prod.mk.inj he
  dsimp only at key
  obtain ⟨rfl, rfl⟩ : r' = r ∧ j' = j := by omega
  rw [same _ hm]

/-- Elements outside the rows of a command keep their bits. -/
theorem accSet_get_of_rows {l : List (Nat × Nat × Nat)} {rows : List Nat} (inside : ∀ e ∈ l, e.1 ∈ rows ∧ e.2.1 < 64) {k : Nat}
    (h : ∀ r ∈ rows, ¬ (64 * r ≤ k ∧ k < 64 * r + 64)) (cr : Crew) :
    Tab.get (accSet cr l).acc k 0#32 = Tab.get cr.acc k 0#32 := by
  refine Tab.get_setAll_of_notMem (fun e he => ?_) _ _
  obtain ⟨x, hx, rfl⟩ := List.mem_map.1 he
  obtain ⟨row, col⟩ := inside x hx
  have := h _ row
  dsimp only
  omega

/-- Zeros for the first n columns of some rows. -/
def zeroRows (rows : List Nat) (n : Nat) : List (Nat × Nat × Nat) := rows.flatMap (fun r => (List.range n).map (fun j => (r, j, 0)))

theorem mem_zeroRows {rows : List Nat} {n r j v : Nat} : (r, j, v) ∈ zeroRows rows n ↔ r ∈ rows ∧ j < n ∧ v = 0 := by
  simp only [zeroRows, List.mem_flatMap, List.mem_map, List.mem_range, Prod.mk.injEq]
  constructor
  · rintro ⟨r', hr, j', hj, rfl, rfl, rfl⟩
    exact ⟨hr, hj, rfl⟩
  · rintro ⟨hr, hj, rfl⟩
    exact ⟨r, hr, j, hj, rfl, rfl, rfl⟩

/-- No step has more than 64 columns (R429). -/
theorem MxCmd.n_le (q : MxCmd) : q.n ≤ 64 := by
  unfold MxCmd.n mxShape
  split <;> decide

theorem mxOutputs_eq (fr : Nat) (cr : Crew) (q : MxCmd) : ∃ val : Nat → Nat → Nat, mxOutputs fr cr q =
    (List.range q.m).flatMap (fun i => (List.range q.n).map (fun j => (q.rows.getD i 0, j, val i j))) := ⟨_, rfl⟩

/-- The outputs of a step are in its rows and columns, and each element has one value (R433). -/
theorem mxOutputs_mem {fr base : Nat} {cr : Crew} {q : MxCmd} (rows : q.rows = (List.range q.m).map (fun i => base + i)) :
    ∃ val : Nat → Nat → Nat, ∀ r j v, (r, j, v) ∈ mxOutputs fr cr q → r ∈ q.rows ∧ j < q.n ∧ v = val (r - base) j := by
  obtain ⟨val, outputs⟩ := mxOutputs_eq fr cr q
  refine ⟨val, fun r j v h => ?_⟩
  simp only [outputs, List.mem_flatMap, List.mem_map, List.mem_range, Prod.mk.injEq] at h
  obtain ⟨i, hi, j', hj, rfl, rfl, rfl⟩ := h
  have row : q.rows.getD i 0 = base + i := by simp [rows, hi]
  rw [row, Nat.add_sub_cancel_left]
  exact ⟨by simp [rows, hi], hj, rfl⟩

/-- What the rows step sets in the accumulator. -/
def mxSets (fr : Nat) (cr : Crew) (q : MxCmd) : List (Nat × Nat × Nat) :=
  if q.isMma then mxOutputs fr cr q else if q.kind == 10 then zeroRows q.rows 64
  else if q.e 0 7 1 == 1 then zeroRows q.rows q.n else []

theorem mxSets_mem {fr base : Nat} {cr : Crew} {q : MxCmd} (rows : q.rows = (List.range q.m).map (fun i => base + i)) :
    ∀ e ∈ mxSets fr cr q, e.1 ∈ q.rows ∧ e.2.1 < 64 := by
  rintro ⟨r, j, v⟩ h
  have narrow := q.n_le
  unfold mxSets at h
  split at h
  · obtain ⟨val, outputs⟩ := mxOutputs_mem (fr := fr) (cr := cr) rows
    obtain ⟨row, col, -⟩ := outputs r j v h
    exact ⟨row, by dsimp only; omega⟩
  · split at h
    · obtain ⟨row, col, -⟩ := mem_zeroRows.1 h
      exact ⟨row, col⟩
    · split at h
      · obtain ⟨row, col, -⟩ := mem_zeroRows.1 h
        exact ⟨row, by dsimp only; omega⟩
      · simp at h

/-- The command's rows are no longer its team's (R428). -/
def freeRows (s : State) (q : MxCmd) : State :=
  s.modTeam q.team (fun tm => { tm with owned := q.rows.foldl (fun o r => o.erase r) tm.owned })

theorem mxRowsWrite_eq (s : State) (q : MxCmd) : (mxRowsWrite s q).1 =
    let u := freeRows (s.setCrew q.crew (accSet (s.crew q.crew) (mxSets s.free (s.crew q.crew) q))) q
    if q.isMma || q.kind == 10 then flagDone u q.team q.flag else u := by
  cases hq : q.isMma with
  | true =>
    simp only [mxRowsWrite, mxSets, hq, Bool.true_or, if_true]
    rfl
  | false =>
    cases hk : q.kind == 10 with
    | true =>
      simp only [mxRowsWrite, mxSets, hq, hk, Bool.or_true, Bool.false_eq_true, if_false, if_true]
      rfl
    | false =>
      simp only [mxRowsWrite, mxSets, hq, hk, Bool.or_self, Bool.false_eq_true, if_false]
      split <;> rfl

/-- The rows step sets its elements in its crew's accumulator, lowers the flag of a command that ends with it, and leaves memory
and the cores (R428, R434, R435). -/
theorem mxRowsWrite_leaves (s : State) (q : MxCmd) : let t := (mxRowsWrite s q).1
    t.mem = s.mem ∧ t.cores = s.cores ∧ (t.crew q.crew).acc = (accSet (s.crew q.crew) (mxSets s.free (s.crew q.crew) q)).acc ∧
      (q.isMma = true ∨ q.kind = 10 → FlagDown s t q.team q.flag) := by
  intro t
  obtain ⟨set, hset⟩ : ∃ c, c = accSet (s.crew q.crew) (mxSets s.free (s.crew q.crew) q) := ⟨_, rfl⟩
  have written : t = if q.isMma || q.kind == 10 then flagDone (freeRows (s.setCrew q.crew set) q) q.team q.flag
      else freeRows (s.setCrew q.crew set) q := hset ▸ mxRowsWrite_eq s q
  have acc : (freeRows (s.setCrew q.crew set) q).crew q.crew = set := crew_setCrew s q.crew set
  obtain ⟨ts, ended⟩ := flagDone_eq (freeRows (s.setCrew q.crew set) q) q.team q.flag
  rw [written, ← hset]
  split
  · refine ⟨by rw [ended]; rfl, by rw [ended]; rfl, ?_, fun _ => flagDown_flagDone q.flag ?_⟩
    · rw [ended]
      exact congrArg Crew.acc acc
    · rw [freeRows, team_modTeam]
      rfl
  · next other =>
    refine ⟨rfl, rfl, congrArg Crew.acc acc, fun h => absurd ?_ other⟩
    simpa using h

theorem mxRowsWrite_accout (s : State) {q : MxCmd} (h : q.kind = 11) :
    (mxRowsWrite s q).2 = { q with rowsDone := true, out := accoutBytes s.free (s.crew q.crew) q } := by
  have other : q.isMma = false := by simp [MxCmd.isMma, h]
  simp [mxRowsWrite, other, h]

theorem matrixRows_written (s : State) (core base : Nat) (q : MxCmd) (due : mxDue s core 24 MxCmd.rowsDone = some q)
    (rows : q.rows = (List.range q.m).map (fun i => base + i)) :
    ∃ t, exec (.matrixRowsWritten core) s = .next t ∧ SameBytes s t ∧
      (∀ e, (∀ r ∈ q.rows, ¬ (64 * r ≤ e ∧ e < 64 * r + 64)) →
        Tab.get (t.crew q.crew).acc e 0#32 = Tab.get (s.crew q.crew).acc e 0#32) ∧
      (q.kind = 10 → FlagDown s t q.team q.flag ∧ (∀ m ∈ (t.core core).matrix, m.id ≠ q.id) ∧
        ∀ r ∈ q.rows, ∀ j, j < 64 → Tab.get (t.crew q.crew).acc (64 * r + j) 0#32 = 0#32) ∧
      (q.isMma = true → FlagDown s t q.team q.flag ∧ (∀ m ∈ (t.core core).matrix, m.id ≠ q.id) ∧
        ∀ e ∈ mxOutputs s.free (s.crew q.crew) q, Tab.get (t.crew q.crew).acc (64 * e.1 + e.2.1) 0#32 = BitVec.ofNat 32 e.2.2) ∧
      (q.kind = 11 → ∃ m, m.out = accoutBytes s.free (s.crew q.crew) q ∧ m.rowsDone = true ∧ m.id = q.id ∧
        m ∈ (t.core core).matrix) := by
  obtain ⟨queued, -⟩ := mxDue_found due
  obtain ⟨u, hu⟩ : ∃ u, u = (mxRowsWrite s q).1 := ⟨_, rfl⟩
  obtain ⟨mem, cores, acc, flag⟩ := mxRowsWrite_leaves s q
  rw [← hu] at mem cores acc flag
  have run : exec (.matrixRowsWritten core) s =
      .next (if q.kind == 11 then setMx u core (mxRowsWrite s q).2 else dropMx u core q.id).bump := by
    show execMatrixRowsWritten core s = _
    simp only [execMatrixRowsWritten, due, hu]
  obtain ⟨t, ht⟩ : ∃ t, t = (if q.kind == 11 then setMx u core (mxRowsWrite s q).2 else dropMx u core q.id).bump := ⟨_, rfl⟩
  obtain ⟨cs, step⟩ : ∃ cs, t = { u with cores := cs, free := t.free } := by
    rw [ht]
    split <;> exact ⟨_, rfl⟩
  have accT : (t.crew q.crew).acc = (accSet (s.crew q.crew) (mxSets s.free (s.crew q.crew) q)).acc := by
    rw [← acc, step]
    rfl
  have flagT (h : q.isMma = true ∨ q.kind = 10) : FlagDown s t q.team q.flag := by
    rw [step]
    exact flag h
  have gone (h : q.kind ≠ 11) : ∀ m ∈ (t.core core).matrix, m.id ≠ q.id := by
    rw [ht, if_neg (by simpa using h)]
    exact notMem_dropMx u core q.id
  have inside := mxSets_mem (fr := s.free) (cr := s.crew q.crew) rows
  refine ⟨t, by rw [run, ht], sameBytes_of_mem (by rw [step]; exact mem), fun e he => ?outside, fun zero => ?accz, fun mma => ?mma,
    fun out => ?accout⟩
  case outside =>
    rw [accT, accSet_get_of_rows inside he]
  case accz =>
    have other : q.isMma = false := by simp [MxCmd.isMma, zero]
    refine ⟨flagT (.inr zero), gone (by omega), fun r hr j hj => ?_⟩
    have sets : mxSets s.free (s.crew q.crew) q = zeroRows q.rows 64 := by simp [mxSets, other, zero]
    rw [accT, accSet_get_of_mem (v := 0) (sets ▸ mem_zeroRows.2 ⟨hr, hj, rfl⟩) (fun e he => (inside e he).2)
      (fun w hw => (mem_zeroRows.1 (sets ▸ hw)).2.2)]
  case mma =>
    have kind : q.kind ≤ 9 := by simpa [MxCmd.isMma] using mma
    refine ⟨flagT (.inl mma), gone (by omega), ?_⟩
    rintro ⟨r, j, v⟩ he
    have sets : mxSets s.free (s.crew q.crew) q = mxOutputs s.free (s.crew q.crew) q := if_pos mma
    obtain ⟨val, outputs⟩ := mxOutputs_mem (fr := s.free) (cr := s.crew q.crew) rows
    have value {w : Nat} (hw : (r, j, w) ∈ mxOutputs s.free (s.crew q.crew) q) : w = val (r - base) j := (outputs r j w hw).2.2
    rw [accT, accSet_get_of_mem (sets ▸ he) (fun e he => (inside e he).2) (fun w hw => (value (sets ▸ hw)).trans (value he).symm)]
  case accout =>
    have result := mxRowsWrite_accout s out
    refine ⟨(mxRowsWrite s q).2, by rw [result], by rw [result], by rw [result], ?_⟩
    rw [ht, if_pos (by simp [out])]
    refine mem_setMx (s := u) (q := q) ?_ (by rw [result])
    rw [State.core, cores]
    exact queued

/-! ### ACCOUT's last byte (R435) -/

theorem accoutLastByte_written (s : State) (core : Nat) (q : MxCmd)
    (due : mxDue s core 32 (fun m => m.kind != 11 || !m.rowsDone) = some q) (shared : q.e 0 8 1 = 0)
    (wf : Memory.wf (s.crew q.crew).shm) :
    ∃ t, exec (.accoutLastByteWritten core) s = .next t ∧ SameBytes s t ∧ FlagDown s t q.team q.flag ∧
      (∀ m ∈ (t.core core).matrix, m.id ≠ q.id) ∧
      ∀ x, (t.crew q.crew).byte x = if q.e 0 32 32 ≤ x ∧ x < q.e 0 32 32 + q.out.length
        then q.out.getD (x - q.e 0 32 32) 0#8 else (s.crew q.crew).byte x := by
  obtain ⟨cr, written⟩ : ∃ cr, cr = engineWrite (s.crew q.crew) (q.e 0 32 32) q.out := ⟨_, rfl⟩
  obtain ⟨shm, -⟩ := engineWrite_leaves (s.crew q.crew) (q.e 0 32 32) q.out
  obtain ⟨ts, ended⟩ := flagDone_eq (s.setCrew q.crew cr) q.team q.flag
  have run : exec (.accoutLastByteWritten core) s = .next (dropMx (flagDone (s.setCrew q.crew cr) q.team q.flag) core q.id) := by
    show execAccoutLastByteWritten core s = _
    simp only [execAccoutLastByteWritten, due, accoutFinish, shared, written]
    rfl
  have down : FlagDown s (flagDone (s.setCrew q.crew cr) q.team q.flag) q.team q.flag := flagDown_flagDone q.flag rfl
  have crewT : (flagDone (s.setCrew q.crew cr) q.team q.flag).crew q.crew = cr := by
    rw [ended]
    exact crew_setCrew s q.crew cr
  refine ⟨_, run, sameBytes_of_mem ?_, down, notMem_dropMx _ core q.id, fun x => ?_⟩
  · rw [ended]
    rfl
  · show ((flagDone (s.setCrew q.crew cr) q.team q.flag).crew q.crew).byte x = _
    rw [crewT, Crew.byte, written, shm, read_write wf]
    rfl

end Sys2Proof.Machine
end

section
/-! PROOFS. COLL_COMPLETE for a task of the PF (R438, R439), and what the engines' steps take. -/

namespace Sys2Proof.Machine

open Sys2Proof

/-! ### A write of the PF (R173, R181, R485) -/

/-- A cohort that has no bytes of its own enters write-through mode without a change of memory. -/
theorem enterWriteThrough_leaves {s : State} {fn : Nat} {ts : Word64} (h : (cohortAt s fn ts).bytes = []) :
    let t := enterWriteThrough s fn ts
    t.mem = s.mem ∧ t.ops = s.ops ∧ t.teams = s.teams := by
  unfold enterWriteThrough
  dsimp only
  split
  · exact ⟨rfl, rfl, rfl⟩
  · rw [h]
    exact ⟨rfl, rfl, rfl⟩

theorem trackWrite_pf (s : State) (ts : Word64) (flat n : Nat) : trackWrite s pfFn ts flat n = .ok (enterWriteThrough s pfFn ts) :=
  if_pos (beq_self_eq_true _)

theorem cohortWrite_pf (s : State) (ts : Word64) (flat : Nat) (bs : List Byte) : cohortWrite s pfFn ts flat bs = memWrite s flat bs := by
  have direct : buffered s pfFn ts = false := by simp [buffered, specWaysOf]
  rw [cohortWrite, if_neg (by simp [direct])]

theorem flatOf_pf (s : State) (a : Nat) : flatOf s pfFn a = hostFlat a := if_pos (beq_self_eq_true _)

theorem collWrite_pf {k : Task} (pf : k.fn = pfFn) (s : State) (op t pc : Nat) (d : List Word64) (out : List Byte) :
    collWrite s op t pc k d out = memWrite s (hostFlat (collDst d)) out := by
  simp only [collWrite, pf, flatOf_pf, beq_self_eq_true, Bool.or_true, Bool.true_or, if_true, cohortWrite_pf]

/-! ### The completion (R438, R439) -/

theorem Tab.find_erase_same {α : Type} (t : Tab α) (n : Nat) : Tab.find (Tab.erase t n) n = none := by
  cases found : Tab.find (Tab.erase t n) n with
  | none => rfl
  | some v => simpa using (List.mem_filter.1 (Tab.mem_of_find found)).2

/-- What a COLL of the PF leaves when its messages agree: its result in host memory, its operation gone, its flag lowered. -/
def collEnded (s : State) (op tm : Nat) (ts : Word64) (d : List Word64) (flag : Option Nat) (out : List Byte) : State :=
  let w := memWrite (enterWriteThrough s pfFn ts) (hostFlat (collDst d)) out
  flagDone { clearFull w op with ops := Tab.erase w.ops op }.bump tm flag

section Completion

variable {s : State} {op tm p pc : Nat} {d : List Word64} {flag : Option Nat} {waits : List Nat} {src : List Byte}

theorem collComplete_eq (found : Tab.find s.ops op = some (.coll tm p d flag pc waits (some src) none))
    (runs : crewRuns (s.crew (s.team tm).crew) = true) (pf : (s.task (s.team tm).task).fn = pfFn) (peers : List (List Byte)) :
    exec (.collComplete op peers) s =
      if collMeant d peers = false ∨ collTurn s op d = false then .next s
      else if hasLeave s (s.crew (s.team tm).crew).core (collEngine (dieOf (s.crew (s.team tm).crew).core)) collCost = false then
        .next (askLeave s (s.crew (s.team tm).crew).core (collEngine (dieOf (s.crew (s.team tm).crew).core)) collCost none false)
      else if collAgrees d (collData d peers) = false then .next (engineFault s op { code := .linkError, slot := .x })
      else .next (collEnded s op tm (s.task (s.team tm).task).ts d flag (collResult d src (collData d peers))) := by
  show execCollComplete op peers s = _
  simp only [execCollComplete, found, runs, pf, trackWrite_pf, collWrite_pf pf, Bool.not_true, Bool.false_or, Bool.or_eq_true,
    Bool.not_eq_true']
  rfl

theorem collEnded_leaves {ts : Word64} (wf : Memory.wf s.mem) (unwritten : (cohortAt s pfFn ts).bytes = []) (out : List Byte) :
    let t := collEnded s op tm ts d flag out
    Tab.find t.ops op = none ∧ FlagDown s t tm flag ∧ SameBytesBut s t (hostFlat (collDst d)) out.length ∧
      ∀ j, j < out.length → Memory.read t.mem (hostFlat (collDst d) + j) = out.getD j 0#8 := by
  intro t
  obtain ⟨mem, ops, teams⟩ := enterWriteThrough_leaves unwritten
  obtain ⟨w, hw⟩ : ∃ w, w = memWrite (enterWriteThrough s pfFn ts) (hostFlat (collDst d)) out := ⟨_, rfl⟩
  have memW : w.mem = Memory.write s.mem (hostFlat (collDst d)) out := by
    rw [hw, ← mem]
    rfl
  have teamsW : w.teams = s.teams := by
    rw [hw, ← teams]
    rfl
  have ended : t = flagDone { clearFull w op with ops := Tab.erase w.ops op }.bump tm flag := by rw [hw]; rfl
  obtain ⟨tms, done⟩ := flagDone_eq { clearFull w op with ops := Tab.erase w.ops op }.bump tm flag
  have memT : t.mem = Memory.write s.mem (hostFlat (collDst d)) out := by
    rw [ended, done, ← memW]
    rfl
  refine ⟨?_, ?_, fun x hx => ?_, fun j hj => ?_⟩
  · rw [ended, done]
    exact Tab.find_erase_same _ _
  · rw [ended]
    refine flagDown_flagDone flag ?_
    show (Tab.get w.teams tm {}).flagCount = _
    rw [teamsW]
    rfl
  · rw [memT, Memory.read_write_ne wf hx]
  · rw [memT, Memory.read_write_same wf _ _ _ hj]

end Completion

theorem collComplete_cases (s : State) (op tm p pc : Nat) (d : List Word64) (flag : Option Nat) (waits : List Nat) (src : List Byte)
    (peers : List (List Byte)) (found : Tab.find s.ops op = some (.coll tm p d flag pc waits (some src) none))
    (runs : crewRuns (s.crew (s.team tm).crew) = true) (pf : (s.task (s.team tm).task).fn = pfFn) (wf : Memory.wf s.mem)
    (unwritten : (cohortAt s pfFn (s.task (s.team tm).task).ts).bytes = []) :
    let core := (s.crew (s.team tm).crew).core
    let e := collEngine (dieOf core)
    let data := collData d peers
    ((collMeant d peers = false ∨ collTurn s op d = false) → exec (.collComplete op peers) s = .next s) ∧
    (collMeant d peers = true → collTurn s op d = true → hasLeave s core e collCost = false →
      ∃ t, exec (.collComplete op peers) s = .next t ∧ collCost ≤ (t.die (dieOf core)).asked e ∧ t.ops = s.ops) ∧
    (collMeant d peers = true → collTurn s op d = true → hasLeave s core e collCost = true →
      (collAgrees d data = false → exec (.collComplete op peers) s = .next (engineFault s op { code := .linkError, slot := .x })) ∧
      (collAgrees d data = true → ∃ t, exec (.collComplete op peers) s = .next t ∧ Tab.find t.ops op = none ∧
        FlagDown s t tm flag ∧ SameBytesBut s t (hostFlat (collDst d)) (collResult d src data).length ∧
        ∀ j, j < (collResult d src data).length →
          Memory.read t.mem (hostFlat (collDst d) + j) = (collResult d src data).getD j 0#8)) := by
  intro core e data
  have run := collComplete_eq found runs pf peers
  refine ⟨fun other => ?_, fun meant turn gone => ?_, fun meant turn leave => ?_⟩
  · rw [run, if_pos other]
  · obtain ⟨ds, asked⟩ := askLeave_eq s core e collCost none false
    rw [if_neg (by simp [meant, turn]), if_pos gone] at run
    exact ⟨_, run, askLeave_asked s core e collCost none false, by rw [asked]⟩
  · rw [if_neg (by simp [meant, turn]), if_neg (by rw [leave]; decide)] at run
    refine ⟨fun differ => ?_, fun agree => ?_⟩
    · rw [run, if_pos differ]
    · rw [if_neg (by rw [agree]; decide)] at run
      exact ⟨_, run, collEnded_leaves wf unwritten _⟩

/-- Settles O41: each engine's step by the equation of its instruction in the case at hand. A unit of a FILL lays its bytes one by
one, the rows of a step are distinct entries of the accumulator, and a COLL of the PF writes host memory at once. -/
theorem engineEvents : Obligations.EngineEvents := by
  unfold Obligations.EngineEvents
  exact ⟨copyChannel_steps, matrixStart_cases, matrixOperands_done, matrixRows_written, accoutLastByte_written, collComplete_cases,
    leaveGrant_cases, leave_ends⟩

end Sys2Proof.Machine
end

section
/-! PROOFS. What a slot instruction answers (R225, R307): every instruction that a slot encodes is one run of its slot, and the
slot of an issuing path always goes on. What the decoders yield is such an instruction. -/

namespace Sys2Proof.Machine

open Sys2Proof

/-! ### The slot of an issuing path goes on -/

/-- A slot that faults in some lanes only goes on too (R122). -/
theorem runSlotBoth_goes {s : State} {c : Ctx} (h : ctxOf s = some c) (slot : Slot) (f : Ctx → State × Option FaultInfo) :
    Goes (runSlotBoth s slot f) := by
  simp only [runSlotBoth, h]
  split
  · exact ⟨_, rfl⟩
  · exact ⟨_, rfl⟩

/-- VMOVP moves in one of two directions, as a run of the vector slot in either (R355). -/
theorem exec_vmovp_goes {s : State} {c : Ctx} (h : ctxOf s = some c) (f : VFields) : Goes (exec (.vmovp f) s) := by
  show Goes (execVmovp f s)
  unfold execVmovp
  dsimp only
  split
  · exact runSlot_goes h _ _
  · exact runSlot_goes h _ _

/-- The instructions of each slot: those that may take effect in some lanes beside a fault, and all others. -/
theorem exec_slot_goes {s : State} {c : Ctx} (h : ctxOf s = some c) {i : Instr} (hi : slotBits i ≠ 0) : Goes (exec i s) := by
  cases i
  case vmovp f => exact exec_vmovp_goes h f
  case tld | tst | tred | rold | aadd | afadd | amin | amax | aand | aor | axor | axchg | acas | copy | copyg | copys | fill |
      mma | mmas => exact runSlotBoth_goes h _ _
  case vadd | vsub | vmul | vmulh | vmad | vaddc | vsubb | vmin | vmax | vabsd | vdot4 | vand | vor | vxor | vandn | vnot |
      vshl | vshr | vsar | vrot | vbfx | vbfi | vpopc | vclz | vbrev | vlop3 | vcmp | vsel | vfclass | vmov | vfadd | vfsub |
      vfmul | vfma | vfmin | vfmax | vfcmp | vfdot2 | vfdot4 | vrcp | vrsq | vsqrt | vexp2 | vlog2 | vsinp | vcosp | vtanh |
      vcvt | vpack | vunpk | vquant | vdeq | vscale | vshuf | vperm | vbcast | vred | vscan | vvote | vgeti | vseti | plogic |
      psetl => exact runSlot_goes h _ _
  case sld | sst | saadd | safadd | samin | samax | saand | saor | saxor | saxchg | sacas | accld | accst | radv | rstat |
      gcfg | gskip | acq | rel | fence | invro => exact runSlot_goes h _ _
  case accz | accout | coll | lvreq | lfma | ladd | lmul | liadd | limul | llogic => exact runSlot_goes h _ _
  case br | brp | brs | brf | brm | call | ret | jmpi | loop | pushm | invm | popm | setm | split | join | regroup | sadd |
      ssub | smul | smulh | sand | sor | sxor | sshl | sshr | ssar | smin | smax | scmp | ssel | smov | sdivu | saddi | sandi |
      sori | sshli | sshri | sli | slih | slix | sliy | waitf | clrf | bar | sasht | sashp | waitc | spawn | exit | trap |
      bkpt | rdsr | wrsr | rdsys | wrsys | lcmp | waithem | signal | dbgsplit | step | dbgres => exact runSlot_goes h _ _
  all_goals exact absurd rfl hi

/-! ### The decoders yield slot instructions -/

theorem vOpcode_of_vInstr {opc : Nat} {f : VFields} {i : Instr} (h : vInstr opc f = some i) : (vOpcode i).isSome = true := by
  unfold vInstr at h
  split at h
  all_goals cases h
  all_goals rfl

theorem mOpcode_of_mInstr {opc : Nat} {f : MFields} {i : Instr} (h : mInstr opc f = some i) : (mOpcode i).isSome = true := by
  unfold mInstr at h
  split at h
  all_goals cases h
  all_goals rfl

theorem xOpcode_of_xInstr {opc : Nat} {f : XFields} {i : Instr} (h : xInstr opc f = some i) : (xOpcode i).isSome = true := by
  unfold xInstr at h
  split at h
  all_goals cases h
  all_goals rfl

theorem lOpcode_of_lInstr {opc : Nat} {f : LFields} {i : Instr} (h : lInstr opc f = some i) : (lOpcode i).isSome = true := by
  unfold lInstr at h
  split at h
  all_goals cases h
  all_goals rfl

theorem encodeC_of_decodeC {w : Nat} {i : Instr} (h : decodeC w = .ok i) : (encodeC i).isSome = true := by
  unfold decodeC at h
  split at h
  all_goals (try split at h)
  all_goals cases h
  all_goals rfl

theorem slotBits_ne_zero {i : Instr} (h : (vOpcode i).isSome = true ∨ (mOpcode i).isSome = true ∨ (xOpcode i).isSome = true ∨
    (lOpcode i).isSome = true ∨ (encodeC i).isSome = true) : slotBits i ≠ 0 := by
  unfold slotBits
  split
  · decide
  · split
    · decide
    · split
      · decide
      · split
        · decide
        · simp_all

theorem slotBits_of_decodeV {w : Nat} {i : Instr} (h : decodeV w = .ok i) : slotBits i ≠ 0 := by
  unfold decodeV at h
  split at h
  · cases h
  · rename_i j hj
    split at h
    · cases h
      exact slotBits_ne_zero (.inl (vOpcode_of_vInstr hj))
    · cases h

theorem slotBits_of_decodeM {w : Nat} {i : Instr} (h : decodeM w = .ok i) : slotBits i ≠ 0 := by
  unfold decodeM at h
  split at h
  · cases h
  · rename_i j hj
    cases h
    exact slotBits_ne_zero (.inr (.inl (mOpcode_of_mInstr hj)))

theorem slotBits_of_decodeX {w : Nat} {i : Instr} (h : decodeX w = .ok i) : slotBits i ≠ 0 := by
  unfold decodeX at h
  split at h
  · rename_i j hj
    cases h
    exact slotBits_ne_zero (.inr (.inr (.inr (.inl (lOpcode_of_lInstr hj)))))
  · split at h
    · cases h
    · rename_i j hj
      split at h
      · cases h
        exact slotBits_ne_zero (.inr (.inr (.inl (xOpcode_of_xInstr hj))))
      · cases h

theorem slotBits_of_decodeC {w : Nat} {i : Instr} (h : decodeC w = .ok i) : slotBits i ≠ 0 :=
  slotBits_ne_zero (.inr (.inr (.inr (.inr (encodeC_of_decodeC h)))))

theorem Dec.ok_of_toOption {d : Dec} {i : Instr} (h : d.toOption = some i) : d = .ok i := by
  cases d with
  | ok j => cases h; rfl
  | illegalOp | reserved | operand => cases h

/-- The instructions of a bundle, in the order of its slots (R225). -/
def slotsOf (b : Bundle) : List Instr := b.v.toList ++ b.m.toList ++ b.x.toList ++ b.c.toList

theorem slotBits_of_decodeBundle {w : Nat} {i : Instr} (h : i ∈ slotsOf (decodeBundle w)) : slotBits i ≠ 0 := by
  have slot {b : Bool} {d : Dec} (hd : d = .ok i → slotBits i ≠ 0) (hm : (if b then d.toOption else none) = some i) :
      slotBits i ≠ 0 := by
    cases b with
    | true => exact hd (Dec.ok_of_toOption hm)
    | false => cases hm
  simp only [slotsOf, List.mem_append, Option.mem_toList, or_assoc] at h
  rcases h with h | h | h | h
  · exact slot slotBits_of_decodeV h
  · exact slot slotBits_of_decodeM h
  · exact slot slotBits_of_decodeX h
  · exact slot slotBits_of_decodeC h

end Sys2Proof.Machine
end

section
/-! PROOFS. The step (R71, R225, R307, R309, R327): what comes first in a step, and how the bundle of the path that is next
issues. -/

namespace Sys2Proof.Machine

open Sys2Proof

/-! ### The agenda comes first -/

theorem step_agenda {s : State} {i : Instr} {rest : List (Nat × Instr)} (h : takeAgenda s.now s.agenda = some (i, rest)) :
    step s = if isBundled i then .next { s with agenda := rest } else exec i { s with agenda := rest } := by
  simp only [step, stepOnce, h]

theorem step_self {s : State} (h : takeAgenda s.now s.agenda = none) : step s = runSelf s := by
  simp only [step, stepOnce, h]

theorem runSelf_event {s : State} {i : Instr} (h : internalEvent s = some i) : runSelf s = exec i s := by
  simp only [runSelf, h]

theorem runSelf_upkeep {s t : State} (h : internalEvent s = none) (hu : upkeep s = some t) : runSelf s = .next t := by
  simp only [runSelf, h, hu]

theorem runSelf_issue {s : State} {t p : Nat} (h : internalEvent s = none) (hu : upkeep s = none)
    (hp : issuePick s = some (t, p)) : runSelf s = issueBundle s t p := by
  simp only [runSelf, h, hu, hp]

/-! ### The context of the issue -/

/-- A context names a path that stands. -/
theorem ctxOf_of_find {s : State} {i : Issue} {tm : Team} {pa : Path} (hi : s.issue = some i)
    (htm : Tab.find s.teams i.team = some tm) (hpa : Tab.find tm.paths i.path = some pa) :
    ∃ c, ctxOf s = some c ∧ c.t = i.team ∧ c.p = i.path ∧ c.pc = i.pc := by
  simp only [ctxOf, hi, htm, hpa]
  exact ⟨_, rfl, rfl, rfl, rfl⟩

theorem ctxOf_tentative {s : State} {t p : Nat} {tm : Team} {pa : Path} (htm : Tab.find s.teams t = some tm)
    (hpa : Tab.find tm.paths p = some pa) : ∃ c, ctxOf (tentative s t p) = some c ∧ c.t = t ∧ c.p = p ∧ c.pc = pa.pc := by
  have pc : ((s.team t).path p).pc = pa.pc := by
    rw [State.team, Tab.get_of_find _ htm, Team.path, Tab.get_of_find _ hpa]
  rw [← pc]
  exact ctxOf_of_find (s := tentative s t p) rfl htm hpa

/-- A count changes the counters of a function and nothing else (R282). -/
theorem pmCount_eq (s : State) (fn event n : Nat) : ∃ fs, pmCount s fn event n = { s with funcs := fs } := by
  unfold pmCount
  dsimp only
  split
  · exact ⟨s.funcs, rfl⟩
  · exact ⟨_, rfl⟩

theorem pmCount_teams (s : State) (fn event n : Nat) : (pmCount s fn event n).teams = s.teams := by
  obtain ⟨fs, h⟩ := pmCount_eq s fn event n
  rw [h]

theorem pmCount_issue (s : State) (fn event n : Nat) : (pmCount s fn event n).issue = s.issue := by
  obtain ⟨fs, h⟩ := pmCount_eq s fn event n
  rw [h]

/-- The start of a bundle changes one team, of which one path moves on. -/
theorem startBundle_teams (s : State) (c : Ctx) (b : Bundle) : ∃ yld back,
    (startBundle s c b).teams = (s.modTeam c.t (fun tm => (tm.issued c.p yld).modPath c.p back)).teams := by
  simp only [startBundle, pmCount_teams]
  exact ⟨_, _, rfl⟩

theorem startBundle_issue (s : State) (c : Ctx) (b : Bundle) : ∃ extra many,
    (startBundle s c b).issue = s.issue.map (fun i => { i with extra := extra, collect := many }) := by
  simp only [startBundle, pmCount_issue]
  exact ⟨_, _, rfl⟩

/-- The path of a bundle still stands when its slots run. -/
theorem ctxOf_startBundle {s : State} {c : Ctx} (b : Bundle) (h : ctxOf s = some c) : ∃ d, ctxOf (startBundle s c b) = some d := by
  obtain ⟨i, tm, hi, htm, hpa, ht, hp, -⟩ := ctxOf_some h
  obtain ⟨yld, back, teams⟩ := startBundle_teams s c b
  obtain ⟨extra, many, issue⟩ := startBundle_issue s c b
  rw [hi] at issue
  have team : Tab.find (startBundle s c b).teams i.team = some (((s.team c.t).issued c.p yld).modPath c.p back) := by
    rw [teams, ← ht]
    exact Tab.find_set_same _ _ _
  have path : Tab.find (((s.team c.t).issued c.p yld).modPath c.p back).paths i.path =
      some (back (((s.team c.t).issued c.p yld).path c.p)) := by
    rw [← hp]
    exact Tab.find_set_same _ _ _
  obtain ⟨d, hd, -⟩ := ctxOf_of_find issue team path
  exact ⟨d, hd⟩

/-! ### A bundle of one slot -/

theorem runList_one {i : Instr} {s t : State} {c : Ctx} (h : ctxOf s = some c) (ht : exec i s = .next t) :
    runList [i] s = .next t := by
  simp [runList, h, ht]

/-- Whatever the slot, and whether or not it observes flags first, a bundle's one instruction is what runs. -/
theorem runSlots_one {b : Bundle} {i : Instr} {s t : State} {c : Ctx} (hb : slotsOf b = [i]) (h : ctxOf s = some c)
    (ht : exec i s = .next t) : runSlots b s = .next (if b.c.any observesFirst then reseen t else t) := by
  have one := runList_one h ht
  unfold slotsOf at hb
  unfold runSlots
  dsimp only
  cases hc : b.c with
  | none =>
    rw [hc, Option.toList_none, List.append_nil] at hb
    simp [hb, one]
  | some k =>
    rw [hc, Option.toList_some] at hb
    obtain ⟨rest, hk⟩ | ⟨-, hk⟩ := List.append_eq_singleton_iff.1 hb
    · obtain rfl : k = i := List.singleton_inj.1 hk
      rw [rest]
      by_cases first : observesFirst k = true
      · simp [first, one, runList]
      · simp [first, one]
    · cases hk

theorem runBundle_one {b : Bundle} {i : Instr} {s t : State} {c : Ctx} (hb : slotsOf b = [i]) (h : ctxOf s = some c)
    (ht : exec i s = .next t) : runBundle b s = .next (if b.c.any observesFirst then reseen t else t) := by
  have count : slotCount b = 1 := congrArg List.length hb
  simp [runBundle, runSlots_one hb h ht, count]

/-! ### A bundle without slots -/

/-- Without a slot there is none that would act (R227). -/
theorem nullified_empty (c : Ctx) {b : Bundle} (hv : b.v = none) (hm : b.m = none) (hx : b.x = none) (hc : b.c = none) :
    nullified c b = true := by
  simp [nullified, actsV, actsM, actsX, actsC, hv, hm, hx, hc]

/-- The header of an EMPTY_DELAY_BUNDLE adds nothing to the context. -/
theorem exec_emptyDelayBundle {s : State} {c : Ctx} (h : ctxOf s = some c) (w : BitVec 32) :
    exec (.emptyDelayBundle w) s = .next (nullify s c) := by
  show execEmptyDelayBundle w s = _
  simp only [execEmptyDelayBundle, h]

theorem issueSlots_empty {s : State} {c : Ctx} {b : Bundle} (h : ctxOf s = some c) (w : BitVec 32) (hv : b.v = none)
    (hm : b.m = none) (hx : b.x = none) (hc : b.c = none) : issueSlots s c b = exec (.emptyDelayBundle w) s := by
  rw [issueSlots, if_pos (nullified_empty c hv hm hx hc), if_pos (by simp [hv, hm, hx, hc]), exec_emptyDelayBundle h,
    exec_emptyDelayBundle h]

/-- Slots of which none would act are nullified together (R227). -/
theorem issueSlots_nullified {s : State} {c : Ctx} {b : Bundle} (h : nullified c b = true)
    (hb : ¬ (b.v = none ∧ b.m = none ∧ b.x = none ∧ b.c = none)) : issueSlots s c b = .next (nullify s c) := by
  rw [issueSlots, if_pos h, if_neg (by simpa [and_assoc] using hb)]

theorem issueSlots_one {s t : State} {c d : Ctx} {b : Bundle} {i : Instr} (hb : slotsOf b = [i]) (hn : nullified c b = false)
    (hd : ctxOf (startBundle s c b) = some d) (ht : exec i (startBundle s c b) = .next t) :
    issueSlots s c b = .next (endBundle (if b.c.any observesFirst then reseen t else t)) := by
  rw [issueSlots, if_neg (by rw [hn]; decide), runBundle_one hb hd ht]

/-! ### Faults of the fetch -/

/-- A bundle of zeros has no slot and no reserved bit: beside the illegal opcode only a masked feature of the kernel shows. -/
theorem bundleFaults_zero (l : Launch) : ∃ b, bundleFaults l 0 =
    (1, .illegalOp, .none) :: (found b 4 .featureMasked).map (fun q => (q.1, q.2, .none)) := by
  have header : headerOf 0 =
      ⟨0#5, false, false, false, 0#4, false, 0#4, false, 0#4, false, 0#4, false, false, false, false, false⟩ := by decide
  have raw : rawBundle 0 = ⟨0, 0, 0, 0, 0⟩ := by decide
  refine ⟨l.first && ((l.lining && l.mask.getLsbD 0) || (l.migratable && l.mask.getLsbD 7)
    || (l.cg16 && l.mask.getLsbD 8)), ?_⟩
  simp only [bundleFaults, raw, header, headerFaults]
  generalize (l.first && _) = b
  cases b with
  | false => rfl
  | true => rfl

/-- It is an illegal instruction, whatever its kernel's features (R309, R327). -/
theorem decodeFault_zero (l : Launch) : decodeFault l 0 = some (.illegalOp, .none) := by
  obtain ⟨b, h⟩ := bundleFaults_zero l
  rw [decodeFault, h]
  cases b with
  | false => rfl
  | true => rfl

theorem fetchFault_illegal {s : State} {tm : Team} {pc : Nat}
    (h : fetchInside (s.task tm.task) pc = false ∨ fetchWord s (s.task tm.task) pc = 0 ∧ fetchBad s tm pc = none) :
    ∃ slot, fetchFault s tm pc = some (.illegalOp, slot) := by
  by_cases inside : fetchInside (s.task tm.task) pc = true
  · obtain ⟨zero, good⟩ := h.resolve_left (by simp [inside])
    exact ⟨.none, by simp [fetchFault, inside, good, zero, decodeFault_zero]⟩
  · exact ⟨.none, by simp [fetchFault, inside]⟩

/-! ### The obligation -/

/-- The bundle of the path that is next: its fault, or its slots. -/
theorem issueBundle_cases {s : State} {t p : Nat} {tm : Team} {pa : Path} {c : Ctx} (htm : Tab.find s.teams t = some tm)
    (hpa : Tab.find tm.paths p = some pa) (hc : ctxOf (tentative s t p) = some c) :
    (∀ slot, fetchFault s tm pa.pc = some (.illegalOp, slot) → issueBundle s t p = exec .illegalOp (tentative s t p)) ∧
    (∀ code slot, fetchFault s tm pa.pc = some (code, slot) → code ≠ .illegalOp →
      issueBundle s t p = .next (decodeRaise (tentative s t p) c code slot)) ∧
    (fetchFault s tm pa.pc = none → pa.replay = none →
      issueBundle s t p = issueSlots (tentative s t p) c (decodeBundle (fetchWord s (s.task tm.task) pa.pc))) := by
  have team : s.team t = tm := Tab.get_of_find _ htm
  have path : tm.path p = pa := Tab.get_of_find _ hpa
  unfold issueBundle
  dsimp only
  rw [team, path, hc]
  refine ⟨fun slot h => by rw [h], fun code slot h hne => ?fault, fun h hr => ?slots⟩
  case fault => simp [h]
  case slots =>
    rw [h]
    simp only [nextSlots, team, path, hr, pickSlots, fetchBundle]

/-- Settles O58: what the agenda, the timed events and the upkeep leave to a path is its bundle, and the one slot of a bundle
is a run of its instruction. -/
theorem stepRunsTheInstruction : Obligations.StepRunsTheInstruction := by
  unfold Obligations.StepRunsTheInstruction
  intro ran
  refine ⟨fun s i rest h => ?agenda, fun s h => ⟨fun i hi => ?event, fun hi => ⟨fun t ht => ?settles, ?issues⟩⟩⟩
  case agenda => exact ⟨fun hb => by rw [step_agenda h, hb]; rfl, fun hb => by rw [step_agenda h, hb]; rfl⟩
  case event => rw [step_self h, runSelf_event hi]
  case settles => rw [step_self h, runSelf_upkeep hi ht]
  case issues =>
    intro t p tm pa hu hp htm hpa k w b u
    obtain ⟨c, hc, ht, hp', hpc⟩ := ctxOf_tentative htm hpa
    obtain ⟨illegal, raises, slots⟩ := issueBundle_cases htm hpa hc
    have run : step s = issueBundle s t p := (step_self h).trans (runSelf_issue hi hu hp)
    refine ⟨c, hc, ht, hp', hpc, fun hz => ?_, fun code slot hf hne => run.trans (raises code slot hf hne), fun hf hr => ?_⟩
    · obtain ⟨slot, hf⟩ := fetchFault_illegal hz
      exact run.trans (illegal slot hf)
    · have run := run.trans (slots hf hr)
      refine ⟨fun i hb hn => ?_, fun hv hm hx hk => run.trans (issueSlots_empty hc _ hv hm hx hk),
        fun hn hb => run.trans (issueSlots_nullified hn hb)⟩
      obtain ⟨d, hd⟩ := ctxOf_startBundle b hc
      have mem : i ∈ slotsOf b := by
        rw [show slotsOf b = [i] from hb]
        exact List.mem_singleton_self i
      obtain ⟨v, hv⟩ := exec_slot_goes hd (slotBits_of_decodeBundle mem)
      exact ⟨v, hv, run.trans (issueSlots_one hb hn hd hv)⟩

end Sys2Proof.Machine
end

section
/-! PROOFS. Sealing and attestation (R66-R70, R74, R75): what the checks of a seal say of its image, the handle of the slot that
it fills, a release, and the report. -/

namespace Sys2Proof.Machine

open Sys2Proof

/-! ### The checks of a seal (R66) -/

/-- What the shape of an image bounds: its entries, its bundles, and where they lie (R65). -/
theorem imageShape_bounds {img : List Byte} (h : imageShape img = true) : fieldAt img 0x18 4 ≤ 65535 ∧
    fieldAt img 0x1C 4 < 2 ^ 24 ∧ fieldAt img 0x24 4 + 32 * fieldAt img 0x1C 4 ≤ img.length := by
  simp only [imageShape, Bool.and_eq_true, decide_eq_true_eq] at h
  omega

/-- An image that passes every check has the shape of R65, a slot to go to and a gap to lie in. -/
theorem sealCode_passes {s : State} {fn : Nat} {img : List Byte} (hi : sealImage s fn = some img) (h : sealCode s fn = 0) :
    imageShape img = true ∧ ((s.func fn).slots.filter (fun e => e.2.live)).length < sealLimit s fn ∧
      codeGaps s fn (objectUnits (fieldAt img 0x1C 4) (fieldAt img 0x18 4)) ≠ [] := by
  simp only [sealCode, hi] at h
  split_ifs at h with _ shape _ _ limit gaps
  exact ⟨by simpa using shape, by omega, by simpa using gaps⟩

/-- Among the first n numbers of a table there are no more live entries than the table lists. -/
theorem Tab.le_length_filter {α : Type} (t : Tab α) (d : α) (live : α → Bool) (hd : live d = false) {n : Nat}
    (h : ∀ i, i < n → live (Tab.get t i d) = true) : n ≤ (t.filter (fun e => live e.2)).length := by
  have listed : List.range n ⊆ (t.filter (fun e => live e.2)).map Prod.fst := fun i hi => by
    have alive := h i (List.mem_range.1 hi)
    cases hf : Tab.find t i with
    | none => rw [Tab.get, hf, Option.getD_none, hd] at alive; cases alive
    | some v =>
      rw [Tab.get_of_find d hf] at alive
      exact List.mem_map.2 ⟨(i, v), List.mem_filter.2 ⟨Tab.mem_of_find hf, alive⟩, rfl⟩
  simpa using (List.subperm_of_subset List.nodup_range listed).length_le

/-- So below the limit there is a slot that is not live. -/
theorem freeSealSlot {s : State} {fn : Nat} (h : ((s.func fn).slots.filter (fun e => e.2.live)).length < sealLimit s fn) :
    ∃ n, (List.range (sealLimit s fn)).find? (fun i => !(Tab.get (s.func fn).slots i {}).live) = some n := by
  cases hf : (List.range (sealLimit s fn)).find? (fun i => !(Tab.get (s.func fn).slots i {}).live) with
  | some n => exact ⟨n, rfl⟩
  | none =>
    have full := Tab.le_length_filter (s.func fn).slots ({} : SealedSlot) SealedSlot.live rfl (n := sealLimit s fn) fun i hi => by
      simpa using List.find?_eq_none.1 hf i (List.mem_range.2 hi)
    omega

/-! ### The place of an object (R67) -/

theorem someGap_mem (s : State) {l : List Nat} (h : l ≠ []) : someGap s l ∈ l := by
  have lt : Config.freeNat s.free % l.length < l.length := Nat.mod_lt _ (List.length_pos_iff.2 h)
  rw [someGap, List.getD_eq_getElem?_getD, List.getElem?_eq_getElem lt, Option.getD_some]
  exact List.getElem_mem lt

theorem gapsFor_le {used : List (Nat × Nat)} {size n a : Nat} (h : a ∈ gapsFor used size n) : a + n ≤ size := by
  have fits := (List.mem_filter.1 h).2
  simp only [Bool.and_eq_true, decide_eq_true_eq] at fits
  exact fits.1

/-- A code area has at most 2^31 units of 32 bytes (R82, R492). -/
theorem codeArea_units_le (s : State) (fn : Nat) : (codeArea s fn).2 / 32 ≤ 2 ^ 31 := by
  unfold codeArea
  split
  · have : fld s.pfCodeb.toNat 48 16 < 2 ^ 16 := Nat.mod_lt _ (by decide)
    dsimp only
    omega
  · have := (s.func fn).codeMb.isLt
    dsimp only
    omega

/-! ### Handles (R68, R69) -/

/-- The fields of a handle without its check. -/
def handleWord (fn n : Nat) (x : SealedSlot) : Nat :=
  fn + 2 ^ 8 * n + 2 ^ 16 * x.gen.toNat + 2 ^ 32 * x.entries.length + 2 ^ 48 * x.base + 2 ^ 80 * x.len

/-- A slot whose fields fit in a handle. -/
def HandleFits (fn n : Nat) (x : SealedSlot) : Prop :=
  fn < 2 ^ 8 ∧ n < 2 ^ 8 ∧ x.entries.length < 2 ^ 16 ∧ x.base < 2 ^ 32 ∧ x.len < 2 ^ 24

theorem handleOf_toNat {fn n : Nat} {x : SealedSlot} (h : HandleFits fn n x) : (handleOf fn n x).toNat =
    handleWord fn n x + 2 ^ 104 * (Config.handleCheck (BitVec.ofNat 104 (handleWord fn n x))).toNat := by
  obtain ⟨hfn, hn, he, hb, hl⟩ := h
  have hg := x.gen.isLt
  show (BitVec.ofNat 128 (handleWord fn n x + 2 ^ 104 * (Config.handleCheck (BitVec.ofNat 104 (handleWord fn n x))).toNat)).toNat = _
  have hc := (Config.handleCheck (BitVec.ofNat 104 (handleWord fn n x))).isLt
  rw [BitVec.toNat_ofNat]
  generalize (Config.handleCheck (BitVec.ofNat 104 (handleWord fn n x))).toNat = c at hc
  refine Nat.mod_eq_of_lt ?_
  simp only [handleWord]
  omega

/-- A handle names the slot that it was made of, while that slot is valid. -/
theorem handleSlot_handleOf {s : State} {fn n : Nat} {x : SealedSlot} (h : HandleFits fn n x)
    (hx : Tab.get (s.func fn).slots n {} = x) (live : x.live = true) (keep : x.releasing = false) :
    handleSlot s fn (handleOf fn n x) = some (n, x) := by
  have word := handleOf_toNat h
  obtain ⟨hfn, hn, he, hb, hl⟩ := h
  have hg := x.gen.isLt
  have low (c : Nat) : BitVec.ofNat 104 (handleWord fn n x + 2 ^ 104 * c) = BitVec.ofNat 104 (handleWord fn n x) :=
    BitVec.eq_of_toNat_eq (by simp only [BitVec.toNat_ofNat, Nat.add_mul_mod_self_left])
  have hc := (Config.handleCheck (BitVec.ofNat 104 (handleWord fn n x))).isLt
  have check : Config.handleCheck (BitVec.ofNat 104 (handleOf fn n x).toNat) =
      Config.handleCheck (BitVec.ofNat 104 (handleWord fn n x)) := by rw [word, low]
  generalize Config.handleCheck (BitVec.ofNat 104 (handleWord fn n x)) = c at hc word check
  have fields : fld (handleOf fn n x).toNat 0 8 = fn ∧ fld (handleOf fn n x).toNat 8 8 = n ∧
      fld (handleOf fn n x).toNat 16 16 = x.gen.toNat ∧ fld (handleOf fn n x).toNat 32 16 = x.entries.length ∧
      fld (handleOf fn n x).toNat 48 32 = x.base ∧ fld (handleOf fn n x).toNat 80 24 = x.len ∧
      fld (handleOf fn n x).toNat 104 24 = c.toNat := by
    rw [word]
    simp only [fld, handleWord]
    omega
  obtain ⟨owner, slot, gen, entries, base, len, code⟩ := fields
  simp only [handleSlot, owner, slot, gen, entries, base, len, code, check, hx]
  simp [live, keep]

/-- A handle that names a slot has its number, and the slot is as the function's table has it. -/
theorem handleSlot_some {s : State} {fn n : Nat} {h : BitVec 128} {x : SealedSlot} (hs : handleSlot s fn h = some (n, x)) :
    n = fld h.toNat 8 8 ∧ x = Tab.get (s.func fn).slots n {} := by
  simp only [handleSlot, Option.ite_none_right_eq_some, Option.some.injEq, Prod.mk.injEq] at hs
  obtain ⟨-, rfl, rfl⟩ := hs
  exact ⟨rfl, rfl⟩

/-- A slot that is being released has no valid handle (R70). -/
theorem handleSlot_releasing {s : State} {fn : Nat} {h : BitVec 128}
    (hr : (Tab.get (s.func fn).slots (fld h.toNat 8 8) {}).releasing = true) : handleSlot s fn h = none := by
  simp [handleSlot, hr]

/-! ### SEALCMD 1 -/

theorem exec_sealStart (fn : Nat) (s : State) : exec (.sealStart fn) s = .next (sealNow s fn) := rfl

theorem exec_sealRelease (fn : Nat) (s : State) : exec (.sealRelease fn) s = .next (releaseNow s fn) := rfl

theorem sealNow_busy {s : State} {fn : Nat} (h : (s.func fn).sealBusy = true) : sealNow s fn = s := by simp [sealNow, h]

theorem releaseNow_busy {s : State} {fn : Nat} (h : (s.func fn).sealBusy = true) : releaseNow s fn = s := by
  simp [releaseNow, h]

theorem func_setSealResult (s : State) (fn code : Nat) :
    (setSealResult s fn code).func fn = { s.func fn with sealResult := BitVec.ofNat 8 code } := func_modFunc s fn _

/-- A seal that fails a check leaves its result, and nothing else. -/
theorem sealNow_refused {s : State} {fn : Nat} (hb : (s.func fn).sealBusy = false) (h : sealCode s fn ≠ 0) :
    sealNow s fn = setSealResult s fn (sealCode s fn) := by
  simp only [sealNow, hb, Bool.false_eq_true, if_false]
  split <;> simp [h]

theorem sealNow_seals {s : State} {fn : Nat} {img : List Byte} (hb : (s.func fn).sealBusy = false) (h : sealCode s fn = 0)
    (hi : sealImage s fn = some img) : sealNow s fn = setSealResult (sealObject s fn img) fn 0 := by
  simp [sealNow, hb, h, hi]

/-- The slot number that a seal takes. -/
def sealTarget (s : State) (fn : Nat) : Nat :=
  ((List.range (sealLimit s fn)).find? (fun i => !(Tab.get (s.func fn).slots i {}).live)).getD 0

/-- What a seal puts in it. -/
def sealedSlot (s : State) (fn : Nat) (img : List Byte) : SealedSlot :=
  { live := true, gen := (Tab.get (s.func fn).slots (sealTarget s fn) {}).gen
    base := someGap s (codeGaps s fn (objectUnits (fieldAt img 0x1C 4) (imageEntries img).length))
    len := fieldAt img 0x1C 4, entries := imageEntries img
    body := (img.drop (fieldAt img 0x24 4)).take (32 * fieldAt img 0x1C 4) }

theorem func_sealObject (s : State) (fn : Nat) (img : List Byte) : (sealObject s fn img).func fn = { s.func fn with
    slots := Tab.set (s.func fn).slots (sealTarget s fn) (sealedSlot s fn img)
    sealH := handleOf fn (sealTarget s fn) (sealedSlot s fn img)
    mcode := leBytes 64 (Config.sha512 ((s.func fn).measure ++ leBytes 64 (Config.sha512 img).toNat)).toNat } :=
  func_setFunc _ _ _

theorem mem_sealObject (s : State) (fn : Nat) (img : List Byte) : (sealObject s fn img).mem =
    Memory.write s.mem (flatOf s fn ((codeArea s fn).1 + 32 * (sealedSlot s fn img).base)) ((sealedSlot s fn img).body ++
      (img.drop (fieldAt img 0x20 4)).take (16 * (imageEntries img).length)) := rfl

theorem length_imageEntries (img : List Byte) : (imageEntries img).length = fieldAt img 0x18 4 := by simp [imageEntries]

/-- The slot that a seal takes is free, and with its object it fits in a handle. -/
theorem sealedSlot_fits {s : State} {fn : Nat} {img : List Byte} (hi : sealImage s fn = some img) (h : sealCode s fn = 0)
    (limit : sealLimit s fn ≤ 256) (hfn : fn ≤ pfFn) : (Tab.get (s.func fn).slots (sealTarget s fn) {}).live = false ∧
      HandleFits fn (sealTarget s fn) (sealedSlot s fn img) := by
  obtain ⟨shape, below, gaps⟩ := sealCode_passes hi h
  obtain ⟨nent, nb, -⟩ := imageShape_bounds shape
  obtain ⟨n, hn⟩ := freeSealSlot below
  have target : sealTarget s fn = n := by rw [sealTarget, hn, Option.getD_some]
  have lt : n < sealLimit s fn := List.mem_range.1 (List.mem_of_find?_eq_some hn)
  have free := List.find?_some hn
  have base : (sealedSlot s fn img).base + objectUnits (fieldAt img 0x1C 4) (fieldAt img 0x18 4) ≤ 2 ^ 31 := by
    have area := codeArea_units_le s fn
    have gap := gapsFor_le (someGap_mem s gaps)
    rw [sealedSlot, length_imageEntries]
    exact gap.trans area
  rw [target]
  refine ⟨by simpa using free, ?_, by omega, ?_, by omega, nb⟩
  · have : pfFn = 192 := rfl
    omega
  · show (imageEntries img).length < _
    rw [length_imageEntries]
    omega

/-- A range's first bytes. -/
theorem Memory.bytes_take (m : Memory) (a n k : Nat) : (Memory.bytes m a (n + k)).take n = Memory.bytes m a n := by
  rw [Memory.bytes_eq, Memory.bytes_eq, ← List.map_take, List.take_range, Nat.min_eq_left (Nat.le_add_right n k)]

theorem sealStart_seals {s : State} {fn : Nat} {img : List Byte} (hb : (s.func fn).sealBusy = false) (h : sealCode s fn = 0)
    (hi : sealImage s fn = some img) (limit : sealLimit s fn ≤ 256) (hfn : fn ≤ pfFn) (wf : Memory.wf s.mem) :
    ∃ t n x, exec (.sealStart fn) s = .next t ∧ handleSlot t fn (t.func fn).sealH = some (n, x) ∧
      (t.func fn).sealResult = 0#8 ∧ x.entries = imageEntries img ∧ x.len = fieldAt img 0x1C 4 ∧
      (Tab.get (s.func fn).slots n {}).live = false ∧
      Memory.bytes t.mem (flatOf s fn ((codeArea s fn).1 + 32 * x.base)) (32 * x.len) =
        (img.drop (fieldAt img 0x24 4)).take (32 * x.len) ∧
      (t.func fn).mcode = leBytes 64 (Config.sha512 ((s.func fn).measure ++ leBytes 64 (Config.sha512 img).toNat)).toNat := by
  obtain ⟨free, fits⟩ := sealedSlot_fits hi h limit hfn
  obtain ⟨-, -, inside⟩ := imageShape_bounds (sealCode_passes hi h).1
  have func : (setSealResult (sealObject s fn img) fn 0).func fn = _ :=
    (func_setSealResult _ fn 0).trans (by rw [func_sealObject])
  refine ⟨_, sealTarget s fn, sealedSlot s fn img, (exec_sealStart fn s).trans (congrArg _ (sealNow_seals hb h hi)), ?handle, ?result, rfl,
    rfl, free, ?bytes, ?measure⟩
  case handle =>
    rw [func]
    exact handleSlot_handleOf fits (by rw [func]; exact Tab.get_set_same _ _ _ _) rfl rfl
  case result => rw [func]
  case measure => rw [func]
  case bytes =>
    have body : (sealedSlot s fn img).body.length = 32 * (sealedSlot s fn img).len := by
      show ((img.drop _).take (32 * fieldAt img 0x1C 4)).length = 32 * fieldAt img 0x1C 4
      rw [List.length_take, List.length_drop]
      omega
    show Memory.bytes (sealObject s fn img).mem _ _ = (sealedSlot s fn img).body
    rw [mem_sealObject, ← Memory.bytes_take _ _ _ ((img.drop (fieldAt img 0x20 4)).take (16 * (imageEntries img).length)).length,
      ← body, ← List.length_append, Memory.bytes_write_same wf, List.take_left]

/-! ### SEALCMD 2 and its end (R70) -/

theorem sealRelease_invalid {s : State} {fn : Nat} (hb : (s.func fn).sealBusy = false)
    (hn : handleSlot s fn (s.func fn).sealH = none) : ∃ t, exec (.sealRelease fn) s = .next t ∧
      t.func fn = { s.func fn with sealResult := 7#8 } := by
  have now : releaseNow s fn = setSealResult s fn 7 := by simp [releaseNow, hb, hn]
  exact ⟨_, exec_sealRelease fn s, by rw [now, func_setSealResult]⟩

theorem sealRelease_begins {s : State} {fn n : Nat} {x : SealedSlot} (hb : (s.func fn).sealBusy = false)
    (hs : handleSlot s fn (s.func fn).sealH = some (n, x)) : ∃ t, exec (.sealRelease fn) s = .next t ∧ SameBytes s t ∧
      (t.func fn).sealBusy = true ∧ handleSlot t fn (s.func fn).sealH = none := by
  obtain ⟨number, -⟩ := handleSlot_some hs
  refine ⟨s.setFunc fn { s.func fn with sealBusy := true, slots := Tab.set (s.func fn).slots n { x with releasing := true } },
    ?run, fun _ => rfl, by rw [func_setFunc], handleSlot_releasing ?gone⟩
  case run =>
    rw [exec_sealRelease]
    simp [releaseNow, hb, hs]
  case gone => rw [func_setFunc, ← number, Tab.get_set_same]

theorem sealReleaseDone_idle {s : State} {fn : Nat} (hb : (s.func fn).sealBusy = false) :
    exec (.sealReleaseDone fn) s = .next s := if_neg (by rw [hb]; decide)

/-- The end of a release waits for the object's last user, and then frees the slot under its next generation. -/
theorem sealReleaseDone_cases {s : State} {fn n : Nat} {x : SealedSlot} (hb : (s.func fn).sealBusy = true)
    (hs : (s.func fn).slots.find? (fun e => e.2.releasing) = some (n, x)) :
    (objectUsed s fn n = true → exec (.sealReleaseDone fn) s = .next s) ∧
    (objectUsed s fn n = false → ∃ t, exec (.sealReleaseDone fn) s = .next t ∧ SameBytes s t ∧
      (t.func fn).sealBusy = false ∧ (t.func fn).sealResult = 0#8 ∧
      Tab.get (t.func fn).slots n {} = { x with live := false, releasing := false, gen := x.gen + 1#16 }) := by
  have run : exec (.sealReleaseDone fn) s = .next (releaseEnd s fn) := if_pos hb
  refine ⟨fun used => ?_, fun unused => ?_⟩
  · rw [run]
    simp [releaseEnd, hs, used]
  · have freed : releaseEnd s fn = s.setFunc fn { s.func fn with
        sealBusy := false
        sealResult := 0#8
        slots := Tab.set (s.func fn).slots n { x with live := false, releasing := false, gen := x.gen + 1#16 } } := by
      simp [releaseEnd, hs, unused]
    refine ⟨_, run.trans (congrArg _ freed), fun _ => rfl, ?_⟩
    rw [func_setFunc]
    exact ⟨rfl, rfl, Tab.get_set_same _ _ _ _⟩

/-! ### Attestation (R74) -/

/-- Where a function may have its report written. -/
def mayReport (s : State) (fn : Nat) : Prop :=
  (fn = pfFn ∨ (s.func fn).en = true) ∧ inSeg s fn ((s.func fn).attAddr.toNat / 512 * 512) (report s fn).length = true

theorem attestNow_mem (s : State) (fn : Nat) : (mayReport s fn → (attestNow s fn).mem =
      Memory.write s.mem (flatOf s fn ((s.func fn).attAddr.toNat / 512 * 512)) (report s fn)) ∧
    (¬ mayReport s fn → (attestNow s fn).mem = s.mem) := by
  have cond : ((fn == pfFn || (s.func fn).en) && inSeg s fn ((s.func fn).attAddr.toNat / 512 * 512) (report s fn).length) = true ↔
      mayReport s fn := by simp [mayReport]
  refine ⟨fun h => ?_, fun h => ?_⟩
  · rw [attestNow, if_pos (cond.2 h)]
    rfl
  · rw [attestNow, if_neg (mt cond.1 h)]
    rfl

theorem attgo_reports (s : State) (fn : Nat) : let f := s.func fn
    let a := f.attAddr.toNat / 512 * 512
    let r := report s fn
    let may := (fn = pfFn ∨ f.en = true) ∧ inSeg s fn a r.length = true
    ∃ t, exec (.attgo fn) s = .next t ∧ (t.func fn).attDone = true ∧ (¬ may → SameBytes s t) ∧
      (may → Memory.wf s.mem → SameBytesBut s t (flatOf s fn a) r.length ∧
        Memory.bytes t.mem (flatOf s fn a) r.length = r) := by
  intro f a r may
  obtain ⟨written, unwritten⟩ := attestNow_mem s fn
  refine ⟨attestNow s fn, rfl, ?_, fun h => sameBytes_of_mem (unwritten h), fun h wf => ?_⟩
  · rw [attestNow, func_modFunc]
  · unfold SameBytesBut
    rw [written h]
    exact ⟨fun x hx => Memory.read_write_ne wf hx, Memory.bytes_write_same wf _ _⟩

/-- Settles O49: each command of the sealing page through the lemma about it. -/
theorem sealingAndAttestation : Obligations.SealingAndAttestation := by
  unfold Obligations.SealingAndAttestation
  refine ⟨fun s fn => ⟨fun hb => ?busy, fun hb h => ?refused, fun img hb h hi limit hfn wf => sealStart_seals hb h hi limit hfn wf,
    sealRelease_invalid, fun n x => sealRelease_begins, sealReleaseDone_idle, fun n x => sealReleaseDone_cases⟩, attgo_reports⟩
  case busy => exact ⟨by rw [exec_sealStart, sealNow_busy hb], by rw [exec_sealRelease, releaseNow_busy hb]⟩
  case refused =>
    exact ⟨_, (exec_sealStart fn s).trans (congrArg _ (sealNow_refused hb h)), fun _ => rfl, func_setSealResult s fn _⟩

end Sys2Proof.Machine
end

section
/-! PROOFS. Debug stops (R267, R269, R270, R273): a stop holds its path and, under ALLSTOP, its task, ends the steps of its
team, and leaves one record, which goes to the ring when the cycle ends. -/

namespace Sys2Proof.Machine

open Sys2Proof

/-- A table holds after a write what was written and what it held. -/
theorem Tab.mem_set {α : Type} {t : Tab α} {n : Nat} {v : α} {e : Nat × α} (h : e ∈ Tab.set t n v) : e = (n, v) ∨ e ∈ t := by
  induction t with
  | nil => exact .inl (List.mem_singleton.1 h)
  | cons x t ih =>
    obtain ⟨k, w⟩ := x
    by_cases hk : k = n
    · rw [Tab.set, if_pos hk, List.mem_cons] at h
      rcases h with h | h
      · exact .inl (by rw [h, hk])
      · exact .inr (List.mem_cons_of_mem _ h)
    · rw [Tab.set, if_neg hk, List.mem_cons] at h
      rcases h with h | h
      · exact .inr (by simp [h])
      · exact (ih h).imp_right (List.mem_cons_of_mem _)

theorem path_modPath (tm : Team) (p : Nat) (g : Path → Path) : (tm.modPath p g).path p = g (tm.path p) := path_setPath tm p _

/-! ### The end of a step -/

/-- What the end of a step makes of a path of its team (R273). -/
def stepEnded (arrived : Bool) (pa : Path) : Path :=
  if pa.held then { pa with stepHeld := false, stepping := false, stepped := false } else pa.release arrived

theorem stepEnded_held {arrived : Bool} {pa : Path} (h : pa.held = true) : (stepEnded arrived pa).held = true := by
  simp [stepEnded, h]

theorem stepEnded_pc (arrived : Bool) (pa : Path) : (stepEnded arrived pa).pc = pa.pc := by
  unfold stepEnded
  split
  · rfl
  · rfl

theorem stepEnded_over (arrived : Bool) (pa : Path) : (stepEnded arrived pa).stepHeld = false ∧
    (stepEnded arrived pa).stepping = false ∧ (stepEnded arrived pa).stepped = false := by
  unfold stepEnded
  split
  · exact ⟨rfl, rfl, rfl⟩
  · exact ⟨rfl, rfl, rfl⟩

/-- The team of a step that has ended. -/
def stepEndedTeam (s : State) (tm : Team) : Team :=
  { tm with paths := tm.paths.map (fun e => (e.1, stepEnded (hasArrived s tm) e.2)) }

theorem endStep_eq (s : State) (t : Nat) : endStep s t = s.setTeam t (stepEndedTeam s (s.team t)) := rfl

theorem path_stepEndedTeam (s : State) (tm : Team) (p : Nat) :
    (stepEndedTeam s tm).path p = stepEnded (hasArrived s tm) (tm.path p) := Tab.get_map _ _ _ rfl

theorem stepEndedTeam_over (s : State) (tm : Team) : ∀ q ∈ (stepEndedTeam s tm).paths,
    q.2.stepHeld = false ∧ q.2.stepping = false ∧ q.2.stepped = false := by
  intro q hq
  obtain ⟨e, -, rfl⟩ := List.mem_map.1 hq
  exact stepEnded_over _ _

/-! ### What a stop is to leave -/

/-- A path is held. -/
def PathHeld (t p : Nat) (s : State) : Prop := ((s.team t).path p).held = true

/-- No path of a team is stepped, or held by a step. -/
def StepOver (t : Nat) (s : State) : Prop :=
  ∀ q ∈ (s.team t).paths, q.2.stepHeld = false ∧ q.2.stepping = false ∧ q.2.stepped = false

/-- Every path of a task is held. -/
def TaskHeld (k : Nat) (s : State) : Prop := ∀ e ∈ s.teams, e.2.task = k → ∀ q ∈ e.2.paths, q.2.held = true

/-- Only teams differ from a state. -/
def OnlyTeams (s u : State) : Prop := ∃ ts, u = { s with teams := ts }

theorem pathHeld_endStep {t p : Nat} (s : State) (n : Nat) (h : PathHeld t p s) : PathHeld t p (endStep s n) := by
  unfold PathHeld
  rw [endStep_eq]
  by_cases hn : t = n
  · subst hn
    rw [team_setTeam, path_stepEndedTeam]
    exact stepEnded_held h
  · rw [team_setTeam_ne _ _ _ _ hn]
    exact h

theorem stepOver_endStep_self (s : State) (t : Nat) : StepOver t (endStep s t) := by
  unfold StepOver
  rw [endStep_eq, team_setTeam]
  exact stepEndedTeam_over s _

theorem stepOver_endStep {t : Nat} (s : State) (n : Nat) (h : StepOver t s) : StepOver t (endStep s n) := by
  by_cases hn : t = n
  · rw [hn]
    exact stepOver_endStep_self s n
  · unfold StepOver
    rw [endStep_eq, team_setTeam_ne _ _ _ _ hn]
    exact h

theorem taskHeld_endStep {k : Nat} (s : State) (n : Nat) (h : TaskHeld k s) : TaskHeld k (endStep s n) := by
  intro e he hk q hq
  rcases Tab.mem_set (endStep_eq s n ▸ he) with rfl | he
  · obtain ⟨p, hp, rfl⟩ := List.mem_map.1 hq
    refine stepEnded_held ?_
    cases hf : Tab.find s.teams n with
    | none => simp [State.team, Tab.get, hf] at hp
    | some tm =>
      rw [State.team, Tab.get_of_find _ hf] at hp
      have task : (s.team n).task = k := hk
      rw [State.team, Tab.get_of_find _ hf] at task
      exact h _ (Tab.mem_of_find hf) task p hp
  · exact h e he hk q hq

theorem onlyTeams_endStep {s : State} (u : State) (n : Nat) (h : OnlyTeams s u) : OnlyTeams s (endStep u n) := by
  obtain ⟨ts, rfl⟩ := h
  exact ⟨_, rfl⟩

/-! ### A task that is held -/

/-- The state in which every path of a task is held, before the steps that this ends. -/
def heldTeams (s : State) (k : Nat) : State :=
  { s with teams := s.teams.map (fun e =>
      (e.1, if e.2.task == k then { e.2 with paths := e.2.paths.map (fun q => (q.1, q.2.hold)) } else e.2)) }

theorem heldTeams_team (s : State) (k t : Nat) : (heldTeams s k).team t = s.team t ∨
    (heldTeams s k).team t = { s.team t with paths := (s.team t).paths.map (fun q => (q.1, q.2.hold)) } := by
  have team : (heldTeams s k).team t = if (s.team t).task == k then
      { s.team t with paths := (s.team t).paths.map (fun q => (q.1, q.2.hold)) } else s.team t :=
    Tab.get_map _ (fun x : Team => if x.task == k then { x with paths := x.paths.map (fun q => (q.1, q.2.hold)) } else x) _
      (by split <;> rfl)
  rw [team]
  split
  · exact .inr rfl
  · exact .inl rfl

theorem pathHeld_heldTeams {t p : Nat} (s : State) (k : Nat) (h : PathHeld t p s) : PathHeld t p (heldTeams s k) := by
  unfold PathHeld
  rcases heldTeams_team s k t with team | team
  · rw [team]
    exact h
  · rw [team]
    unfold PathHeld Team.path Tab.get at h
    unfold Team.path Tab.get
    rw [Tab.find_map]
    cases hf : Tab.find (s.team t).paths p with
    | none => rw [hf] at h; exact h
    | some pa => rfl

theorem stepOver_heldTeams {t : Nat} (s : State) (k : Nat) (h : StepOver t s) : StepOver t (heldTeams s k) := by
  unfold StepOver
  rcases heldTeams_team s k t with team | team
  · rw [team]
    exact h
  · rw [team]
    intro q hq
    obtain ⟨e, he, rfl⟩ := List.mem_map.1 hq
    exact h e he

theorem taskHeld_heldTeams (s : State) (k : Nat) : TaskHeld k (heldTeams s k) := by
  intro e he hk q hq
  obtain ⟨x, -, rfl⟩ := List.mem_map.1 he
  by_cases task : x.2.task = k
  · simp only [task, beq_self_eq_true, if_true, List.mem_map] at hq
    obtain ⟨y, -, rfl⟩ := hq
    rfl
  · simp [task] at hk

/-- The state in which a path's stop has been noted and the path is held. -/
def stopNoted (s : State) (t p code idx : Nat) : State :=
  { s.modPath t p Path.hold with stops := s.stops ++ [stopOf s t p code idx] }

/-- A stop ends the steps of its team, and under ALLSTOP holds the task (R269). -/
theorem stopPath_eq_ite (s : State) (t p code idx : Nat) : stopPath s t p code idx =
    if ((dropStep (stopNoted s t p code idx) t).func ((dropStep (stopNoted s t p code idx) t).task (s.team t).task).fn).allStop then
      holdTask (dropStep (stopNoted s t p code idx) t) (s.team t).task
    else dropStep (stopNoted s t p code idx) t := rfl

section
variable {P : State → Prop} (ends : ∀ s n, P s → P (endStep s n))
include ends

theorem dropStep_keeps (s : State) (t : Nat) (h : P s) : P (dropStep s t) := by
  unfold dropStep
  split
  · exact ends s t h
  · exact h

theorem holdTask_keeps {s : State} {k : Nat} (h : P (heldTeams s k)) : P (holdTask s k) :=
  List.foldlRecOn _ dropStep h fun s hs t _ => dropStep_keeps ends s t hs

/-- What the end of a step and a hold keep, a stop keeps. -/
theorem stopPath_keeps (holds : ∀ s k, P s → P (heldTeams s k)) {s : State} {t p code idx : Nat}
    (h : P (stopNoted s t p code idx)) : P (stopPath s t p code idx) := by
  rw [stopPath_eq_ite]
  split
  · exact holdTask_keeps ends (holds _ _ (dropStep_keeps ends _ _ h))
  · exact dropStep_keeps ends _ _ h

end

/-! ### A stop -/

theorem stopPath_eq (s : State) (t p code idx : Nat) :
    ∃ ts, stopPath s t p code idx = { s with teams := ts, stops := s.stops ++ [stopOf s t p code idx] } := by
  have only : OnlyTeams { s with stops := s.stops ++ [stopOf s t p code idx] } (stopPath s t p code idx) :=
    stopPath_keeps onlyTeams_endStep (fun u k ⟨ts, h⟩ => ⟨_, by rw [h]; rfl⟩) ⟨_, rfl⟩
  exact only

theorem stopPath_holds (s : State) (t p code idx : Nat) : PathHeld t p (stopPath s t p code idx) := by
  refine stopPath_keeps pathHeld_endStep pathHeld_heldTeams ?_
  show (((s.modPath t p Path.hold).team t).path p).held = true
  rw [State.modPath, team_modTeam, path_modPath]
  rfl

theorem dropStep_only (s : State) (t : Nat) : OnlyTeams s (dropStep s t) :=
  dropStep_keeps onlyTeams_endStep s t ⟨s.teams, rfl⟩

theorem stopPath_holdsTask {s : State} {t : Nat} (p code idx : Nat)
    (h : (s.func (s.task (s.team t).task).fn).allStop = true) : TaskHeld (s.team t).task (stopPath s t p code idx) := by
  obtain ⟨ts, only⟩ := dropStep_only (stopNoted s t p code idx) t
  have flag : ((dropStep (stopNoted s t p code idx) t).func
      ((dropStep (stopNoted s t p code idx) t).task (s.team t).task).fn).allStop = true := by
    rw [only]
    exact h
  rw [stopPath_eq_ite, if_pos flag]
  exact holdTask_keeps taskHeld_endStep (taskHeld_heldTeams _ _)

/-- A path that stops is stopped by the debugger's rules. -/
theorem stopPath_recorded (s : State) (t p code idx : Nat) : StopRecorded s (stopPath s t p code idx) t p code idx := by
  refine ⟨stopPath_holds s t p code idx, ?_, stopPath_holdsTask p code idx⟩
  obtain ⟨ts, h⟩ := stopPath_eq s t p code idx
  rw [h]

/-- A change of the team's paths before the stop leaves the record as it is, but for the path's PC. -/
theorem stopPath_recorded_after {s : State} {t p : Nat} {tm : Team} (code idx : Nat) (task : tm.task = (s.team t).task)
    (crew : tm.crew = (s.team t).crew) (tix : tm.tix = (s.team t).tix) (pc : (tm.path p).pc = ((s.team t).path p).pc) :
    StopRecorded s (stopPath (s.setTeam t tm) t p code idx) t p code idx := by
  have record : stopOf (s.setTeam t tm) t p code idx = stopOf s t p code idx := by
    unfold stopOf
    dsimp only
    rw [team_setTeam, task, crew, tix, pc]
    rfl
  obtain ⟨held, stops, all⟩ := stopPath_recorded (s.setTeam t tm) t p code idx
  refine ⟨held, stops.trans (by rw [record]; rfl), ?_⟩
  rw [team_setTeam, task] at all
  exact all

theorem breakpointHit_stops {s : State} {t p n : Nat} (h : hitOf s t p = some n) :
    ∃ u, exec (.breakpointHit t p) s = .next u ∧ StopRecorded s u t p 0x0D n := by
  refine ⟨stopPath (s.modPath t p (fun pa => { pa with hitDone := true })) t p 0x0D n, ?_, ?_⟩
  · show execBreakpointHit t p s = _
    simp only [execBreakpointHit, h]
  · exact stopPath_recorded_after _ _ rfl rfl rfl (by simp only [path_modPath])

theorem stepOver_stopPath {s : State} {t : Nat} (p code idx : Nat) (h : StepOver t s) :
    StepOver t (stopPath s t p code idx) := by
  refine stopPath_keeps stepOver_endStep stepOver_heldTeams ?_
  unfold StepOver
  show ∀ q ∈ ((s.modPath t p Path.hold).team t).paths, _
  rw [State.modPath, team_modTeam]
  intro q hq
  rcases Tab.mem_set hq with rfl | hq
  · show ((s.team t).path p).stepHeld = false ∧ ((s.team t).path p).stepping = false ∧ ((s.team t).path p).stepped = false
    cases hf : Tab.find (s.team t).paths p with
    | none => simp [Team.path, Tab.get, hf]
    | some pa =>
      rw [Team.path, Tab.get_of_find _ hf]
      exact h (p, pa) (Tab.mem_of_find hf)
  · exact h q hq

theorem stepComplete_stops {s : State} {t p : Nat} (h : stepDue s t p = true) :
    ∃ u, exec (.stepComplete t p) s = .next u ∧ StopRecorded s u t p 0x0F 0 ∧
      ∀ q ∈ (u.team t).paths, q.2.stepHeld = false ∧ q.2.stepping = false ∧ q.2.stepped = false := by
  refine ⟨stopPath (endStep s t) t p 0x0F 0, if_pos h, ?_, stepOver_stopPath p _ _ (stepOver_endStep_self s t)⟩
  rw [endStep_eq]
  exact stopPath_recorded_after _ _ rfl rfl rfl (by rw [path_stepEndedTeam, stepEnded_pc])

/-! ### Stops that await the end of a bundle -/

section
variable {s : State} {t p code idx : Nat} {tm : Team} {pa : Path} (htm : Tab.find s.teams t = some tm)
  (hpa : Tab.find tm.paths p = some pa) (hstop : pa.stopAfter = [(code, idx)])
include htm hpa

theorem takeStops_waits (h : bundleDone s tm p pa = false) : takeStops s t p = s := by
  simp only [takeStops, htm, hpa, h, Bool.not_false, Bool.or_true, if_true]

include hstop in
theorem takeStops_stops (h : bundleDone s tm p pa = true) : StopRecorded s (takeStops s t p) t p code idx := by
  have team : s.team t = tm := Tab.get_of_find _ htm
  have path : tm.path p = pa := Tab.get_of_find _ hpa
  have stop : takeStops s t p = stopPath (s.setTeam t (tm.setPath p { pa with stopAfter := [] })) t p code idx := by
    simp [takeStops, htm, hpa, h, hstop]
  rw [stop]
  exact stopPath_recorded_after _ _ (by rw [team]; rfl) (by rw [team]; rfl) (by rw [team]; rfl)
    (by rw [path_setPath, team, path])

end

/-! ### The stop ring (R270) -/

/-- What a trace record changes of a function: its own tail, or its count of lost records (R281). -/
theorem traceEvent_func (s : State) (fn : Nat) (k : TraceKind) (detail : Nat) (a : TraceAt) :
    ∃ tail drop, (traceEvent s fn k detail a).func fn = { s.func fn with trcTail := tail, trcDrop := drop } := by
  unfold traceEvent
  dsimp only
  split
  · exact ⟨_, _, rfl⟩
  · split
    · exact ⟨_, _, func_setFunc _ _ _⟩
    · exact ⟨_, _, func_setFunc _ _ _⟩

theorem writeStop_written (s : State) (x : Stop) : StopWritten s (writeStop s x) x := by
  unfold writeStop
  dsimp only
  obtain ⟨tail, drop, hf⟩ := traceEvent_func s x.fn .stop x.code
    { taskid := x.taskid, lcore := x.lcore, tix := x.tix, path := x.path, crew := x.crew, pc := x.pc }
  rw [hf]
  generalize traceEvent s x.fn .stop x.code _ = u
  unfold StopWritten
  dsimp only
  split
  next full =>
    rw [func_setFunc]
    exact ⟨fun room => absurd full (Nat.not_le.2 room), fun _ => ⟨rfl, rfl⟩⟩
  next room =>
    refine ⟨fun _ => ?_, fun h => absurd (Nat.not_le.1 room) h⟩
    split
    · show ((State.setFunc _ _ _).func x.fn).stopTail = _ ∧ Tab.get ((State.setFunc _ _ _).func x.fn).stopEv _ _ = _
      rw [func_setFunc]
      exact ⟨rfl, Tab.get_set_same _ _ _ _⟩
    · rw [func_setFunc]
      exact ⟨rfl, Tab.get_set_same _ _ _ _⟩

end Sys2Proof.Machine
end

section
/-! PROOFS. Bundles that run no slot, and samples (R71, R227, R252, R279, R280): the gap of an empty bundle, a fault that is
deferred or stops its task, and the bytes of a sample. -/

namespace Sys2Proof.Machine

open Sys2Proof

/-! ### A nullified bundle (R227) -/

/-- The path of a bundle that has been nullified. -/
def nullifiedPath (c : Ctx) (pa : Path) : Path :=
  { pa.passed with readyAt := c.cyc + (c.hdr.gap.toNat + 1), gapTo := c.cyc + (c.hdr.gap.toNat + 1), gapReason := 23, passes := []
                   stretchTo := 0, yld := c.hdr.yld, keep := [], stall := 1, hitDone := false, hitWas := pa.hitDone
                   stepped := pa.stepping, deferReplay := false, stepping := false, waitStep := none }

/-- Its team. -/
def nullifiedTeam (c : Ctx) (tm : Team) : Team := (tm.issued c.p c.hdr.yld).modPath c.p (nullifiedPath c)

theorem nullify_eq (s : State) (c : Ctx) : nullify s c =
    let u := pmCount (s.modTeam c.t (nullifiedTeam c)) (c.tk (s.modTeam c.t (nullifiedTeam c))).fn 0x03 1
    { (if c.hdr.yld then noteYield u c.t else u).bump with issue := none } := rfl

theorem pmCount_frame (s : State) (fn event n : Nat) : (pmCount s fn event n).mem = s.mem ∧
    (pmCount s fn event n).crews = s.crews ∧ ∀ t, (pmCount s fn event n).team t = s.team t := by
  obtain ⟨fs, h⟩ := pmCount_eq s fn event n
  rw [h]
  exact ⟨rfl, rfl, fun _ => rfl⟩

/-- A yield notes itself in its team, and changes nothing else. -/
theorem noteYield_cases (s : State) (t : Nat) : noteYield s t = s ∨ noteYield s t = s.setTeam t { s.team t with atYield := true } := by
  cases h : Tab.find s.teams t with
  | none => exact .inl (by simp only [noteYield, h])
  | some tm =>
    have team : s.team t = tm := Tab.get_of_find _ h
    simp only [noteYield, h, team]
    split
    all_goals (split; exacts [.inr rfl, .inl rfl])

theorem noteYield_frame (s : State) (t : Nat) : (noteYield s t).mem = s.mem ∧ (noteYield s t).crews = s.crews ∧
    ∃ y, (noteYield s t).team t = { s.team t with atYield := y } := by
  rcases noteYield_cases s t with h | h
  · rw [h]
    exact ⟨rfl, rfl, _, rfl⟩
  · rw [h]
    exact ⟨rfl, rfl, _, team_setTeam _ _ _⟩

theorem nullify_frame (s : State) (c : Ctx) : (nullify s c).issue = none ∧ (nullify s c).mem = s.mem ∧
    (nullify s c).crews = s.crews ∧ ∃ y, (nullify s c).team c.t = { nullifiedTeam c (s.team c.t) with atYield := y } := by
  obtain ⟨mem, crews, team⟩ := pmCount_frame (s.modTeam c.t (nullifiedTeam c)) (c.tk (s.modTeam c.t (nullifiedTeam c))).fn 0x03 1
  rw [nullify_eq]
  generalize pmCount _ _ 0x03 1 = u at mem crews team
  have team : u.team c.t = nullifiedTeam c (s.team c.t) := (team c.t).trans (team_modTeam s c.t _)
  dsimp only
  split
  · obtain ⟨mem', crews', y, team'⟩ := noteYield_frame u c.t
    exact ⟨rfl, mem'.trans mem, crews'.trans crews, y, by rw [← team]; exact team'⟩
  · exact ⟨rfl, mem, crews, _, team⟩

/-- A nullified bundle changes no register: only its path moves on, after the gap. -/
theorem nullify_leaves (s : State) (c : Ctx) : let pa := (s.team c.t).path c.p
    let t := nullify s c
    SameBytes s t ∧ t.issue = none ∧ t.crews = s.crews ∧ ((t.team c.t).path c.p).readyAt = c.cyc + c.hdr.gap.toNat + 1 ∧
      (pa.replay = none → ((t.team c.t).path c.p).pc = (pa.pc + 32) % 2 ^ 64) ∧ (t.team c.t).vregs = (s.team c.t).vregs ∧
      (t.team c.t).sregs = (s.team c.t).sregs ∧ (t.team c.t).preds = (s.team c.t).preds ∧
      (t.team c.t).pending = (s.team c.t).pending := by
  intro pa t
  obtain ⟨issue, mem, crews, y, team⟩ := nullify_frame s c
  have path : (t.team c.t).path c.p = nullifiedPath c pa := by
    rw [team]
    exact path_modPath ((s.team c.t).issued c.p c.hdr.yld) c.p _
  refine ⟨sameBytes_of_mem mem, issue, crews, by rw [path]; rfl, fun h => ?_, ?_⟩
  · rw [path]
    simp only [nullifiedPath, Path.passed, h]
  · rw [team]
    exact ⟨rfl, rfl, rfl, rfl⟩

/-! ### A fault that is deferred (R180) -/

/-- An illegal instruction is deferred in speculation, and elsewhere stops its task (R180, R252). -/
theorem takeFault_illegalOp (s : State) (t p pc : Nat) {f : FaultInfo} (h : f.code = .illegalOp) :
    ∃ g : FaultInfo, g.code = .illegalOp ∧ takeFault s t p pc f = if isSpeculative s (s.task (s.team t).task) then deferFault s t p pc g
      else stopTask s (s.team t).task (s.team t).wid0 p pc g := by
  refine ⟨{ f with deferred := f.deferred || ((s.team t).path p).deferReplay }, h, ?_⟩
  unfold takeFault
  simp [h, deferrable]

theorem deferFault_suspends (s : State) (t p pc : Nat) (f : FaultInfo) :
    ((deferFault s t p pc f).task (s.team t).task).suspended = true := by
  unfold deferFault
  dsimp only
  rw [State.modTask, task_setTask]

theorem team_stopTeams {s : State} {k t : Nat} {tm : Team} (h : Tab.find s.teams t = some tm) (task : tm.task = k) :
    (stopTeams s k).team t = { tm with stopped := true } := by
  have found : Tab.find (stopTeams s k).teams t = some (if tm.task == k then { tm with stopped := true } else tm) := by
    have map := Tab.find_map s.teams (fun x : Team => if x.task == k then { x with stopped := true } else x) t
    rw [h] at map
    exact map
  rw [State.team, Tab.get_of_find _ found, if_pos (beq_iff_eq.2 task)]

/-- A team's record of its first fault. -/
def deferredTeam (p pc : Nat) (f : FaultInfo) (tm : Team) : Team :=
  if tm.deferred.isSome then tm
  else { tm with deferred := some { f with deferred := true }, deferredAt := some (p, pc) }

/-- The first fault of a team is recorded, and the team stops. -/
theorem deferFault_team {s : State} {t : Nat} (p pc : Nat) (f : FaultInfo) (h : (s.team t).deferred = none) :
    (deferFault s t p pc f).team t =
      { s.team t with deferred := some { f with deferred := true }, deferredAt := some (p, pc), stopped := true } := by
  have record : deferredTeam p pc f (s.team t) =
      { s.team t with deferred := some { f with deferred := true }, deferredAt := some (p, pc) } := by simp [deferredTeam, h]
  show (stopTeams (s.setTeam t (deferredTeam p pc f (s.team t))) (s.team t).task).team t = _
  rw [team_stopTeams (Tab.find_set_same _ _ _) (by rw [record]), record]

/-! ### A fault that stops its task (R252) -/

theorem stopQueue_tasks (s : State) (fn q code : Nat) : (stopQueue s fn q code).tasks = s.tasks := by
  unfold stopQueue
  dsimp only
  split
  · rfl
  · rfl

/-- HEMLINE stays, or it alone changes (R167). -/
theorem updateHem_cases (s : State) (fn : Nat) :
    updateHem s fn = s ∨ ∃ h, updateHem s fn = s.setFunc fn { s.func fn with hemline := h } := by
  unfold updateHem
  exact iteInduction (motive := fun u => u = s ∨ ∃ h, u = s.setFunc fn { s.func fn with hemline := h })
    (fun _ => .inr ⟨_, rfl⟩) (fun _ => .inl rfl)

theorem updateHem_tasks (s : State) (fn : Nat) : (updateHem s fn).tasks = s.tasks := by
  rcases updateHem_cases s fn with h | ⟨v, h⟩
  · rw [h]
  · rw [h]
    rfl

theorem traceEvent_tasks (s : State) (fn : Nat) (k : TraceKind) (detail : Nat) (a : TraceAt) :
    (traceEvent s fn k detail a).tasks = s.tasks := by
  unfold traceEvent
  dsimp only
  split
  · rfl
  · split
    · rfl
    · rfl

theorem placeSaved_faulted {s u : State} {k : Nat} {bytes : List Byte} (h : placeSaved s k bytes = some u) :
    (u.task k).faulted = (s.task k).faulted := by
  simp only [placeSaved, Option.ite_none_left_eq_some, Option.some.injEq] at h
  obtain ⟨-, rfl⟩ := h
  show ((s.setTask k _).task k).faulted = _
  rw [task_setTask]

theorem task_traceTask (s : State) (x : Task) (kind : TraceKind) (detail k : Nat) :
    (traceTask s x kind detail).task k = s.task k := by
  unfold State.task traceTask
  rw [traceEvent_tasks]

theorem task_vacateCrews (s : State) (mine : Nat → Bool) (k : Nat) : (vacateCrews s mine).task k = s.task k := rfl

/-- A save leaves a task faulted that was. -/
theorem storeTask_faulted {s u : State} {k : Nat} {record : List Byte} (h : storeTask s k record = some u) :
    (u.task k).faulted = (s.task k).faulted := by
  simp only [storeTask, Option.map_eq_some_iff] at h
  obtain ⟨v, hv, rfl⟩ := h
  rw [task_traceTask, task_vacateCrews, State.modTask, task_setTask, ← placeSaved_faulted hv]

/-- A task that cannot be held is no longer there (R258). -/
theorem loseTask_gone (s : State) (k : Nat) (wid0 : Word64) (p pc : Nat) : Tab.find (loseTask s k wid0 p pc).tasks k = none := by
  unfold loseTask
  extract_lets tk record written left erased
  rw [stopQueue_tasks, updateHem_tasks]
  exact Tab.find_erase_same left.tasks k

/-- A faulted task that has been saved ends Finished (R252). -/
theorem finishSaved_stopped {u : State} {k : Nat} (record : List Byte) (fn q code : Nat) (h : (u.task k).faulted = true) :
    TaskStopped (stopQueue ((dropTaskWork u k).modTask k (fun tk => { tk with phase := .finished, frec := record })) fn q code) k := by
  intro y hy
  rw [stopQueue_tasks, State.modTask, setTask_tasks, Tab.find_set_same, Option.some.injEq] at hy
  rw [← hy]
  exact ⟨h, rfl⟩

/-- What a stop does, as a function: its equation at given arguments would make the kernel run the save. -/
theorem finishStop_def : finishStop = fun s k x =>
    let s := quiesce s k
    let s := s.modTask k (fun tk => { tk with faulted := true, stopping := none })
    let tk := s.task k
    let rec_ := faultRecord tk.taskid x.wid0 x.path x.pc x.info false
    match storeTask s k rec_ with
    | none => loseTask s k x.wid0 x.path x.pc
    | some s =>
      let s := dropTaskWork s k
      let s := s.modTask k (fun tk => { tk with phase := .finished, frec := rec_ })
      stopQueue s tk.fn tk.queue 0x10 := by
  delta finishStop
  rfl

/-- A task that stops is lost, or it is saved as faulted and its queue stops (R252, R258). -/
theorem finishStop_cases {P : State → Prop} (s : State) (k : Nat) (x : Stopping) (lost : ∀ v, P (loseTask v k x.wid0 x.path x.pc))
    (held : ∀ u record fn q, (u.task k).faulted = true →
      P (stopQueue ((dropTaskWork u k).modTask k (fun tk => { tk with phase := .finished, frec := record })) fn q 0x10)) :
    P (finishStop s k x) := by
  have faulted : (((quiesce s k).modTask k (fun tk => { tk with faulted := true, stopping := none })).task k).faulted = true := by
    rw [State.modTask, task_setTask]
  rw [finishStop_def]
  beta_reduce
  extract_lets quiet marked tk record
  split
  next => exact lost _
  next u saved => exact held _ _ _ _ ((storeTask_faulted saved).trans faulted)

theorem finishStop_stopped (s : State) (k : Nat) (x : Stopping) : TaskStopped (finishStop s k x) k :=
  finishStop_cases (P := fun u => TaskStopped u k) s k x
    (fun v y hy => by rw [loseTask_gone] at hy; cases hy) (fun _ record fn q => finishSaved_stopped record fn q 0x10)

/-- A task that none stops yet stops at once, or when its work is done (R252). -/
theorem stopTask_eq {s : State} {k p pc : Nat} {wid0 : Word64} {f : FaultInfo} (h : (s.task k).stopping = none) :
    stopTask s k wid0 p pc f = if quietable (stopTeams s k) (teamsOfTask (stopTeams s k) k) then
      finishStop (stopTeams s k) k ⟨wid0, p, pc, f⟩
    else (stopTeams s k).modTask k (fun tk => { tk with stopping := some ⟨wid0, p, pc, f⟩ }) := by
  have first : ¬ (s.task k).stopping.isSome = true := by simp [h]
  rw [stopTask, if_neg first]

/-! ### The fault of a fetch -/

/-- The issue of a bundle is over. -/
def issueOver (s : State) : State := { s.bump with issue := none }

/-- After the fault only the steps of the team may end (R273). -/
theorem decodeRaise_cases {P : State → Prop} (s : State) (c : Ctx) (code : FaultCode) (slot : Slot)
    (h : ∀ (f : FaultInfo) u, f.code = code → u = takeFault s c.t c.p c.pc f → P (issueOver u) ∧ P (issueOver (endStep u c.t))) :
    P (decodeRaise s c code slot) := by
  unfold decodeRaise
  extract_lets addr u v
  obtain ⟨goes, ends⟩ := h _ u rfl rfl
  have last : v = u ∨ v = endStep u c.t := by
    clear_value u
    unfold v
    split
    · split
      · exact .inr rfl
      · exact .inl rfl
    · exact .inl rfl
  show P (issueOver v)
  rcases last with last | last
  · rw [last]
    exact goes
  · rw [last]
    exact ends

/-- What an illegal instruction leaves of its team and its task (R180, R252). -/
def IllegalOpTaken (s : State) (c : Ctx) (u : State) : Prop :=
  let k := (s.team c.t).task
  (isSpeculative s (s.task k) = true → (s.team c.t).deferred = none →
    (u.team c.t).deferred.map FaultInfo.code = some .illegalOp ∧ (u.team c.t).deferredAt = some (c.p, c.pc) ∧
    (u.team c.t).stopped = true ∧ (u.task k).suspended = true) ∧
  (isSpeculative s (s.task k) = false → (s.task k).stopping = none →
    if quietable (stopTeams s k) (teamsOfTask (stopTeams s k) k) then TaskStopped u k
    else (u.task k).stopping.map (fun x => x.info.code) = some .illegalOp)

theorem takeFault_illegalOpTaken (s : State) (c : Ctx) {f : FaultInfo} (h : f.code = .illegalOp) :
    IllegalOpTaken s c (takeFault s c.t c.p c.pc f) := by
  obtain ⟨g, code, taken⟩ := takeFault_illegalOp s c.t c.p c.pc h
  refine ⟨fun spec first => ?_, fun spec first => ?_⟩
  · rw [taken, if_pos spec, deferFault_team c.p c.pc g first]
    exact ⟨congrArg some code, rfl, rfl, deferFault_suspends s c.t c.p c.pc g⟩
  · have stops := taken.trans ((if_neg (by rw [spec]; decide)).trans (stopTask_eq first))
    by_cases quiet : quietable (stopTeams s (s.team c.t).task) (teamsOfTask (stopTeams s (s.team c.t).task) (s.team c.t).task) = true
    · rw [stops, if_pos quiet, if_pos quiet]
      exact finishStop_stopped _ _ _
    · rw [stops, if_neg quiet, if_neg quiet, State.modTask, task_setTask]
      exact congrArg some code

/-- The end of a step is not seen in them. -/
theorem illegalOpTaken_endStep {s : State} {c : Ctx} (u : State) (h : IllegalOpTaken s c u) : IllegalOpTaken s c (endStep u c.t) := by
  unfold IllegalOpTaken
  rw [endStep_eq, team_setTeam]
  exact h

theorem illegalOp_taken {s : State} {c : Ctx} {slot : Slot} (h : ctxOf s = some c)
    (hf : fetchFault s (s.team c.t) c.pc = some (.illegalOp, slot)) :
    ∃ t, exec .illegalOp s = .next t ∧ t.issue = none ∧ IllegalOpTaken s c t := by
  refine ⟨decodeRaise s c .illegalOp slot, ?_, decodeRaise_cases (P := fun t => t.issue = none ∧ IllegalOpTaken s c t) s c _ _ ?_⟩
  · show execIllegalOp s = _
    simp only [execIllegalOp, h, hf]
  · rintro f u code rfl
    have taken := takeFault_illegalOpTaken s c code
    exact ⟨⟨rfl, taken⟩, rfl, illegalOpTaken_endStep _ taken⟩

/-! ### Samples (R279, R280) -/

theorem length_sampleBytes (s : State) (t p : Nat) : (sampleBytes s t p).length = 32 := by
  simp [sampleBytes]

section
variable (s : State) (fn : Nat) (bs : List Byte)

/-- Where the next sample of a function goes. -/
def sampleAddr : Nat := (s.func fn).smpBase.toNat / 4096 * 4096 + 32 * ((s.func fn).smpTail.toNat % (s.func fn).smpSize)

/-- The ring has no room for it, or it lies outside the function's memory. -/
def sampleLost : Prop := (s.func fn).smpSize ≤ (s.func fn).smpTail.toNat - (s.func fn).smpHead.toNat ∨
  inSeg s fn (sampleAddr s fn) 32 = false

/-- A sample that is lost is counted. -/
theorem writeSample_lost (h : sampleLost s fn) :
    writeSample s fn bs = s.setFunc fn { s.func fn with smpDrop := (s.func fn).smpDrop + 1#64 } :=
  if_pos (by simpa [sampleLost, sampleAddr] using h)

theorem writeSample_kept (h : ¬ sampleLost s fn) : writeSample s fn bs =
    memWrite (s.setFunc fn { s.func fn with smpTail := (s.func fn).smpTail + 1#64 }) (flatOf s fn (sampleAddr s fn)) bs :=
  if_neg (by simpa [sampleLost, sampleAddr] using h)

theorem writeSample_teams_cores : (writeSample s fn bs).teams = s.teams ∧ (writeSample s fn bs).cores = s.cores := by
  by_cases h : sampleLost s fn
  · rw [writeSample_lost s fn bs h]
    exact ⟨rfl, rfl⟩
  · rw [writeSample_kept s fn bs h]
    exact ⟨rfl, rfl⟩

theorem writeSample_lost_frame (h : sampleLost s fn) : SameBytes s (writeSample s fn bs) ∧
    ((writeSample s fn bs).func fn).smpDrop = (s.func fn).smpDrop + 1#64 ∧
    ((writeSample s fn bs).func fn).smpTail = (s.func fn).smpTail := by
  rw [writeSample_lost s fn bs h, func_setFunc]
  exact ⟨fun _ => rfl, rfl, rfl⟩

theorem writeSample_kept_frame (h : ¬ sampleLost s fn) (length : bs.length = 32) (wf : Memory.wf s.mem) :
    SameBytesBut s (writeSample s fn bs) (flatOf s fn (sampleAddr s fn)) 32 ∧
    ((writeSample s fn bs).func fn).smpTail = (s.func fn).smpTail + 1#64 ∧
    Memory.bytes (writeSample s fn bs).mem (flatOf s fn (sampleAddr s fn)) 32 = bs := by
  have func : (writeSample s fn bs).func fn = { s.func fn with smpTail := (s.func fn).smpTail + 1#64 } := by
    rw [writeSample_kept s fn bs h]
    exact func_setFunc _ _ _
  have mem : (writeSample s fn bs).mem = Memory.write s.mem (flatOf s fn (sampleAddr s fn)) bs := by
    rw [writeSample_kept s fn bs h]
    rfl
  unfold SameBytesBut
  rw [func, mem, ← length]
  exact ⟨fun x hx => Memory.read_write_ne wf hx, rfl, Memory.bytes_write_same wf _ _⟩

theorem writeSample_team (t : Nat) : (writeSample s fn bs).team t = s.team t := by
  unfold State.team
  rw [(writeSample_teams_cores s fn bs).1]

theorem writeSample_core (c : Nat) : (writeSample s fn bs).core c = s.core c := by
  unfold State.core
  rw [(writeSample_teams_cores s fn bs).2]

end

/-- The state in which a core's sample has been taken and not yet written. -/
def sampleTaken (s : State) (core tm : Nat) : State :=
  let u := s.modTeam tm (fun x => { x with sampled := nextPath (s.team tm) })
  u.modCore core (fun c => { c with lastPlace := (u.team tm).place, nextSample := u.now + 1 })

theorem core_sampleTaken (s : State) (core tm : Nat) : ((sampleTaken s core tm).core core).lastPlace = (s.team tm).place := by
  unfold sampleTaken
  dsimp only
  rw [core_modCore, team_modTeam]

theorem team_sampleTaken (s : State) (core tm : Nat) : ((sampleTaken s core tm).team tm).sampled = nextPath (s.team tm) :=
  congrArg Team.sampled (team_modTeam s tm (fun x => { x with sampled := nextPath (s.team tm) }))

theorem sampleLost_sampleTaken (s : State) (core tm fn : Nat) : sampleLost (sampleTaken s core tm) fn ↔ sampleLost s fn := Iff.rfl

theorem exec_sample {s : State} {core fn tm : Nat} (due : sampleDue s core = true) (runner : runnerOf s core = some fn)
    (next : nextTeam s core = some tm) : exec (.sample core) s =
      .next (writeSample (sampleTaken s core tm) fn (sampleBytes s tm (nextPath (s.team tm)))).bump := by
  show execSample core s = _
  simp only [execSample, due, runner, next]
  rfl

theorem exec_sample_idle {s : State} {core : Nat} (h : sampleDue s core = false) : exec (.sample core) s = .next s := by
  show execSample core s = _
  simp only [execSample, h]

theorem sample_writes {s : State} {core fn tm : Nat} (due : sampleDue s core = true) (runner : runnerOf s core = some fn)
    (next : nextTeam s core = some tm) (wf : Memory.wf s.mem) :
    let f := s.func fn
    let a := f.smpBase.toNat / 4096 * 4096 + 32 * (f.smpTail.toNat % f.smpSize)
    let lost := f.smpSize ≤ f.smpTail.toNat - f.smpHead.toNat ∨ inSeg s fn a 32 = false
    ∃ t, exec (.sample core) s = .next t ∧ (t.core core).lastPlace = (s.team tm).place ∧ (t.team tm).sampled = nextPath (s.team tm) ∧
      (lost → SameBytes s t ∧ (t.func fn).smpDrop = f.smpDrop + 1#64 ∧ (t.func fn).smpTail = f.smpTail) ∧
      (¬ lost → SameBytesBut s t (flatOf s fn a) 32 ∧ (t.func fn).smpTail = f.smpTail + 1#64 ∧
        Memory.bytes t.mem (flatOf s fn a) 32 = sampleBytes s tm (nextPath (s.team tm))) := by
  intro f a lost
  refine ⟨_, exec_sample due runner next, ?_⟩
  have length := length_sampleBytes s tm (nextPath (s.team tm))
  generalize sampleBytes s tm (nextPath (s.team tm)) = bs at length
  have ring := sampleLost_sampleTaken s core tm fn
  have place := (congrArg Core.lastPlace (writeSample_core (sampleTaken s core tm) fn bs core)).trans (core_sampleTaken s core tm)
  have sampled := (congrArg Team.sampled (writeSample_team (sampleTaken s core tm) fn bs tm)).trans (team_sampleTaken s core tm)
  have dropped (h : lost) := writeSample_lost_frame (sampleTaken s core tm) fn bs (ring.2 h)
  have written (h : ¬ lost) := writeSample_kept_frame (sampleTaken s core tm) fn bs (mt ring.1 h) length wf
  generalize writeSample (sampleTaken s core tm) fn bs = t at place sampled dropped written
  exact ⟨place, sampled, dropped, written⟩

/-- Settles O45: each event of the issue stage through the lemma about it. -/
theorem issueEvents : Obligations.IssueEvents := by
  unfold Obligations.IssueEvents
  refine ⟨fun s c w h => ⟨nullify s c, exec_emptyDelayBundle h w, nullify_leaves s c⟩, fun s c slot h hf => illegalOp_taken h hf,
    fun s t p => ⟨fun h => ?unhit, fun n => breakpointHit_stops⟩, fun s t p => ⟨fun h => if_neg (by rw [h]; decide), stepComplete_stops⟩,
    fun s t p code idx tm pa htm hpa hstop => ⟨takeStops_waits htm hpa, takeStops_stops htm hpa hstop⟩, writeStop_written,
    fun s core fn tm => ⟨exec_sample_idle, sample_writes⟩⟩
  case unhit =>
    show execBreakpointHit t p s = _
    simp only [execBreakpointHit, h]

end Sys2Proof.Machine
end

section
/-! PROOFS. Queues (R53-R57, R140): what a stop leaves of its queue, the write of QCTL that enables or disables one, and the
tail word. -/

namespace Sys2Proof.Machine

open Sys2Proof

/-! ### One queue of a function -/

theorem func_setQueue (s : State) (fn q : Nat) (x : Queue) :
    (setQueue s fn q x).func fn = { s.func fn with queues := Tab.set (s.func fn).queues q x } := func_modFunc s fn _

theorem queue_setQueue (s : State) (fn q : Nat) (x : Queue) : ((setQueue s fn q x).func fn).queue q = x := by
  rw [func_setQueue]
  exact Tab.get_set_same _ _ _ _

/-- A queue that has stopped with a code (R56). -/
def stoppedQueue (x : Queue) (code : Nat) : Queue :=
  { x with en := false, qerr := BitVec.ofNat 64 (code + fld x.qhead.toNat 0 32 * 2 ^ 32) }

theorem func_stopQueue (s : State) (fn q code : Nat) : (stopQueue s fn q code).func fn = { s.func fn with
    qStop := true
    queues := Tab.set (s.func fn).queues q (stoppedQueue ((s.func fn).queue q) code) } := by
  unfold stopQueue
  dsimp only
  split
  · exact func_setFunc _ _ _
  · exact func_setFunc _ _ _

theorem queue_stopQueue (s : State) (fn q code : Nat) :
    ((stopQueue s fn q code).func fn).queue q = stoppedQueue ((s.func fn).queue q) code := by
  rw [func_stopQueue]
  exact Tab.get_set_same _ _ _ _

theorem qStop_stopQueue (s : State) (fn q code : Nat) : ((stopQueue s fn q code).func fn).qStop = true := by
  rw [func_stopQueue]

theorem stopQueue_mem (s : State) (fn q code : Nat) : (stopQueue s fn q code).mem = s.mem := by
  unfold stopQueue
  dsimp only
  split
  · rfl
  · rfl

theorem stopQueue_parts (s : State) (fn q code : Nat) : (stopQueue s fn q code).parts = s.parts := by
  unfold stopQueue
  dsimp only
  split
  · rfl
  · rfl

/-- The code and the head of a stopped queue stand side by side in QERR. -/
theorem stoppedQueue_qerr {x : Queue} {code : Nat} (h : code < 2 ^ 32) :
    (stoppedQueue x code).qerr.toNat = code + 2 ^ 32 * (x.qhead.toNat % 2 ^ 32) := by
  simp only [stoppedQueue, fld, BitVec.toNat_ofNat]
  omega

theorem queueStopped_stopQueue {s u : State} {fn q code : Nat} (h : code < 2 ^ 32)
    (head : ((u.func fn).queue q).qhead = ((s.func fn).queue q).qhead) : QueueStopped s (stopQueue u fn q code) fn q code := by
  refine ⟨?_, qStop_stopQueue u fn q code, ?_⟩
  · rw [queue_stopQueue]
    rfl
  · rw [queue_stopQueue, stoppedQueue_qerr h, head]

/-! ### HEMLINE -/

theorem updateHem_mem (s : State) (fn : Nat) : (updateHem s fn).mem = s.mem := by
  rcases updateHem_cases s fn with h | ⟨v, h⟩
  · rw [h]
  · rw [h]
    rfl

theorem updateHem_parts (s : State) (fn : Nat) : (updateHem s fn).parts = s.parts := by
  rcases updateHem_cases s fn with h | ⟨v, h⟩
  · rw [h]
  · rw [h]
    rfl

theorem queue_updateHem (s : State) (fn q : Nat) : ((updateHem s fn).func fn).queue q = (s.func fn).queue q := by
  rcases updateHem_cases s fn with h | ⟨v, h⟩
  · rw [h]
  · rw [h, func_setFunc]
    rfl

/-! ### What a queue's addresses are checked against (R54) -/

/-- The parts of the state that say which addresses a function reaches. -/
def reach (s : State) : Tab Func × List Nat × Word64 × Word64 := (s.funcs, s.hostBad, s.pfCtxb, s.pfCodeb)

theorem reach_clearDirectory (s : State) (fn slot : Nat) : reach (clearDirectory s fn slot) = reach s := by
  unfold clearDirectory
  split
  · rfl
  · rfl

/-- One block of a faulted task is forgotten. -/
def dropBlock (fn : Nat) (s : State) (b : FaultBlock) : State :=
  if gNat s fn ((ctxArea s fn).1 + 32 * b.slot + 8) 8 == b.taskid then clearDirectory s fn b.slot else s

theorem reach_dropBlock (fn : Nat) (s : State) (b : FaultBlock) : reach (dropBlock fn s b) = reach s := by
  unfold dropBlock
  split
  · exact reach_clearDirectory s fn b.slot
  · rfl

/-- A queue's faulted tasks are forgotten in memory, in the tasks and in the function's fault blocks. -/
theorem forgetFaults_reach (s : State) (fn q : Nat) :
    ∃ blocks, reach (forgetFaults s fn q) = reach (s.modFunc fn (fun f => { f with faultBlocks := blocks })) := by
  unfold forgetFaults
  extract_lets f drop s1 s2 mine s3
  have dropped : reach s1 = reach s := foldl_keeps (f := dropBlock fn) reach (reach_dropBlock fn) _ s
  have cleared : reach s3 = reach s2 :=
    foldl_keeps (f := fun s (e : Nat × Task) => clearDirectory s fn e.2.slot) reach
      (fun s e => reach_clearDirectory s fn e.2.slot) (s2.tasks.filter (fun e => mine e.2)) s2
  refine ⟨(s.func fn).faultBlocks.filter (fun b => b.queue != q), cleared.trans ?_⟩
  clear_value s3 s1
  simp only [reach, Prod.mk.injEq] at dropped
  obtain ⟨funcs, hostBad, ctxb, codeb⟩ := dropped
  simp only [reach, s2, State.modFunc, State.setFunc, State.func, funcs, hostBad, ctxb, codeb]

/-- A check of an address looks at nothing else. -/
theorem inSeg_congr {s u : State} {fn : Nat} {blocks : List FaultBlock}
    (h : reach u = reach (s.modFunc fn (fun f => { f with faultBlocks := blocks }))) (a n : Nat) : inSeg u fn a n = inSeg s fn a n := by
  simp only [reach, Prod.mk.injEq] at h
  obtain ⟨funcs, hostBad, ctxb, codeb⟩ := h
  have func : u.func fn = { s.func fn with faultBlocks := blocks } := by
    rw [State.func, funcs]
    exact func_modFunc s fn _
  unfold inSeg codeArea ctxArea hostOk
  rw [func, hostBad, ctxb, codeb]
  rfl

/-! ### EN goes from 0 to 1 (R54) -/

/-- A queue that has been enabled. -/
def enabledQueue (x : Queue) : Queue := { x with en := true, qhead := 0#64, qtailv := 0#64, qerr := 0#64, qdone := 0#64 }

/-- The state in which a queue is enabled and its faulted tasks are forgotten, before the checks. -/
def queueEnabled (s : State) (fn q : Nat) (x : Queue) : State := forgetFaults (setQueue s fn q (enabledQueue x)) fn q

theorem queueEnabled_reach (s : State) (fn q : Nat) (x : Queue) : ∃ blocks, reach (queueEnabled s fn q x) =
    reach ((setQueue s fn q (enabledQueue x)).modFunc fn (fun f => { f with faultBlocks := blocks })) := forgetFaults_reach _ fn q

theorem queue_queueEnabled (s : State) (fn q : Nat) (x : Queue) : ((queueEnabled s fn q x).func fn).queue q = enabledQueue x := by
  obtain ⟨blocks, h⟩ := queueEnabled_reach s fn q x
  have funcs : (queueEnabled s fn q x).funcs =
    ((setQueue s fn q (enabledQueue x)).modFunc fn (fun f => { f with faultBlocks := blocks })).funcs := congrArg Prod.fst h
  have func : (queueEnabled s fn q x).func fn = { (setQueue s fn q (enabledQueue x)).func fn with faultBlocks := blocks } := by
    rw [State.func, funcs]
    exact func_modFunc _ fn _
  rw [func]
  exact queue_setQueue s fn q _

theorem inSeg_setQueue (s : State) (fn q : Nat) (x : Queue) (a n : Nat) : inSeg (setQueue s fn q x) fn a n = inSeg s fn a n := by
  unfold inSeg codeArea ctxArea
  rw [func_setQueue]
  rfl

/-- Enabling a queue leaves open which of its addresses lie outside. -/
theorem queueOutside_queueEnabled (s : State) (fn q : Nat) (x : Queue) :
    queueOutside (queueEnabled s fn q x) fn (enabledQueue x) = queueOutside s fn x := by
  obtain ⟨blocks, h⟩ := queueEnabled_reach s fn q x
  unfold queueOutside
  simp only [inSeg_congr h, inSeg_setQueue]
  rfl

theorem enableQueue_eq (s : State) (fn q : Nat) : enableQueue s fn q =
    let x := (s.func fn).queue q
    let u := queueEnabled s fn q x
    if x.logsz.toNat < 4 then stopQueue u fn q 0x0E else if queueOutside u fn (enabledQueue x) then stopQueue u fn q 0x13 else u := rfl

theorem enableQueue_stops {u : State} {fn q code : Nat} {x : Queue} (hu : ((u.func fn).queue q) = enabledQueue x) :
    ((stopQueue u fn q code).func fn).queue q = { enabledQueue x with en := false, qerr := BitVec.ofNat 64 code } ∧
      ((stopQueue u fn q code).func fn).qStop = true := by
  refine ⟨?_, qStop_stopQueue u fn q code⟩
  rw [queue_stopQueue, hu]
  simp [stoppedQueue, enabledQueue, fld]

/-- A queue whose ring is too small, or which reaches outside, stops as it is enabled; another one starts empty. -/
theorem enableQueue_cases {s : State} {fn q : Nat} {x : Queue} (hx : (s.func fn).queue q = x) :
    let t := enableQueue s fn q
    let stops (code : Nat) : Prop := (t.func fn).queue q = { enabledQueue x with en := false, qerr := BitVec.ofNat 64 code } ∧
      (t.func fn).qStop = true
    (x.logsz.toNat < 4 → stops 0x0E) ∧ (4 ≤ x.logsz.toNat → queueOutside s fn x = true → stops 0x13) ∧
      (4 ≤ x.logsz.toNat → queueOutside s fn x = false → (t.func fn).queue q = enabledQueue x) := by
  intro t stops
  have queue := queue_queueEnabled s fn q x
  have enable : t = if x.logsz.toNat < 4 then stopQueue (queueEnabled s fn q x) fn q 0x0E
      else if queueOutside s fn x then stopQueue (queueEnabled s fn q x) fn q 0x13 else queueEnabled s fn q x := by
    rw [← queueOutside_queueEnabled s fn q x, ← hx]
    exact enableQueue_eq s fn q
  refine ⟨fun small => ?_, fun large out => ?_, fun large inside => ?_⟩
  · unfold stops
    rw [enable, if_pos small]
    exact enableQueue_stops queue
  · unfold stops
    rw [enable, if_neg (Nat.not_lt.2 large), if_pos out]
    exact enableQueue_stops queue
  · rw [enable, if_neg (Nat.not_lt.2 large), if_neg (by rw [inside]; decide)]
    exact queue

/-! ### A write of QCTL (R53, R54, R140) -/

/-- A queue whose EN is 0 takes IRQ and LOGSZ from a write of QCTL. -/
def configuredQueue (x : Queue) (v : Word64) : Queue := { x with irq := v.getLsbD 5, logsz := BitVec.ofNat 4 (v.toNat / 2 % 16) }

theorem configuredQueue_logsz (x : Queue) (v : Word64) : (configuredQueue x v).logsz.toNat = v.toNat / 2 % 16 := by
  simp only [configuredQueue, BitVec.toNat_ofNat]
  omega

section
variable {s : State} {fn q : Nat} {v : Word64}

theorem exec_queueEnable : exec (.queueEnable fn q v) s = .next (qctlWrite s fn q v) := rfl

theorem exec_queueDisable : exec (.queueDisable fn q v) s = .next (qctlWrite s fn q v) := rfl

/-- A queue that is not enabled takes the write's fields, and begins the enable where the write asks for it and may. -/
theorem qctlWrite_off (off : ((s.func fn).queue q).en = false) (on : v.getLsbD 0 = true) : qctlWrite s fn q v =
    let u := setQueue s fn q (configuredQueue ((s.func fn).queue q) v)
    if queueAllowed s fn q then enableQueue u fn q else u := by
  have allowed (x : Queue) : queueAllowed (setQueue s fn q x) fn q = queueAllowed s fn q := by
    unfold queueAllowed
    rw [func_setQueue]
  unfold qctlWrite
  simp [off, bitAt_toNat, on, allowed, configuredQueue, fld]

theorem queueEnable_refused (off : ((s.func fn).queue q).en = false) (on : v.getLsbD 0 = true) (no : queueAllowed s fn q = false) :
    ∃ t, exec (.queueEnable fn q v) s = .next t ∧ (t.func fn).queue q = configuredQueue ((s.func fn).queue q) v := by
  refine ⟨_, exec_queueEnable, ?_⟩
  rw [qctlWrite_off off on, no]
  exact queue_setQueue s fn q _

/-- What the enable of an allowed queue answers depends on its size and on where it reaches. -/
theorem queueEnable_cases (off : ((s.func fn).queue q).en = false) (on : v.getLsbD 0 = true) (yes : queueAllowed s fn q = true) :
    let size := v.toNat / 2 % 16
    let y := configuredQueue ((s.func fn).queue q) v
    let z := enabledQueue y
    (4 ≤ size → queueOutside s fn y = false → ∃ t, exec (.queueEnable fn q v) s = .next t ∧ (t.func fn).queue q = z) ∧
    (size < 4 → ∃ t, exec (.queueEnable fn q v) s = .next t ∧
      (t.func fn).queue q = { z with en := false, qerr := 0x0E#64 } ∧ (t.func fn).qStop = true) ∧
    (4 ≤ size → queueOutside s fn y = true → ∃ t, exec (.queueEnable fn q v) s = .next t ∧
      (t.func fn).queue q = { z with en := false, qerr := 0x13#64 } ∧ (t.func fn).qStop = true) := by
  intro size y z
  have run : exec (.queueEnable fn q v) s = .next (enableQueue (setQueue s fn q y) fn q) :=
    exec_queueEnable.trans (congrArg _ ((qctlWrite_off off on).trans (if_pos yes)))
  have outside : queueOutside (setQueue s fn q y) fn y = queueOutside s fn y := by
    unfold queueOutside
    simp only [inSeg_setQueue]
  obtain ⟨small, out, inside⟩ := enableQueue_cases (queue_setQueue s fn q y)
  rw [configuredQueue_logsz] at small
  rw [configuredQueue_logsz, outside] at out inside
  exact ⟨fun large h => ⟨_, run, inside large h⟩, fun h => ⟨_, run, small h⟩, fun large h => ⟨_, run, out large h⟩⟩

theorem qctlWrite_disables (on : ((s.func fn).queue q).en = true) (off : v.getLsbD 0 = false) : qctlWrite s fn q v =
    disableQueue (setQueue s fn q { (s.func fn).queue q with irq := v.getLsbD 5 }) fn q := by
  unfold qctlWrite
  simp only [on, off, bitAt_toNat, if_true, Bool.not_false, Bool.and_self]

end

/-- A queue that is disabled loses its Waiting tasks, but for those that wait to restart (R140). -/
theorem disableQueue_leaves (s : State) (fn q : Nat) : SameBytes s (disableQueue s fn q) ∧
    ((disableQueue s fn q).func fn).queue q = { (s.func fn).queue q with en := false } ∧
    ∀ e ∈ (disableQueue s fn q).tasks, e.2.fn = fn → e.2.queue = q → e.2.phase = .waiting → e.2.restart = true := by
  unfold disableQueue
  extract_lets x u gone
  refine ⟨sameBytes_of_mem (updateHem_mem _ _), (queue_updateHem _ _ _).trans (queue_setQueue s fn q _), fun e he hfn hq hw => ?_⟩
  rw [updateHem_tasks] at he
  have stays := (List.mem_filter.1 he).2
  simp only [gone, hfn, hq, hw, beq_self_eq_true, Bool.true_and, Bool.not_eq_true', Bool.or_eq_false_iff, Bool.not_eq_false'] at stays
  exact stays.1

theorem queueDisable_leaves {s : State} {fn q : Nat} {v : Word64} (on : ((s.func fn).queue q).en = true) (off : v.getLsbD 0 = false) :
    ∃ t, exec (.queueDisable fn q v) s = .next t ∧ SameBytes s t ∧
      (t.func fn).queue q = { (s.func fn).queue q with en := false, irq := v.getLsbD 5 } ∧
      ∀ e ∈ t.tasks, e.2.fn = fn → e.2.queue = q → e.2.phase = .waiting → e.2.restart = true := by
  obtain ⟨bytes, queue, tasks⟩ := disableQueue_leaves (setQueue s fn q { (s.func fn).queue q with irq := v.getLsbD 5 }) fn q
  rw [queue_setQueue] at queue
  exact ⟨_, exec_queueDisable.trans (congrArg _ (qctlWrite_disables on off)), bytes, queue, tasks⟩

/-! ### The tail word (R55, R56) -/

theorem readTail_off {s : State} {fn q : Nat} (h : ((s.func fn).queue q).en = false) : readTail s fn q = s := by
  unfold readTail
  simp [h]

/-- The tail that the dispatcher reads is taken, or stops its queue: it must not go back, nor pass the ring (R56). -/
theorem readTail_on {s : State} {fn q : Nat} {v : Word64} (on : ((s.func fn).queue q).en = true)
    (ok : tokenOk s fn ((s.func fn).queue q).qtaila.toNat 8 = true)
    (word : leNat (Memory.bytes s.mem (tokenFlat s fn ((s.func fn).queue q).qtaila.toNat) 8) = v.toNat) : readTail s fn q =
      let x := (s.func fn).queue q
      let u := setQueue s fn q { x with qtailv := v }
      if v.toNat < x.qtailv.toNat then stopQueue u fn q 0x0C
      else if x.qhead.toNat + 2 ^ x.logsz.toNat < v.toNat then stopQueue u fn q 0x0D else u := by
  unfold readTail
  simp [on, ok, word]

theorem readTail_mem (s : State) (fn q : Nat) : (readTail s fn q).mem = s.mem := by
  unfold readTail
  dsimp only
  split_ifs
  · rfl
  · exact stopQueue_mem _ _ _ _
  · exact stopQueue_mem _ _ _ _
  · exact stopQueue_mem _ _ _ _
  · rfl

/-- What the dispatcher shows of a tail that it has read. -/
theorem readTail_leaves {s : State} {fn q : Nat} {v : Word64} (on : ((s.func fn).queue q).en = true)
    (ok : tokenOk s fn ((s.func fn).queue q).qtaila.toNat 8 = true)
    (word : leNat (Memory.bytes s.mem (tokenFlat s fn ((s.func fn).queue q).qtaila.toNat) 8) = v.toNat) :
    let x := (s.func fn).queue q
    let t := readTail s fn q
    ((t.func fn).queue q).qtailv = v ∧
      (x.qtailv.toNat ≤ v.toNat → v.toNat ≤ x.qhead.toNat + 2 ^ x.logsz.toNat → ((t.func fn).queue q).en = true) ∧
      (v.toNat < x.qtailv.toNat → QueueStopped s t fn q 0x0C) ∧
      (x.qtailv.toNat ≤ v.toNat → x.qhead.toNat + 2 ^ x.logsz.toNat < v.toNat → QueueStopped s t fn q 0x0D) := by
  intro x t
  have read : t = if v.toNat < x.qtailv.toNat then stopQueue (setQueue s fn q { x with qtailv := v }) fn q 0x0C
      else if x.qhead.toNat + 2 ^ x.logsz.toNat < v.toNat then stopQueue (setQueue s fn q { x with qtailv := v }) fn q 0x0D
      else setQueue s fn q { x with qtailv := v } := readTail_on on ok word
  have queue := queue_setQueue s fn q { x with qtailv := v }
  have tail (code : Nat) : (((stopQueue (setQueue s fn q { x with qtailv := v }) fn q code).func fn).queue q).qtailv = v := by
    rw [queue_stopQueue, queue]
    rfl
  have stops {code : Nat} (h : code < 2 ^ 32) : QueueStopped s (stopQueue (setQueue s fn q { x with qtailv := v }) fn q code) fn q code :=
    queueStopped_stopQueue h (by rw [queue])
  refine ⟨?_, fun back full => ?_, fun back => ?_, fun back full => ?_⟩
  · rw [read]
    split_ifs
    · exact tail _
    · exact tail _
    · rw [queue]
  · rw [read, if_neg (Nat.not_lt.2 back), if_neg (Nat.not_lt.2 full), queue]
    exact on
  · rw [read, if_pos back]
    exact stops (by decide)
  · rw [read, if_neg (Nat.not_lt.2 back), if_pos full]
    exact stops (by decide)

/-- A write of memory leaves open whose work runs. -/
theorem runs_memWrite (s : State) (flat : Nat) (bs : List Byte) (fn : Nat) : runs (memWrite s flat bs) fn = runs s fn := by
  have vf (p : Nat) : ((memWrite s flat bs).part p).runVf = (s.part p).runVf := by
    show ((dropSignals s flat bs.length).part p).runVf = _
    rw [part_dropSignals]
  unfold runs running
  rw [vf]
  rfl

theorem exec_tailWordChange {s : State} {fn q : Nat} {v : Word64} (ok : tokenOk s fn ((s.func fn).queue q).qtaila.toNat 8 = true) :
    exec (.tailWordChange fn q v) s =
      let u := memWrite s (tokenFlat s fn ((s.func fn).queue q).qtaila.toNat) (leBytes 8 v.toNat)
      .next (if runs s fn then readTail u fn q else u) := by
  show execTailWordChange fn q v s = _
  unfold execTailWordChange
  simp [ok, runs_memWrite]

theorem tailWordChange_leaves (s : State) (fn q : Nat) (v : Word64) : let x := (s.func fn).queue q
    let flat := tokenFlat s fn x.qtaila.toNat
    tokenOk s fn x.qtaila.toNat 8 = true → Memory.wf s.mem → ∃ t, exec (.tailWordChange fn q v) s = .next t ∧
      SameBytesBut s t flat 8 ∧ leNat (Memory.bytes t.mem flat 8) = v.toNat ∧
      (runs s fn = false ∨ x.en = false → t.funcs = s.funcs) ∧
      (runs s fn = true → x.en = true → ((t.func fn).queue q).qtailv = v ∧
        (x.qtailv.toNat ≤ v.toNat → v.toNat ≤ x.qhead.toNat + 2 ^ x.logsz.toNat → ((t.func fn).queue q).en = true) ∧
        (v.toNat < x.qtailv.toNat → QueueStopped s t fn q 0x0C) ∧
        (x.qtailv.toNat ≤ v.toNat → x.qhead.toNat + 2 ^ x.logsz.toNat < v.toNat → QueueStopped s t fn q 0x0D)) := by
  intro x flat ok wf
  have mem (t : State) (h : t.mem = (memWrite s flat (leBytes 8 v.toNat)).mem) :
      SameBytesBut s t flat 8 ∧ leNat (Memory.bytes t.mem flat 8) = v.toNat := by
    have length : (leBytes 8 v.toNat).length = 8 := length_leBytes 8 _
    have bytes := Memory.bytes_write_same wf flat (leBytes 8 v.toNat)
    rw [length] at bytes
    unfold SameBytesBut
    rw [h]
    refine ⟨fun a ha => Memory.read_write_ne wf (by rw [length]; exact ha), ?_⟩
    show leNat (Memory.bytes (Memory.write s.mem flat (leBytes 8 v.toNat)) flat 8) = _
    rw [bytes, leNat_leBytes]
    exact Nat.mod_eq_of_lt v.isLt
  have run := exec_tailWordChange (v := v) ok
  by_cases active : runs s fn = true
  · have same := mem (readTail (memWrite s flat (leBytes 8 v.toNat)) fn q) (readTail_mem _ _ _)
    refine ⟨_, run.trans (congrArg _ (if_pos active)), same.1, same.2, fun off => ?_, fun _ on => ?_⟩
    · rw [readTail_off (s := memWrite s flat (leBytes 8 v.toNat)) (off.resolve_left (by simp [active]))]
      rfl
    · exact readTail_leaves (s := memWrite s flat (leBytes 8 v.toNat)) on ok (mem _ rfl).2
  · have same := mem (memWrite s flat (leBytes 8 v.toNat)) rfl
    exact ⟨_, run.trans (congrArg _ (if_neg active)), same.1, same.2, fun _ => rfl, fun on => absurd on active⟩

/-! ### Wait tokens (R63, R133) -/

section
variable {s : State} {task : Nat} {k : Task} (h : Tab.find s.tasks task = some k)
include h

/-- A task that does not wait for its tokens, or whose function does not run, stays. -/
theorem taskTokensHold_stays (hw : k.phase ≠ .waiting ∨ k.restart = true ∨ runs s k.fn = false) :
    exec (.taskTokensHold task) s = .next s := by
  have cond : (k.phase != .waiting || k.restart || !runs s k.fn) = true := by
    simpa [or_assoc] using hw
  show execTaskTokensHold task s = _
  simp only [execTaskTokensHold, h, cond, if_true]

/-- A waiting task leaves Waiting when its tokens hold, and stops when one of them cannot be read. -/
theorem taskTokensHold_cases (hp : k.phase = .waiting) (hr : k.restart = false) (active : runs s k.fn = true) :
    (∀ a, badToken s k.fn k.lrec = some a → exec (.taskTokensHold task) s =
      .next (stopTask s task 0#64 0 k.entryPc { code := .tensorInvalid, addr := a })) ∧
    (badToken s k.fn k.lrec = none → tokensHold s k.fn k.lrec = false → exec (.taskTokensHold task) s = .next s) ∧
    (badToken s k.fn k.lrec = none → tokensHold s k.fn k.lrec = true →
      exec (.taskTokensHold task) s = .next (s.setTask task { k with phase := .admitting })) := by
  have cond : (k.phase != .waiting || k.restart || !runs s k.fn) = false := by
    simp [hp, hr, active]
  show (∀ a, _ → execTaskTokensHold task s = _) ∧ (_ → _ → execTaskTokensHold task s = _) ∧ (_ → _ → execTaskTokensHold task s = _)
  simp only [execTaskTokensHold, h, cond, Bool.false_eq_true, if_false]
  refine ⟨fun a bad => ?_, fun good wait => ?_, fun good holds => ?_⟩
  · simp only [bad]
  · simp only [good, wait, Bool.false_eq_true, if_false]
  · simp only [good, holds, if_true]

end

end Sys2Proof.Machine
end

section
/-! PROOFS. The dispatcher (R60, R139, R140, R143): which queue it chooses, and what the record at that queue's head becomes. -/

namespace Sys2Proof.Machine

open Sys2Proof

/-! ### The dispatcher's own registers -/

/-- When a partition's dispatcher may go on, and where its rotations stand (R139). -/
def dispatchOf (s : State) (p : Nat) : Nat × Tab Nat := ((s.part p).nextDispatch, (s.part p).dispPtr)

theorem dispatchOf_of_parts {s u : State} (h : u.parts = s.parts) (p : Nat) : dispatchOf u p = dispatchOf s p := by
  unfold dispatchOf State.part
  rw [h]

theorem dispatchOf_memWrite (s : State) (flat : Nat) (bs : List Byte) (p : Nat) :
    dispatchOf (memWrite s flat bs) p = dispatchOf s p := by
  show dispatchOf (dropSignals s flat bs.length) p = _
  unfold dispatchOf
  rw [part_dropSignals]

theorem dispatchOf_traceEvent (s : State) (fn : Nat) (k : TraceKind) (detail : Nat) (a : TraceAt) (p : Nat) :
    dispatchOf (traceEvent s fn k detail a) p = dispatchOf s p := by
  unfold traceEvent
  dsimp only
  split
  · rfl
  · split
    · rfl
    · exact dispatchOf_memWrite _ _ _ p

theorem traceTask_tasks (s : State) (k : Task) (kind : TraceKind) (detail : Nat) : (traceTask s k kind detail).tasks = s.tasks := by
  unfold traceTask
  exact traceEvent_tasks _ _ _ _ _

theorem dispatchOf_traceTask (s : State) (k : Task) (kind : TraceKind) (detail p : Nat) :
    dispatchOf (traceTask s k kind detail) p = dispatchOf s p := by
  unfold traceTask
  exact dispatchOf_traceEvent _ _ _ _ _ p

theorem queue_traceEvent (s : State) (fn : Nat) (k : TraceKind) (detail : Nat) (a : TraceAt) (q : Nat) :
    ((traceEvent s fn k detail a).func fn).queue q = (s.func fn).queue q := by
  obtain ⟨tail, drop, func⟩ := traceEvent_func s fn k detail a
  rw [func]
  rfl

theorem queue_traceTask (s : State) (k : Task) (kind : TraceKind) (detail q : Nat) :
    ((traceTask s k kind detail).func k.fn).queue q = (s.func k.fn).queue q := by
  unfold traceTask
  exact queue_traceEvent _ _ _ _ _ q

/-! ### Consumption of a record (R54, R55) -/

theorem consume_cases {P : State → Prop} (s : State) (fn q : Nat)
    (h : let x := (s.func fn).queue q
      let u := setQueue s fn q { x with qhead := x.qhead + 1#64 }
      P u ∧ P (stopQueue u fn q 0x13) ∧ ∀ flat bs, P (memWrite u flat bs)) : P (consume s fn q) := by
  obtain ⟨stays, stops, writes⟩ := h
  unfold consume
  dsimp only
  split_ifs
  · exact stays
  · exact stops
  · exact writes _ _

theorem consume_qhead (s : State) (fn q : Nat) : (((consume s fn q).func fn).queue q).qhead = ((s.func fn).queue q).qhead + 1#64 := by
  refine consume_cases (P := fun t => ((t.func fn).queue q).qhead = ((s.func fn).queue q).qhead + 1#64) s fn q ⟨?_, ?_, fun flat bs => ?_⟩
  · rw [queue_setQueue]
  · rw [queue_stopQueue, queue_setQueue]
    rfl
  · show (((setQueue s fn q _).func fn).queue q).qhead = _
    rw [queue_setQueue]

theorem consume_tasks (s : State) (fn q : Nat) : (consume s fn q).tasks = s.tasks :=
  consume_cases (P := fun t => t.tasks = s.tasks) s fn q ⟨rfl, stopQueue_tasks _ _ _ _, fun _ _ => rfl⟩

theorem consume_walk (s : State) (fn q : Nat) : ((consume s fn q).func fn).walk = (s.func fn).walk := by
  refine consume_cases (P := fun t => (t.func fn).walk = (s.func fn).walk) s fn q ⟨?_, ?_, fun flat bs => ?_⟩
  · rw [func_setQueue]
  · rw [func_stopQueue, func_setQueue]
  · show ((setQueue s fn q _).func fn).walk = _
    rw [func_setQueue]

theorem dispatchOf_consume (s : State) (fn q p : Nat) : dispatchOf (consume s fn q) p = dispatchOf s p :=
  consume_cases (P := fun t => dispatchOf t p = dispatchOf s p) s fn q
    ⟨rfl, dispatchOf_of_parts (stopQueue_parts _ _ _ _) p, fun flat bs => dispatchOf_memWrite _ flat bs p⟩

/-! ### The creation of a task (R60, R132, R166) -/

theorem clampStamp_cases (s : State) (fn : Nat) (ts : Word64) :
    (clampStamp s fn ts).1 = s ∨ (clampStamp s fn ts).1 = s.modFunc fn (fun f => { f with tsClamp := true }) := by
  unfold clampStamp
  dsimp only
  split_ifs
  · exact .inr rfl
  · exact .inr rfl
  · exact .inl rfl

theorem clampStamp_stamp (s : State) (fn : Nat) (ts : Word64) : (clampStamp s fn ts).2 =
    if meetsSealed s fn ts then hem s fn + 1#64 else if ts.toNat < (hem s fn).toNat then hem s fn else ts := by
  unfold clampStamp
  dsimp only
  split_ifs
  · rfl
  · rfl
  · rfl

theorem createTask_invalid {s : State} {o : Origin} {slot : Nat} {ts : Word64} {r : LaunchRec} (h : handleSlot s o.fn r.codeh = none) :
    createTask s o slot ts r = s := by
  unfold createTask
  rw [h]

/-- The state in which a task has its number and its key. -/
def numbered (s : State) (fn : Nat) (k : Task) : State :=
  State.setTask { s.setFunc fn { s.func fn with nextTaskid := (s.func fn).nextTaskid + 1 } with nextId := s.nextId + 1 } s.nextId k

/-- A task of a valid handle stands under the next key, with the next number. -/
theorem createTask_eq {s : State} {o : Origin} {n : Nat} {x : SealedSlot} {r : LaunchRec} (slot : Nat) (ts : Word64)
    (h : handleSlot s o.fn r.codeh = some (n, x)) : ∃ k : Task,
      createTask s o slot ts r = updateHem (traceTask (numbered s o.fn k) k .created 0) k.fn ∧
      k.fn = o.fn ∧ k.queue = o.queue ∧ k.slot = slot ∧ k.lrec = r ∧ k.phase = .waiting ∧ k.restart = false ∧ k.ts = ts ∧
      k.taskid = (s.func o.fn).nextTaskid := by
  unfold createTask
  rw [h]
  exact ⟨_, rfl, rfl, rfl, rfl, rfl, rfl, rfl, rfl, rfl⟩

theorem dispatchOf_createTask (s : State) (o : Origin) (slot : Nat) (ts : Word64) (r : LaunchRec) (p : Nat) :
    dispatchOf (createTask s o slot ts r) p = dispatchOf s p := by
  cases h : handleSlot s o.fn r.codeh with
  | none => rw [createTask_invalid h]
  | some e =>
    obtain ⟨k, created, -⟩ := createTask_eq slot ts h
    rw [created, dispatchOf_of_parts (updateHem_parts _ _), dispatchOf_traceTask]
    rfl

/-- What the queue and the tasks show of a created task. -/
theorem createTask_leaves {s : State} {o : Origin} {n : Nat} {x : SealedSlot} {r : LaunchRec} (slot : Nat) (ts : Word64)
    (h : handleSlot s o.fn r.codeh = some (n, x)) : ∃ k : Task,
      (createTask s o slot ts r).tasks = Tab.set s.tasks s.nextId k ∧
      (∀ q, ((createTask s o slot ts r).func o.fn).queue q = (s.func o.fn).queue q) ∧
      k.fn = o.fn ∧ k.queue = o.queue ∧ k.slot = slot ∧ k.lrec = r ∧ k.phase = .waiting ∧ k.restart = false ∧ k.ts = ts ∧
      k.taskid = (s.func o.fn).nextTaskid := by
  obtain ⟨k, created, fn, fields⟩ := createTask_eq slot ts h
  refine ⟨k, ?_, fun q => ?_, fn, fields⟩
  · rw [created, updateHem_tasks, traceTask_tasks]
    rfl
  · have func : (numbered s o.fn k).func o.fn = { s.func o.fn with nextTaskid := (s.func o.fn).nextTaskid + 1 } := func_setFunc _ _ _
    rw [created, ← fn, queue_updateHem, queue_traceTask, fn, func]
    rfl

/-! ### The record at the head of a queue -/

section
variable {s : State} {fn q : Nat} {b : List Byte} (hb : headBytes s fn ((s.func fn).queue q) = some b)
include hb

theorem dispatchHead_stops {code : Nat} (graph : (parseRecord b).graph = false)
    (hc : recordCode s fn (clampStamp s fn (parseRecord b).tstamp).2 (parseRecord b) = some code) :
    dispatchHead s fn q = stopQueue s fn q code := by
  unfold dispatchHead
  simp only [hb, graph, hc, Bool.false_eq_true, if_false]

theorem dispatchHead_creates {slot : Nat} (graph : (parseRecord b).graph = false)
    (hc : recordCode s fn (clampStamp s fn (parseRecord b).tstamp).2 (parseRecord b) = none) (hs : dispatchSlot s fn = some slot) :
    dispatchHead s fn q = consume (createTask (clampStamp s fn (parseRecord b).tstamp).1 { fn := fn, queue := q } slot
      (clampStamp s fn (parseRecord b).tstamp).2 (parseRecord b)) fn q := by
  unfold dispatchHead
  simp only [hb, graph, hc, hs, Bool.false_eq_true, if_false]

theorem dispatchHead_walks {w : Walk} (graph : (parseRecord b).graph = true) (may : masked s fn 6 = false)
    (hw : startWalk s fn q (parseRecord b) = .ok w) : dispatchHead s fn q =
      consume (s.modFunc fn (fun f => { f with walk := some { w with tsnext := (parseRecord b).tstamp } })) fn q := by
  unfold dispatchHead
  simp only [hb, graph, may, hw, Bool.false_eq_true, if_false, if_true]

end

/-- Whatever the record, the dispatcher's registers are left as the selection made them. -/
theorem dispatchOf_dispatchHead (s : State) (fn q p : Nat) : dispatchOf (dispatchHead s fn q) p = dispatchOf s p := by
  have stops (code : Nat) : dispatchOf (stopQueue s fn q code) p = dispatchOf s p := dispatchOf_of_parts (stopQueue_parts s fn q code) p
  have clamped (ts : Word64) : dispatchOf (clampStamp s fn ts).1 p = dispatchOf s p := by
    rcases clampStamp_cases s fn ts with h | h
    · rw [h]
    · rw [h]
      rfl
  unfold dispatchHead
  split
  · exact stops _
  · dsimp only
    split
    · split
      · exact stops _
      · split
        · exact stops _
        · rw [dispatchOf_consume]
          rfl
    · split
      · exact stops _
      · rfl
      · rw [dispatchOf_consume, dispatchOf_createTask, clamped]

/-! ### The codes of a record (R60) -/

theorem recordCode_lt {s : State} {fn : Nat} {ts : Word64} {r : LaunchRec} {code : Nat} (h : recordCode s fn ts r = some code) :
    code < 2 ^ 32 := by
  unfold recordCode at h
  split at h
  · cases h
    decide
  · obtain ⟨e, he, rfl⟩ := Option.map_eq_some_iff.1 h
    have mem := List.mem_of_find?_eq_some he
    simp only [List.mem_cons, List.not_mem_nil, or_false] at mem
    rcases mem with rfl | rfl | rfl | rfl | rfl | rfl | rfl | rfl | rfl | rfl
    all_goals norm_num

/-- A record whose checks pass has a valid handle. -/
theorem handleSlot_of_recordCode {s : State} {fn : Nat} {ts : Word64} {r : LaunchRec} (h : recordCode s fn ts r = none) :
    ∃ n x, handleSlot s fn r.codeh = some (n, x) := by
  cases hs : handleSlot s fn r.codeh with
  | none => simp [recordCode, hs] at h
  | some e => exact ⟨e.1, e.2, rfl⟩

/-! ### The choice of a queue (R139) -/

/-- The state in which the dispatcher of a partition has chosen a queue of a level. -/
def dispatched (s : State) (p level q : Nat) : State :=
  s.setPart p { s.part p with nextDispatch := s.now + 32, dispPtr := Tab.set (s.part p).dispPtr level ((q + 1) % 64) }

theorem dispatchOf_dispatched (s : State) (p level q : Nat) :
    dispatchOf (dispatched s p level q) p = (s.now + 32, Tab.set (s.part p).dispPtr level ((q + 1) % 64)) := by
  unfold dispatchOf dispatched
  rw [part_setPart]

section
variable {s : State} {p fn : Nat}

theorem dispatchRecord_idle (h : running s p = none ∨ mayDispatch s p = false) : exec (.dispatchRecord p) s = .next s := by
  show execDispatchRecord p s = _
  unfold execDispatchRecord
  split
  next => rfl
  next hr =>
    have closed : mayDispatch s p = false := h.resolve_left (by simp [hr])
    rw [closed]
    rfl

/-- Without a free slot no record takes part. -/
theorem chosenQueue_none (full : freeSlots s fn = []) : chosenQueue s p fn = none := by
  have none_ : readyQueues s fn = [] := by
    simp [readyQueues, headReady, full]
  simp [chosenQueue, none_]

theorem dispatchRecord_full (hr : running s p = some fn) (full : freeSlots s fn = []) : exec (.dispatchRecord p) s = .next s := by
  show execDispatchRecord p s = _
  unfold execDispatchRecord
  simp only [hr, chosenQueue_none full]
  split
  · rfl
  · rfl

theorem dispatchRecord_chosen {q level : Nat} (hr : running s p = some fn) (may : mayDispatch s p = true)
    (chosen : chosenQueue s p fn = some (q, level)) :
    exec (.dispatchRecord p) s = .next (dispatchHead (dispatched s p level q) fn q) := by
  show execDispatchRecord p s = _
  unfold execDispatchRecord
  simp only [hr, may, chosen, Bool.not_true, Bool.false_eq_true, if_false]
  rfl

end

/-! ### What the choice leaves for the record -/

section
variable (s : State) (p level q fn : Nat)

theorem clampStamp_dispatched (ts : Word64) : (clampStamp (dispatched s p level q) fn ts).2 = (clampStamp s fn ts).2 := by
  rw [clampStamp_stamp, clampStamp_stamp]
  rfl

theorem recordCode_dispatched (ts : Word64) (r : LaunchRec) : recordCode (dispatched s p level q) fn ts r = recordCode s fn ts r := rfl

theorem startWalk_dispatched (r : LaunchRec) : startWalk (dispatched s p level q) fn q r = startWalk s fn q r := rfl

theorem dispatcherOpen_dispatched (n : Nat) : dispatcherOpen (dispatched s p level q) n = dispatcherOpen s n := by
  unfold dispatcherOpen dispatched
  by_cases h : n = p
  · rw [h, part_setPart]
  · rw [part_setPart_ne _ _ _ _ h]

theorem walkerClaim_dispatched : walkerClaim (dispatched s p level q) fn = walkerClaim s fn := by
  unfold walkerClaim
  simp only [dispatcherOpen_dispatched]
  rfl

theorem dispatchSlot_dispatched : dispatchSlot (dispatched s p level q) fn = dispatchSlot s fn := by
  unfold dispatchSlot
  rw [walkerClaim_dispatched]
  rfl

end

/-! ### What a record becomes -/

/-- The state in which a task's timestamp has been clamped differs from the one before in a flag (R166). -/
theorem clampStamp_keeps (s : State) (fn : Nat) (ts : Word64) : let u := (clampStamp s fn ts).1
    u.tasks = s.tasks ∧ u.nextId = s.nextId ∧ (u.func fn).nextTaskid = (s.func fn).nextTaskid ∧
      (∀ q, (u.func fn).queue q = (s.func fn).queue q) ∧ ∀ h, handleSlot u fn h = handleSlot s fn h := by
  intro u
  rcases clampStamp_cases s fn ts with h | h
  · unfold u
    rw [h]
    exact ⟨rfl, rfl, rfl, fun _ => rfl, fun _ => rfl⟩
  · have func : u.func fn = { s.func fn with tsClamp := true } := by
      unfold u
      rw [h]
      exact func_modFunc s fn _
    unfold handleSlot
    rw [func]
    unfold u
    rw [h]
    exact ⟨rfl, rfl, rfl, fun _ => rfl, fun _ => rfl⟩

section
variable {s : State} {fn q : Nat} {b : List Byte} (hb : headBytes s fn ((s.func fn).queue q) = some b)
include hb

/-- A record that passes its checks becomes a task, and its queue's head goes on. -/
theorem dispatchHead_created {slot : Nat} (graph : (parseRecord b).graph = false)
    (hc : recordCode s fn (clampStamp s fn (parseRecord b).tstamp).2 (parseRecord b) = none) (hs : dispatchSlot s fn = some slot) :
    Created s (dispatchHead s fn q) s.nextId fn q slot (parseRecord b).tstamp (parseRecord b) ∧
      (((dispatchHead s fn q).func fn).queue q).qhead = ((s.func fn).queue q).qhead + 1#64 := by
  obtain ⟨n, x, handle⟩ := handleSlot_of_recordCode hc
  obtain ⟨tasks, nextId, nextTaskid, queues, handles⟩ := clampStamp_keeps s fn (parseRecord b).tstamp
  obtain ⟨k, created, queue, kfn, kqueue, kslot, klrec, kphase, krestart, kts, ktaskid⟩ :=
    createTask_leaves (o := { fn := fn, queue := q }) slot (clampStamp s fn (parseRecord b).tstamp).2 ((handles _).trans handle)
  rw [dispatchHead_creates hb graph hc hs]
  refine ⟨?_, by rw [consume_qhead, queue, queues]⟩
  have found : Tab.find (consume (createTask (clampStamp s fn (parseRecord b).tstamp).1 { fn := fn, queue := q } slot
      (clampStamp s fn (parseRecord b).tstamp).2 (parseRecord b)) fn q).tasks s.nextId = some k := by
    rw [consume_tasks, created, nextId]
    exact Tab.find_set_same _ _ _
  unfold Created State.task
  rw [Tab.get_of_find _ found, found]
  exact ⟨rfl, kfn, kqueue, kslot, klrec, kphase, krestart, kts.trans (clampStamp_stamp s fn _), ktaskid.trans nextTaskid⟩

theorem dispatchHead_stopped {code : Nat} (graph : (parseRecord b).graph = false)
    (hc : recordCode s fn (clampStamp s fn (parseRecord b).tstamp).2 (parseRecord b) = some code) :
    QueueStopped s (dispatchHead s fn q) fn q code ∧ (dispatchHead s fn q).tasks = s.tasks := by
  rw [dispatchHead_stops hb graph hc]
  exact ⟨queueStopped_stopQueue (recordCode_lt hc) rfl, stopQueue_tasks _ _ _ _⟩

/-- A GRAPH record that passes its checks starts the walk. -/
theorem dispatchHead_walked {w : Walk} (graph : (parseRecord b).graph = true) (may : masked s fn 6 = false)
    (hw : startWalk s fn q (parseRecord b) = .ok w) : let t := dispatchHead s fn q
    (t.func fn).walk = some { w with tsnext := (parseRecord b).tstamp } ∧
      ((t.func fn).queue q).qhead = ((s.func fn).queue q).qhead + 1#64 := by
  intro t
  unfold t
  rw [dispatchHead_walks hb graph may hw, consume_walk, consume_qhead, func_modFunc]
  exact ⟨rfl, rfl⟩

end

/-- Settles O51: the registers of a queue, its tail, the dispatcher and the wait tokens, each through the lemma about it. -/
theorem queuesAndDispatch : Obligations.QueuesAndDispatch := by
  unfold Obligations.QueuesAndDispatch
  refine ⟨fun s fn q v => ⟨fun off on no => queueEnable_refused off on no, fun off on yes => queueEnable_cases off on yes,
      fun on off => queueDisable_leaves on off⟩, tailWordChange_leaves,
    fun s p => ⟨dispatchRecord_idle, fun fn => dispatchRecord_full, fun fn q level b hr may chosen hb => ?dispatch⟩,
    fun s task k h => ⟨taskTokensHold_stays h, taskTokensHold_cases h⟩⟩
  case dispatch =>
    intro r
    have registers : dispatchOf (dispatchHead (dispatched s p level q) fn q) p = _ :=
      (dispatchOf_dispatchHead _ fn q p).trans (dispatchOf_dispatched s p level q)
    have head : headBytes (dispatched s p level q) fn (((dispatched s p level q).func fn).queue q) = some b := hb
    refine ⟨_, dispatchRecord_chosen hr may chosen, congrArg Prod.fst registers, ?pointer, fun slot graph hc hs => ?creates,
      fun code graph hc => ?stops, fun w graph allowed hw => ?walks⟩
    case pointer =>
      have pointers : ((dispatchHead (dispatched s p level q) fn q).part p).dispPtr = _ := congrArg Prod.snd registers
      rw [pointers, Tab.get_set_same]
    case creates =>
      exact dispatchHead_created head graph (by rw [clampStamp_dispatched, recordCode_dispatched]; exact hc)
        (by rw [dispatchSlot_dispatched]; exact hs)
    case stops => exact dispatchHead_stopped head graph (by rw [clampStamp_dispatched, recordCode_dispatched]; exact hc)
    case walks =>
      obtain ⟨walk, qhead⟩ := dispatchHead_walked head graph allowed (by rw [startWalk_dispatched]; exact hw)
      rw [walk]
      exact ⟨rfl, rfl, qhead⟩

end Sys2Proof.Machine
end

section
/-! PROOFS. What the steps of tasks and of memory's units keep: the form of the byte stores (log 2), and that a partition is
open; which change of a state keeps it. -/

namespace Sys2Proof.Machine

open Sys2Proof

/-- A property that these steps keep: the form of the byte stores, or that a partition's dispatcher is open. -/
inductive Kept where
  | stores
  | opens (p : Nat)

def State.Keeps : Kept → State → Prop
  | .stores, s => s.MemOk
  | .opens p, s => (s.part p).isOpen = true

/-- The shared memory of a crew is in canonical form. -/
def Crew.ShmOk (cr : Crew) : Prop := Memory.wf cr.shm

/-- The shared memory of every crew is in canonical form. -/
def State.ShmsOk (s : State) : Prop := ∀ e ∈ s.crews, e.2.ShmOk

variable {κ : Kept} {s t : State}

/-! ### What a single update needs to keep it -/

/-- A state with the same memory and partitions, whose crews are in form when the other's are, keeps what the other does. -/
theorem kept_of_shms (h : s.Keeps κ) (mem : t.mem = s.mem) (parts : t.parts = s.parts) (crews : s.ShmsOk → t.ShmsOk) :
    t.Keeps κ :=
  match κ, h with
  | .stores, h => ⟨mem ▸ h.1, crews h.2⟩
  | .opens p, h => (congrArg (fun x : Tab Part => (Tab.get x p {}).isOpen) parts).trans h

/-- The updates that touch none of these follow from it. -/
theorem kept_of_eq (h : s.Keeps κ) (mem : t.mem = s.mem) (crews : t.crews = s.crews) (parts : t.parts = s.parts) :
    t.Keeps κ := kept_of_shms h mem parts (fun ok e he => ok e (crews ▸ he))

/-- The byte stores stay in form when the partitions change. -/
theorem memOk_of_eq (h : s.Keeps .stores) (mem : t.mem = s.mem) (crews : t.crews = s.crews) : t.Keeps .stores :=
  ⟨mem ▸ h.1, fun e he => h.2 e (crews ▸ he)⟩

theorem ite_kept {p : Prop} [Decidable p] (hs : s.Keeps κ) (ht : t.Keeps κ) :
    (if p then s else t).Keeps κ := iteInduction (fun _ => hs) (fun _ => ht)

/-- A change of the crews one by one that keeps each one's shared memory in form keeps all of them so. -/
theorem mappedCrews_kept {g : Nat × Crew → Nat × Crew} (h : s.Keeps κ) (mem : t.mem = s.mem)
    (crews : t.crews = s.crews.map g) (parts : t.parts = s.parts) (hg : ∀ e, e.2.ShmOk → (g e).2.ShmOk) : t.Keeps κ := by
  refine kept_of_shms h mem parts (fun ok e he => ?_)
  obtain ⟨d, hd, rfl⟩ := List.mem_map.1 (crews ▸ he)
  exact hg d (ok d hd)

theorem filteredCrews_kept {p : Nat × Crew → Bool} (h : s.Keeps κ) (mem : t.mem = s.mem) (crews : t.crews = s.crews.filter p)
    (parts : t.parts = s.parts) : t.Keeps κ :=
  kept_of_shms h mem parts (fun ok e he => ok e (List.mem_filter.1 (crews ▸ he)).1)

theorem erasedCrew_kept {c : Nat} {ts : Tab Team} {os : Tab PendOp} (h : s.Keeps κ) :
    State.Keeps κ { s with crews := Tab.erase s.crews c, teams := ts, ops := os } := filteredCrews_kept h rfl rfl rfl

theorem crew_shmOk {c : Nat} (h : s.ShmsOk) : (s.crew c).ShmOk := by
  unfold State.crew Tab.get
  cases hc : Tab.find s.crews c with
  | none => exact Memory.wf_nil
  | some cr => exact h _ (Tab.mem_of_find hc)

theorem setCrew_kept {c : Nat} {x : Crew} (h : s.Keeps κ) (hx : s.ShmsOk → x.ShmOk) : (s.setCrew c x).Keeps κ := by
  refine kept_of_shms h rfl rfl (fun ok e he => ?_)
  rcases Tab.mem_set he with rfl | old
  · exact hx ok
  · exact ok e old

theorem modCrew_kept {c : Nat} {g : Crew → Crew} (h : s.Keeps κ) (hg : ∀ x, x.ShmOk → (g x).ShmOk) :
    (s.modCrew c g).Keeps κ :=
  setCrew_kept h (fun ok => hg _ (crew_shmOk ok))

theorem storedCrew_shmOk {c : Nat} (h : s.Keeps .stores) : (s.crew c).ShmOk := crew_shmOk h.2

theorem setCrew_memOk {c : Nat} {x : Crew} (h : s.Keeps .stores) (hx : x.ShmOk) : (s.setCrew c x).Keeps .stores :=
  setCrew_kept h (fun _ => hx)

theorem foldl_kept {α : Type} {f : State → α → State} {l : List α} (h : s.Keeps κ)
    (hf : ∀ u a, u.Keeps κ → (f u a).Keeps κ) : (l.foldl f s).Keeps κ := List.foldlRecOn l f h (fun u hu a _ => hf u a hu)

/-- A change of the partitions one by one that leaves open what is open. -/
theorem mappedParts_kept {g : Part → Part} (h : s.Keeps κ) (mem : Memory.wf s.mem → Memory.wf t.mem)
    (crews : t.crews = s.crews) (parts : t.parts = s.parts.map (fun e => (e.1, g e.2))) (hg : ∀ x, (g x).isOpen = x.isOpen) :
    t.Keeps κ :=
  match κ, h with
  | .stores, h => ⟨mem h.1, fun e he => h.2 e (crews ▸ he)⟩
  | .opens p, h => by
    have same : (t.part p).isOpen = (s.part p).isOpen := by
      unfold State.part Tab.get
      rw [parts, Tab.find_map]
      cases Tab.find s.parts p with
      | none => rfl
      | some x => exact hg x
    exact same.trans h

/-- A change of one partition that does not close it. -/
theorem modPart_kept {n : Nat} {g : Part → Part} (h : s.Keeps κ) (hg : ∀ x, (g x).isOpen = x.isOpen) :
    (s.modPart n g).Keeps κ :=
  match κ, h with
  | .stores, h => h
  | .opens p, h => by
    have same : ((s.modPart n g).part p).isOpen = (s.part p).isOpen := by
      by_cases np : n = p
      · subst np
        rw [part_modPart, hg]
      · exact congrArg Part.isOpen (part_setPart_ne s n p (g (s.part n)) (Ne.symm np))
    exact same.trans h

/-! ### Updates that touch no store and no partition -/

theorem setTeam_kept {n : Nat} {x : Team} (h : s.Keeps κ) : (s.setTeam n x).Keeps κ := kept_of_eq h rfl rfl rfl
theorem setTask_kept {n : Nat} {x : Task} (h : s.Keeps κ) : (s.setTask n x).Keeps κ := kept_of_eq h rfl rfl rfl
theorem setCore_kept {n : Nat} {x : Core} (h : s.Keeps κ) : (s.setCore n x).Keeps κ := kept_of_eq h rfl rfl rfl
theorem setDie_kept {n : Nat} {x : Die} (h : s.Keeps κ) : (s.setDie n x).Keeps κ := kept_of_eq h rfl rfl rfl
theorem setFunc_kept {n : Nat} {x : Func} (h : s.Keeps κ) : (s.setFunc n x).Keeps κ := kept_of_eq h rfl rfl rfl
theorem modTeam_kept {n : Nat} {g : Team → Team} (h : s.Keeps κ) : (s.modTeam n g).Keeps κ := kept_of_eq h rfl rfl rfl
theorem modTask_kept {n : Nat} {g : Task → Task} (h : s.Keeps κ) : (s.modTask n g).Keeps κ := kept_of_eq h rfl rfl rfl
theorem modCore_kept {n : Nat} {g : Core → Core} (h : s.Keeps κ) : (s.modCore n g).Keeps κ := kept_of_eq h rfl rfl rfl
theorem modDie_kept {n : Nat} {g : Die → Die} (h : s.Keeps κ) : (s.modDie n g).Keeps κ := kept_of_eq h rfl rfl rfl
theorem modFunc_kept {n : Nat} {g : Func → Func} (h : s.Keeps κ) : (s.modFunc n g).Keeps κ := kept_of_eq h rfl rfl rfl
theorem modPath_kept {t p : Nat} {g : Path → Path} (h : s.Keeps κ) : (s.modPath t p g).Keeps κ := kept_of_eq h rfl rfl rfl
theorem irq_kept {fn vec : Nat} (h : s.Keeps κ) : (s.irq fn vec).Keeps κ := kept_of_eq h rfl rfl rfl
theorem newId_kept (h : s.Keeps κ) : s.newId.2.Keeps κ := kept_of_eq h rfl rfl rfl
theorem bump_kept (h : s.Keeps κ) : s.bump.Keeps κ := kept_of_eq h rfl rfl rfl
theorem later_kept {i : Instr} (h : s.Keeps κ) : (s.later i).Keeps κ := kept_of_eq h rfl rfl rfl
theorem noteErrors_kept {ws : List Nat} (h : s.Keeps κ) : (noteErrors s ws).Keeps κ := kept_of_eq h rfl rfl rfl
theorem withTasks_kept {x : Tab Task} (h : s.Keeps κ) : State.Keeps κ { s with tasks := x } := kept_of_eq h rfl rfl rfl
theorem withOps_kept {x : Tab PendOp} (h : s.Keeps κ) : State.Keeps κ { s with ops := x } := kept_of_eq h rfl rfl rfl
theorem withAccesses_kept {x : Tab Access} (h : s.Keeps κ) :
    State.Keeps κ { s with accesses := x } := kept_of_eq h rfl rfl rfl
theorem withPages_kept {x : List PageReq} (h : s.Keeps κ) : State.Keeps κ { s with pages := x } := kept_of_eq h rfl rfl rfl
theorem withPagePtr_kept {n : Nat} (h : s.Keeps κ) : State.Keeps κ { s with pagePtr := n } := kept_of_eq h rfl rfl rfl
theorem withRepairs_kept {x : List Repair} (h : s.Keeps κ) :
    State.Keeps κ { s with repairs := x } := kept_of_eq h rfl rfl rfl
theorem withIssue_kept {i : Option Issue} (h : s.Keeps κ) : State.Keeps κ { s with issue := i } := kept_of_eq h rfl rfl rfl
theorem withIdOps_kept {n : Nat} {x : Tab PendOp} (h : s.Keeps κ) : State.Keeps κ { s with nextId := n, ops := x } :=
  kept_of_eq h rfl rfl rfl
theorem withOpsColl_kept {x : Tab PendOp} {y : Tab XFields} (h : s.Keeps κ) :
    State.Keeps κ { s with ops := x, collX := y } :=
  kept_of_eq h rfl rfl rfl
theorem withVacant_kept {x : List Nat} (h : s.Keeps κ) : State.Keeps κ { s with vacant := x } := kept_of_eq h rfl rfl rfl
theorem withTeamsFree_kept {x : Tab Team} {n : Nat} (h : s.Keeps κ) : State.Keeps κ { s with teams := x, free := n } :=
  kept_of_eq h rfl rfl rfl

theorem setPart_memOk {n : Nat} {x : Part} (h : s.Keeps .stores) : (s.setPart n x).Keeps .stores := h
theorem modPart_memOk {n : Nat} {g : Part → Part} (h : s.Keeps .stores) : (s.modPart n g).Keeps .stores := h

/-- A partition without the signal-table entries of some bytes. -/
def withoutSignals (flat n : Nat) (x : Part) : Part := { x with signals := x.signals.filter (fun g => apart g.addr 8 flat n) }

theorem dropSignals_kept {flat n : Nat} (h : s.Keeps κ) : (dropSignals s flat n).Keeps κ :=
  mappedParts_kept (g := withoutSignals flat n) h id rfl rfl (fun _ => rfl)

/-- A write of memory keeps the form, and takes only entries of the signal tables. -/
theorem memWrite_kept {flat : Nat} {bs : List Byte} (h : s.Keeps κ) : (memWrite s flat bs).Keeps κ :=
  mappedParts_kept (g := withoutSignals flat bs.length) h (memWrite_wf flat bs) rfl rfl (fun _ => rfl)

/-! ### Crews -/

theorem ctxCrew_shmOk {c : Ctx} (h : s.Keeps .stores) : (c.crew s).ShmOk := storedCrew_shmOk h

variable {cr : Crew}

theorem shmWrite_shmOk {off : Nat} {bs : List Byte} (h : cr.ShmOk) : (shmWrite cr off bs).ShmOk := Memory.write_wf off bs h
theorem noteLate_shmOk {t : Nat} {addrs : List Nat} (h : cr.ShmOk) : (cr.noteLate t addrs).ShmOk := h
theorem setRing_shmOk {n : Nat} {r : Ring} (h : cr.ShmOk) : (cr.setRing n r).ShmOk := h
theorem setChan_shmOk {n : Nat} {ch : Channel} (h : cr.ShmOk) : (cr.setChan n ch).ShmOk := h
theorem accSet_shmOk {l : List (Nat × Nat × Nat)} (h : cr.ShmOk) : (accSet cr l).ShmOk := h

theorem shmOk_ite {p : Prop} [Decidable p] {a b : Crew} (ha : a.ShmOk) (hb : b.ShmOk) : (if p then a else b).ShmOk :=
  iteInduction (fun _ => ha) (fun _ => hb)

theorem foldlCrew_shmOk {α : Type} {f : Crew → α → Crew} {l : List α} (h : cr.ShmOk) (hf : ∀ x a, x.ShmOk → (f x a).ShmOk) :
    (l.foldl f cr).ShmOk := List.foldlRecOn l f h (fun x hx a _ => hf x a hx)

theorem engineWrite_shmOk {off : Nat} {bs : List Byte} (h : cr.ShmOk) : (engineWrite cr off bs).ShmOk := by
  unfold engineWrite
  exact shmWrite_shmOk (shmOk_ite h h)

theorem noteSeen_shmOk {fr t : Nat} {addrs : List Nat} (h : cr.ShmOk) : (cr.noteSeen fr t addrs).ShmOk := by
  unfold Crew.noteSeen
  exact shmOk_ite h h

theorem releaseLate_shmOk {t : Nat} (h : cr.ShmOk) : (cr.releaseLate t).ShmOk := by
  unfold Crew.releaseLate
  exact shmOk_ite h h

theorem ringFill_shmOk {n count k : Nat} {bs : List Byte} (h : cr.ShmOk) : (ringFill cr n count k bs).ShmOk := by
  induction k generalizing cr count bs with
  | zero => exact h
  | succ k ih => exact ih (engineWrite_shmOk h)

theorem writeStream_shmOk {c : CopyCmd} {b0 : Nat} {bs : List Byte} (h : cr.ShmOk) : (writeStream cr c b0 bs).1.ShmOk :=
  List.foldlRecOn (motive := fun q : Crew × CopyCmd => q.1.ShmOk) _ _ h (fun _ hq _ _ => engineWrite_shmOk hq)

theorem moveStream_shmOk {c : CopyCmd} {fr : Nat} {bs : List Nat} (h : cr.ShmOk) : (moveStream cr c fr bs).1.ShmOk := by
  induction bs generalizing cr c with
  | nil => exact h
  | cons b bs ih => exact ih (engineWrite_shmOk h)

theorem readAcc_shmOk {tm : Team} {own got : List Byte} (h : cr.ShmOk) : (readAcc cr tm own got).ShmOk := by
  unfold readAcc
  grind [Crew.ShmOk]

theorem readCrew_shmOk {own got : List Byte} (h : cr.ShmOk) : (readCrew cr own got).ShmOk := by
  unfold readCrew Crew.ShmOk
  dsimp only
  split
  · exact Memory.write_wf _ _ Memory.wf_nil
  · exact h

end Sys2Proof.Machine
end

section
/-! PROOFS. The form of the byte stores: the steps of tasks, cohorts, accesses and of memory's units keep it. -/

namespace Sys2Proof.Machine

open Sys2Proof

variable {κ : Kept} {s t : State}

/-! ### Machine/Base -/

theorem updateHem_kept {fn : Nat} (h : s.Keeps κ) : (updateHem s fn).Keeps κ := by
  unfold updateHem
  exact ite_kept (setFunc_kept h) h

theorem stopTeams_kept {k : Nat} (h : s.Keeps κ) : (stopTeams s k).Keeps κ := kept_of_eq h rfl rfl rfl

theorem resumeTeams_memOk {k : Nat} (h : s.Keeps .stores) : (resumeTeams s k).Keeps .stores := h

theorem stopQueue_kept {fn q code : Nat} (h : s.Keeps κ) : (stopQueue s fn q code).Keeps κ := by
  unfold stopQueue
  exact ite_kept (irq_kept (setFunc_kept h)) (setFunc_kept h)

theorem flagDone_kept {t : Nat} {flag : Option Nat} (h : s.Keeps κ) : (flagDone s t flag).Keeps κ := by
  unfold flagDone
  dsimp only
  split
  · exact h
  · exact modTeam_kept h

theorem flagIssue_memOk {t : Nat} {flag : Option Nat} (h : s.Keeps .stores) : (flagIssue s t flag).Keeps .stores := by
  unfold flagIssue
  split
  · exact h
  · exact modTeam_kept h

/-! ### Machine/Trace -/

theorem traceEvent_kept {fn : Nat} {k : TraceKind} {detail : Nat} {a : TraceAt} (h : s.Keeps κ) :
    (traceEvent s fn k detail a).Keeps κ := by
  unfold traceEvent
  exact ite_kept h (ite_kept (setFunc_kept h) (memWrite_kept (setFunc_kept h)))

theorem traceTask_kept {k : Task} {kind : TraceKind} {detail : Nat} (h : s.Keeps κ) :
    (traceTask s k kind detail).Keeps κ := by
  unfold traceTask
  exact traceEvent_kept h

theorem tracePath_memOk {t p : Nat} {kind : TraceKind} {detail : Nat} (h : s.Keeps .stores) :
    (tracePath s t p kind detail).Keeps .stores := by
  unfold tracePath
  exact traceEvent_kept h

theorem traceCrew_memOk {c : Nat} {kind : TraceKind} (h : s.Keeps .stores) : (traceCrew s c kind).Keeps .stores := by
  unfold traceCrew
  exact traceEvent_kept h

theorem pmCount_memOk {fn event n : Nat} (h : s.Keeps .stores) : (pmCount s fn event n).Keeps .stores := by
  unfold pmCount
  exact ite_kept h (setFunc_kept h)

/-! ### Machine/Cohort -/

theorem setCohort_kept {c : Cohort} (h : s.Keeps κ) : (setCohort s c).Keeps κ := kept_of_eq h rfl rfl rfl

theorem dropCohort_kept {fn : Nat} {ts : Word64} (h : s.Keeps κ) : (dropCohort s fn ts).Keeps κ := kept_of_eq h rfl rfl rfl

theorem dropTaskWork_kept {k : Nat} (h : s.Keeps κ) : (dropTaskWork s k).Keeps κ :=
  filteredCrews_kept (p := fun e => e.2.task != k) h rfl rfl rfl

theorem abortTasks_kept {fn : Nat} {cause : AbortCause} {ks wrong noSpec : List Nat} (h : s.Keeps κ) :
    (abortTasks s fn cause ks wrong noSpec).Keeps κ := by
  unfold abortTasks
  dsimp only
  refine updateHem_kept (foldl_kept (modFunc_kept h) (fun u e hu => ?_))
  have traced {p : Bool} {kind : TraceKind} {d : Nat} :
    (dropCohort (dropTaskWork (if p then u else traceTask u e.2 kind d) e.1) e.2.fn e.2.ts).Keeps κ :=
    dropCohort_kept (dropTaskWork_kept (ite_kept hu (traceTask_kept hu)))
  exact ite_kept (kept_of_eq traced rfl rfl rfl) (setTask_kept traced)

theorem abortCohort_kept {fn : Nat} {ts : Word64} {cause : AbortCause} (h : s.Keeps κ) :
    (abortCohort s fn ts cause).Keeps κ := by
  unfold abortCohort
  exact abortTasks_kept h

/-- A partition without the signal-table entries of the bytes of a version. -/
def withoutWritten (cells : List Host.Cell) (x : Part) : Part :=
  { x with signals := x.signals.filter (fun g => !cells.any (fun b => decide (g.addr ≤ b.1) && decide (b.1 < g.addr + 8))) }

theorem writeCells_kept {cells : List Host.Cell} (h : s.Keeps κ) : (writeCells s cells).Keeps κ :=
  mappedParts_kept (g := withoutWritten cells) h (Memory.writes_wf cells) rfl rfl (fun _ => rfl)

theorem enterWriteThrough_kept {fn : Nat} {ts : Word64} (h : s.Keeps κ) : (enterWriteThrough s fn ts).Keeps κ := by
  unfold enterWriteThrough
  exact ite_kept h (modFunc_kept (setCohort_kept (writeCells_kept h)))

/-- Tracking that answers a state keeps the form. -/
def Track.Keeps (κ : Kept) : Track → Prop
  | .ok s => s.Keeps κ
  | _ => True

theorem enterLine_kept {fn : Nat} {ts : Word64} {line : Nat} (h : s.Keeps κ) : (enterLine s fn ts line).Keeps κ := by
  unfold enterLine
  grind [Track.Keeps, ! @setCohort_kept κ, ! @abortCohort_kept κ, ! @enterWriteThrough_kept κ]

theorem enterLines_kept {fn : Nat} {ts : Word64} {ls : List Nat} (h : s.Keeps κ) : (enterLines s fn ts ls).Keeps κ := by
  induction ls generalizing s with
  | nil => exact h
  | cons l ls ih =>
    unfold enterLines
    grind [Track.Keeps, ! @enterLine_kept κ]

theorem trackRead_kept {fn : Nat} {ts : Word64} {flat n : Nat} (h : s.Keeps κ) : (trackRead s fn ts flat n).Keeps κ := by
  unfold trackRead
  grind [Track.Keeps, ! @enterLines_kept κ, ! @setCohort_kept κ]

theorem trackWrite_kept {fn : Nat} {ts : Word64} {flat n : Nat} (h : s.Keeps κ) : (trackWrite s fn ts flat n).Keeps κ := by
  unfold trackWrite
  grind [Track.Keeps, ! @enterLines_kept κ, ! @setCohort_kept κ, ! @abortTasks_kept κ, ! @enterWriteThrough_kept κ]

theorem cohortWrite_kept {fn : Nat} {ts : Word64} {flat : Nat} {bs : List Byte} (h : s.Keeps κ) :
    (cohortWrite s fn ts flat bs).Keeps κ := by
  unfold cohortWrite
  exact ite_kept (setCohort_kept (kept_of_eq h rfl rfl rfl)) (memWrite_kept h)

/-! ### Machine/Translate -/

theorem keepDesc_memOk {tk i : Nat} (h : s.Keeps .stores) : (keepDesc s tk i).Keeps .stores := by
  unfold keepDesc
  refine ite_kept h ?_
  split
  · exact modTask_kept h
  · exact h

theorem touchTtb_memOk {core fn : Nat} {entries : List Nat} (h : s.Keeps .stores) :
    (touchTtb s core fn entries).Keeps .stores := by
  unfold touchTtb
  exact ite_kept h (modCore_kept h)

theorem fillTtb_kept {core fn : Nat} {entries : List Nat} (h : s.Keeps κ) : (fillTtb s core fn entries).Keeps κ := by
  unfold fillTtb
  exact ite_kept h (modCore_kept h)

theorem startWalks_memOk {tk t path tid : Nat} {entries : List Nat} (h : s.Keeps .stores) :
    (startWalks s tk t path tid entries).1.Keeps .stores := by
  unfold startWalks
  refine List.foldlRecOn (motive := fun acc : State × List Nat => acc.1.Keeps .stores) _ _ h (fun _ hacc _ _ => ?_)
  dsimp only
  split <;> exact hacc

theorem flyWalks_memOk {die n : Nat} (h : s.Keeps .stores) : (flyWalks s die n).Keeps .stores := by
  induction n generalizing s with
  | zero => exact h
  | succ n ih =>
    unfold flyWalks
    split
    · exact h
    · exact ih (modDie_kept (memOk_of_eq h rfl rfl))

theorem launchWalks_memOk (h : s.Keeps .stores) : (launchWalks s).Keeps .stores := by
  unfold launchWalks
  exact ite_kept h (foldl_kept h (fun _ _ hu => flyWalks_memOk hu))

/-! ### Machine/Access -/

theorem trackUnit_kept {k : Task} {acc : Access} {a n : Nat} (h : s.Keeps κ) : (trackUnit s k acc a n).Keeps κ := by
  unfold trackUnit
  grind [Track.Keeps, ! @trackRead_kept κ, ! @trackWrite_kept κ]

theorem fillRo_kept {k : Task} {core flat : Nat} (h : s.Keeps κ) : (fillRo s k core flat).Keeps κ := by
  unfold fillRo
  exact modCore_kept h

/-- A performance that answers a state keeps the form. -/
def Perf.Keeps (κ : Kept) : Perf → Prop
  | .done s _ => s.Keeps κ
  | _ => True

theorem performUnit_kept {acc : Access} {u : MUnit} (h : s.Keeps κ) : (performUnit s acc u).Keeps κ := by
  unfold performUnit
  grind [Track.Keeps, Perf.Keeps, ! @trackUnit_kept κ, ! @fillRo_kept κ, ! @cohortWrite_kept κ]

theorem performUnits_kept {acc : Access} {us : List MUnit} (h : s.Keeps κ) : (performUnits s acc us).Keeps κ := by
  induction us generalizing s with
  | nil => exact h
  | cons u us ih =>
    unfold performUnits
    grind [Perf.Keeps, ! @performUnit_kept κ]

theorem trackAll_kept {k : Task} {acc : Access} {us : List MUnit} (h : s.Keeps κ) : (trackAll s k acc us).Keeps κ := by
  induction us generalizing s with
  | nil => exact h
  | cons u us ih =>
    unfold trackAll
    grind [Track.Keeps, ! @trackUnit_kept κ]

theorem performRmw_kept {acc : Access} {op : Nat} {shared : Bool} {us : List MUnit} (h : s.Keeps κ) :
    (performRmw s acc op shared us).Keeps κ := by
  unfold performRmw
  dsimp only
  split
  · exact h
  · split
    · trivial
    · trivial
    · trivial
    · next u _ e =>
      have hu : u.Keeps κ := by grind [Track.Keeps, ! @trackAll_kept κ]
      exact foldl_kept hu (fun v a hv => ite_kept hv (ite_kept (setCrew_kept hv
        (fun ok => shmWrite_shmOk (noteLate_shmOk (crew_shmOk ok)))) (cohortWrite_kept hv)))

theorem performOne_kept {acc : Access} {us : List MUnit} (h : s.Keeps κ) : (performOne s acc us).Keeps κ := by
  unfold performOne
  split
  · exact performRmw_kept h
  · exact performRmw_kept h
  · exact performRmw_kept h
  · exact performUnits_kept h

theorem issueOp_memOk {t p : Nat} {op : PendOp} (h : s.Keeps .stores) : (issueOp s t p op).Keeps .stores := by
  unfold issueOp
  exact modPath_kept (memOk_of_eq h rfl rfl)

theorem releaseAt_kept {t scope : Nat} {sob : Option (Nat × Nat)} {ids : List Nat} (h : s.Keeps κ) :
    (releaseAt s t scope sob ids).1.Keeps κ := kept_of_eq h rfl rfl rfl

theorem fenceAt_memOk {t p scope : Nat} (h : s.Keeps .stores) : (fenceAt s t p scope).1.Keeps .stores := by
  unfold fenceAt
  exact ite_kept (releaseAt_kept h) (modCrew_kept (releaseAt_kept h) (fun _ hcr => releaseLate_shmOk hcr))

theorem completeAccess_kept {id : Nat} {acc : Access} (h : s.Keeps κ) : (completeAccess s id acc).Keeps κ := by
  unfold completeAccess
  exact flagDone_kept (kept_of_eq h rfl rfl rfl)

theorem finishValue_kept {id : Nat} {acc : Access} {us : List MUnit} {lowest : Bool} (h : s.Keeps κ) :
    (finishValue s id acc us lowest).Keeps κ := by
  unfold finishValue
  dsimp only
  split
  · exact ite_kept (completeAccess_kept (modTeam_kept h)) (withAccesses_kept (modTeam_kept h))
  · exact ite_kept (completeAccess_kept h) (withAccesses_kept h)

theorem performValue_kept {id i : Nat} (h : s.Keeps κ) : (performValue s id i).Keeps κ := by
  unfold performValue
  split
  · exact h
  · dsimp only
    refine ite_kept h ?_
    split
    · next e => exact finishValue_kept (e ▸ performOne_kept h : Perf.Keeps κ (.done _ _))
    · exact h
    · exact withAccesses_kept h
    · exact ite_kept h (withAccesses_kept h)

theorem performAll_kept {id n : Nat} (h : s.Keeps κ) : (performAll s id n).Keeps κ := by
  induction n generalizing s with
  | zero => exact h
  | succ n ih => exact ih (performValue_kept h)

theorem trackWords_kept {k : Task} {as : List Nat} (h : s.Keeps κ) : (trackWords s k as).Keeps κ := by
  induction as generalizing s with
  | nil => exact h
  | cons a as ih =>
    unfold trackWords
    grind [Track.Keeps, ! @trackRead_kept κ]

theorem versionedAgain_kept {id : Nat} {acc : Access} (h : s.Keeps κ) :
    (versionedAgain s id acc).Keeps κ := kept_of_eq h rfl rfl rfl

theorem performVersioned_kept {id : Nat} {acc : Access} (h : s.Keeps κ) : (performVersioned s id acc).Keeps κ := by
  unfold performVersioned
  have tracked := trackWords_kept (k := s.task (s.team acc.team).task) (as := acc.versions) h
  split
  · exact withAccesses_kept h
  · exact ite_kept h (withAccesses_kept h)
  · next u e =>
    rw [e] at tracked
    refine ite_kept (versionedAgain_kept tracked) ?_
    dsimp only
    split
    · exact performAll_kept tracked
    · exact ite_kept (performAll_kept tracked) (withAccesses_kept h)

theorem settleAccess_kept {id : Nat} {anyTime : Bool} (h : s.Keeps κ) : (settleAccess s id anyTime).Keeps κ := by
  unfold settleAccess
  split
  · exact h
  · exact ite_kept (completeAccess_kept h) h

theorem performChosen_memOk {id : Nat} {units : List Nat} (h : s.Keeps .stores) :
    (performChosen s id units).Keeps .stores := by
  unfold performChosen
  split
  · exact h
  · refine ite_kept ?_ ?_
    · exact ite_kept (performVersioned_kept h) h
    · exact settleAccess_kept (foldl_kept h (fun _ _ hu => performValue_kept hu))

theorem performIds_kept {ids : List Nat} (h : s.Keeps κ) : (performIds s ids).Keeps κ := by
  unfold performIds
  refine foldl_kept h (fun _ _ hu => ?_)
  split
  · exact hu
  · exact ite_kept (ite_kept (performVersioned_kept hu) hu) (performAll_kept hu)

theorem performTeams_kept {teams : List Nat} (h : s.Keeps κ) : (performTeams s teams).Keeps κ := by
  unfold performTeams
  exact foldl_kept h (fun _ _ hu => settleAccess_kept (performIds_kept hu))

theorem settleAtomics_memOk {t : Nat} {p : Option Nat} {only : Option (List Nat)} (h : s.Keeps .stores) :
    (settleAtomics s t p only).Keeps .stores := by
  unfold settleAtomics
  exact ite_kept h (performIds_kept h)

/-! ### Machine/EngineMx -/

theorem radvApply_kept {t n a : Nat} {producer : Bool} (h : s.Keeps κ) : (radvApply s t n a producer).Keeps κ := by
  unfold radvApply
  exact modCrew_kept h (fun _ hcr => shmOk_ite (setRing_shmOk (releaseLate_shmOk hcr)) (setRing_shmOk hcr))

theorem radvMake_kept {o : Nat × PendOp} (h : s.Keeps κ) : (radvMake s o).Keeps κ := by
  unfold radvMake
  split
  · exact radvApply_kept (kept_of_eq h rfl rfl rfl)
  · exact h

theorem finishRadvs_kept {teams : List Nat} {n : Nat} (h : s.Keeps κ) : (finishRadvs s teams n).Keeps κ := by
  induction n generalizing s with
  | zero => exact h
  | succ n ih =>
    unfold finishRadvs
    split
    · exact ite_kept (ih (radvMake_kept h)) h
    · exact h

theorem mxConsume_kept {c : MxCmd} (h : s.Keeps κ) : (mxConsume s c).Keeps κ := by
  unfold mxConsume
  dsimp only
  have adv {cr : Crew} {on : Bool} {n : Nat} (hcr : cr.ShmOk) :
    (if on = true then cr.setRing n ((cr.ring n).consume 1) else cr).ShmOk :=
    shmOk_ite (setRing_shmOk hcr) hcr
  exact ite_kept h (modCrew_kept h (fun _ hcr => adv (adv (adv (adv hcr)))))

theorem mxRowsWrite_kept {c : MxCmd} (h : s.Keeps κ) : (mxRowsWrite s c).1.Keeps κ := by
  have acc {l : List (Nat × Nat × Nat)} (ok : s.ShmsOk) : (accSet (s.crew c.crew) l).ShmOk := accSet_shmOk (crew_shmOk ok)
  have zeroed {z : Bool} {l : List (Nat × Nat × Nat)} :
      (s.setCrew c.crew (if z = true then accSet (s.crew c.crew) l else s.crew c.crew)).Keeps κ :=
    setCrew_kept h (fun ok => shmOk_ite (acc ok) (crew_shmOk ok))
  unfold mxRowsWrite
  dsimp only
  split
  · exact flagDone_kept (modTeam_kept (setCrew_kept h acc))
  · split
    · exact flagDone_kept (modTeam_kept (setCrew_kept h acc))
    · dsimp only
      exact modTeam_kept zeroed

theorem accoutFinish_kept {c : MxCmd} (h : s.Keeps κ) : (accoutFinish s c).Keeps κ := by
  unfold accoutFinish
  exact flagDone_kept (setCrew_kept h (fun ok => shmOk_ite (setRing_shmOk (ringFill_shmOk (crew_shmOk ok)))
    (engineWrite_shmOk (crew_shmOk ok))))

theorem mxFinish_kept {c : MxCmd} (h : s.Keeps κ) : (mxFinish s c).Keeps κ := by
  have consumed := mxConsume_kept (c := c) h
  unfold mxFinish
  cases c.rowsDone <;>
    simp only [Bool.false_eq_true, if_true, if_false]
  · exact ite_kept (accoutFinish_kept (mxRowsWrite_kept consumed)) (mxRowsWrite_kept consumed)
  · exact ite_kept (accoutFinish_kept consumed) consumed

theorem mxFinishTeams_kept {teams : List Nat} (h : s.Keeps κ) : (mxFinishTeams s teams).Keeps κ := by
  unfold mxFinishTeams
  exact foldl_kept h (fun _ _ hu => modCore_kept (foldl_kept hu (fun _ _ hu1 => mxFinish_kept hu1)))

end Sys2Proof.Machine
end

section
/-! PROOFS. The form of the byte stores: copies, matrix commands, saves, faults, control, devices and launches keep it. -/

namespace Sys2Proof.Machine

open Sys2Proof

variable {κ : Kept} {s t : State}

/-! ### Machine/EngineCopy -/

/-- A step of a copy that answers a state keeps the form. -/
def Landed.Keeps (κ : Kept) : Landed → Prop
  | .ok s _ => s.Keeps κ
  | .walk s _ => s.Keeps κ
  | _ => True

theorem landed_ok {us : CopyCmd} (h : s.Keeps .stores) : Landed.Keeps .stores (.ok s us) := h

theorem copyWalk_memOk {c : CopyCmd} {tid : Nat} {entries : List Nat} (h : s.Keeps .stores) :
    (copyWalk s c tid entries).Keeps .stores :=
  startWalks_memOk (pmCount_memOk h)

theorem performEach_memOk {acc : Access} {us : List MUnit} (h : s.Keeps .stores) :
    (performEach s acc us).Keeps .stores := by
  induction us generalizing s acc with
  | nil => exact h
  | cons u us ih =>
    unfold performEach
    grind [Perf.Keeps, ! @performOne_kept Kept.stores]

/-- A read of a copy's source that answers a state keeps the form. -/
def readOk : Except FaultInfo Perf → Prop
  | .ok r => r.Keeps .stores
  | .error _ => True

theorem readSource_memOk {crew core : Nat} {c : CopyCmd} {w : Nat} {es : List Nat} (h : s.Keeps .stores) :
    readOk (readSource s crew core c w es) := by
  unfold readSource
  grind [readOk, Perf.Keeps, ! @performUnits_kept Kept.stores, touchTtb_memOk]

theorem lingerUnits_memOk {crew : Nat} {c : CopyCmd} {d : Desc} {entries : List Nat} {us : List MUnit}
    (h : s.Keeps .stores) :
    (lingerUnits s crew c d entries us).Keeps .stores := by
  unfold lingerUnits
  exact ite_kept h (memOk_of_eq h rfl rfl)

theorem writeUnits_memOk {crew core : Nat} {c : CopyCmd} {es vals : List Nat} (h : s.Keeps .stores) :
    (writeUnits s crew core c es vals).Keeps .stores := by
  unfold writeUnits
  grind [Perf.Keeps, Landed.Keeps, performEach_memOk, touchTtb_memOk, lingerUnits_memOk]

theorem moveUnits_memOk {crew core : Nat} {c : CopyCmd} {w : Nat} {es : List Nat} (h : s.Keeps .stores) :
    (moveUnits s crew core c w es).Keeps .stores := by
  induction es generalizing s c with
  | nil => exact h
  | cons e es ih =>
    unfold moveUnits
    grind [readOk, Perf.Keeps, Landed.Keeps, readSource_memOk, writeUnits_memOk]

theorem unitMoves_memOk {crew core : Nat} {c : CopyCmd} {n w : Nat} {es : List Nat} (h : s.Keeps .stores) :
    (unitMoves s crew core c n w es).Keeps .stores := by
  unfold unitMoves
  grind [readOk, Perf.Keeps, Landed.Keeps, readSource_memOk, writeUnits_memOk, moveUnits_memOk, setCrew_memOk, writeStream_shmOk,
    moveStream_shmOk, storedCrew_shmOk]

theorem landElems_memOk {crew core : Nat} {c : CopyCmd} {w : Nat} {es : List Nat} (h : s.Keeps .stores) :
    (landElems s crew core c w es).Keeps .stores := by
  unfold landElems
  grind [copyWalk_memOk, unitMoves_memOk]

theorem landRows_memOk {crew core : Nat} {c : CopyCmd} {w : Nat} {es : List Nat} {n : Nat} (h : s.Keeps .stores) :
    (landRows s crew core c w es n).Keeps .stores := by
  induction n generalizing s c es with
  | zero => exact h
  | succ n ih =>
    unfold landRows
    grind [Landed.Keeps, landElems_memOk]

theorem landUnit_memOk {crew core : Nat} {c : CopyCmd} {len w : Nat} (h : s.Keeps .stores) :
    (landUnit s crew core c len w).Keeps .stores := by
  have landed : (if c.byRows then landRows s crew core c w (unitElems c len w) (unitElems c len w).length
      else landElems s crew core c w (unitElems c len w)).Keeps .stores := iteInduction (fun _ => landRows_memOk h)
        (fun _ => landElems_memOk h)
  unfold landUnit
  dsimp only
  split
  · next u _ e =>
    have kept : u.Keeps .stores := (e ▸ landed : Landed.Keeps .stores (.ok u _))
    exact landed_ok (bump_kept (modCrew_kept kept (fun _ hcr => hcr)))
  · exact landed

theorem bumpVersion_memOk {c : CopyCmd} {entry : Nat} {next : CopyCmd} (h : s.Keeps .stores) :
    (bumpVersion s c entry next).Keeps .stores := by
  unfold bumpVersion
  grind [Perf.Keeps, Landed.Keeps, ! @performOne_kept Kept.stores]

theorem trackVersions_memOk {k : Task} {es : List Nat} (h : s.Keeps .stores) : (trackVersions s k es).Keeps .stores := by
  induction es generalizing s with
  | nil => exact h
  | cons e es ih =>
    unfold trackVersions
    grind [Track.Keeps, ! @trackRead_kept Kept.stores]

theorem atomRead_memOk {crew core : Nat} {c : CopyCmd} {w : Nat} (h : s.Keeps .stores) :
    (atomRead s crew core c w).Keeps .stores := by
  unfold atomRead
  dsimp only
  split
  · trivial
  · split
    · exact copyWalk_memOk h
    · trivial
    · trivial
    · trivial
    · trivial
    · split
      · trivial
      · trivial
      · next u e =>
        have hu : u.Keeps .stores := (e ▸ trackVersions_memOk h : Track.Keeps .stores (.ok u))
        split
        · exact hu
        · split
          · next v _ e => exact (e ▸ readSource_memOk hu : readOk (.ok (.done v _)))
          · trivial
          · trivial
          · trivial
          · trivial

theorem copyAdvance_memOk {crew core : Nat} {c : CopyCmd} (h : s.Keeps .stores) :
    (copyAdvance s crew core c).Keeps .stores := by
  unfold copyAdvance
  grind [Landed.Keeps, atomRead_memOk, copyWalk_memOk, bumpVersion_memOk, landUnit_memOk]

theorem setHead_memOk {crew n : Nat} {c : CopyCmd} (h : s.Keeps .stores) : (setHead s crew n c).Keeps .stores := by
  unfold setHead
  exact modCrew_kept h (fun _ hcr => setChan_shmOk hcr)

theorem copyBegin_memOk {crew n : Nat} {c : CopyCmd} (h : s.Keeps .stores) : (copyBegin s crew n c).Keeps .stores := by
  unfold copyBegin
  exact setHead_memOk (modCrew_kept h (fun _ hcr => shmOk_ite (setRing_shmOk hcr) hcr))

theorem ringAdvance_memOk {crew : Nat} {c : CopyCmd} (h : s.Keeps .stores) : (ringAdvance s crew c).Keeps .stores := by
  unfold ringAdvance
  exact modCrew_kept h (fun _ hcr => shmOk_ite (setRing_shmOk hcr) (shmOk_ite (setRing_shmOk hcr) hcr))

theorem ownSees_memOk {c : CopyCmd} (h : s.Keeps .stores) : (ownSees s c).Keeps .stores := by
  unfold ownSees
  exact ite_kept h (memOk_of_eq h rfl rfl)

theorem copyFinish_memOk {crew core n : Nat} {c : CopyCmd} (h : s.Keeps .stores) :
    (copyFinish s crew core n c).Keeps .stores := by
  unfold copyFinish
  dsimp only
  split
  · exact flagDone_kept (modCrew_kept (ite_kept h (ownSees_memOk (ringAdvance_memOk h))) (fun _ hcr => setChan_shmOk hcr))
  · refine ite_kept ?_ ?_
    · exact setHead_memOk (ite_kept h (ownSees_memOk (ringAdvance_memOk h)))
    · exact modCore_kept (modCrew_kept (ite_kept h (ownSees_memOk (ringAdvance_memOk h))) (fun _ hcr => setChan_shmOk hcr))

theorem trackGranules_memOk {k : Task} {gs : List Nat} (h : s.Keeps .stores) : (trackGranules s k gs).Keeps .stores := by
  induction gs generalizing s with
  | nil => exact h
  | cons g gs ih =>
    unfold trackGranules
    grind [Track.Keeps, ! @trackRead_kept Kept.stores]

/-- A start of a matrix command that answers a state keeps the form. -/
def MxStart.Keeps (κ : Kept) : MxStart → Prop
  | .ok s _ => s.Keeps κ
  | .walk s _ => s.Keeps κ
  | _ => True

theorem mxBegin_memOk {core : Nat} {c : MxCmd} (h : s.Keeps .stores) : (mxBegin s core c).Keeps .stores := by
  unfold mxBegin
  dsimp only
  split
  · exact startWalks_memOk (pmCount_memOk h)
  · trivial
  · split
    · trivial
    · split
      · trivial
      · trivial
      · next u e =>
        have hu : u.Keeps .stores := (e ▸ trackGranules_memOk (touchTtb_memOk h) : Track.Keeps .stores (.ok u))
        split
        · exact modCrew_kept hu (fun _ hcr => setRing_shmOk hcr)
        · exact hu

theorem runFollows_memOk {core : Nat} {teams : List Nat} {n : Nat} (h : s.Keeps .stores) :
    (runFollows s core teams n).Keeps .stores := by
  induction n generalizing s with
  | zero => exact h
  | succ n ih =>
    unfold runFollows
    grind [MxStart.Keeps, mxBegin_memOk, ! @mxFinish_kept Kept.stores, ! @modCore_kept Kept.stores]

theorem runChannel_memOk {crew core n : Nat} {teams : List Nat} {k : Nat} (h : s.Keeps .stores) :
    (runChannel s crew core n teams k).Keeps .stores := by
  induction k generalizing s with
  | zero => exact h
  | succ k ih =>
    unfold runChannel
    grind [Landed.Keeps, copyBegin_memOk, runFollows_memOk, copyFinish_memOk, copyAdvance_memOk, setHead_memOk]

theorem finishFollows_memOk {teams : List Nat} (h : s.Keeps .stores) : (finishFollows s teams).Keeps .stores := by
  unfold finishFollows
  exact foldl_kept h (fun _ _ hu => foldl_kept (runFollows_memOk hu) (fun _ _ hu1 => runChannel_memOk hu1))

/-! ### Machine/Save -/

theorem writeDirectory_kept {k : Nat} (h : s.Keeps κ) : (writeDirectory s k).Keeps κ := by
  unfold writeDirectory
  exact memWrite_kept h

theorem clearDirectory_kept {fn slot : Nat} (h : s.Keeps κ) : (clearDirectory s fn slot).Keeps κ := by
  unfold clearDirectory
  exact ite_kept h (memWrite_kept h)

theorem landSeq_kept {t : Nat} {dest : Option Nat} {v : Nat} {flag : Option Nat} (h : s.Keeps κ) :
    (landSeq s t dest v flag).Keeps κ := by
  unfold landSeq
  split
  · exact h
  · exact modTeam_kept h

theorem noteFull_kept {id line : Nat} (h : s.Keeps κ) : (noteFull s id line).Keeps κ := by
  unfold noteFull
  exact ite_kept h (kept_of_eq h rfl rfl rfl)

theorem clearFull_kept {id : Nat} (h : s.Keeps κ) : (clearFull s id).Keeps κ := kept_of_eq h rfl rfl rfl

theorem relAdd_kept {op : Nat} (h : s.Keeps κ) : (relAdd s op).Keeps κ := by
  have tracked {u : State} {fn : Nat} {ts : Word64} {flat : Nat} (hu : u.Keeps κ) : Track.Keeps κ (match trackRead u fn ts flat 8 with
      | .ok u => trackWrite u fn ts flat 8
      | r => r) := by grind [Track.Keeps, ! @trackRead_kept κ, ! @trackWrite_kept κ]
  unfold relAdd
  split
  · extract_lets k flat n r v both
    have released : v.Keeps κ := releaseAt_kept h
    have kept : both.Keeps κ := tracked released
    refine ite_kept h ?_
    clear_value both
    split
    · exact flagDone_kept (landSeq_kept (withOps_kept (clearFull_kept (cohortWrite_kept kept))))
    · exact released
    · exact noteFull_kept released
  · exact h

theorem finishRels_kept {teams : List Nat} (h : s.Keeps κ) : (finishRels s teams).Keeps κ := by
  unfold finishRels
  exact foldl_kept h (fun _ _ hu => relAdd_kept hu)

theorem placeAccesses_kept {id : Nat} {w : TileWalk} {word : Option Nat} (h : s.Keeps κ) :
    (placeAccesses s id w word).Keeps κ := kept_of_eq h rfl rfl rfl

theorem endWalk_kept {id : Nat} {w : TileWalk} (h : s.Keeps κ) : (endWalk s id w).Keeps κ := by
  unfold endWalk
  refine fillTtb_kept (modCore_kept (mappedCrews_kept h rfl rfl rfl (fun e he => ?_)))
  dsimp only
  split
  · exact he
  · exact he

theorem finishWalks_kept {teams : List Nat} (h : s.Keeps κ) : (finishWalks s teams).Keeps κ := by
  unfold finishWalks
  dsimp only
  refine foldl_kept h (fun _ _ hu => ?_)
  split
  · exact ite_kept hu (endWalk_kept hu)
  · exact hu

theorem accessStart_kept {id : Nat} {a : Access} (h : s.Keeps κ) : (accessStart s id a).Keeps κ := by
  unfold accessStart
  exact ite_kept h (kept_of_eq (enterWriteThrough_kept h) rfl rfl rfl)

theorem performAccesses_kept {teams : List Nat} (h : s.Keeps κ) : (performAccesses s teams).Keeps κ := by
  unfold performAccesses
  exact performTeams_kept (performIds_kept (finishWalks_kept (foldl_kept h (fun _ _ hu => accessStart_kept hu))))

theorem quiesceTeams_kept {teams : List Nat} (h : s.Keeps κ) : (quiesceTeams s teams).Keeps κ :=
  withTeamsFree_kept (mxFinishTeams_kept (finishRels_kept (finishRadvs_kept (performAccesses_kept h))))

theorem quiesce_kept {k : Nat} (h : s.Keeps κ) : (quiesce s k).Keeps κ := by
  unfold quiesce
  exact quiesceTeams_kept (stopTeams_kept h)

theorem vacateCrews_kept {mine : Nat → Bool} (h : s.Keeps κ) : (vacateCrews s mine).Keeps κ := by
  refine mappedCrews_kept h rfl rfl rfl (fun e he => ?_)
  dsimp only
  split
  · exact he
  · exact he

theorem placeSaved_kept {k : Nat} {bytes : List Byte} (h : s.Keeps κ) (e : placeSaved s k bytes = some t) : t.Keeps κ := by
  unfold placeSaved at e
  dsimp only at e
  split at e
  · nomatch e
  · exact Option.some.inj e ▸ writeDirectory_kept (memWrite_kept (setTask_kept h))

theorem storeTask_kept {k : Nat} {record : List Byte} (h : s.Keeps κ) (e : storeTask s k record = some t) : t.Keeps κ := by
  obtain ⟨u, hu, rfl⟩ := Option.map_eq_some_iff.1 e
  exact traceTask_kept (vacateCrews_kept (modTask_kept (placeSaved_kept h hu)))

theorem storeCrews_memOk {k : Nat} {cs : List Nat} (h : s.Keeps .stores) (e : storeCrews s k cs = some t) :
    t.Keeps .stores := by
  obtain ⟨u, hu, rfl⟩ := Option.map_eq_some_iff.1 e
  exact vacateCrews_kept (placeSaved_kept h hu)

theorem loseTask_kept {k : Nat} {wid0 : Word64} {path pc : Nat} (h : s.Keeps κ) : (loseTask s k wid0 path pc).Keeps κ := by
  unfold loseTask
  have written {p : Prop} [Decidable p] {flat : Nat} {bs : List Byte} : (if p then s else memWrite s flat bs).Keeps κ :=
    ite_kept h (memWrite_kept h)
  exact stopQueue_kept (updateHem_kept (withTasks_kept (dropTaskWork_kept written)))

theorem saveTask_memOk {k : Nat} (h : s.Keeps .stores) : (saveTask s k).Keeps .stores := by
  have body := Eq.refl saveTask
  conv at body => rhs; delta saveTask
  rw [body]
  beta_reduce
  extract_lets -underBinder q
  generalize e : storeTask q k (leBytes 64 0) = o
  cases o with
  | some u => exact storeTask_kept (quiesce_kept h) e
  | none => exact loseTask_kept (quiesce_kept h)

theorem saveCrews_memOk {k : Nat} {cs : List Nat} (h : s.Keeps .stores) : (saveCrews s k cs).Keeps .stores := by
  have body := Eq.refl saveCrews
  conv at body => rhs; delta saveCrews
  rw [body]
  beta_reduce
  extract_lets -underBinder teams q
  generalize e : storeCrews q k cs = o
  cases o with
  | some u => exact storeCrews_memOk (quiesceTeams_kept h) e
  | none => exact loseTask_kept (quiesceTeams_kept h)

/-! ### Machine/Pages -/

theorem takeEntry_memOk {fn : Nat} {shared : Bool} (h : s.Keeps .stores) : (takeEntry s fn shared).Keeps .stores := by
  unfold takeEntry
  exact memOk_of_eq (bump_kept h) rfl rfl

theorem serveWaiting_memOk {n : Nat} (h : s.Keeps .stores) : (serveWaiting s n).Keeps .stores := by
  induction n generalizing s with
  | zero => exact h
  | succ n ih =>
    unfold serveWaiting
    dsimp only
    split
    · exact ih (takeEntry_memOk h)
    · split
      · exact ih (withPagePtr_kept (takeEntry_memOk h))
      · exact h

theorem writeRecord_memOk {fn : Nat} (h : s.Keeps .stores) : (writeRecord s fn).Keeps .stores := by
  unfold writeRecord
  dsimp only
  split
  · exact h
  · refine ite_kept h (ite_kept ?_ ?_)
    · exact irq_kept (modFunc_kept (memOk_of_eq (memWrite_kept h) rfl rfl))
    · exact setFunc_kept h

theorem writeRecords_memOk {fn n : Nat} (h : s.Keeps .stores) : (writeRecords s fn n).Keeps .stores := by
  induction n generalizing s with
  | zero => exact h
  | succ n ih => exact ih (writeRecord_memOk h)

theorem flushRecords_memOk {fn : Nat} (h : s.Keeps .stores) : (flushRecords s fn).Keeps .stores := by
  unfold flushRecords
  exact writeRecords_memOk h

theorem requestPage_memOk {p : PageReq} (h : s.Keeps .stores) : (requestPage s p).Keeps .stores := by
  unfold requestPage
  dsimp only
  refine ite_kept (memOk_of_eq h rfl rfl) ?_
  split
  · exact flushRecords_memOk (takeEntry_memOk (memOk_of_eq (pmCount_memOk h) rfl rfl))
  · exact memOk_of_eq (pmCount_memOk h) rfl rfl

theorem releaseRequest_memOk {gone : PageReq → Bool} (h : s.Keeps .stores) : (releaseRequest s gone).Keeps .stores := by
  unfold releaseRequest
  exact foldl_kept (serveWaiting_memOk (memOk_of_eq h rfl rfl)) (fun _ _ hu => flushRecords_memOk hu)

theorem writeWalkRecord_memOk {op : Nat} (h : s.Keeps .stores) : (writeWalkRecord s op).Keeps .stores := by
  unfold writeWalkRecord
  dsimp only
  split
  · exact ite_kept (irq_kept (memOk_of_eq (memWrite_kept h) rfl rfl)) h
  · exact h

theorem writeWalkRecords_memOk (h : s.Keeps .stores) : (writeWalkRecords s).Keeps .stores := by
  unfold writeWalkRecords
  exact foldl_kept h (fun _ _ hu => writeWalkRecord_memOk hu)

/-! ### Machine/Leave -/

theorem askLeave_memOk {core e cost : Nat} {op : Option Nat} {reservation : Bool} (h : s.Keeps .stores) :
    (askLeave s core e cost op reservation).Keeps .stores := by
  unfold askLeave
  exact ite_kept h (setDie_kept h)

theorem leaveStarts_memOk {core e : Nat} (h : s.Keeps .stores) : (leaveStarts s core e).Keeps .stores := by
  unfold leaveStarts
  exact modDie_kept h

theorem markIdle_memOk (h : s.Keeps .stores) : (markIdle s).Keeps .stores := h

/-! ### Machine/Ops -/

theorem land_memOk {t : Nat} {rs : List PendRes} (h : s.Keeps .stores) : (State.land s t rs).Keeps .stores := by
  unfold State.land
  exact modTeam_kept h

theorem popPorts_memOk {t : Nat} {codes : List Nat} (h : s.Keeps .stores) : (popPorts s t codes).Keeps .stores := by
  unfold popPorts
  exact modTeam_kept h

theorem finishStop_kept {k : Nat} {x : Stopping} (h : s.Keeps κ) : (finishStop s k x).Keeps κ := by
  have body := Eq.refl finishStop
  conv at body => rhs; delta finishStop
  rw [body]
  beta_reduce
  extract_lets -underBinder q r tk rec_
  generalize e : storeTask r k rec_ = o
  have stopped : r.Keeps κ := modTask_kept (quiesce_kept h)
  cases o with
  | some u => exact stopQueue_kept (modTask_kept (dropTaskWork_kept (storeTask_kept stopped e)))
  | none => exact loseTask_kept stopped

theorem stopTask_kept {k : Nat} {wid0 : Word64} {p pc : Nat} {f : FaultInfo} (h : s.Keeps κ) :
    (stopTask s k wid0 p pc f).Keeps κ := by
  unfold stopTask
  dsimp only
  refine ite_kept ?_ ?_
  · exact h
  · exact ite_kept (finishStop_kept (stopTeams_kept h)) (modTask_kept (stopTeams_kept h))

theorem makeStop_memOk {k : Nat} (h : s.Keeps .stores) : (makeStop s k).Keeps .stores := by
  unfold makeStop
  split
  · exact finishStop_kept h
  · exact h

theorem deferFault_memOk {t p pc : Nat} {f : FaultInfo} (h : s.Keeps .stores) : (deferFault s t p pc f).Keeps .stores := by
  unfold deferFault
  exact modTask_kept (stopTeams_kept (modTeam_kept h))

theorem walkFault_memOk {t p pc : Nat} {f : FaultInfo} (h : s.Keeps .stores) : (walkFault s t p pc f).Keeps .stores := by
  unfold walkFault
  exact writeWalkRecord_memOk (modTask_kept (stopTeams_kept (modPath_kept (memOk_of_eq (newId_kept h) rfl rfl))))

theorem requestPages_memOk {t q : Nat} {f : FaultInfo} (h : s.Keeps .stores) : (requestPages s t q f).Keeps .stores := by
  unfold requestPages
  exact foldl_kept h (fun _ _ hu => requestPage_memOk hu)

theorem parkFrom_memOk {u p pc : Nat} {f : FaultInfo} (h : s.Keeps .stores) (e : parkFrom s u p pc f = some t) :
    t.Keeps .stores := by
  unfold parkFrom at e
  grind [requestPages_memOk, tracePath_memOk, ! @setTeam_kept Kept.stores]

theorem parkEach_memOk {u pc : Nat} {f : FaultInfo} {ps : List Nat} (h : s.Keeps .stores)
    (e : parkEach s u pc f ps = some t) :
    t.Keeps .stores := by
  induction ps generalizing s with
  | nil => exact Option.some.inj e ▸ h
  | cons p ps ih =>
    obtain ⟨v, hv, ev⟩ := Option.bind_eq_some_iff.1 e
    exact ih (parkFrom_memOk h hv) ev

theorem parkLanes_memOk {u p pc : Nat} {f : FaultInfo} (h : s.Keeps .stores) (e : parkLanes s u p pc f = some t) :
    t.Keeps .stores := by
  unfold parkLanes at e
  grind [requestPages_memOk, ! @modPath_kept Kept.stores, parkEach_memOk]

theorem liningFault_memOk {t p pc : Nat} {f : FaultInfo} (h : s.Keeps .stores) :
    (liningFault s t p pc f).Keeps .stores := by
  have again {u : State} {fn : Nat} {ts : Word64} (hu : u.Keeps .stores) : (abortCohort u fn ts .lining).Keeps .stores := abortCohort_kept hu
  unfold liningFault
  dsimp only
  refine ite_kept (stopTask_kept (modFunc_kept h)) ?_
  split
  · exact abortCohort_kept (memOk_of_eq h rfl rfl)
  · exact ite_kept (abortCohort_kept (modFunc_kept (setTask_kept h))) (stopTask_kept (modFunc_kept h))

theorem takeFault_memOk {t p pc : Nat} {f : FaultInfo} (h : s.Keeps .stores) : (takeFault s t p pc f).Keeps .stores := by
  unfold takeFault
  grind [liningFault_memOk, deferFault_memOk, walkFault_memOk, parkLanes_memOk, ! @stopTask_kept Kept.stores, requestPages_memOk]

theorem lateFault_memOk {a : Access} {f : FaultInfo} (h : s.Keeps .stores) : (lateFault s a f).Keeps .stores := by
  unfold lateFault
  exact ite_kept h (takeFault_memOk h)

theorem settleFault_memOk {id : Nat} (h : s.Keeps .stores) : (settleFault s id).Keeps .stores := by
  unfold settleFault
  dsimp only
  split
  · exact h
  · refine ite_kept h ?_
    split
    · exact h
    · refine ite_kept ?_ ?_
      · exact lateFault_memOk (ite_kept (completeAccess_kept (memOk_of_eq h rfl rfl)) (memOk_of_eq h rfl rfl))
      · exact lateFault_memOk (completeAccess_kept h)

theorem settleFaults_memOk (h : s.Keeps .stores) : (settleFaults s).Keeps .stores := by
  unfold settleFaults
  exact foldl_kept h (fun _ _ hu => settleFault_memOk hu)

theorem settleTeams_memOk {teams : List Nat} (h : s.Keeps .stores) : (settleTeams s teams).Keeps .stores := by
  unfold settleTeams
  exact settleFaults_memOk (finishWalks_kept h)

theorem replayDeferred_memOk {t : Nat} (h : s.Keeps .stores) : (replayDeferred s t).Keeps .stores := by
  unfold replayDeferred
  exact modTeam_kept h

theorem replayParked_memOk {t p : Nat} (h : s.Keeps .stores) : (replayParked s t p).Keeps .stores := by
  unfold replayParked
  exact modPath_kept h

theorem raise_memOk {c : Ctx} {slot : Slot} {f : FaultInfo} (h : s.Keeps .stores) : (raise s c slot f).Keeps .stores := by
  unfold raise
  dsimp only
  split
  · exact ite_kept (memOk_of_eq h rfl rfl) (memOk_of_eq (takeFault_memOk h) rfl rfl)
  · exact h

/-! ### Machine/Branch -/

theorem goto_memOk {c : Ctx} {pc : Nat} (h : s.Keeps .stores) : (goto_ s c pc).Keeps .stores := by
  unfold goto_
  exact modPath_kept h

theorem branchRun_memOk {c : Ctx} {off : BitVec 20} {taken : Bool} (h : s.Keeps .stores) :
    (branchRun s c off taken).Keeps .stores := by
  unfold branchRun
  exact goto_memOk h

theorem holdPath_memOk {c : Ctx} {reason : Nat} (h : s.Keeps .stores) : (holdPath s c reason).Keeps .stores := by
  unfold holdPath
  exact modPath_kept h

theorem indirect_memOk {c : Ctx} {target : Nat} (h : s.Keeps .stores) (e : indirect s c target = .ok t) :
    t.Keeps .stores := by
  unfold indirect at e
  grind [goto_memOk, ! @bump_kept Kept.stores]

/-! ### Machine/Teams -/

theorem fillContexts_memOk {core n : Nat} (h : s.Keeps .stores) : (fillContexts s core n).Keeps .stores := by
  induction n generalizing s with
  | zero => exact h
  | succ n ih =>
    unfold fillContexts
    split
    · exact h
    · dsimp only
      split
      · exact ih (setTeam_kept (modCore_kept h))
      · exact h

theorem settleMoves_memOk (h : s.Keeps .stores) : (settleMoves s).Keeps .stores := by
  unfold settleMoves
  exact foldl_kept (memOk_of_eq h rfl rfl) (fun _ _ hu => modCore_kept hu)

theorem passSash_memOk {c tix : Nat} (h : s.Keeps .stores) : (passSash s c tix).Keeps .stores := by
  unfold passSash
  exact modCrew_kept h (fun _ hcr => hcr)

theorem releaseBar_memOk {c : Nat} {tixs : List Nat} (h : s.Keeps .stores) : (releaseBar s c tixs).Keeps .stores := by
  unfold releaseBar
  exact modCrew_kept (memOk_of_eq h rfl rfl) (fun _ hcr => List.foldlRecOn (motive := Crew.ShmOk) _ _ hcr
    (fun _ hx _ _ => releaseLate_shmOk hx))

theorem completeBar_memOk {c b : Nat} (h : s.Keeps .stores) : (completeBar s c b).Keeps .stores := by
  unfold completeBar
  dsimp only
  refine ite_kept ?_ (foldl_kept (releaseBar_memOk (setCrew_memOk h (storedCrew_shmOk h))) (fun _ _ hu => ?_))
  · exact h
  · split
    · exact modTeam_kept hu
    · exact hu

theorem completeBars_memOk {c : Nat} (h : s.Keeps .stores) : (completeBars s c).Keeps .stores := by
  unfold completeBars
  exact foldl_kept h (fun _ _ hu => completeBar_memOk hu)

theorem retireTeam_memOk {t : Nat} (h : s.Keeps .stores) : (retireTeam s t).Keeps .stores := by
  unfold retireTeam
  exact fillContexts_memOk (modCore_kept (completeBars_memOk (ite_kept (passSash_memOk (setTeam_kept h)) (setTeam_kept h))))

/-! ### Machine/Paths -/

theorem reachMark_memOk {t p pc : Nat} (h : s.Keeps .stores) : (reachMark s t p pc).1.Keeps .stores := by
  unfold reachMark
  dsimp only
  have merged {n : Nat} {tm : Team} : ((List.range n).foldl (fun s _ => tracePath s t p .pathMerged 0) (s.setTeam t tm)).Keeps .stores :=
    foldl_kept (setTeam_kept h) (fun _ _ hu => tracePath_memOk hu)
  split
  · exact merged
  · exact setTeam_kept merged

/-! ### Machine/Stops -/

theorem writeStop_memOk {x : Stop} (h : s.Keeps .stores) : (writeStop s x).Keeps .stores := by
  unfold writeStop
  dsimp only
  refine ite_kept (setFunc_kept (traceEvent_kept h)) (ite_kept ?_ ?_)
  · exact irq_kept (setFunc_kept (traceEvent_kept h))
  · exact setFunc_kept (traceEvent_kept h)

theorem writeStops_memOk (h : s.Keeps .stores) : (writeStops s).Keeps .stores := by
  unfold writeStops
  exact foldl_kept (memOk_of_eq h rfl rfl) (fun _ _ hu => writeStop_memOk hu)

theorem endStep_memOk {t : Nat} (h : s.Keeps .stores) : (endStep s t).Keeps .stores := by
  unfold endStep
  exact modTeam_kept h

theorem dropStep_memOk {t : Nat} (h : s.Keeps .stores) : (dropStep s t).Keeps .stores := by
  unfold dropStep
  exact ite_kept (endStep_memOk h) h

theorem holdTask_memOk {k : Nat} (h : s.Keeps .stores) : (holdTask s k).Keeps .stores := by
  unfold holdTask
  exact foldl_kept (memOk_of_eq h rfl rfl) (fun _ _ hu => dropStep_memOk hu)

theorem stopPath_memOk {t p code idx : Nat} (h : s.Keeps .stores) : (stopPath s t p code idx).Keeps .stores := by
  unfold stopPath
  have dropped : (dropStep { s.modPath t p Path.hold with stops := s.stops ++ [stopOf s t p code idx] } t).Keeps .stores :=
    dropStep_memOk (memOk_of_eq h rfl rfl)
  exact ite_kept (holdTask_memOk dropped) dropped

theorem stopLater_memOk {t p code idx : Nat} (h : s.Keeps .stores) : (stopLater s t p code idx).Keeps .stores := by
  unfold stopLater
  exact modPath_kept h

theorem takeStops_memOk {t p : Nat} (h : s.Keeps .stores) : (takeStops s t p).Keeps .stores := by
  unfold takeStops
  split
  · exact h
  · split
    · exact h
    · exact ite_kept h (foldl_kept (setTeam_kept h) (fun _ _ hu => stopPath_memOk hu))

/-! ### Machine/MemTensor -/

theorem stopWatch_memOk {c : Ctx} {hit : Option Nat} (h : s.Keeps .stores) : (stopWatch s c hit).Keeps .stores := by
  unfold stopWatch
  split
  · exact stopLater_memOk h
  · exact h

theorem clampScope_memOk {t scope : Nat} (h : s.Keeps .stores) : (clampScope s t scope).1.Keeps .stores := by
  unfold clampScope
  grind [! @modTeam_kept Kept.stores]

theorem issueAccess_memOk {acc : Access} (h : s.Keeps .stores) : (issueAccess s acc).Keeps .stores := by
  unfold issueAccess
  dsimp only
  refine ite_kept ?_ ?_
  · exact flagDone_kept (flagIssue_memOk h)
  · exact modPath_kept (memOk_of_eq (flagIssue_memOk h) rfl rfl)

theorem tensorAccess_memOk {c : Ctx} {d : Desc} {f : MFields} {op : TensorOp} {bads : List LaneBad}
    {good : List (Pass × LaneCheck)} (h : s.Keeps .stores) : (tensorAccess s c d f op bads good).Keeps .stores := by
  unfold tensorAccess
  grind [stopWatch_memOk, ! @bump_kept Kept.stores, issueAccess_memOk, keepDesc_memOk, fenceAt_memOk, clampScope_memOk, startWalks_memOk,
    touchTtb_memOk]

/-! ### Machine/MemShared -/

theorem slip_memOk {c : Ctx} {n : Nat} (h : s.Keeps .stores) : (slip s c n).Keeps .stores := by
  unfold slip
  exact ite_kept h (modPath_kept h)

theorem atomicsFirst_memOk {c : Ctx} {f : MFields} (h : s.Keeps .stores) : (atomicsFirst s c f).Keeps .stores := by
  unfold atomicsFirst
  exact settleAtomics_memOk h

/-! ### Machine/Engines -/

theorem issueCommand_memOk {c : Ctx} {f : XFields} {orders : Bool} (h : s.Keeps .stores) :
    (issueCommand s c f orders).Keeps .stores := by
  unfold issueCommand
  exact flagIssue_memOk (ite_kept (fenceAt_memOk (clampScope_memOk h)) (clampScope_memOk h))

theorem ownRows_memOk {t : Nat} {rows : List Nat} (h : s.Keeps .stores) : (ownRows s t rows).Keeps .stores := by
  unfold ownRows
  exact modTeam_kept h

theorem setEngineFault_kept {id : Nat} {f : Option FaultInfo} (h : s.Keeps κ) : (setEngineFault s id f).Keeps κ := by
  unfold setEngineFault
  dsimp only
  split
  all_goals exact mappedCrews_kept h rfl rfl rfl (fun _ he => he)

theorem engineFault_memOk {id : Nat} {f : FaultInfo} (h : s.Keeps .stores) : (engineFault s id f).Keeps .stores := by
  unfold engineFault
  split
  · exact h
  · dsimp only
    refine ite_kept (modTask_kept (stopTeams_kept (setEngineFault_kept h)))
      (ite_kept ?_ (ite_kept ?_ (stopTask_kept (setEngineFault_kept h))))
    · exact foldl_kept (setEngineFault_kept h) (fun _ _ hu => requestPage_memOk hu)
    · exact writeWalkRecord_memOk (modTask_kept (stopTeams_kept (memOk_of_eq (setEngineFault_kept (newId_kept h)) rfl rfl)))

/-! ### Machine/Accesses -/

theorem accessBad_memOk {id : Nat} (h : s.Keeps .stores) : (accessBad s id).Keeps .stores := by
  unfold accessBad
  dsimp only
  split
  · split
    · exact takeFault_memOk (completeAccess_kept h)
    · exact h
  · exact h

theorem walkBad_memOk {id : Nat} {w : TileWalk} (h : s.Keeps .stores) : (walkBad s id w).Keeps .stores := by
  unfold walkBad
  exact foldl_kept (placeAccesses_kept h) (fun _ _ hu => engineFault_memOk hu)

theorem resumeWalks_memOk {k : Nat} (h : s.Keeps .stores) : (resumeWalks s k).Keeps .stores := by
  unfold resumeWalks
  exact ite_kept h (modTask_kept (resumeTeams_memOk h))

theorem retryWalk_memOk {t p : Nat} (h : s.Keeps .stores) : (retryWalk s t p).Keeps .stores := by
  unfold retryWalk
  exact ite_kept (modPath_kept h) (setEngineFault_kept h)

theorem invalidWalk_memOk {t p tensor entry : Nat} (h : s.Keeps .stores) :
    (invalidWalk s t p tensor entry).Keeps .stores := by
  unfold invalidWalk
  dsimp only
  refine ite_kept (takeFault_memOk h) ?_
  split
  · exact stopTask_kept h
  · exact h

theorem wqResolve_memOk {index : Nat} {invalid : Bool} (h : s.Keeps .stores) :
    (wqResolve s index invalid).Keeps .stores := by
  unfold wqResolve
  dsimp only
  split
  · exact h
  · split
    · refine ite_kept ?_ ?_
      · exact invalidWalk_memOk (memOk_of_eq h rfl rfl)
      · exact resumeWalks_memOk (retryWalk_memOk (memOk_of_eq h rfl rfl))
    · exact h

theorem dropEntries_memOk {fn a n : Nat} (h : s.Keeps .stores) : (dropEntries s fn a n).Keeps .stores := h

theorem discardWalks_memOk {fn a n : Nat} (h : s.Keeps .stores) : (discardWalks s fn a n).Keeps .stores := h

theorem tinvGo_memOk {fn : Nat} (h : s.Keeps .stores) : (tinvGo s fn).Keeps .stores := by
  unfold tinvGo
  exact ite_kept h (modFunc_kept (discardWalks_memOk (dropEntries_memOk h)))

theorem unpark_memOk {t p : Nat} (h : s.Keeps .stores) : (unpark s t p).Keeps .stores := by
  unfold unpark
  exact ite_kept h (replayParked_memOk (memOk_of_eq h rfl rfl))

theorem retryEngine_memOk {id : Nat} (h : s.Keeps .stores) : (retryEngine s id).Keeps .stores := by
  unfold retryEngine
  exact ite_kept h (setEngineFault_kept h)

theorem invalidPath_memOk {t p tensor addr : Nat} (h : s.Keeps .stores) :
    (invalidPath s t p tensor addr).Keeps .stores := by
  unfold invalidPath
  dsimp only
  split
  · exact h
  · exact takeFault_memOk h

theorem endRequest_memOk {p : PageReq} {fn i result : Nat} (h : s.Keeps .stores) :
    (endRequest s p fn i result).Keeps .stores := by
  unfold endRequest
  dsimp only
  refine ite_kept ?_ ?_
  · exact foldl_kept (foldl_kept (ite_kept (releaseRequest_memOk h) (dropEntries_memOk (releaseRequest_memOk h)))
      (fun _ _ hu => unpark_memOk hu)) (fun _ _ hu => retryEngine_memOk hu)
  · exact foldl_kept (foldl_kept (releaseRequest_memOk h) (fun _ _ hu => invalidPath_memOk hu))
      (fun _ _ hu => engineFault_memOk hu)

theorem prcplWrite_memOk {fn i : Nat} (h : s.Keeps .stores) : (prcplWrite s fn i).Keeps .stores := by
  unfold prcplWrite
  dsimp only
  refine ite_kept h ?_
  split
  · exact setFunc_kept h
  · exact endRequest_memOk (setFunc_kept h)

theorem prctlWrite_memOk {fn : Nat} {val : Word64} (h : s.Keeps .stores) : (prctlWrite s fn val).Keeps .stores := by
  unfold prctlWrite
  dsimp only
  exact ite_kept (setFunc_kept h) (ite_kept (setFunc_kept h) (flushRecords_memOk (memOk_of_eq h rfl rfl)))

theorem prheadSet_memOk {fn : Nat} {val : Word64} (h : s.Keeps .stores) : (prheadSet s fn val).Keeps .stores := by
  unfold prheadSet
  exact ite_kept (flushRecords_memOk (modFunc_kept h)) h

/-! ### Machine/Copy -/

theorem noteUnit_memOk {core crew chan n : Nat} (h : s.Keeps .stores) : (noteUnit s core crew chan n).Keeps .stores := by
  unfold noteUnit
  exact ite_kept h (modCore_kept h)

theorem landNext_memOk {crew chan : Nat} {q : CopyCmd} (h : s.Keeps .stores) : (landNext s crew chan q).Keeps .stores := by
  unfold landNext
  grind [Landed.Keeps, copyAdvance_memOk, noteUnit_memOk, setHead_memOk, ! @clearFull_kept Kept.stores, copyFinish_memOk, ! @noteFull_kept Kept.stores,
    engineFault_memOk]

theorem takeTurn_memOk {core : Nat} (h : s.Keeps .stores) (e : Nat × Nat) : (takeTurn s core e).Keeps .stores := by
  unfold takeTurn
  dsimp only
  split
  · exact modCore_kept h
  · exact ite_kept (landNext_memOk (modCore_kept h)) (modCore_kept h)

/-! ### Machine/Matrix -/

theorem mxEnqueue_memOk {c : Ctx} {f : XFields} {q : MxCmd} (h : s.Keeps .stores) : (mxEnqueue s c f q).Keeps .stores :=
  bump_kept (modCore_kept (newId_kept (ownRows_memOk (issueCommand_memOk h))))

theorem setMx_memOk {core : Nat} {q : MxCmd} (h : s.Keeps .stores) : (setMx s core q).Keeps .stores := by
  unfold setMx
  exact modCore_kept h

theorem dropMx_memOk {core id : Nat} (h : s.Keeps .stores) : (dropMx s core id).Keeps .stores := by
  unfold dropMx
  exact modCore_kept h

/-! ### Machine/Coll -/

theorem collReads_memOk {k : Task} {d : List Word64} (h : s.Keeps .stores) : (collReads s k d).Keeps .stores := by
  unfold collReads
  grind [Track.Keeps, ! @trackRead_kept Kept.stores]

theorem collStart_memOk {id : Nat} (h : s.Keeps .stores) : (collStart s id).Keeps .stores := by
  unfold collStart
  split
  · dsimp only
    refine ite_kept h (ite_kept (askLeave_memOk h) ?_)
    split
    · exact engineFault_memOk h
    · refine ite_kept h ?_
      split
      · next u e =>
        have hu : u.Keeps .stores := (e ▸ collReads_memOk h : Track.Keeps .stores (.ok u))
        split
        · exact engineFault_memOk hu
        · exact withOps_kept (clearFull_kept (leaveStarts_memOk (enterWriteThrough_kept hu)))
      · exact h
      · exact noteFull_kept h
  · exact h

theorem collWrite_memOk {op t pc : Nat} {k : Task} {d : List Word64} {out : List Byte} (h : s.Keeps .stores) :
    (collWrite s op t pc k d out).Keeps .stores := by
  unfold collWrite
  exact ite_kept (cohortWrite_kept h) (memOk_of_eq h rfl rfl)

/-! ### Machine/CrewSync -/

theorem syncYield_memOk {c : Ctx} {b : Nat} (h : s.Keeps .stores) : (syncYield s c b).Keeps .stores := by
  unfold syncYield
  exact ite_kept (setCrew_memOk h (ctxCrew_shmOk h)) h

theorem barArrive_memOk {c : Ctx} {b count : Nat} (h : s.Keeps .stores) (e : barArrive s c b count = .ok t) :
    t.Keeps .stores := by
  unfold barArrive at e
  dsimp only at e
  split at e
  · exact Except.ok.inj e ▸ h
  · split at e
    · nomatch e
    · refine Except.ok.inj e ▸ ?_
      have merged {n : Nat} {tm : Team} {l : List (Nat × Path)} {bs : Tab Barrier} :
        ((l.foldl (fun s _ => tracePath s c.t n .pathMerged 0) (s.setTeam c.t tm)).setCrew c.tm.crew
        { c.crew s with bars := bs }).Keeps .stores :=
        setCrew_memOk (foldl_kept (setTeam_kept h) (fun _ _ hu => tracePath_memOk hu)) (ctxCrew_shmOk h)
      exact ite_kept (completeBar_memOk (syncYield_memOk merged)) merged

theorem passBar_memOk {c : Ctx} (h : s.Keeps .stores) : (passBar s c).Keeps .stores := by
  unfold passBar
  exact modCrew_kept (modPath_kept h) (fun _ hcr => hcr)

/-! ### Machine/Debug -/

theorem modPaths_memOk {t : Nat} {ps : List Nat} {g : Path → Path} (h : s.Keeps .stores) :
    (modPaths s t ps g).Keeps .stores := by
  unfold modPaths
  exact foldl_kept h (fun _ _ hu => modPath_kept hu)

theorem syncSaved_memOk {k : Nat} (h : s.Keeps .stores) : (syncSaved s k).Keeps .stores := by
  unfold syncSaved
  exact ite_kept h (modTask_kept (foldl_kept h (fun _ _ hu => memWrite_kept hu)))

theorem dbgHalt_memOk {d : DbgTarget} (h : s.Keeps .stores) : (dbgHalt s d).1.Keeps .stores := by
  unfold dbgHalt
  exact foldl_kept h (fun _ _ hu => stopPath_memOk hu)

theorem dbgResume_memOk {d : DbgTarget} (h : s.Keeps .stores) : (dbgResume s d).1.Keeps .stores := by
  unfold dbgResume
  grind [modPaths_memOk]

theorem dbgStep_memOk {d : DbgTarget} (h : s.Keeps .stores) : (dbgStep s d).1.Keeps .stores := by
  unfold dbgStep
  grind [modPaths_memOk, ! @modPath_kept Kept.stores]

theorem dbgSplit_memOk {d : DbgTarget} {lane : Nat} (h : s.Keeps .stores) : (dbgSplit s d lane).1.Keeps .stores := by
  unfold dbgSplit
  dsimp only
  split
  · exact h
  · split
    · exact h
    · split
      · exact h
      · exact tracePath_memOk (memOk_of_eq h rfl rfl)

theorem snapWrite_memOk {fn a : Nat} {bs : List Byte} (h : s.Keeps .stores) : (snapWrite s fn a bs).1.Keeps .stores := by
  unfold snapWrite
  grind [! @bump_kept Kept.stores, ! @memWrite_kept Kept.stores]

theorem dbgSnapTeam_memOk {fn a : Nat} {d : DbgTarget} (h : s.Keeps .stores) :
    (dbgSnapTeam s fn a d).1.Keeps .stores := snapWrite_memOk h

theorem dbgSnapCrew_memOk {fn a : Nat} {d : DbgTarget} (h : s.Keeps .stores) :
    (dbgSnapCrew s fn a d).1.Keeps .stores := snapWrite_memOk h

theorem dbgPoke_memOk {d : DbgTarget} {arg arg2 : Nat} (h : s.Keeps .stores) : (dbgPoke s d arg arg2).1.Keeps .stores := by
  unfold dbgPoke
  grind [! @setTeam_kept Kept.stores]

theorem dbgCommand_memOk {code fn sel crew arg arg2 : Nat} (h : s.Keeps .stores) :
    (dbgCommand s code fn sel crew arg arg2).1.Keeps .stores := by
  unfold dbgCommand
  grind [syncSaved_memOk, dbgHalt_memOk, dbgResume_memOk, dbgStep_memOk, dbgSplit_memOk, dbgSnapTeam_memOk,
    dbgSnapCrew_memOk, dbgPoke_memOk]

theorem dbgWindow_memOk {fn code : Nat} (h : s.Keeps .stores) : (dbgWindow s fn code).Keeps .stores := by
  unfold dbgWindow
  exact ite_kept h (modFunc_kept (dbgCommand_memOk h))

theorem holdFor_memOk {c : Ctx} {dest : Option Nat} {v : Nat} (h : s.Keeps .stores) :
    (holdFor s c dest v).Keeps .stores := by
  unfold holdFor
  dsimp only
  split
  · exact bump_kept (land_memOk (modPath_kept h))
  · exact bump_kept (modPath_kept h)

theorem awaitStep_memOk {c : Ctx} {target : Option DbgTarget} (h : s.Keeps .stores) :
    (awaitStep s c target).Keeps .stores := by
  unfold awaitStep
  exact modPath_kept h

theorem endDebug_memOk {fn : Nat} (h : s.Keeps .stores) : (endDebug s fn).Keeps .stores := by
  unfold endDebug
  exact modFunc_kept (foldl_kept (memOk_of_eq h rfl rfl) (fun _ _ hu => syncSaved_memOk hu))

/-! ### Machine/Create -/

theorem createTask_memOk {o : Origin} {slot : Nat} {ts : Word64} {r : LaunchRec} (h : s.Keeps .stores) :
    (createTask s o slot ts r).Keeps .stores := by
  unfold createTask
  split
  · exact h
  · exact updateHem_kept (traceTask_kept (setTask_kept (newId_kept (setFunc_kept h))))

theorem clampStamp_memOk {fn : Nat} {ts : Word64} (h : s.Keeps .stores) : (clampStamp s fn ts).1.Keeps .stores := by
  unfold clampStamp
  grind [! @modFunc_kept Kept.stores]

theorem retakeSlots_kept {fn n : Nat} (h : s.Keeps κ) : (retakeSlots s fn n).Keeps κ := by
  induction n generalizing s with
  | zero => exact h
  | succ n ih =>
    unfold retakeSlots
    grind [! @setTask_kept κ]

/-! ### Machine/Queues -/

theorem setQueue_kept {fn q : Nat} {x : Queue} (h : s.Keeps κ) : (setQueue s fn q x).Keeps κ := by
  unfold setQueue
  exact modFunc_kept h

theorem forgetFaults_memOk {fn q : Nat} (h : s.Keeps .stores) : (forgetFaults s fn q).Keeps .stores := by
  unfold forgetFaults
  exact memOk_of_eq (foldl_kept (modFunc_kept (foldl_kept h (fun _ _ hu => ite_kept (clearDirectory_kept hu) hu)))
    (fun _ _ hu => clearDirectory_kept hu)) rfl rfl

theorem enableQueue_memOk {fn q : Nat} (h : s.Keeps .stores) : (enableQueue s fn q).Keeps .stores := by
  unfold enableQueue
  dsimp only
  refine ite_kept (stopQueue_kept (forgetFaults_memOk (setQueue_kept h))) (ite_kept ?_ ?_)
  · exact stopQueue_kept (forgetFaults_memOk (setQueue_kept h))
  · exact forgetFaults_memOk (setQueue_kept h)

theorem disableQueue_memOk {fn q : Nat} (h : s.Keeps .stores) : (disableQueue s fn q).Keeps .stores :=
  updateHem_kept (withTasks_kept (setQueue_kept h))

theorem qctlWrite_memOk {fn q : Nat} {val : Word64} (h : s.Keeps .stores) : (qctlWrite s fn q val).Keeps .stores := by
  unfold qctlWrite
  dsimp only
  refine ite_kept ?_ ?_
  · exact disableQueue_memOk (setQueue_kept h)
  · exact ite_kept (enableQueue_memOk (setQueue_kept h)) (setQueue_kept h)

theorem readTail_kept {fn q : Nat} (h : s.Keeps κ) : (readTail s fn q).Keeps κ := by
  unfold readTail
  dsimp only
  refine ite_kept h (ite_kept (stopQueue_kept h) (ite_kept ?_ ?_))
  · exact stopQueue_kept (setQueue_kept h)
  · exact ite_kept (stopQueue_kept (setQueue_kept h)) (setQueue_kept h)

theorem markTails_memOk (h : s.Keeps .stores) : (markTails s).Keeps .stores := h

theorem consume_memOk {fn q : Nat} (h : s.Keeps .stores) : (consume s fn q).Keeps .stores := by
  unfold consume
  dsimp only
  refine ite_kept ?_ ?_
  · exact setQueue_kept h
  · exact ite_kept (stopQueue_kept (setQueue_kept h)) (memWrite_kept (setQueue_kept h))

theorem dispatchHead_memOk {fn q : Nat} (h : s.Keeps .stores) : (dispatchHead s fn q).Keeps .stores := by
  unfold dispatchHead
  dsimp only
  split
  · exact stopQueue_kept h
  · refine ite_kept ?_ ?_
    · refine ite_kept (stopQueue_kept h) ?_
      split
      · exact stopQueue_kept h
      · exact consume_memOk (modFunc_kept h)
    · split
      · exact stopQueue_kept h
      · exact h
      · exact consume_memOk (createTask_memOk (clampStamp_memOk h))

/-! ### Machine/Restore -/

theorem readArea_kept {own got : List Byte} {a : Area} (h : s.Keeps κ) : (readArea own got s a).Keeps κ := by
  unfold readArea
  dsimp only
  split
  · exact modCrew_kept h (fun _ hcr => readCrew_shmOk hcr)
  · exact modTeam_kept (modTask_kept (modCrew_kept h (fun _ hcr => readAcc_shmOk hcr)))

theorem readBlock_kept {k : Nat} {cs : List Nat} (h : s.Keeps κ) : (readBlock s k cs).Keeps κ := by
  unfold readBlock
  exact foldl_kept h (fun _ _ hu => readArea_kept hu)

/-! ### Machine/Place -/

theorem tookCrew_crews (s : State) (p core : Nat) : (tookCrew s p core).crews = s.crews := by
  unfold tookCrew
  split <;> rfl

theorem tookCrew_kept {p core : Nat} (h : s.Keeps κ) : (tookCrew s p core).Keeps κ := by
  unfold tookCrew
  split
  · exact modPart_kept h (fun _ => rfl)
  · exact h

theorem settleTeam_kept {core t busyTo : Nat} (h : s.Keeps κ) : (settleTeam s core t busyTo).Keeps κ := by
  unfold settleTeam
  dsimp only
  split
  · exact setTeam_kept h
  · exact ite_kept (modCore_kept (setTeam_kept h)) (setTeam_kept h)

theorem addTeam_memOk {task crew core number tix : Nat} (h : s.Keeps .stores) :
    (addTeam s task crew core number tix).Keeps .stores :=
  settleTeam_kept (modCrew_kept (setTeam_kept (newId_kept h)) (fun _ hcr => hcr))

theorem useSignals_memOk {k : Task} (h : s.Keeps .stores) : (useSignals s k).Keeps .stores := by
  unfold useSignals
  exact modPart_memOk h

theorem placeCrew_memOk {task rel core : Nat} (h : s.Keeps .stores) : (placeCrew s task rel core).Keeps .stores := by
  unfold placeCrew
  exact traceCrew_memOk (modPart_memOk (modTask_kept (foldl_kept (setCrew_memOk
    (useSignals_memOk (newId_kept (bump_kept (bump_kept h)))) Memory.wf_nil)
    (fun _ _ hu => addTeam_memOk hu))))

theorem coreFails_memOk {fn c : Nat} (h : s.Keeps .stores) : (coreFails fn s c).Keeps .stores := by
  unfold coreFails
  exact ite_kept h (memOk_of_eq h rfl rfl)

end Sys2Proof.Machine
end

section
/-! PROOFS. The form of the byte stores: placement, restores, commits, walks, tenancy, repairs and what the module does by
itself keep it. -/

namespace Sys2Proof.Machine

open Sys2Proof

variable {κ : Kept} {s t : State}

/-! ### Machine/Place -/

theorem finishTask_memOk {k : Nat} (h : s.Keeps .stores) : (finishTask s k).Keeps .stores := by
  unfold finishTask
  exact ite_kept (foldl_kept (setTask_kept h) (fun _ _ hu => coreFails_memOk hu)) (setTask_kept h)

theorem yieldTeam_memOk {t : Nat} (h : s.Keeps .stores) : (yieldTeam s t).Keeps .stores := by
  unfold yieldTeam
  dsimp only
  split
  · exact ite_kept (modCore_kept (setTeam_kept (setTeam_kept h))) (setTeam_kept h)
  · exact setTeam_kept h

theorem seatTeams_kept {c core busyTo : Nat} (h : s.Keeps κ) : (seatTeams s c core busyTo).Keeps κ := by
  unfold seatTeams
  exact foldl_kept (foldl_kept h (fun _ _ hu => modTeam_kept hu)) (fun _ _ hu => settleTeam_kept hu)

theorem seatCrew_kept {c core : Nat} (h : s.Keeps κ) : (seatCrew s c core).Keeps κ := by
  unfold seatCrew
  have crews := tookCrew_crews s (s.task (s.crew c).task).part core
  exact modTask_kept (setCrew_kept (bump_kept (bump_kept (tookCrew_kept h)))
    (fun ok => crew_shmOk (fun e he => ok e (crews.symm ▸ he))))

theorem moveLeave_memOk {c old new : Nat} (h : s.Keeps .stores) : (moveLeave s c old new).Keeps .stores := by
  unfold moveLeave
  exact setDie_kept (setDie_kept h)

theorem moveMatrix_memOk {c old new : Nat} (h : s.Keeps .stores) : (moveMatrix s c old new).Keeps .stores := by
  unfold moveMatrix
  exact modCore_kept (modCore_kept h)

theorem migrateCrew_memOk {c core : Nat} (h : s.Keeps .stores) : (migrateCrew s c core).Keeps .stores := by
  unfold migrateCrew
  exact modCrew_kept (modCore_kept (bump_kept (bump_kept (tookCrew_kept (quiesceTeams_kept h))))) (fun _ hcr => hcr)

theorem finishMove_memOk {c : Nat} (h : s.Keeps .stores) : (finishMove s c).Keeps .stores := by
  unfold finishMove
  dsimp only
  split
  · exact h
  · exact fillContexts_memOk (traceCrew_memOk (seatTeams_kept (modCore_kept (modTask_kept
      (setCrew_memOk (moveMatrix_memOk (moveLeave_memOk h)) (storedCrew_shmOk h))))))

theorem watchdogTask_kept {t p : Nat} (h : s.Keeps κ) : (watchdogTask s t p).Keeps κ := by
  unfold watchdogTask
  exact ite_kept (abortTasks_kept h) (stopTask_kept h)

theorem seatAll_kept {p from_ : Nat} {avoid : List Nat} {pref : Nat → Option Nat} {cs : List Nat} (h : s.Keeps κ)
    (e : seatAll s p from_ avoid pref cs = some t) : t.Keeps κ := by
  induction cs generalizing s with
  | nil => exact Option.some.inj e ▸ h
  | cons c cs ih =>
    unfold seatAll at e
    dsimp only at e
    split at e
    · nomatch e
    · refine ih ?_ e
      exact modCrew_kept (modCore_kept (seatTeams_kept (seatCrew_kept h))) (fun _ hcr => hcr)

theorem refuseRestore_kept {k : Nat} (h : s.Keeps κ) : (refuseRestore s k).Keeps κ := by
  unfold refuseRestore
  exact stopQueue_kept (modTask_kept (dropTaskWork_kept (writeDirectory_kept (memWrite_kept (setTask_kept h)))))

theorem askAgain_kept {k : Nat} (h : s.Keeps κ) : (askAgain s k).Keeps κ := by
  unfold askAgain
  dsimp only
  refine foldl_kept h (fun _ _ hu => ?_)
  split
  · exact ite_kept hu (setDie_kept (kept_of_eq hu rfl rfl rfl))
  · exact hu

theorem retryEngines_kept {k : Nat} (h : s.Keeps κ) : (retryEngines s k).Keeps κ := by
  unfold retryEngines
  exact ite_kept h (foldl_kept h (fun _ _ hu => setEngineFault_kept hu))

theorem awake_kept {k : Nat} (h : s.Keeps κ) : (awake s k).Keeps κ := by
  unfold awake
  exact kept_of_eq (retryEngines_kept h) rfl rfl rfl

theorem bringBack_kept {k from_ : Nat} {pref : Nat → Option Nat} (h : s.Keeps κ) (e : bringBack s k from_ pref = some t) :
    t.Keeps κ := by
  obtain ⟨u, hu, rfl⟩ := Option.map_eq_some_iff.1 e
  exact askAgain_kept (awake_kept (modTask_kept (clearDirectory_kept (seatAll_kept (readBlock_kept h) hu))))

theorem restoreTask_kept {k : Nat} (h : s.Keeps κ) : (restoreTask s k).Keeps κ := by
  unfold restoreTask
  refine ite_kept (refuseRestore_kept h) ?_
  split
  · exact h
  · next e =>
    refine ite_kept (watchdogTask_kept ?_) ?_
    all_goals exact traceTask_kept (bringBack_kept h e)

theorem returnCrews_memOk {k from_ : Nat} {pref : Nat → Option Nat} (h : s.Keeps .stores)
    (e : returnCrews s k from_ pref = some t) :
    t.Keeps .stores := by
  unfold returnCrews at e
  dsimp only at e
  split at e
  · nomatch e
  · split at e
    · exact bringBack_kept h e
    · exact Option.some.inj e ▸ stopTask_kept h

/-! ### Machine/Commit -/

theorem noteSignal_memOk {p flat : Nat} {cores : List Nat} (h : s.Keeps .stores) :
    (noteSignal s p flat cores).Keeps .stores := by
  unfold noteSignal
  exact modPart_memOk h

theorem signalAdd_memOk {k : Task} (h : s.Keeps .stores) : (signalAdd s k).Keeps .stores := by
  unfold signalAdd
  dsimp only
  exact ite_kept h (ite_kept (stopQueue_kept h) (noteSignal_memOk ⟨Memory.write_wf _ _ h.1, h.2⟩))

theorem commitTask_memOk {id : Nat} (h : s.Keeps .stores) : (commitTask s id).Keeps .stores := by
  unfold commitTask
  dsimp only
  refine memOk_of_eq (ite_kept ?_ (ite_kept ?_ (ite_kept ?_ ?_))) rfl rfl
  · refine ite_kept ?_ ?_
    · exact traceTask_kept (modFunc_kept h)
    · exact modFunc_kept (traceTask_kept (modFunc_kept h))
  · refine irq_kept (ite_kept ?_ ?_)
    · exact signalAdd_memOk (traceTask_kept (modFunc_kept h))
    · exact setQueue_kept (signalAdd_memOk (traceTask_kept (modFunc_kept h)))
  · exact signalAdd_memOk (traceTask_kept (modFunc_kept h))
  · exact setQueue_kept (signalAdd_memOk (traceTask_kept (modFunc_kept h)))

theorem sealCohort_memOk {fn : Nat} (h : s.Keeps .stores) : (sealCohort s fn).Keeps .stores := by
  unfold sealCohort
  exact modFunc_kept h

theorem commitCohort_memOk {fn : Nat} (h : s.Keeps .stores) : (commitCohort s fn).Keeps .stores := by
  unfold commitCohort
  exact updateHem_kept (modFunc_kept (foldl_kept (dropCohort_kept (foldl_kept h (fun _ _ hu => memWrite_kept hu)))
    (fun _ _ hu => commitTask_memOk hu)))

theorem restartFull_memOk {id : Nat} (h : s.Keeps .stores) : (restartFull s id).Keeps .stores := by
  unfold restartFull
  dsimp only
  split
  · refine memOk_of_eq ?_ rfl rfl
    split
    · exact memOk_of_eq h rfl rfl
    · exact h
  · split
    · exact memOk_of_eq h rfl rfl
    · exact h

theorem releaseSignal_memOk {id t p : Nat} (h : s.Keeps .stores) : (releaseSignal s id t p).Keeps .stores := by
  unfold releaseSignal
  exact modPath_kept (memOk_of_eq h rfl rfl)

theorem signalNow_memOk {id t p : Nat} {addr value : Word64} (h : s.Keeps .stores) :
    (signalNow s id t p addr value).Keeps .stores := by
  unfold signalNow
  dsimp only
  refine ite_kept (takeFault_memOk (releaseSignal_memOk h)) ?_
  split
  · next u e =>
    have hu : u.Keeps .stores := by grind [Track.Keeps, ! @trackRead_kept Kept.stores, ! @trackWrite_kept Kept.stores]
    exact ite_kept (takeFault_memOk (releaseSignal_memOk hu)) (releaseSignal_memOk (memWrite_kept hu))
  · exact h

theorem signalStart_memOk {id t p : Nat} {addr value : Word64} {waits : List Nat} (h : s.Keeps .stores) :
    (signalStart s id t p addr value waits).Keeps .stores := by
  unfold signalStart
  dsimp only
  refine ite_kept h (ite_kept ?_ ?_)
  · exact modPath_kept (memOk_of_eq (enterWriteThrough_kept h) rfl rfl)
  · exact signalNow_memOk (modPath_kept (memOk_of_eq (enterWriteThrough_kept h) rfl rfl))

theorem irrevocable_memOk {id : Nat} (h : s.Keeps .stores) : (irrevocable s id).Keeps .stores := by
  unfold irrevocable
  split
  · exact accessStart_kept h
  · exact signalStart_memOk h
  · exact collStart_memOk h
  · exact h

/-! ### Machine/Walker -/

theorem setWalk_memOk {fn : Nat} {w : Option Walk} (h : s.Keeps .stores) : (setWalk s fn w).Keeps .stores := by
  unfold setWalk
  exact modFunc_kept h

theorem failWalk_memOk {fn : Nat} {w : Walk} {code : Nat} (h : s.Keeps .stores) : (failWalk s fn w code).Keeps .stores := by
  unfold failWalk
  exact stopQueue_kept (setWalk_memOk h)

theorem launchOne_memOk {fn : Nat} {w : Walk} {a : Nat} {arg : Option Word64} (h : s.Keeps .stores) :
    (launchOne s fn w a arg).Keeps .stores := by
  unfold launchOne
  dsimp only
  split
  · exact h
  · exact createTask_memOk (clampStamp_memOk h)

theorem branchNode_memOk {fn : Nat} {w : Walk} {b : List Byte} (h : s.Keeps .stores) :
    (branchNode s fn w b).Keeps .stores := by
  unfold branchNode
  split
  · split
    · exact failWalk_memOk h
    · exact setWalk_memOk h
  · exact ite_kept h (setWalk_memOk (newId_kept h))

theorem predictionHeld_memOk {fn : Nat} {w : Walk} {p : Predict} (h : s.Keeps .stores) :
    (predictionHeld s fn w p).Keeps .stores := by
  unfold predictionHeld
  exact setWalk_memOk (memOk_of_eq h rfl rfl)

theorem predictionWrong_memOk {fn : Nat} {w : Walk} {p : Predict} (h : s.Keeps .stores) :
    (predictionWrong s fn w p).Keeps .stores := by
  unfold predictionWrong
  exact setWalk_memOk (ite_kept h (abortTasks_kept h))

theorem spawnChild_memOk {op t slot : Nat} {ts : Word64} {flag : Nat} {r : LaunchRec} (h : s.Keeps .stores) :
    (spawnChild s op t slot ts flag r).Keeps .stores := by
  unfold spawnChild
  exact flagDone_kept (memOk_of_eq (createTask_memOk (ite_kept (modTeam_kept h) h)) rfl rfl)

/-! ### Machine/Tenancy -/

theorem pbaysSet_memOk {p : Nat} {val : Word64} (h : s.Keeps .stores) : (pbaysSet s p val).Keeps .stores := by
  unfold pbaysSet
  exact modPart_memOk h

theorem pctlCommitNow_memOk {p : Nat} (h : s.Keeps .stores) : (pctlCommitNow s p).Keeps .stores := by
  unfold pctlCommitNow
  exact ite_kept (setPart_memOk h) (ite_kept (setPart_memOk h) (setPart_memOk h))

theorem relocate_memOk {dst : Nat → Option Nat} (h : s.Keeps .stores) : (relocate s dst).Keeps .stores :=
  ⟨relocate_wf s dst h.1, h.2⟩

theorem mapPart_memOk {p : Nat} (h : s.Keeps .stores) : (mapPart s p).Keeps .stores := by
  unfold mapPart
  exact relocate_memOk h

theorem unmapPart_memOk {p : Nat} (h : s.Keeps .stores) : (unmapPart s p).Keeps .stores := by
  unfold unmapPart
  exact relocate_memOk h

theorem refillWays_memOk {p bay private_ n : Nat} (h : s.Keeps .stores) :
    (refillWays s p bay private_ n).Keeps .stores := by
  induction n generalizing s with
  | zero => exact h
  | succ n ih =>
    unfold refillWays
    split
    · split
      · exact ih (modPart_memOk h)
      · exact h
    · exact h

theorem partOn_memOk {p : Nat} (h : s.Keeps .stores) : (partOn s p).Keeps .stores := by
  unfold partOn
  exact foldl_kept (mapPart_memOk (setPart_memOk h)) (fun _ _ hu => refillWays_memOk hu)

theorem partOff_memOk {p : Nat} (h : s.Keeps .stores) : (partOff s p).Keeps .stores := by
  unfold partOff
  exact modPart_memOk (unmapPart_memOk h)

theorem pctlWrite_memOk {p : Nat} {val : Word64} (h : s.Keeps .stores) : (pctlWrite s p val).Keeps .stores := by
  unfold pctlWrite
  dsimp only
  refine ite_kept (modPart_memOk h) (ite_kept ?_ (ite_kept ?_ ?_))
  · refine ite_kept ?_ ?_
    · exact partOn_memOk (ite_kept (pctlCommitNow_memOk (setPart_memOk h)) (setPart_memOk h))
    · exact setPart_memOk (ite_kept (pctlCommitNow_memOk (setPart_memOk h)) (setPart_memOk h))
  · exact partOff_memOk (ite_kept (pctlCommitNow_memOk (setPart_memOk h)) (setPart_memOk h))
  · exact ite_kept (pctlCommitNow_memOk (setPart_memOk h)) (setPart_memOk h)

theorem pslotWrite_memOk {p i : Nat} {val : Word64} (h : s.Keeps .stores) : (pslotWrite s p i val).Keeps .stores := by
  unfold pslotWrite
  exact modPart_memOk h

theorem pscrubWrite_memOk {p : Nat} {val : Word64} (h : s.Keeps .stores) : (pscrubWrite s p val).Keeps .stores := by
  unfold pscrubWrite
  dsimp only
  refine ite_kept ?_ ?_
  · exact ite_kept h (setPart_memOk h)
  · exact ite_kept (setPart_memOk h) (ite_kept (setPart_memOk h) (setPart_memOk h))

theorem dropCached_memOk {p flat n : Nat} (h : s.Keeps .stores) : (dropCached s p flat n).Keeps .stores := h

theorem zeroGranule_memOk {p g : Nat} (h : s.Keeps .stores) : (zeroGranule s p g).Keeps .stores := by
  refine ⟨?_, h.2⟩
  unfold zeroGranule
  dsimp only
  split
  · exact Memory.zero_wf _ _ h.1
  · exact Memory.without_wf _ h.1

theorem dropTasks_memOk {fn : Nat} (h : s.Keeps .stores) : (dropTasks s fn).Keeps .stores := by
  unfold dropTasks
  exact memOk_of_eq (foldl_kept h (fun _ _ hu => dropTaskWork_kept hu)) rfl rfl

theorem disableVf_memOk {v : Nat} (h : s.Keeps .stores) : (disableVf s v).Keeps .stores := by
  unfold disableVf
  exact modPart_memOk (modFunc_kept (endDebug_memOk (dropTasks_memOk h)))

theorem pauseNow_memOk {v : Nat} (h : s.Keeps .stores) : (pauseNow s v).Keeps .stores := by
  unfold pauseNow
  exact modFunc_kept h

theorem pauseAsk_memOk {v : Nat} (h : s.Keeps .stores) : (pauseAsk s v).Keeps .stores := by
  unfold pauseAsk
  exact ite_kept (modFunc_kept h) (pauseNow_memOk (modFunc_kept h))

theorem unpause_memOk {v : Nat} (h : s.Keeps .stores) : (unpause s v).Keeps .stores := by
  unfold unpause
  exact ite_kept (setFunc_kept h) (setFunc_kept h)

theorem vfctlWrite_memOk {v : Nat} {val : Word64} (h : s.Keeps .stores) : (vfctlWrite s v val).Keeps .stores := by
  unfold vfctlWrite
  dsimp only
  refine ite_kept ?_ (ite_kept ?_ (ite_kept ?_ ?_))
  · refine ite_kept ?_ (setFunc_kept (ite_kept ?_ ?_))
    · refine setFunc_kept (ite_kept ?_ ?_)
      · exact pauseAsk_memOk (setFunc_kept h)
      · exact ite_kept (unpause_memOk (setFunc_kept h)) (setFunc_kept h)
    · exact pauseAsk_memOk (setFunc_kept h)
    · exact ite_kept (unpause_memOk (setFunc_kept h)) (setFunc_kept h)
  · refine ite_kept ?_ (setFunc_kept (ite_kept ?_ ?_))
    · refine disableVf_memOk (ite_kept ?_ ?_)
      · exact pauseAsk_memOk (setFunc_kept h)
      · exact ite_kept (unpause_memOk (setFunc_kept h)) (setFunc_kept h)
    · exact pauseAsk_memOk (setFunc_kept h)
    · exact ite_kept (unpause_memOk (setFunc_kept h)) (setFunc_kept h)
  · exact pauseAsk_memOk (setFunc_kept h)
  · exact ite_kept (unpause_memOk (setFunc_kept h)) (setFunc_kept h)

theorem gtimeWrite_memOk {v : Nat} {val : Word64} (h : s.Keeps .stores) : (gtimeWrite s v val).Keeps .stores := by
  unfold gtimeWrite
  exact modFunc_kept h

theorem gtoffWrite_memOk {v : Nat} {val : Word64} (h : s.Keeps .stores) : (gtoffWrite s v val).Keeps .stores := by
  unfold gtoffWrite
  exact modFunc_kept h

theorem vfsegWrite_memOk {v : Nat} {val : Word64} (h : s.Keeps .stores) : (vfsegWrite s v val).Keeps .stores := by
  unfold vfsegWrite
  dsimp only
  refine ite_kept ?_ ?_
  · exact setFunc_kept h
  · exact ite_kept (setFunc_kept h) (ite_kept (setFunc_kept h) (setFunc_kept h))

theorem vfwaysWrite_memOk {v : Nat} {val : Word64} (h : s.Keeps .stores) : (vfwaysWrite s v val).Keeps .stores := by
  unfold vfwaysWrite
  exact ite_kept (setFunc_kept h) (setFunc_kept h)

theorem vfquotaWrite_memOk {v : Nat} {val : Word64} (h : s.Keeps .stores) : (vfquotaWrite s v val).Keeps .stores := by
  unfold vfquotaWrite
  exact modFunc_kept h

theorem vfctxbWrite_memOk {v : Nat} {val : Word64} (h : s.Keeps .stores) : (vfctxbWrite s v val).Keeps .stores := by
  unfold vfctxbWrite
  exact modFunc_kept h

theorem vffeatWrite_memOk {v : Nat} {val : Word64} (h : s.Keeps .stores) : (vffeatWrite s v val).Keeps .stores := by
  unfold vffeatWrite
  exact modFunc_kept h

theorem lpctlWrite_memOk {val : Word64} (h : s.Keeps .stores) : (lpctlWrite s val).Keeps .stores := by
  unfold lpctlWrite
  exact ite_kept (memOk_of_eq (memOk_of_eq h rfl rfl) rfl rfl) (memOk_of_eq h rfl rfl)

theorem lpatWrite_memOk {k : Nat} {val : Word64} (h : s.Keeps .stores) : (lpatWrite s k val).Keeps .stores := h

/-! ### Machine/Edge -/

theorem landTeams_memOk {fn : Nat} (h : s.Keeps .stores) : (landTeams s fn).Keeps .stores := by
  unfold landTeams
  exact memOk_of_eq (mxFinishTeams_kept (settleTeams_memOk h)) rfl rfl

theorem commitAll_memOk {fn n : Nat} (h : s.Keeps .stores) : (commitAll s fn n).1.Keeps .stores := by
  induction n generalizing s with
  | zero => exact h
  | succ n ih =>
    unfold commitAll
    split
    · exact ih (commitCohort_memOk h)
    · exact h

theorem rewindWalk_memOk {fn : Nat} {before : List (Nat × Task)} (h : s.Keeps .stores) :
    (rewindWalk s fn before).Keeps .stores := by
  unfold rewindWalk
  dsimp only
  split
  · exact h
  · split
    · exact h
    · exact setWalk_memOk h
    · exact setWalk_memOk h
    · exact ite_kept (setWalk_memOk h) (setWalk_memOk h)

theorem shelveTask_memOk {k : Nat} (h : s.Keeps .stores) : (shelveTask s k).Keeps .stores := by
  unfold shelveTask
  exact modFunc_kept (traceTask_kept (setTask_kept h))

theorem chargeOverrun_memOk {k : Nat} (h : s.Keeps .stores) : (chargeOverrun s k).Keeps .stores := by
  unfold chargeOverrun
  exact modFunc_kept (modTask_kept h)

theorem startHeld_memOk {k : Nat} (h : s.Keeps .stores) : (startHeld s k).Keeps .stores := by
  unfold startHeld
  exact foldl_kept h (fun _ _ hu => irrevocable_memOk hu)

theorem edgeWork_memOk {fn : Nat} (h : s.Keeps .stores) : (edgeWork s fn).s.Keeps .stores := by
  unfold edgeWork
  extract_lets r u before victims v w front wait x left live mustWrite y saves charged
  have committed : u.Keeps .stores := commitAll_memOk h
  have rewound : w.Keeps .stores := rewindWalk_memOk (ite_kept committed (abortTasks_kept committed))
  have shelved : x.Keeps .stores := foldl_kept rewound (fun _ _ hv => shelveTask_memOk hv)
  have entered : y.Keeps .stores := ite_kept (enterWriteThrough_kept shelved) shelved
  exact foldl_kept (foldl_kept entered (fun _ _ hv => chargeOverrun_memOk hv)) (fun _ _ hv => startHeld_memOk hv)

theorem edgeSave_memOk {p k : Nat} (h : s.Keeps .stores) : (edgeSave s p k).Keeps .stores := by
  unfold edgeSave
  exact modPart_memOk (ite_kept (makeStop_memOk h) (saveTask_memOk h))

theorem writeStateBlock_memOk {fn : Nat} (h : s.Keeps .stores) : (writeStateBlock s fn).Keeps .stores := by
  unfold writeStateBlock
  exact modFunc_kept (memWrite_kept h)

theorem readRestarts_memOk {fn : Nat} {own b : List Byte} (h : s.Keeps .stores) :
    (readRestarts s fn own b).Keeps .stores := by
  unfold readRestarts
  dsimp only
  refine foldl_kept h (fun _ _ hu => ?_)
  split
  · exact hu
  · exact ite_kept hu (ite_kept (setTask_kept hu) (memOk_of_eq hu rfl rfl))

theorem readStateBlock_memOk {fn : Nat} (h : s.Keeps .stores) : (readStateBlock s fn).Keeps .stores := by
  unfold readStateBlock
  exact ite_kept h (modFunc_kept (readRestarts_memOk h))

theorem flushCores_memOk {p : Nat} (h : s.Keeps .stores) : (flushCores s p).Keeps .stores := by
  unfold flushCores
  exact memOk_of_eq (foldl_kept h (fun _ _ hu => modCore_kept hu)) rfl rfl

theorem flushRequests_memOk {fn : Nat} (h : s.Keeps .stores) : (flushRequests s fn).Keeps .stores := by
  unfold flushRequests
  exact releaseRequest_memOk (memOk_of_eq h rfl rfl)

theorem bookDebit_memOk {fn charged time : Nat} (h : s.Keeps .stores) : (bookDebit s fn charged time).Keeps .stores := by
  unfold bookDebit
  exact ite_kept h (modFunc_kept h)

theorem stopWork_memOk {p : Nat} {first : EdgeStep} {x y : Option Nat} (h : s.Keeps .stores) :
    (stopWork s p first x y).Keeps .stores := by
  unfold stopWork
  exact ite_kept (setPart_memOk h) (setPart_memOk h)

theorem edgeCommits_memOk {p : Nat} (h : s.Keeps .stores) : (edgeCommits s p).Keeps .stores := by
  unfold edgeCommits
  split
  · exact modPart_memOk h
  · exact modPart_memOk (bump_kept (edgeWork_memOk h))

theorem flushWays_memOk {fn : Option Nat} (h : s.Keeps .stores) : (flushWays s fn).Keeps .stores := h

theorem beginFlush_memOk {p : Nat} (h : s.Keeps .stores) : (beginFlush s p).Keeps .stores := by
  unfold beginFlush
  dsimp only
  refine modPart_memOk (flushWays_memOk (flushCores_memOk ?_))
  split
  · exact h
  · exact flushRequests_memOk (writeStateBlock_memOk (bookDebit_memOk (updateHem_kept
      (foldl_kept h (fun _ _ hu => writeDirectory_kept hu)))))

theorem edgeGo_memOk {p : Nat} (h : s.Keeps .stores) (e : edgeGo s p = some t) : t.Keeps .stores := by
  unfold edgeGo at e
  grind [landTeams_memOk, modPart_memOk, edgeCommits_memOk, edgeSave_memOk, beginFlush_memOk]

theorem runNext_memOk {p : Nat} {y : Option Nat} {openAt : Nat} (h : s.Keeps .stores) :
    (runNext s p y openAt).Keeps .stores := by
  unfold runNext
  dsimp only
  refine modPart_memOk ?_
  split
  · exact readStateBlock_memOk h
  · exact h

theorem endFlush_memOk {p : Nat} (h : s.Keeps .stores) : (endFlush s p).Keeps .stores := by
  unfold endFlush
  dsimp only
  refine runNext_memOk (setPart_memOk ?_)
  split
  · refine modFunc_kept ?_
    split
    · exact ite_kept (pauseNow_memOk h) h
    · exact h
  · split
    · exact ite_kept (pauseNow_memOk h) h
    · exact h

theorem openSlot_memOk {p fn : Nat} (h : s.Keeps .stores) : (openSlot s p fn).Keeps .stores := by
  unfold openSlot
  exact updateHem_kept (retakeSlots_kept (foldl_kept (foldl_kept (foldl_kept (modPart_memOk h)
    (fun _ _ hu => readTail_kept hu)) (fun _ _ hu => clearDirectory_kept hu))
    (fun _ _ hu => ite_kept (restoreTask_kept hu) hu)))

theorem openPart_memOk {p : Nat} (h : s.Keeps .stores) : (openPart s p).Keeps .stores := by
  unfold openPart
  split
  · exact ite_kept (openSlot_memOk h) h
  · exact h

theorem handOver_memOk {p : Nat} (h : s.Keeps .stores) : (handOver s p).Keeps .stores := by
  unfold handOver
  exact modPart_memOk (stopWork_memOk h)

/-! ### Machine/DevRegs -/

theorem partWrite_memOk {p off : Nat} {v : Word64} (h : s.Keeps .stores) : (partWrite s p off v).Keeps .stores := by
  unfold partWrite
  refine ite_kept (pbaysSet_memOk h) (ite_kept (pctlWrite_memOk h) (ite_kept ?_ ?_))
  · exact modPart_memOk h
  · exact ite_kept (pscrubWrite_memOk h) (ite_kept (pslotWrite_memOk h) h)

theorem vfWrite_memOk {v off : Nat} {val : Word64} (h : s.Keeps .stores) : (vfWrite s v off val).Keeps .stores := by
  unfold vfWrite
  refine ite_kept ?_ (ite_kept ?_ (ite_kept ?_ (ite_kept (vfquotaWrite_memOk h)
    (ite_kept (vffeatWrite_memOk h) (ite_kept ?_ ?_)))))
  · exact vfctlWrite_memOk h
  · exact vfsegWrite_memOk h
  · exact vfwaysWrite_memOk h
  · exact vfctxbWrite_memOk h
  · exact ite_kept (gtoffWrite_memOk h) (ite_kept (gtimeWrite_memOk h) h)

theorem wqWrite_memOk {off : Nat} {v : Word64} (h : s.Keeps .stores) : (wqWrite s off v).Keeps .stores := by
  unfold wqWrite
  dsimp only
  refine ite_kept ?_ (ite_kept (writeWalkRecords_memOk (memOk_of_eq h rfl rfl)) (ite_kept ?_ ?_))
  · exact memOk_of_eq h rfl rfl
  · exact ite_kept h (writeWalkRecords_memOk (memOk_of_eq h rfl rfl))
  · exact ite_kept (wqResolve_memOk h) h

theorem devWrite_memOk {a : Nat} {v : Word64} (h : s.Keeps .stores) : (devWrite s a v).Keeps .stores := by
  unfold devWrite
  refine ite_kept ?_ (ite_kept ?_ (ite_kept ?_ (ite_kept ?_ (ite_kept (modDie_kept h)
    (ite_kept (modCore_kept h) (ite_kept ?_ ?_))))))
  · exact partWrite_memOk h
  · exact lpctlWrite_memOk h
  · exact lpatWrite_memOk h
  · exact wqWrite_memOk h
  · exact memOk_of_eq h rfl rfl
  · exact ite_kept (ite_kept h (memOk_of_eq h rfl rfl)) (ite_kept (vfWrite_memOk h) h)

/-! ### Machine/Steward -/

theorem unmapAll_memOk (h : s.Keeps .stores) : (unmapAll s).Keeps .stores := by
  unfold unmapAll
  exact foldl_kept h (fun _ _ hu => unmapPart_memOk hu)

theorem noteRepair_memOk (h : s.Keeps .stores) : (noteRepair s).Keeps .stores := by
  unfold noteRepair
  exact ite_kept h (irq_kept (memOk_of_eq h rfl rfl))

theorem noteReduced_memOk (h : s.Keeps .stores) : (noteReduced s).Keeps .stores := by
  unfold noteReduced
  exact ite_kept h (irq_kept (memOk_of_eq h rfl rfl))

theorem noteThermal_memOk (h : s.Keeps .stores) : (noteThermal s).Keeps .stores := by
  unfold noteThermal
  exact ite_kept h (irq_kept (memOk_of_eq h rfl rfl))

theorem noteTransient_memOk {x : Repair} (h : s.Keeps .stores) : (noteTransient s x).Keeps .stores := h

theorem cancelAccess_memOk {id : Nat} {a : Access} (h : s.Keeps .stores) : (cancelAccess s id a).Keeps .stores := by
  unfold cancelAccess
  dsimp only
  split
  · exact memOk_of_eq h rfl rfl
  · exact modTeam_kept (memOk_of_eq h rfl rfl)

theorem linkLost_memOk {id : Nat} (h : s.Keeps .stores) : (linkLost s id).Keeps .stores := by
  unfold linkLost
  dsimp only
  split
  · exact ite_kept h (takeFault_memOk (cancelAccess_memOk h))
  · exact ite_kept (engineFault_memOk h) h

theorem askMigrations_memOk {core : Nat} (h : s.Keeps .stores) : (askMigrations s core).Keeps .stores := by
  unfold askMigrations
  refine ite_kept (mappedCrews_kept h rfl rfl rfl (fun e he => ?_)) h
  dsimp only
  split
  · exact he
  · exact he

theorem retireChannel_memOk {chan : Nat} (h : s.Keeps .stores) : (retireChannel s chan).Keeps .stores := by
  unfold retireChannel
  exact ite_kept (memOk_of_eq h rfl rfl) (noteRepair_memOk (memOk_of_eq h rfl rfl))

theorem retireRow_memOk {chan : Nat} (h : s.Keeps .stores) : (retireRow s chan).Keeps .stores := by
  unfold retireRow
  exact ite_kept (noteRepair_memOk (memOk_of_eq h rfl rfl)) (retireChannel_memOk h)

theorem clearWay_memOk {p way : Nat} (h : s.Keeps .stores) : (clearWay s p way).Keeps .stores := by
  unfold clearWay
  exact foldl_kept h (fun _ _ hu => modFunc_kept hu)

theorem abortWay_memOk {slice way fn : Nat} (h : s.Keeps .stores) : (abortWay s slice way fn).Keeps .stores := by
  unfold abortWay
  dsimp only
  split
  · exact ite_kept (abortCohort_kept (bump_kept h)) (bump_kept h)
  · exact h

theorem shrinkSlice_memOk {slice fn n : Nat} (h : s.Keeps .stores) : (shrinkSlice s slice fn n).Keeps .stores := by
  induction n generalizing s with
  | zero => exact h
  | succ n ih =>
    unfold shrinkSlice
    split
    · exact ih (abortCohort_kept h)
    · exact h

theorem retireWay_memOk {slice way : Nat} (h : s.Keeps .stores) : (retireWay s slice way).Keeps .stores := by
  unfold retireWay
  dsimp only
  split
  · exact noteRepair_memOk (memOk_of_eq h rfl rfl)
  · refine ite_kept (clearWay_memOk (noteRepair_memOk (memOk_of_eq h rfl rfl))) ?_
    split
    · refine shrinkSlice_memOk (refillWays_memOk ?_)
      split
      · exact abortWay_memOk (noteRepair_memOk (memOk_of_eq h rfl rfl))
      · exact noteRepair_memOk (memOk_of_eq h rfl rfl)
    · refine refillWays_memOk ?_
      split
      · exact abortWay_memOk (noteRepair_memOk (memOk_of_eq h rfl rfl))
      · exact noteRepair_memOk (memOk_of_eq h rfl rfl)

theorem swapCore_memOk {core : Nat} {spare : Option Nat} (h : s.Keeps .stores) : (swapCore s core spare).Keeps .stores := by
  unfold swapCore
  dsimp only
  split
  · exact noteRepair_memOk (modCore_kept (modCore_kept h))
  · exact noteReduced_memOk (noteRepair_memOk (withVacant_kept (modCore_kept h)))

theorem dropLeave_memOk {core : Nat} (h : s.Keeps .stores) : (dropLeave s core).Keeps .stores := by
  unfold dropLeave
  exact modDie_kept h

theorem countRetire_memOk {core : Nat} (h : s.Keeps .stores) : (countRetire s core).Keeps .stores := by
  unfold countRetire
  split
  · exact modFunc_kept h
  · exact h

theorem getD_memOk {o : Option State} (h : s.Keeps .stores) (ho : ∀ t, o = some t → t.Keeps .stores) :
    (o.getD s).Keeps .stores := by
  cases o with
  | none => exact h
  | some t => exact ho t rfl

theorem retireCore_memOk {core : Nat} (h : s.Keeps .stores) : (retireCore s core).Keeps .stores := by
  unfold retireCore
  refine foldl_kept (swapCore_memOk (dropLeave_memOk (countRetire_memOk ?_))) (fun _ _ hu => ?_)
  · exact foldl_kept h (fun _ _ hu => saveCrews_memOk hu)
  · exact getD_memOk hu (fun _ e => returnCrews_memOk hu e)

theorem strayCrews_memOk (h : s.Keeps .stores) (e : strayCrews s = some t) : t.Keeps .stores := by
  obtain ⟨k, _, hk⟩ := List.exists_of_findSome?_eq_some e
  exact returnCrews_memOk h hk

theorem carryOut_memOk {r : Repair} (h : s.Keeps .stores) (e : carryOut s r = some t) : t.Keeps .stores := by
  have stopped {l : List Repair} {ts : List Nat} :
      (ts.foldl (fun (s : State) t => s.modTeam t (fun tm => { tm with stopped := true })) { s with repairs := l }).Keeps .stores :=
    foldl_kept h (fun _ _ hu => modTeam_kept hu)
  unfold carryOut at e
  grind [retireCore_memOk, retireRow_memOk, retireChannel_memOk, retireWay_memOk]

theorem repairNext_memOk (h : s.Keeps .stores) (e : repairNext s = some t) : t.Keeps .stores := by
  unfold repairNext at e
  grind [carryOut_memOk, ! @withRepairs_kept Kept.stores]

theorem detect_memOk {r : Repair} (h : s.Keeps .stores) : (detect s r).Keeps .stores := by
  unfold detect
  exact ite_kept (getD_memOk (withRepairs_kept h) (fun _ e => repairNext_memOk (withRepairs_kept h) e)) (withRepairs_kept h)

theorem replaceChannel_memOk {chan : Nat} (h : s.Keeps .stores) : (replaceChannel s chan).Keeps .stores := by
  unfold replaceChannel
  exact noteRepair_memOk (memOk_of_eq h rfl rfl)

theorem channelNext_memOk (h : s.Keeps .stores) (e : channelNext s = some t) : t.Keeps .stores := by
  obtain ⟨_, _, rfl⟩ := Option.map_eq_some_iff.1 e
  exact replaceChannel_memOk h

theorem endCommand_memOk {result : Nat} (h : s.Keeps .stores) : (endCommand s result).Keeps .stores := h

theorem deliverMail_memOk {vf : Nat} (h : s.Keeps .stores) : (deliverMail s vf).Keeps .stores := by
  unfold deliverMail
  exact irq_kept (modFunc_kept h)

theorem swapImage_memOk (h : s.Keeps .stores) : (swapImage s).Keeps .stores := by
  unfold swapImage
  exact endCommand_memOk (ite_kept (memOk_of_eq h rfl rfl) h)

/-! ### Machine/SysReg -/

theorem writeAccw_memOk {c : Ctx} {n : Nat} {v : Word64} (h : s.Keeps .stores) (e : writeAccw s c n v = .ok t) :
    t.Keeps .stores := by
  have set {tab : Tab Word64} : (s.setCrew c.tm.crew { c.crew s with accw := tab }).Keeps .stores := setCrew_memOk h (ctxCrew_shmOk h)
  unfold writeAccw at e
  grind [! @modTeam_kept Kept.stores]

theorem writeSysReg_memOk {c : Ctx} {n : Nat} {v : Word64} (h : s.Keeps .stores) (e : writeSysReg s c n v = .ok t) :
    t.Keeps .stores := by
  unfold writeSysReg at e
  grind [writeAccw_memOk, ! @modTeam_kept Kept.stores, ! @modTask_kept Kept.stores]

/-! ### Machine/HostIf -/

theorem answerMail_memOk {vf status : Nat} (h : s.Keeps .stores) : (answerMail s vf status).Keeps .stores := by
  unfold answerMail
  exact irq_kept (modFunc_kept h)

theorem passMail_memOk {vf : Nat} (h : s.Keeps .stores) : (passMail s vf).Keeps .stores := by
  unfold passMail
  split
  · exact answerMail_memOk h
  · exact deliverMail_memOk h

theorem sendMail_memOk {vf : Nat} (h : s.Keeps .stores) : (sendMail s vf).Keeps .stores := by
  unfold sendMail
  exact ite_kept h (ite_kept (setFunc_kept h) (passMail_memOk (setFunc_kept h)))

theorem releaseMail_memOk (h : s.Keeps .stores) : (releaseMail s).Keeps .stores := by
  unfold releaseMail
  exact foldl_kept h (fun _ _ hu => passMail_memOk hu)

theorem endProfiling_memOk {vf : Nat} (h : s.Keeps .stores) : (endProfiling s vf).Keeps .stores := by
  unfold endProfiling
  exact modFunc_kept (modPart_memOk h)

theorem grantMail_memOk {vf : Nat} (h : s.Keeps .stores) : (grantMail s vf).Keeps .stores := by
  unfold grantMail
  dsimp only
  refine ite_kept (modFunc_kept (modPart_memOk h)) (ite_kept ?_ ?_)
  · exact setFunc_kept h
  · exact ite_kept (endProfiling_memOk h) (ite_kept (modFunc_kept (endDebug_memOk h)) h)

theorem replyMail_memOk {vf : Nat} {status : Byte} (h : s.Keeps .stores) : (replyMail s vf status).Keeps .stores := by
  unfold replyMail
  exact ite_kept h (answerMail_memOk (ite_kept (grantMail_memOk h) h))

theorem sealObject_memOk {fn : Nat} {img : List Byte} (h : s.Keeps .stores) : (sealObject s fn img).Keeps .stores := by
  unfold sealObject
  exact bump_kept (memWrite_kept (setFunc_kept h))

theorem setSealResult_memOk {fn code : Nat} (h : s.Keeps .stores) : (setSealResult s fn code).Keeps .stores := by
  unfold setSealResult
  exact modFunc_kept h

theorem sealNow_memOk {fn : Nat} (h : s.Keeps .stores) : (sealNow s fn).Keeps .stores := by
  unfold sealNow
  dsimp only
  refine ite_kept h ?_
  split
  · exact setSealResult_memOk (ite_kept (sealObject_memOk h) h)
  · exact setSealResult_memOk h

theorem releaseNow_memOk {fn : Nat} (h : s.Keeps .stores) : (releaseNow s fn).Keeps .stores := by
  unfold releaseNow
  dsimp only
  refine ite_kept h ?_
  split
  · exact setSealResult_memOk h
  · exact setFunc_kept h

theorem releaseEnd_memOk {fn : Nat} (h : s.Keeps .stores) : (releaseEnd s fn).Keeps .stores := by
  unfold releaseEnd
  dsimp only
  split
  · exact setFunc_kept h
  · exact ite_kept h (setFunc_kept h)

theorem attestNow_memOk {fn : Nat} (h : s.Keeps .stores) : (attestNow s fn).Keeps .stores := by
  unfold attestNow
  exact modFunc_kept (ite_kept (memWrite_kept h) h)

theorem mailWrite_memOk {fn off : Nat} {v : Word64} (h : s.Keeps .stores) : (mailWrite s fn off v).Keeps .stores := by
  unfold mailWrite
  exact ite_kept h (ite_kept (setFunc_kept h) (ite_kept (sendMail_memOk h) h))

theorem queueWrite_memOk {fn q reg : Nat} {v : Word64} (h : s.Keeps .stores) : (queueWrite s fn q reg v).Keeps .stores := by
  unfold queueWrite
  dsimp only
  refine ite_kept (qctlWrite_memOk h) (ite_kept ?_ ?_)
  · exact h
  · exact ite_kept (setQueue_kept h) (ite_kept (setQueue_kept h) (ite_kept (setQueue_kept h) h))

theorem sealWrite_memOk {fn off : Nat} {v : Word64} (h : s.Keeps .stores) : (sealWrite s fn off v).Keeps .stores := by
  unfold sealWrite
  dsimp only
  refine ite_kept h (ite_kept (setFunc_kept h) (ite_kept (setFunc_kept h) (ite_kept ?_ ?_)))
  · exact ite_kept (sealNow_memOk h) (ite_kept (releaseNow_memOk h) h)
  · exact ite_kept (setFunc_kept h) (ite_kept (setFunc_kept h) h)

theorem attWrite_memOk {fn off : Nat} {v : Word64} (h : s.Keeps .stores) : (attWrite s fn off v).Keeps .stores := by
  unfold attWrite
  exact ite_kept (setFunc_kept h) (ite_kept (setFunc_kept h) (ite_kept (attestNow_memOk h) h))

theorem prWrite_memOk {fn off : Nat} {v : Word64} (h : s.Keeps .stores) : (prWrite s fn off v).Keeps .stores := by
  unfold prWrite
  dsimp only
  refine ite_kept ?_ (ite_kept ?_ (ite_kept ?_ (ite_kept (prcplWrite_memOk h)
    (ite_kept (setFunc_kept h) (ite_kept ?_ ?_)))))
  · exact ite_kept h (setFunc_kept h)
  · exact prctlWrite_memOk h
  · exact prheadSet_memOk h
  · exact setFunc_kept h
  · exact ite_kept (ite_kept (tinvGo_memOk h) h) (ite_kept (setFunc_kept h) h)

theorem dbgWrite_memOk {fn off : Nat} {v : Word64} (h : s.Keeps .stores) : (dbgWrite s fn off v).Keeps .stores := by
  unfold dbgWrite
  dsimp only
  refine ite_kept h (ite_kept (setFunc_kept h) (ite_kept (dbgWindow_memOk h) (ite_kept ?_ ?_)))
  · exact setFunc_kept h
  · exact ite_kept (setFunc_kept h) (ite_kept (setFunc_kept h) (modFunc_kept h))

theorem viewWrite_memOk {fn off : Nat} {v : Word64} (h : s.Keeps .stores) : (viewWrite s fn off v).Keeps .stores := by
  unfold viewWrite
  refine ite_kept ?_ (ite_kept ?_ (ite_kept (mailWrite_memOk h) (ite_kept (queueWrite_memOk h) (ite_kept ?_ ?_))))
  · exact h
  · exact ite_kept (modFunc_kept h) h
  · exact sealWrite_memOk h
  · exact ite_kept (attWrite_memOk h) (ite_kept (prWrite_memOk h) (ite_kept h (dbgWrite_memOk h)))

theorem pfMailWrite_memOk {v off : Nat} {val : Word64} (h : s.Keeps .stores) : (pfMailWrite s v off val).Keeps .stores := by
  unfold pfMailWrite
  exact ite_kept h (ite_kept (setFunc_kept h) (ite_kept (replyMail_memOk h) h))

theorem mgmtWrite_memOk {off : Nat} {v : Word64} (h : s.Keeps .stores) : (mgmtWrite s off v).Keeps .stores := by
  unfold mgmtWrite
  dsimp only
  refine ite_kept ?_ (ite_kept ?_ (ite_kept (memOk_of_eq h rfl rfl) (ite_kept (memOk_of_eq h rfl rfl) (ite_kept ?_ ?_))))
  · exact memOk_of_eq h rfl rfl
  · exact memOk_of_eq h rfl rfl
  · exact memOk_of_eq h rfl rfl
  · exact ite_kept (ite_kept h (ite_kept (memOk_of_eq h rfl rfl) (memOk_of_eq h rfl rfl))) h

theorem profWrite_memOk {fn off : Nat} {v : Word64} (h : s.Keeps .stores) : (profWrite s fn off v).Keeps .stores := by
  unfold profWrite
  dsimp only
  refine ite_kept ?_ (ite_kept ?_ (ite_kept ?_ (ite_kept (ite_kept h (setFunc_kept h)) (ite_kept ?_ ?_))))
  · exact ite_kept h (setFunc_kept h)
  · exact setFunc_kept h
  · exact ite_kept h (setFunc_kept h)
  · exact setFunc_kept h
  · exact ite_kept (ite_kept h (setFunc_kept h)) (ite_kept (setFunc_kept h) h)

theorem bar2Write_memOk {fn off : Nat} {v : Word64} (h : s.Keeps .stores) : (bar2Write s fn off v).Keeps .stores := by
  unfold bar2Write
  refine ite_kept ?_ (ite_kept (profWrite_memOk h) h)
  split
  · exact memWrite_kept h
  · exact h

theorem hostWrite_memOk {fn bar off : Nat} {v : Word64} (h : s.Keeps .stores) :
    (hostWrite s fn bar off v).Keeps .stores := by
  unfold hostWrite
  refine ite_kept h (ite_kept (bar2Write_memOk h) (ite_kept h (ite_kept ?_ ?_)))
  · exact viewWrite_memOk h
  · exact ite_kept h (ite_kept (pfMailWrite_memOk h) (ite_kept (mgmtWrite_memOk h) h))

/-! ### Machine/Vec -/

theorem vecNext_memOk {c : Ctx} {i : Instr} {sp : VSpec} {tag : Fmt} {pd : Nat} {across : Bool} {op : LaneIn → LaneOut}
  (h : s.Keeps .stores) :
    (vecNext s c i sp tag pd across op).Keeps .stores := by
  unfold vecNext
  exact bump_kept (popPorts_memOk (land_memOk h))

/-! ### Machine/Issue -/

theorem tentative_memOk {t p : Nat} (h : s.Keeps .stores) : (tentative s t p).Keeps .stores := h

theorem arriveAct_memOk {c : Ctx} {b : Bundle} (h : s.Keeps .stores) (e : arriveAct s c b = some t) : t.Keeps .stores := by
  unfold arriveAct at e
  split at e
  · split at e
    · nomatch e
    · split at e
      · next hu => exact Option.some.inj e ▸ withIssue_kept (barArrive_memOk h hu)
      · nomatch e
  · split at e
    · nomatch e
    · exact Option.some.inj e ▸ memOk_of_eq h rfl rfl
  · nomatch e

theorem waitAct_memOk {c : Ctx} {r : Nat} {control : Bool} (h : s.Keeps .stores) (e : waitAct s c r control = some t) :
    t.Keeps .stores := by
  unfold waitAct at e
  dsimp only at e
  split at e
  · nomatch e
  · exact Option.some.inj e ▸ withIssue_kept (modTeam_kept (modPath_kept h))

/-- A verdict that acts keeps the form. -/
def Verdict.Keeps (κ : Kept) : Verdict → Prop
  | .act s => s.Keeps κ
  | _ => True

theorem waitVerdict_memOk {c : Ctx} {b : Bundle} (h : s.Keeps .stores) : (waitVerdict s c b).Keeps .stores := by
  unfold waitVerdict
  split
  · trivial
  · dsimp only
    split
    · next e =>
      split at e
      · exact arriveAct_memOk h e
      · nomatch e
    · next e => exact waitAct_memOk h e
    · trivial

theorem bundleVerdict_memOk {u p : Nat} (h : s.Keeps .stores) : (bundleVerdict s u p).Keeps .stores := by
  unfold bundleVerdict
  grind [Verdict.Keeps, reachMark_memOk, waitVerdict_memOk, tentative_memOk]

theorem joinHits_memOk (h : s.Keeps .stores) : (joinHits s).Keeps .stores := by
  unfold joinHits
  exact foldl_kept (memOk_of_eq h rfl rfl) (fun _ _ hu => ite_kept (modPath_kept hu) hu)

theorem verdict_memOk {u p : Nat} (h : s.Keeps .stores) : (verdict s u p).Keeps .stores := by
  unfold verdict
  grind [Verdict.Keeps, bundleVerdict_memOk]

theorem pathAct_memOk (h : s.Keeps .stores) (e : pathAct s = some t) : t.Keeps .stores := by
  obtain ⟨core, _, hcore⟩ := List.exists_of_findSome?_eq_some e
  obtain ⟨q, _, hq⟩ := List.exists_of_findSome?_eq_some hcore
  split at hq
  · next act => exact Option.some.inj hq ▸ (act ▸ verdict_memOk h : Verdict.Keeps .stores (.act _))
  · nomatch hq

theorem noteYield_memOk {t : Nat} (h : s.Keeps .stores) : (noteYield s t).Keeps .stores := by
  unfold noteYield
  dsimp only
  split
  · exact h
  · exact ite_kept (setTeam_kept h) h

theorem nullify_memOk {c : Ctx} (h : s.Keeps .stores) : (nullify s c).Keeps .stores := by
  unfold nullify
  dsimp only
  refine memOk_of_eq (bump_kept (ite_kept ?_ ?_)) rfl rfl
  · exact noteYield_memOk (pmCount_memOk (modTeam_kept h))
  · exact pmCount_memOk (modTeam_kept h)

theorem startBundle_memOk {c : Ctx} {b : Bundle} (h : s.Keeps .stores) : (startBundle s c b).Keeps .stores := by
  unfold startBundle
  exact memOk_of_eq (pmCount_memOk (pmCount_memOk (modCore_kept (modTeam_kept h)))) rfl rfl

theorem bundleFault_memOk {i : Issue} (h : s.Keeps .stores) : (bundleFault s i).Keeps .stores := by
  unfold bundleFault
  dsimp only
  split
  · exact h
  · exact takeFault_memOk h
  · exact ite_kept (stopTask_kept h) (takeFault_memOk h)

theorem stepIssued_memOk {i : Issue} (h : s.Keeps .stores) : (stepIssued s i).Keeps .stores := by
  unfold stepIssued
  split
  · exact h
  · refine ite_kept h ?_
    split
    · exact endStep_memOk h
    · exact ite_kept h (ite_kept (endStep_memOk h) (setTeam_kept h))

theorem endBundle_memOk (h : s.Keeps .stores) : (endBundle s).Keeps .stores := by
  unfold endBundle
  dsimp only
  split
  · exact bump_kept h
  · refine memOk_of_eq (bump_kept (ite_kept ?_ ?_)) rfl rfl
    · refine noteYield_memOk ?_
      split
      · split
        · exact setTeam_kept (stepIssued_memOk (takeStops_memOk (ite_kept (bundleFault_memOk h) h)))
        · exact stepIssued_memOk (takeStops_memOk (ite_kept (bundleFault_memOk h) h))
      · exact stepIssued_memOk (takeStops_memOk (ite_kept (bundleFault_memOk h) h))
    · split
      · split
        · exact setTeam_kept (stepIssued_memOk (takeStops_memOk (ite_kept (bundleFault_memOk h) h)))
        · exact stepIssued_memOk (takeStops_memOk (ite_kept (bundleFault_memOk h) h))
      · exact stepIssued_memOk (takeStops_memOk (ite_kept (bundleFault_memOk h) h))

theorem decodeRaise_memOk {c : Ctx} {code : FaultCode} {slot : Slot} (h : s.Keeps .stores) :
    (decodeRaise s c code slot).Keeps .stores := by
  unfold decodeRaise
  dsimp only
  refine memOk_of_eq (bump_kept ?_) rfl rfl
  split
  · exact ite_kept (endStep_memOk (takeFault_memOk h)) (takeFault_memOk h)
  · exact takeFault_memOk h

/-! ### Machine/Profile -/

theorem writeSample_memOk {fn : Nat} {bs : List Byte} (h : s.Keeps .stores) : (writeSample s fn bs).Keeps .stores := by
  unfold writeSample
  exact ite_kept (setFunc_kept h) (memWrite_kept (setFunc_kept h))

theorem countStalls_memOk (h : s.Keeps .stores) : (countStalls s).Keeps .stores := by
  unfold countStalls
  exact foldl_kept h (fun _ _ hu => foldl_kept hu (fun _ _ hu1 => pmCount_memOk hu1))

theorem countShared_memOk (h : s.Keeps .stores) : (countShared s).Keeps .stores := by
  unfold countShared
  exact foldl_kept h (fun _ _ hu => bump_kept (foldl_kept hu (fun _ _ hu1 => pmCount_memOk hu1)))

/-! ### Machine/Run -/

theorem or_memOk {a b : Option State} (ha : ∀ t, a = some t → t.Keeps .stores) (hb : ∀ t, b = some t → t.Keeps .stores) :
    ∀ t, a.or b = some t → t.Keeps .stores := by
  cases a with
  | none => exact hb
  | some _ => exact ha

theorem map_memOk {α : Type} {o : Option α} {f : α → State} (hf : ∀ a, (f a).Keeps .stores) :
    ∀ t, o.map f = some t → t.Keeps .stores := by
  intro t e
  obtain ⟨a, _, rfl⟩ := Option.map_eq_some_iff.1 e
  exact hf a

theorem findSome_memOk {α : Type} {l : List α} {f : α → Option State} (hf : ∀ a t, f a = some t → t.Keeps .stores) :
    ∀ t, l.findSome? f = some t → t.Keeps .stores := by
  intro t e
  obtain ⟨a, _, ha⟩ := List.exists_of_findSome?_eq_some e
  exact hf a t ha

theorem deviceNext_memOk (h : s.Keeps .stores) : ∀ t, deviceNext s = some t → t.Keeps .stores := by
  simp only [deviceNext, Option.orElse_eq_orElse, Option.orElse_eq_or]
  exact or_memOk (fun _ => channelNext_memOk h) (or_memOk (fun _ => repairNext_memOk h) (or_memOk (fun _ => strayCrews_memOk h)
    (or_memOk (map_memOk (fun _ => linkLost_memOk h)) (or_memOk (findSome_memOk (fun _ _ => edgeGo_memOk h))
    (or_memOk (map_memOk (fun _ => handOver_memOk h)) (findSome_memOk (fun _ => map_memOk (fun _ => runNext_memOk h))))))))

theorem settleNext_memOk (h : s.Keeps .stores) (e : settleNext s = some t) : t.Keeps .stores := by
  unfold settleNext at e
  grind [finishMove_memOk, makeStop_memOk, sealCohort_memOk, ! @readTail_kept Kept.stores]

theorem upkeep_memOk (h : s.Keeps .stores) (e : upkeep s = some t) : t.Keeps .stores := by
  unfold upkeep at e
  split at e
  · exact Option.some.inj e ▸ settleMoves_memOk h
  · split at e
    · exact Option.some.inj e ▸ fillContexts_memOk h
    · exact Option.some.inj e ▸ setTeam_kept h
    · exact Option.some.inj e ▸ setTeam_kept h
    · exact Option.some.inj e ▸ retakeSlots_kept h
    · split at e
      · exact Option.some.inj e ▸ radvMake_kept h
      · split at e
        · next u next_ =>
          refine Option.some.inj e ▸ or_memOk (or_memOk (fun _ => settleNext_memOk h) (deviceNext_memOk h)) ?_ u next_
          exact findSome_memOk (fun _ => map_memOk (fun _ => takeTurn_memOk h _))
        · exact pathAct_memOk h e

theorem reseen_memOk (h : s.Keeps .stores) : (reseen s).Keeps .stores := h

theorem tick_memOk (h : s.Keeps .stores) : (tick s).Keeps .stores := by
  unfold tick
  exact memOk_of_eq (countShared_memOk (countStalls_memOk (markIdle_memOk
    (launchWalks_memOk (markTails_memOk (writeStops_memOk (joinHits_memOk h))))))) rfl rfl

end Sys2Proof.Machine
end

section
/-! PROOFS. The form of the byte stores: what the instructions of the slots and the events of the module answer. -/

namespace Sys2Proof.Machine

open Sys2Proof

variable {κ : Kept} {s t : State}

/-! ### What an instruction answers -/

/-- An instruction answers a next state whose byte stores are canonical. -/
def Answers : Host.Outcome State Fault Refusal → Prop
  | .next t => t.Keeps .stores
  | _ => False

theorem answers_next (h : s.Keeps .stores) : Answers (.next s) := h

theorem answers_ite {p : Prop} [Decidable p] {a b : Host.Outcome State Fault Refusal} (ha : Answers a) (hb : Answers b) :
    Answers (if p then a else b) := iteInduction (fun _ => ha) (fun _ => hb)

theorem answers_iff {o : Host.Outcome State Fault Refusal} : Answers o ↔ ∃ t, o = .next t ∧ t.Keeps .stores := by
  constructor
  · intro h
    cases o with
    | next t => exact ⟨t, rfl, h⟩
    | fault _ => exact h.elim
    | refused _ => exact h.elim
  · rintro ⟨t, rfl, h⟩
    exact h

/-- The effect of a slot, when it does not fault, keeps the form. -/
def SlotOk : Except FaultInfo State → Prop
  | .ok t => t.Keeps .stores
  | .error _ => True

theorem slotOk_ok (h : s.Keeps .stores) : SlotOk (.ok s) := h

theorem slotOk_ite {p : Prop} [Decidable p] {a b : Except FaultInfo State} (ha : SlotOk a) (hb : SlotOk b) :
    SlotOk (if p then a else b) := iteInduction (fun _ => ha) (fun _ => hb)

theorem slotOk_of_ok {r : Except FaultInfo State} (hr : ∀ t, r = .ok t → t.Keeps .stores) : SlotOk r := by
  cases r with
  | ok t => exact hr t rfl
  | error _ => trivial

/-! ### The runners of the slots: the path that issues answers the slot's effect, or the state with its fault -/

theorem runSlot_answers {slot : Slot} {f : Ctx → Except FaultInfo State} (h : s.Keeps .stores) (hc : (ctxOf s).isSome)
    (hf : ∀ c, SlotOk (f c)) : Answers (runSlot s slot f) := by
  obtain ⟨c, hctx⟩ := Option.isSome_iff_exists.1 hc
  have effect := hf c
  cases hfc : f c with
  | ok t =>
    rw [runSlot_ok hctx hfc]
    exact (hfc ▸ effect : SlotOk (.ok t))
  | error e =>
    rw [runSlot_error hctx hfc]
    exact raise_memOk h

theorem runSlotBoth_answers {slot : Slot} {f : Ctx → State × Option FaultInfo} (h : s.Keeps .stores) (hc : (ctxOf s).isSome)
    (hf : ∀ c, (f c).1.Keeps .stores) : Answers (runSlotBoth s slot f) := by
  obtain ⟨c, hctx⟩ := Option.isSome_iff_exists.1 hc
  have effect := hf c
  unfold runSlotBoth
  rw [hctx]
  dsimp only
  split
  · next e => exact (e ▸ effect : State.Keeps .stores (Prod.fst (_, _)))
  · next e => exact raise_memOk (ite_kept h (e ▸ effect : State.Keeps .stores (Prod.fst (_, _))))

theorem runControl_answers {f : Ctx → Except FaultInfo State} (h : s.Keeps .stores) (hc : (ctxOf s).isSome)
    (hf : ∀ c, SlotOk (f c)) :
    Answers (runControl s f) :=
  runSlot_answers h hc (fun c => slotOk_ite (hf c) h)

theorem runCommand_answers {f : Ctx → Pass → Except FaultInfo State} (h : s.Keeps .stores) (hc : (ctxOf s).isSome)
    (hf : ∀ c p, SlotOk (f c p)) : Answers (runCommand s f) := by
  refine runSlot_answers h hc (fun c => ?_)
  split
  · exact h
  · exact hf c _

theorem runCommandKeep_answers {f : Ctx → Pass → State × Option FaultInfo} (h : s.Keeps .stores) (hc : (ctxOf s).isSome)
    (hf : ∀ c p, (f c p).1.Keeps .stores) : Answers (runCommandKeep s f) := by
  refine runSlotBoth_answers h hc (fun c => ?_)
  split
  · exact h
  · exact hf c _

theorem windowRun_answers {i : Instr} {next : Ctx → VSpec → State} (h : s.Keeps .stores) (hc : (ctxOf s).isSome)
    (hf : ∀ c sp, (next c sp).Keeps .stores) : Answers (windowRun s i next) := by
  refine runSlot_answers h hc (fun c => ?_)
  split
  · exact h
  · refine slotOk_ite h ?_
    split
    · trivial
    · trivial
    · exact hf c _

/-! ### The slots -/

theorem vecRun_memOk {i : Instr} {tagOf : Ctx → Crew → VSpec → Fmt} {pd : Nat} {across : Bool} {op : LaneIn → LaneOut}
  (h : s.Keeps .stores) (hc : (ctxOf s).isSome) :
    Answers (vecRun s i tagOf pd across op) := by
  unfold vecRun
  refine runSlot_answers h hc (fun _ => ?_)
  split
  · exact h
  · refine slotOk_ite h ?_
    split
    · trivial
    · exact vecNext_memOk h

theorem scalarRun_memOk {d : BitVec 7} {latency : Nat} {op : Ctx → Word64} (h : s.Keeps .stores) (hc : (ctxOf s).isSome) :
    Answers (scalarRun s d latency op) := by
  unfold scalarRun
  exact runControl_answers h hc (fun _ => bump_kept (land_memOk h))

theorem stackRun_memOk {g : Ctx → Path → Path} (h : s.Keeps .stores) (hc : (ctxOf s).isSome) : Answers (stackRun s g) := by
  unfold stackRun
  exact runControl_answers h hc (fun _ => slotOk_ite trivial (modPath_kept h))

theorem sharedAtomicRun_memOk {f : MFields} {op : Nat} {two : Bool} (h : s.Keeps .stores) (hc : (ctxOf s).isSome) :
    Answers (sharedAtomicRun s f op two) := by
  unfold sharedAtomicRun
  refine runSlot_answers h hc (fun _ => slotOk_ite h ?_)
  dsimp only
  split
  · trivial
  · exact bump_kept (slip_memOk (issueAccess_memOk (fenceAt_memOk h)))

theorem tensorRun_memOk {f : MFields} {op : TensorOp} (h : s.Keeps .stores) (hc : (ctxOf s).isSome) :
    Answers (tensorRun s f op) := by
  unfold tensorRun
  refine runSlotBoth_answers h hc (fun c => ?_)
  have met {n : Nat} : (pmCount s (c.tk s).fn 0x16 n).Keeps .stores := pmCount_memOk h
  split
  · exact h
  · split
    · exact keepDesc_memOk h
    · split
      · exact h
      · dsimp only
        split
        · exact tensorAccess_memOk met
        · split
          · exact tensorAccess_memOk met
          · split
            · exact tensorAccess_memOk met
            · exact keepDesc_memOk met

theorem copyRun_memOk {f : XFields} {kind : Nat} (h : s.Keeps .stores) (hc : (ctxOf s).isSome) :
    Answers (copyRun s f kind) := by
  unfold copyRun
  refine runCommandKeep_answers h hc (fun c p => ?_)
  have kept {l : List Nat} : (l.foldl (fun s t => keepDesc s c.tm.task t) s).Keeps .stores := foldl_kept h
    (fun _ _ hu => keepDesc_memOk hu)
  dsimp only
  split
  · exact ite_kept kept h
  · exact bump_kept (modCrew_kept (newId_kept (ownRows_memOk (issueCommand_memOk kept))) (fun _ hcr => setChan_shmOk hcr))

theorem mmaRun_memOk {f : XFields} {kind : Nat} (h : s.Keeps .stores) (hc : (ctxOf s).isSome) :
    Answers (mmaRun s f kind) := by
  unfold mmaRun
  refine runCommandKeep_answers h hc (fun c p => ?_)
  have kept {l : List Nat} : (l.foldl (fun s t => keepDesc s c.tm.task t) s).Keeps .stores := foldl_kept h
    (fun _ _ hu => keepDesc_memOk hu)
  dsimp only
  split
  · exact ite_kept h kept
  · exact askLeave_memOk (mxEnqueue_memOk kept)

theorem dbgForm_memOk {code : Nat} {d a b : BitVec 7} (h : s.Keeps .stores) (hc : (ctxOf s).isSome) :
    Answers (dbgForm s code d a b) := by
  unfold dbgForm
  exact runControl_answers h hc (fun _ => awaitStep_memOk (holdFor_memOk (dbgCommand_memOk h)))

theorem execBr_memOk {off : BitVec 20} (h : s.Keeps .stores) (hc : (ctxOf s).isSome) : Answers (execBr off s) := by
  unfold execBr
  exact runControl_answers h hc (fun _ => branchRun_memOk h)

theorem execBrp_memOk {k : BitVec 4} {off : BitVec 20} (h : s.Keeps .stores) (hc : (ctxOf s).isSome) :
    Answers (execBrp k off s) := by
  unfold execBrp
  exact runControl_answers h hc (fun _ => bump_kept (branchRun_memOk h))

theorem execBrs_memOk {k : BitVec 4} {off : BitVec 20} (h : s.Keeps .stores) (hc : (ctxOf s).isSome) :
    Answers (execBrs k off s) := by
  unfold execBrs
  exact runControl_answers h hc (fun _ => bump_kept (branchRun_memOk h))

theorem execBrf_memOk {k : BitVec 4} {off : BitVec 20} (h : s.Keeps .stores) (hc : (ctxOf s).isSome) :
    Answers (execBrf k off s) := by
  unfold execBrf
  exact runControl_answers h hc (fun _ => branchRun_memOk (ite_kept (bump_kept (modTeam_kept h)) h))

theorem execBrm_memOk {off : BitVec 20} (h : s.Keeps .stores) (hc : (ctxOf s).isSome) : Answers (execBrm off s) := by
  unfold execBrm
  exact runControl_answers h hc (fun _ => branchRun_memOk h)

theorem execCall_memOk {k : BitVec 4} {off : BitVec 20} (h : s.Keeps .stores) (hc : (ctxOf s).isSome) :
    Answers (execCall k off s) := by
  unfold execCall
  exact runControl_answers h hc (fun _ => branchRun_memOk (land_memOk h))

theorem execRet_memOk {a : BitVec 7} (h : s.Keeps .stores) (hc : (ctxOf s).isSome) : Answers (execRet a s) := by
  unfold execRet
  exact runControl_answers h hc (fun _ => slotOk_of_ok (fun _ => indirect_memOk h))

theorem execJmpi_memOk {a b : BitVec 7} (h : s.Keeps .stores) (hc : (ctxOf s).isSome) : Answers (execJmpi a b s) := by
  unfold execJmpi
  exact runControl_answers h hc (fun _ => slotOk_of_ok (fun _ => indirect_memOk h))

theorem execLoop_memOk {k : BitVec 4} {off : BitVec 20} (h : s.Keeps .stores) (hc : (ctxOf s).isSome) :
    Answers (execLoop k off s) := by
  unfold execLoop
  exact runControl_answers h hc (fun _ => bump_kept (branchRun_memOk (ite_kept h (land_memOk h))))

theorem execPushm_memOk {p : BitVec 4} {neg : Bool} (h : s.Keeps .stores) (hc : (ctxOf s).isSome) :
    Answers (execPushm p neg s) := by
  unfold execPushm
  exact runControl_answers h hc (fun _ => slotOk_ite trivial (bump_kept (modPath_kept h)))

theorem execSplit_memOk {k : BitVec 4} {off : BitVec 20} (h : s.Keeps .stores) (hc : (ctxOf s).isSome) :
    Answers (execSplit k off s) := by
  unfold execSplit
  refine runControl_answers h hc (fun c => ?_)
  generalize c.predLanes k.toNat false = m
  refine slotOk_ite ?_ ?_
  · exact bump_kept (setTeam_kept h)
  · dsimp only
    split
    · trivial
    · exact bump_kept (tracePath_memOk (setTeam_kept h))

theorem execJoin_memOk (h : s.Keeps .stores) (hc : (ctxOf s).isSome) : Answers (execJoin s) := by
  unfold execJoin
  refine runControl_answers h hc (fun _ => slotOk_ite ?_ ?_)
  · exact holdPath_memOk h
  · exact foldl_kept (setTeam_kept h) (fun _ _ hu => tracePath_memOk hu)

theorem execExit_memOk (h : s.Keeps .stores) (hc : (ctxOf s).isSome) : Answers (execExit s) := by
  unfold execExit
  exact runControl_answers h hc (fun _ => slotOk_ite (modPath_kept h) (ite_kept (retireTeam_memOk (setTeam_kept h))
    (setTeam_kept h)))

theorem execRegroup_memOk {d a : BitVec 7} (h : s.Keeps .stores) (hc : (ctxOf s).isSome) : Answers (execRegroup d a s) := by
  unfold execRegroup
  refine runControl_answers h hc (fun _ => slotOk_ite trivial (slotOk_ite ?_ ?_))
  · trivial
  · exact slotOk_ite trivial (slotOk_ok (bump_kept (land_memOk (setTeam_kept (memOk_of_eq h rfl rfl)))))

theorem execSld_memOk {f : MFields} (h : s.Keeps .stores) (hc : (ctxOf s).isSome) : Answers (execSld f s) := by
  unfold execSld
  refine runSlot_answers h hc (fun _ => slotOk_ite h ?_)
  dsimp only
  split
  · trivial
  · exact bump_kept (slip_memOk (land_memOk (modCrew_kept (atomicsFirst_memOk h) (fun _ hcr => noteSeen_shmOk hcr))))

theorem execSst_memOk {f : MFields} (h : s.Keeps .stores) (hc : (ctxOf s).isSome) : Answers (execSst f s) := by
  unfold execSst
  refine runSlot_answers h hc (fun _ => slotOk_ite h ?_)
  split
  · trivial
  · exact bump_kept (slip_memOk (modCrew_kept (atomicsFirst_memOk h) (fun _ hcr => foldlCrew_shmOk (noteLate_shmOk hcr)
      (fun _ _ hu => foldlCrew_shmOk hu (fun _ _ hu => shmWrite_shmOk hu)))))

theorem execAccld_memOk {f : MFields} (h : s.Keeps .stores) (hc : (ctxOf s).isSome) : Answers (execAccld f s) := by
  unfold execAccld
  refine runSlot_answers h hc (fun _ => slotOk_ite h ?_)
  dsimp only
  split
  · trivial
  · exact bump_kept (land_memOk h)

theorem execAccst_memOk {f : MFields} (h : s.Keeps .stores) (hc : (ctxOf s).isSome) : Answers (execAccst f s) := by
  unfold execAccst
  refine runSlot_answers h hc (fun _ => slotOk_ite h ?_)
  split
  · trivial
  · exact slotOk_ok (bump_kept (modCrew_kept h (fun _ hcr => foldlCrew_shmOk hcr (fun _ _ hu => hu))))

theorem execRadv_memOk {f : MFields} (h : s.Keeps .stores) (hc : (ctxOf s).isSome) : Answers (execRadv f s) := by
  unfold execRadv
  refine runSlot_answers h hc (fun _ => ?_)
  refine slotOk_ite h (slotOk_ite trivial (slotOk_ite trivial (slotOk_ite h (slotOk_ite ?_ ?_))))
  · exact radvApply_kept (settleAtomics_memOk h)
  · exact withIdOps_kept (settleAtomics_memOk h)

theorem execRstat_memOk {f : MFields} (h : s.Keeps .stores) (hc : (ctxOf s).isSome) : Answers (execRstat f s) := by
  unfold execRstat
  refine runSlot_answers h hc (fun _ => ?_)
  dsimp only
  split
  · exact slotOk_ite trivial (land_memOk h)
  · exact h

theorem execGcfg_memOk {f : MFields} (h : s.Keeps .stores) (hc : (ctxOf s).isSome) : Answers (execGcfg f s) := by
  unfold execGcfg
  refine runSlot_answers h hc (fun c => ?_)
  split
  · refine slotOk_ite trivial (bump_kept (modTeam_kept (setCrew_memOk h ?_)))
    exact ctxCrew_shmOk h
  · exact h

theorem execGskip_memOk {f : MFields} (h : s.Keeps .stores) (hc : (ctxOf s).isSome) : Answers (execGskip f s) := by
  unfold execGskip
  exact runSlot_answers h hc (fun _ => slotOk_ite h (modTeam_kept h))

theorem execAcq_memOk {f : MFields} (h : s.Keeps .stores) (hc : (ctxOf s).isSome) : Answers (execAcq f s) := by
  unfold execAcq
  refine runSlot_answers h hc (fun _ => slotOk_ite h ?_)
  dsimp only
  split
  · trivial
  · trivial
  · exact issueOp_memOk (flagIssue_memOk (clampScope_memOk h))

theorem execRel_memOk {f : MFields} (h : s.Keeps .stores) (hc : (ctxOf s).isSome) : Answers (execRel f s) := by
  unfold execRel
  refine runSlot_answers h hc (fun _ => slotOk_ite h ?_)
  dsimp only
  split
  · trivial
  · trivial
  · exact issueOp_memOk (flagIssue_memOk (clampScope_memOk h))

theorem execFence_memOk {f : MFields} (h : s.Keeps .stores) (hc : (ctxOf s).isSome) : Answers (execFence f s) := by
  unfold execFence
  exact runSlot_answers h hc (fun _ => slotOk_ite h (bump_kept (modPath_kept (fenceAt_memOk (clampScope_memOk h)))))

theorem execInvro_memOk {f : MFields} (h : s.Keeps .stores) (hc : (ctxOf s).isSome) : Answers (execInvro f s) := by
  unfold execInvro
  exact runSlot_answers h hc (fun _ => slotOk_ite h (modTeam_kept (modCore_kept h)))

theorem execAccz_memOk {f : XFields} (h : s.Keeps .stores) (hc : (ctxOf s).isSome) : Answers (execAccz f s) := by
  unfold execAccz
  refine runCommand_answers h hc (fun _ _ => ?_)
  dsimp only
  split
  · trivial
  · exact mxEnqueue_memOk h

theorem execAccout_memOk {f : XFields} (h : s.Keeps .stores) (hc : (ctxOf s).isSome) : Answers (execAccout f s) := by
  unfold execAccout
  refine runCommand_answers h hc (fun _ _ => ?_)
  dsimp only
  split
  · trivial
  · exact mxEnqueue_memOk h

theorem execLvreq_memOk {f : XFields} (h : s.Keeps .stores) (hc : (ctxOf s).isSome) : Answers (execLvreq f s) := by
  unfold execLvreq
  refine runCommand_answers h hc (fun _ _ => slotOk_ite (flagDone_kept (modDie_kept (flagIssue_memOk h))) ?_)
  exact setDie_kept (withOps_kept (newId_kept (flagIssue_memOk h)))

theorem execColl_memOk {f : XFields} (h : s.Keeps .stores) (hc : (ctxOf s).isSome) : Answers (execColl f s) := by
  unfold execColl
  refine runCommand_answers h hc (fun _ _ => slotOk_ite trivial ?_)
  exact askLeave_memOk (withOpsColl_kept (bump_kept (newId_kept (issueCommand_memOk h))))

theorem execClrf_memOk {m : BitVec 16} (h : s.Keeps .stores) (hc : (ctxOf s).isSome) : Answers (execClrf m s) := by
  unfold execClrf
  exact runControl_answers h hc (fun _ => modTeam_kept h)

theorem execWaitc_memOk {n : BitVec 4} {k : BitVec 7} (h : s.Keeps .stores) (hc : (ctxOf s).isSome) :
    Answers (execWaitc n k s) := by
  unfold execWaitc
  exact runControl_answers h hc (fun _ => bump_kept (ite_kept (modPath_kept h) (holdPath_memOk (modPath_kept h))))

theorem execBar_memOk {b : BitVec 4} {count : BitVec 5} (h : s.Keeps .stores) (hc : (ctxOf s).isSome) :
    Answers (execBar b count s) := by
  unfold execBar
  refine runControl_answers h hc (fun _ => slotOk_ite (passBar_memOk h) ?_)
  split
  · trivial
  · next e => exact ite_kept (passBar_memOk (barArrive_memOk h e)) (barArrive_memOk h e)

theorem execSasht_memOk (h : s.Keeps .stores) (hc : (ctxOf s).isSome) : Answers (execSasht s) := by
  unfold execSasht
  exact runControl_answers h hc (fun _ => ite_kept h (holdPath_memOk h))

theorem execSashp_memOk {t : BitVec 4} {named : Bool} (h : s.Keeps .stores) (hc : (ctxOf s).isSome) :
    Answers (execSashp t named s) := by
  unfold execSashp
  exact runControl_answers h hc (fun _ => slotOk_ite trivial (slotOk_ite trivial (passSash_memOk h)))

theorem execRdsys_memOk {d a : BitVec 7} (h : s.Keeps .stores) (hc : (ctxOf s).isSome) : Answers (execRdsys d a s) := by
  unfold execRdsys
  exact runControl_answers h hc (fun _ => slotOk_ite trivial (holdFor_memOk h))

theorem execWrsys_memOk {a b : BitVec 7} (h : s.Keeps .stores) (hc : (ctxOf s).isSome) : Answers (execWrsys a b s) := by
  unfold execWrsys
  exact runControl_answers h hc (fun _ => slotOk_ite trivial (devWrite_memOk (holdFor_memOk h)))

theorem execRdsr_memOk {d : BitVec 7} {imm : BitVec 16} (h : s.Keeps .stores) (hc : (ctxOf s).isSome) :
    Answers (execRdsr d imm s) := by
  unfold execRdsr
  exact runControl_answers h hc (fun _ => land_memOk h)

theorem execWrsr_memOk {d : BitVec 7} {imm : BitVec 16} (h : s.Keeps .stores) (hc : (ctxOf s).isSome) :
    Answers (execWrsr d imm s) := by
  unfold execWrsr
  refine runControl_answers h hc (fun _ => ?_)
  split
  · next e => exact bump_kept (writeSysReg_memOk h e)
  · trivial

theorem execLcmp_memOk {v : BitVec 11} (h : s.Keeps .stores) (hc : (ctxOf s).isSome) : Answers (execLcmp v s) := by
  unfold execLcmp
  refine runControl_answers h hc (fun _ => slotOk_ite h (slotOk_ite trivial ?_))
  split
  · trivial
  · exact bump_kept h

theorem execSpawn_memOk {k : BitVec 4} {a b : BitVec 7} (h : s.Keeps .stores) (hc : (ctxOf s).isSome) :
    Answers (execSpawn k a b s) := by
  unfold execSpawn
  exact runControl_answers h hc (fun _ => issueOp_memOk (bump_kept (flagIssue_memOk h)))

theorem execWaithem_memOk {a : BitVec 7} (h : s.Keeps .stores) (hc : (ctxOf s).isSome) : Answers (execWaithem a s) := by
  unfold execWaithem
  exact runControl_answers h hc (fun _ => bump_kept (ite_kept h (holdPath_memOk h)))

theorem execSignal_memOk {a b : BitVec 7} (h : s.Keeps .stores) (hc : (ctxOf s).isSome) : Answers (execSignal a b s) := by
  unfold execSignal
  exact runControl_answers h hc (fun _ => modPath_kept (issueOp_memOk (bump_kept (clampScope_memOk h))))

theorem execTrap_memOk {n : BitVec 8} (h : s.Keeps .stores) (hc : (ctxOf s).isSome) : Answers (execTrap n s) := by
  unfold execTrap
  exact runControl_answers h hc (fun _ => trivial)

theorem execBkpt_memOk (h : s.Keeps .stores) (hc : (ctxOf s).isSome) : Answers (execBkpt s) := by
  unfold execBkpt
  exact runControl_answers h hc (fun _ => slotOk_ite (stopLater_memOk h) h)

theorem execWaitf_memOk {m : BitVec 16} {any : Bool} (h : s.Keeps .stores) (hc : (ctxOf s).isSome) :
    Answers (execWaitf m any s) := by
  unfold execWaitf
  exact runControl_answers h hc (fun _ => slotOk_ite (bump_kept (modTeam_kept h)) (holdPath_memOk h))

theorem execPlogic_memOk {f : VFields} (h : s.Keeps .stores) (hc : (ctxOf s).isSome) : Answers (execPlogic f s) := by
  unfold execPlogic
  exact runSlot_answers h hc (fun _ => slotOk_ite h (slotOk_ite trivial (bump_kept (land_memOk h))))

theorem execVgeti_memOk {f : VFields} (h : s.Keeps .stores) (hc : (ctxOf s).isSome) : Answers (execVgeti f s) := by
  unfold execVgeti
  exact windowRun_answers h hc (fun _ _ => vecNext_memOk h)

theorem execVseti_memOk {f : VFields} (h : s.Keeps .stores) (hc : (ctxOf s).isSome) : Answers (execVseti f s) := by
  unfold execVseti
  exact windowRun_answers h hc (fun _ _ => bump_kept (popPorts_memOk (land_memOk h)))

theorem execVmovp_memOk {f : VFields} (h : s.Keeps .stores) (hc : (ctxOf s).isSome) : Answers (execVmovp f s) := by
  unfold execVmovp
  exact answers_ite (vecRun_memOk h hc) (vecRun_memOk h hc)

/-! ### Events -/

theorem execLeaveGrant_memOk {die : Nat} (h : s.Keeps .stores) : Answers (execLeaveGrant die s) := by
  unfold execLeaveGrant
  dsimp only
  split
  · exact h
  · refine answers_ite h ?_
    split
    · exact setDie_kept h
    · split
      · exact flagDone_kept (withOps_kept (setDie_kept h))
      · exact setDie_kept h

theorem execLeaveRelease_memOk {die engine : Nat} (h : s.Keeps .stores) : Answers (execLeaveRelease die engine s) := by
  unfold execLeaveRelease
  exact answers_ite (setDie_kept h) h

theorem execLvreqLapse_memOk {die engine : Nat} (h : s.Keeps .stores) : Answers (execLvreqLapse die engine s) := by
  unfold execLvreqLapse
  exact answers_ite (setDie_kept h) h

theorem execResultLanding_memOk {team : Nat} (h : s.Keeps .stores) : Answers (execResultLanding team s) := by
  unfold execResultLanding
  exact answers_ite (bump_kept (modTeam_kept h)) h

theorem execFliCapture_memOk {team : Nat} (h : s.Keeps .stores) : Answers (execFliCapture team s) := by
  unfold execFliCapture
  exact answers_ite (bump_kept (modTeam_kept h)) h

theorem execGlobalAccessComplete_memOk {acc : Nat} {units bad : List Nat} (h : s.Keeps .stores) :
    Answers (execGlobalAccessComplete acc units bad s) := by
  unfold execGlobalAccessComplete
  split
  · refine answers_ite ?_ ?_
    · exact bump_kept (settleFault_memOk (accessBad_memOk (performChosen_memOk (noteErrors_kept h))))
    · exact h
  · exact h

theorem execWalkComplete_memOk {walk : Nat} {bad : List Nat} (h : s.Keeps .stores) :
    Answers (execWalkComplete walk bad s) := by
  unfold execWalkComplete
  dsimp only
  split
  · refine answers_ite h (answers_ite ?_ ?_)
    · exact settleFaults_memOk (walkBad_memOk (noteErrors_kept h))
    · exact settleFaults_memOk (endWalk_kept (noteErrors_kept h))
  · exact h

theorem execTileInvalidateDone_memOk {fn : Nat} (h : s.Keeps .stores) : Answers (execTileInvalidateDone fn s) := by
  unfold execTileInvalidateDone
  exact answers_ite (modFunc_kept h) h

theorem execAcqComplete_memOk {op : Nat} (h : s.Keeps .stores) : Answers (execAcqComplete op s) := by
  unfold execAcqComplete
  split
  · dsimp only
    refine answers_ite h ?_
    split
    · next u e =>
      have hu : u.Keeps .stores := (e ▸ trackRead_kept h : Track.Keeps .stores (.ok u))
      exact answers_ite (flagDone_kept (landSeq_kept (modTeam_kept (withOps_kept (clearFull_kept hu))))) hu
    · exact h
    · exact noteFull_kept h
  · exact h

theorem execCopyStart_memOk {crew chan : Nat} (h : s.Keeps .stores) : Answers (execCopyStart crew chan s) := by
  unfold execCopyStart
  dsimp only
  split
  · exact h
  · refine answers_ite ?_ (answers_ite (askLeave_memOk h) (answers_ite h (copyBegin_memOk (ite_kept ?_ ?_))))
    · exact h
    · exact leaveStarts_memOk (ite_kept (enterWriteThrough_kept h) h)
    · exact ite_kept (enterWriteThrough_kept h) h

theorem execCopyUnitLand_memOk {crew chan : Nat} {bad : List Nat} (h : s.Keeps .stores) :
    Answers (execCopyUnitLand crew chan bad s) := by
  unfold execCopyUnitLand
  dsimp only
  split
  · exact h
  · refine answers_ite ?_ (answers_ite (copyFinish_memOk (noteErrors_kept h)) (answers_ite ?_ ?_))
    · exact noteErrors_kept h
    · exact askLeave_memOk (noteErrors_kept h)
    · exact answers_ite (modCore_kept (noteErrors_kept h)) (landNext_memOk (noteErrors_kept h))

theorem execMatrixStepStart_memOk {core : Nat} (h : s.Keeps .stores) : Answers (execMatrixStepStart core s) := by
  unfold execMatrixStepStart
  split
  · exact h
  · dsimp only
    refine answers_ite (askLeave_memOk h) (answers_ite h ?_)
    split
    · next u q e =>
      have hu : u.Keeps .stores := (e ▸ mxBegin_memOk h : MxStart.Keeps .stores (.ok u q))
      exact modCore_kept (setMx_memOk (clearFull_kept (ite_kept (leaveStarts_memOk hu) hu)))
    · next u q e => exact setMx_memOk (e ▸ mxBegin_memOk h : MxStart.Keeps .stores (.walk u q))
    · exact h
    · exact noteFull_kept h
    · exact engineFault_memOk (setMx_memOk h)

theorem execMatrixOperandsDone_memOk {core : Nat} (h : s.Keeps .stores) : Answers (execMatrixOperandsDone core s) := by
  unfold execMatrixOperandsDone
  split
  · exact h
  · exact setMx_memOk (mxConsume_kept h)

theorem execMatrixRowsWritten_memOk {core : Nat} (h : s.Keeps .stores) : Answers (execMatrixRowsWritten core s) := by
  unfold execMatrixRowsWritten
  dsimp only
  split
  · exact h
  · exact bump_kept (ite_kept (setMx_memOk (mxRowsWrite_kept h)) (dropMx_memOk (mxRowsWrite_kept h)))

theorem execAccoutLastByteWritten_memOk {core : Nat} (h : s.Keeps .stores) :
    Answers (execAccoutLastByteWritten core s) := by
  unfold execAccoutLastByteWritten
  split
  · exact h
  · exact dropMx_memOk (accoutFinish_kept h)

theorem execCollComplete_memOk {op : Nat} {peers : List (List Byte)} (h : s.Keeps .stores) :
    Answers (execCollComplete op peers s) := by
  unfold execCollComplete
  split
  · dsimp only
    refine answers_ite h (answers_ite (askLeave_memOk h) (answers_ite (engineFault_memOk h) ?_))
    split
    · next u e =>
      have hu : u.Keeps .stores := (e ▸ trackWrite_kept h : Track.Keeps .stores (.ok u))
      exact flagDone_kept (bump_kept (withOps_kept (clearFull_kept (collWrite_memOk hu))))
    · exact h
    · exact noteFull_kept h
  · exact h

theorem execBreakpointHit_memOk {team path : Nat} (h : s.Keeps .stores) : Answers (execBreakpointHit team path s) := by
  unfold execBreakpointHit
  split
  · exact h
  · exact stopPath_memOk (modPath_kept h)

theorem execStepComplete_memOk {team path : Nat} (h : s.Keeps .stores) : Answers (execStepComplete team path s) := by
  unfold execStepComplete
  exact answers_ite (stopPath_memOk (endStep_memOk h)) h

theorem execTailWordChange_memOk {fn q : Nat} {val : Word64} (h : s.Keeps .stores) :
    Answers (execTailWordChange fn q val s) := by
  unfold execTailWordChange
  exact ite_kept (readTail_kept (ite_kept (memWrite_kept h) h)) (ite_kept (memWrite_kept h) h)

theorem execDispatchRecord_memOk {part : Nat} (h : s.Keeps .stores) : Answers (execDispatchRecord part s) := by
  unfold execDispatchRecord
  dsimp only
  split
  · exact h
  · refine answers_ite h ?_
    split
    · exact h
    · exact dispatchHead_memOk (modPart_memOk h)

theorem execTaskTokensHold_memOk {task : Nat} (h : s.Keeps .stores) : Answers (execTaskTokensHold task s) := by
  unfold execTaskTokensHold
  split
  · exact h
  · refine answers_ite h ?_
    split
    · exact stopTask_kept h
    · exact answers_ite (setTask_kept h) h

theorem execCrewPlacement_memOk {part : Nat} (h : s.Keeps .stores) : Answers (execCrewPlacement part s) := by
  unfold execCrewPlacement
  split
  · exact h
  · refine answers_ite h ?_
    split
    · exact h
    · exact placeCrew_memOk h

theorem execPlacementTimeout_memOk {part : Nat} (h : s.Keeps .stores) : Answers (execPlacementTimeout part s) := by
  unfold execPlacementTimeout
  dsimp only
  split
  · exact h
  · split
    · exact abortCohort_kept (modTask_kept h)
    · exact modTask_kept h

theorem execCrewRetire_memOk {crew : Nat} (h : s.Keeps .stores) : Answers (execCrewRetire crew s) := by
  unfold execCrewRetire
  split
  · exact h
  · dsimp only
    refine answers_ite h ?_
    refine ite_kept (finishTask_memOk ?_) ?_
    all_goals exact modTask_kept (erasedCrew_kept (traceCrew_memOk h))

theorem execYieldExchange_memOk {team : Nat} (h : s.Keeps .stores) : Answers (execYieldExchange team s) := by
  unfold execYieldExchange
  exact answers_ite (yieldTeam_memOk h) h

theorem execMigration_memOk {crew : Nat} (h : s.Keeps .stores) : Answers (execMigration crew s) := by
  unfold execMigration
  dsimp only
  refine answers_ite h (answers_ite (setCrew_memOk h (storedCrew_shmOk h)) ?_)
  split
  · exact setCrew_memOk h (storedCrew_shmOk h)
  · exact migrateCrew_memOk h

theorem execWatchdog_memOk {team : Nat} (h : s.Keeps .stores) : Answers (execWatchdog team s) := by
  unfold execWatchdog
  exact answers_ite (watchdogTask_kept h) h

theorem execParkedTaskSave_memOk {task : Nat} (h : s.Keeps .stores) : Answers (execParkedTaskSave task s) := by
  unfold execParkedTaskSave
  exact answers_ite (ite_kept (modTask_kept (saveTask_memOk h)) (saveTask_memOk h)) h

theorem execParkedTaskRestore_memOk {task : Nat} (h : s.Keeps .stores) : Answers (execParkedTaskRestore task s) := by
  unfold execParkedTaskRestore
  exact answers_ite (restoreTask_kept h) h

theorem execCohortCommit_memOk {fn : Nat} (h : s.Keeps .stores) : Answers (execCohortCommit fn s) := by
  unfold execCohortCommit
  exact answers_ite (commitCohort_memOk h) h

theorem execCapacityTimeout_memOk {acc : Nat} (h : s.Keeps .stores) : Answers (execCapacityTimeout acc s) := by
  unfold execCapacityTimeout
  dsimp only
  split
  · exact clearFull_kept h
  · refine answers_ite h ?_
    split
    · exact abortCohort_kept (restartFull_memOk h)
    · exact restartFull_memOk h

theorem execSpawnSlotTimeout_memOk {part : Nat} (h : s.Keeps .stores) : Answers (execSpawnSlotTimeout part s) := by
  unfold execSpawnSlotTimeout
  dsimp only
  split
  · exact h
  · split
    · exact h
    · split
      · refine answers_next (abortCohort_kept ?_)
        split
        · exact memOk_of_eq h rfl rfl
        · exact h
      · split
        · exact memOk_of_eq h rfl rfl
        · exact h

theorem execDeferredFaultReplay_memOk {task : Nat} (h : s.Keeps .stores) : Answers (execDeferredFaultReplay task s) := by
  unfold execDeferredFaultReplay
  dsimp only
  refine answers_ite h (answers_next (ite_kept ?_ ?_))
  · exact modTask_kept (foldl_kept (foldl_kept h (fun _ _ hu => setEngineFault_kept hu))
      (fun _ _ hu => replayDeferred_memOk hu))
  · exact resumeTeams_memOk (modTask_kept (foldl_kept (foldl_kept h (fun _ _ hu => setEngineFault_kept hu))
      (fun _ _ hu => replayDeferred_memOk hu)))

theorem execLaunchNode_memOk {part : Nat} (h : s.Keeps .stores) : Answers (execLaunchNode part s) := by
  unfold execLaunchNode
  dsimp only
  split
  · exact h
  · refine answers_ite h ?_
    split
    · exact failWalk_memOk h
    · exact setWalk_memOk (launchOne_memOk h)

theorem execSpawnsetNode_memOk {part : Nat} (h : s.Keeps .stores) : Answers (execSpawnsetNode part s) := by
  unfold execSpawnsetNode
  dsimp only
  split
  · exact h
  · refine answers_ite h ?_
    split
    · exact failWalk_memOk h
    · exact setWalk_memOk (foldl_kept h (fun _ _ hu => launchOne_memOk hu))

theorem execCondNode_memOk {part : Nat} (h : s.Keeps .stores) : Answers (execCondNode part s) := by
  unfold execCondNode
  split
  · exact h
  · exact branchNode_memOk h

theorem execWhileNode_memOk {part : Nat} (h : s.Keeps .stores) : Answers (execWhileNode part s) := by
  unfold execWhileNode
  dsimp only
  split
  · exact h
  · exact answers_ite (setWalk_memOk h) (branchNode_memOk h)

theorem execCondResolve_memOk {part : Nat} (h : s.Keeps .stores) : Answers (execCondResolve part s) := by
  unfold execCondResolve
  split
  · exact h
  · split
    · exact h
    · split
      · exact h
      · refine answers_ite h ?_
        split
        · exact failWalk_memOk h
        · exact ite_kept (predictionHeld_memOk h) (predictionWrong_memOk h)

theorem execWaittokNode_memOk {part : Nat} (h : s.Keeps .stores) : Answers (execWaittokNode part s) := by
  unfold execWaittokNode
  split
  · exact h
  · split
    · exact failWalk_memOk h
    · exact answers_ite (setWalk_memOk h) h

theorem execSigtokNode_memOk {part : Nat} (h : s.Keeps .stores) : Answers (execSigtokNode part s) := by
  unfold execSigtokNode
  dsimp only
  split
  · exact h
  · exact setWalk_memOk h

theorem execSigtokAdd_memOk {part : Nat} (h : s.Keeps .stores) : Answers (execSigtokAdd part s) := by
  unfold execSigtokAdd
  dsimp only
  split
  · exact h
  · split
    · exact h
    · split
      · exact h
      · split
        · exact failWalk_memOk h
        · exact setWalk_memOk (memWrite_kept h)

theorem execEndNode_memOk {part : Nat} (h : s.Keeps .stores) : Answers (execEndNode part s) := by
  unfold execEndNode
  split
  · exact h
  · exact setWalk_memOk h

theorem execWalkEndComplete_memOk {part : Nat} (h : s.Keeps .stores) : Answers (execWalkEndComplete part s) := by
  unfold execWalkEndComplete
  dsimp only
  split
  · exact h
  · split
    · exact h
    · refine answers_ite h (answers_ite (setQueue_kept (setWalk_memOk h)) (answers_ite ?_ ?_))
      · exact stopQueue_kept (setQueue_kept (setWalk_memOk h))
      · exact memWrite_kept (setQueue_kept (setWalk_memOk h))

theorem execSpawnChildCreate_memOk {op : Nat} (h : s.Keeps .stores) : Answers (execSpawnChildCreate op s) := by
  unfold execSpawnChildCreate
  split
  · dsimp only
    refine answers_ite h ?_
    split
    · exact h
    · split
      · exact engineFault_memOk h
      · split
        · next u e => exact spawnChild_memOk (e ▸ trackRead_kept h : Track.Keeps .stores (.ok u))
        · exact h
        · exact noteFull_kept h
  · exact h

theorem execScrubComplete_memOk {part : Nat} (h : s.Keeps .stores) : Answers (execScrubComplete part s) := by
  unfold execScrubComplete
  dsimp only
  refine answers_ite h (answers_ite ?_ ?_)
  · exact later_kept h
  · exact modPart_memOk (zeroGranule_memOk (dropCached_memOk (dropSignals_kept h)))

theorem execDrainStart_memOk {part : Nat} (h : s.Keeps .stores) : Answers (execDrainStart part s) := by
  unfold execDrainStart
  exact answers_ite (modPart_memOk h) h

theorem execSlotEdge_memOk {part : Nat} (h : s.Keeps .stores) : Answers (execSlotEdge part s) := by
  unfold execSlotEdge
  exact answers_ite h (ite_kept (modPart_memOk h) (stopWork_memOk (modPart_memOk h)))

theorem execDebitHoldEnd_memOk {part : Nat} (h : s.Keeps .stores) : Answers (execDebitHoldEnd part s) := by
  unfold execDebitHoldEnd
  exact answers_ite h (openPart_memOk (ite_kept (endFlush_memOk h) h))

theorem execDeviceReset_memOk (h : s.Keeps .stores) : Answers (execDeviceReset s) :=
  ⟨(unmapAll_memOk h).1, fun _ he => nomatch he⟩

theorem execLinkTrain_memOk {full : Bool} (h : s.Keeps .stores) : Answers (execLinkTrain full s) := by
  unfold execLinkTrain
  exact memOk_of_eq h rfl rfl

theorem execLinkCrcError_memOk {port failedResends : Nat} (h : s.Keeps .stores) :
    Answers (execLinkCrcError port failedResends s) := by
  unfold execLinkCrcError
  dsimp only
  refine answers_ite h (answers_ite (noteTransient_memOk h) (answers_next (ite_kept ?_ ?_)))
  · exact foldl_kept (bump_kept (noteRepair_memOk (memOk_of_eq h rfl rfl))) (fun _ _ hu => linkLost_memOk hu)
  · exact noteRepair_memOk (memOk_of_eq h rfl rfl)

theorem execPortDown_memOk {port : Nat} {ops : List Nat} (h : s.Keeps .stores) : Answers (execPortDown port ops s) := by
  unfold execPortDown
  exact answers_ite h (answers_next (foldl_kept (memOk_of_eq h rfl rfl) (fun _ _ hu => linkLost_memOk hu)))

theorem execSensorSample_memOk {core : Nat} {temp : BitVec 11} (h : s.Keeps .stores) :
    Answers (execSensorSample core temp s) := by
  unfold execSensorSample
  dsimp only
  refine answers_ite h (answers_ite ?_ ?_)
  · exact noteThermal_memOk (modDie_kept (askMigrations_memOk (modCore_kept h)))
  · exact askMigrations_memOk (modCore_kept h)

theorem execDroopEvent_memOk {core : Nat} (h : s.Keeps .stores) : Answers (execDroopEvent core s) := by
  unfold execDroopEvent
  exact modCore_kept h

theorem execHbmCorrectableError_memOk {chan : Nat} {again : Bool} (h : s.Keeps .stores) :
    Answers (execHbmCorrectableError chan again s) := by
  unfold execHbmCorrectableError
  exact ite_kept (detect_memOk h) (noteTransient_memOk h)

theorem execPseudoChannelRetire_memOk {chan : Nat} (h : s.Keeps .stores) : Answers (execPseudoChannelRetire chan s) := by
  unfold execPseudoChannelRetire
  exact detect_memOk h

theorem execChannelCopyDone_memOk {chan : Nat} (h : s.Keeps .stores) : Answers (execChannelCopyDone chan s) := by
  unfold execChannelCopyDone
  exact answers_ite h (answers_ite (memOk_of_eq h rfl rfl) (replaceChannel_memOk h))

theorem execL2WayRetire_memOk {slice way : Nat} {again : Bool} (h : s.Keeps .stores) :
    Answers (execL2WayRetire slice way again s) := by
  unfold execL2WayRetire
  exact ite_kept (detect_memOk h) (noteTransient_memOk h)

theorem execCoreRetirement_memOk {core : Nat} (h : s.Keeps .stores) : Answers (execCoreRetirement core s) := by
  unfold execCoreRetirement
  exact answers_ite h (detect_memOk h)

theorem execStcmdRead_memOk (h : s.Keeps .stores) : Answers (execStcmdRead s) := by
  unfold execStcmdRead
  exact answers_ite h (answers_ite (endCommand_memOk h) (endCommand_memOk (memOk_of_eq h rfl rfl)))

theorem execStcmdWrite_memOk (h : s.Keeps .stores) : Answers (execStcmdWrite s) := by
  unfold execStcmdWrite
  exact answers_ite h (answers_ite (endCommand_memOk h) (endCommand_memOk (devWrite_memOk h)))

theorem execStcmdSwapImage_memOk (h : s.Keeps .stores) : Answers (execStcmdSwapImage s) := by
  unfold execStcmdSwapImage
  exact answers_ite h (releaseMail_memOk (swapImage_memOk h))

theorem execProfilingLeaseEnd_memOk {vf : Nat} (h : s.Keeps .stores) : Answers (execProfilingLeaseEnd vf s) := by
  unfold execProfilingLeaseEnd
  exact answers_ite (endProfiling_memOk h) h

theorem execSealReleaseDone_memOk {fn : Nat} (h : s.Keeps .stores) : Answers (execSealReleaseDone fn s) := by
  unfold execSealReleaseDone
  exact answers_ite (releaseEnd_memOk h) h

theorem execPeerWrite_memOk {space addr : Nat} {bytes : List Byte} (h : s.Keeps .stores) :
    Answers (execPeerWrite space addr bytes s) :=
  ⟨Memory.write_wf _ _ h.1, h.2⟩

theorem execEmptyDelayBundle_memOk {hdr : BitVec 32} (h : s.Keeps .stores) (hc : (ctxOf s).isSome) :
    Answers (execEmptyDelayBundle hdr s) := by
  obtain ⟨c, hctx⟩ := Option.isSome_iff_exists.1 hc
  unfold execEmptyDelayBundle
  rw [hctx]
  exact nullify_memOk h

theorem execIllegalOp_memOk (h : s.Keeps .stores) (hc : (ctxOf s).isSome) : Answers (execIllegalOp s) := by
  obtain ⟨c, hctx⟩ := Option.isSome_iff_exists.1 hc
  unfold execIllegalOp
  rw [hctx]
  dsimp only
  split
  · exact decodeRaise_memOk h
  · exact withIssue_kept h

theorem execSample_memOk {core : Nat} (h : s.Keeps .stores) : Answers (execSample core s) := by
  unfold execSample
  dsimp only
  split
  · exact bump_kept (writeSample_memOk (modCore_kept (modTeam_kept h)))
  · exact h

end Sys2Proof.Machine
end

section
/-! PROOFS. The form of the byte stores: every step answers, and keeps it (O59). -/

namespace Sys2Proof.Machine

open Sys2Proof

variable {κ : Kept} {s t : State}

/-- An instruction of the vector slot, told by its run. -/
theorem exec_vec_memOk {i : Instr} {tagOf : Ctx → Crew → VSpec → Fmt} {pd : Nat} {across : Bool} {op : LaneIn → LaneOut}
    (h : s.Keeps .stores) (hc : (ctxOf s).isSome) (e : exec i s = vecRun s i tagOf pd across op) : Answers (exec i s) :=
  e ▸ vecRun_memOk h hc

/-- The effect of a lining operation: results in flight, or a fault of its registers (R441). -/
theorem liningSlot_memOk {c : Ctx} {rs : List PendRes} {p q : Prop} [Decidable p] [Decidable q] {e : FaultInfo}
    (h : s.Keeps .stores) :
    SlotOk (if p then .ok s else if q then .error e else .ok (s.land c.t rs).bump) :=
  slotOk_ite h (slotOk_ite trivial (bump_kept (land_memOk h)))

/-- The vector slot. -/
theorem exec_v_memOk {i : Instr} (h : s.Keeps .stores) (hc : (ctxOf s).isSome) (hi : (vOpcode i).isSome) :
    Answers (exec i s) := by
  cases i
  case vadd | vsub | vmul | vmulh | vmad | vaddc | vsubb | vmin | vmax | vabsd | vdot4 | vand | vor | vxor | vandn |
      vnot | vshl | vshr | vsar | vrot | vbfx | vbfi | vpopc | vclz | vbrev | vlop3 | vcmp | vsel | vfclass | vmov |
      vfadd | vfsub | vfmul | vfma | vfmin | vfmax | vfcmp | vfdot2 | vfdot4 | vrcp | vrsq | vsqrt | vexp2 | vlog2 |
      vsinp | vcosp | vtanh | vcvt | vpack | vunpk | vquant | vdeq | vscale | vshuf | vperm | vbcast | vred | vscan |
      vvote | psetl => exact exec_vec_memOk h hc rfl
  case vgeti => exact execVgeti_memOk h hc
  case vseti => exact execVseti_memOk h hc
  case plogic => exact execPlogic_memOk h hc
  case vmovp => exact execVmovp_memOk h hc
  all_goals nomatch hi

/-- The memory slot. -/
theorem exec_m_memOk {i : Instr} (h : s.Keeps .stores) (hc : (ctxOf s).isSome) (hi : (mOpcode i).isSome) :
    Answers (exec i s) := by
  cases i
  case tld | tst | tred | rold | aadd | afadd | amin | amax | aand | aor | axor | axchg | acas => exact tensorRun_memOk h hc
  case sld => exact execSld_memOk h hc
  case sst => exact execSst_memOk h hc
  case saadd | safadd | samin | samax | saand | saor | saxor | saxchg | sacas => exact sharedAtomicRun_memOk h hc
  case accld => exact execAccld_memOk h hc
  case accst => exact execAccst_memOk h hc
  case radv => exact execRadv_memOk h hc
  case rstat => exact execRstat_memOk h hc
  case gcfg => exact execGcfg_memOk h hc
  case gskip => exact execGskip_memOk h hc
  case acq => exact execAcq_memOk h hc
  case rel => exact execRel_memOk h hc
  case fence => exact execFence_memOk h hc
  case invro f => exact execInvro_memOk (f := f) h hc
  all_goals nomatch hi

/-- The engine slot and the lining operations. -/
theorem exec_x_memOk {i : Instr} (h : s.Keeps .stores) (hc : (ctxOf s).isSome) (hi : (xOpcode i).isSome ∨
    (lOpcode i).isSome) :
    Answers (exec i s) := by
  cases i
  case copy | copyg | copys | fill => exact copyRun_memOk h hc
  case mma | mmas => exact mmaRun_memOk h hc
  case accz => exact execAccz_memOk h hc
  case accout => exact execAccout_memOk h hc
  case coll => exact execColl_memOk h hc
  case lvreq => exact execLvreq_memOk h hc
  case lfma | ladd | lmul | liadd | limul | llogic => exact runSlot_answers h hc (fun _ => liningSlot_memOk h)
  all_goals nomatch hi

/-- The control slot. -/
theorem exec_c_memOk {i : Instr} (h : s.Keeps .stores) (hc : (ctxOf s).isSome) (hi : (encodeC i).isSome) :
    Answers (exec i s) := by
  cases i
  case br => exact execBr_memOk h hc
  case brp => exact execBrp_memOk h hc
  case brs => exact execBrs_memOk h hc
  case brf => exact execBrf_memOk h hc
  case brm => exact execBrm_memOk h hc
  case call => exact execCall_memOk h hc
  case ret => exact execRet_memOk h hc
  case jmpi => exact execJmpi_memOk h hc
  case loop => exact execLoop_memOk h hc
  case pushm => exact execPushm_memOk h hc
  case invm | popm | setm => exact stackRun_memOk h hc
  case split => exact execSplit_memOk h hc
  case join => exact execJoin_memOk h hc
  case regroup => exact execRegroup_memOk h hc
  case sadd | ssub | smul | sand | sor | sxor | sshl | sshr | ssar | ssel | smulh | smin | smax | scmp | smov |
      sdivu | saddi | sandi | sori | sshli | sshri | sli | slih | slix | sliy => exact scalarRun_memOk h hc
  case rdsr => exact execRdsr_memOk h hc
  case wrsr => exact execWrsr_memOk h hc
  case waitf => exact execWaitf_memOk h hc
  case clrf => exact execClrf_memOk h hc
  case bar => exact execBar_memOk h hc
  case sasht => exact execSasht_memOk h hc
  case sashp => exact execSashp_memOk h hc
  case waitc => exact execWaitc_memOk h hc
  case spawn => exact execSpawn_memOk h hc
  case exit => exact execExit_memOk h hc
  case trap => exact execTrap_memOk h hc
  case bkpt => exact execBkpt_memOk h hc
  case rdsys => exact execRdsys_memOk h hc
  case wrsys => exact execWrsys_memOk h hc
  case lcmp v => exact execLcmp_memOk (v := v) h hc
  case waithem => exact execWaithem_memOk h hc
  case signal => exact execSignal_memOk h hc
  case dbgsplit | step | dbgres => exact dbgForm_memOk h hc
  all_goals nomatch hi

/-- The steps that no slot encodes. -/
theorem exec_event_memOk {i : Instr} (h : s.Keeps .stores) (hc : isBundled i = true → (ctxOf s).isSome)
    (hi : slotBits i = 0) :
    Answers (exec i s) := by
  cases i
  case breakpointHit => exact execBreakpointHit_memOk h
  case stepComplete => exact execStepComplete_memOk h
  case matrixOperandsDone => exact execMatrixOperandsDone_memOk h
  case matrixRowsWritten => exact execMatrixRowsWritten_memOk h
  case drainStart => exact execDrainStart_memOk h
  case slotEdge => exact execSlotEdge_memOk h
  case debitHoldEnd => exact execDebitHoldEnd_memOk h
  case sample => exact execSample_memOk h
  case deviceReset => exact execDeviceReset_memOk h
  case linkTrain => exact execLinkTrain_memOk h
  case linkCrcError => exact execLinkCrcError_memOk h
  case portDown => exact execPortDown_memOk h
  case sensorSample => exact execSensorSample_memOk h
  case droopEvent => exact execDroopEvent_memOk h
  case hbmCorrectableError => exact execHbmCorrectableError_memOk h
  case pseudoChannelRetire => exact execPseudoChannelRetire_memOk h
  case l2WayRetire => exact execL2WayRetire_memOk h
  case coreRetirement => exact execCoreRetirement_memOk h
  case leaveGrant => exact execLeaveGrant_memOk h
  case leaveRelease => exact execLeaveRelease_memOk h
  case lvreqLapse => exact execLvreqLapse_memOk h
  case stcmdSwapImage => exact execStcmdSwapImage_memOk h
  case stcmdRead => exact execStcmdRead_memOk h
  case stcmdWrite => exact execStcmdWrite_memOk h
  case mailboxSend => exact sendMail_memOk h
  case mailboxReply => exact replyMail_memOk h
  case profilingLeaseEnd => exact execProfilingLeaseEnd_memOk h
  case sealStart => exact sealNow_memOk h
  case sealRelease => exact releaseNow_memOk h
  case sealReleaseDone => exact execSealReleaseDone_memOk h
  case attgo => exact attestNow_memOk h
  case queueEnable | queueDisable => exact qctlWrite_memOk h
  case dispatchRecord => exact execDispatchRecord_memOk h
  case taskTokensHold => exact execTaskTokensHold_memOk h
  case crewPlacement => exact execCrewPlacement_memOk h
  case placementTimeout => exact execPlacementTimeout_memOk h
  case crewRetire => exact execCrewRetire_memOk h
  case yieldExchange => exact execYieldExchange_memOk h
  case migration => exact execMigration_memOk h
  case watchdog => exact execWatchdog_memOk h
  case cohortCommit => exact execCohortCommit_memOk h
  case capacityTimeout => exact execCapacityTimeout_memOk h
  case spawnSlotTimeout => exact execSpawnSlotTimeout_memOk h
  case deferredFaultReplay => exact execDeferredFaultReplay_memOk h
  case irrevocableStart => exact irrevocable_memOk h
  case parkedTaskSave => exact execParkedTaskSave_memOk h
  case parkedTaskRestore => exact execParkedTaskRestore_memOk h
  case fliCapture => exact execFliCapture_memOk h
  case resultLanding => exact execResultLanding_memOk h
  case globalAccessComplete => exact execGlobalAccessComplete_memOk h
  case walkComplete => exact execWalkComplete_memOk h
  case walkFaultResolve => exact wqResolve_memOk h
  case pageRequestComplete => exact prcplWrite_memOk h
  case prctlEnable => exact prctlWrite_memOk h
  case prheadWrite => exact prheadSet_memOk h
  case tileInvalidate => exact tinvGo_memOk h
  case tileInvalidateDone => exact execTileInvalidateDone_memOk h
  case pbaysWrite => exact pbaysSet_memOk h
  case partitionEnable | partitionDisable | pctlCommit => exact pctlWrite_memOk h
  case scrub => exact pscrubWrite_memOk h
  case scrubComplete => exact execScrubComplete_memOk h
  case vfEnable | vfDisable | vfPause | vfUnpause => exact vfctlWrite_memOk h
  case vfgtimeWrite => exact gtimeWrite_memOk h
  case vfsegGrow => exact vfsegWrite_memOk h
  case vfwaysClear => exact vfwaysWrite_memOk h
  case lpctlCommit => exact lpctlWrite_memOk h
  case donationHandover => exact ite_kept (handOver_memOk h) h
  case launchNode => exact execLaunchNode_memOk h
  case spawnsetNode => exact execSpawnsetNode_memOk h
  case condNode => exact execCondNode_memOk h
  case whileNode => exact execWhileNode_memOk h
  case condResolve => exact execCondResolve_memOk h
  case waittokNode => exact execWaittokNode_memOk h
  case sigtokNode => exact execSigtokNode_memOk h
  case sigtokAdd => exact execSigtokAdd_memOk h
  case endNode => exact execEndNode_memOk h
  case walkEndComplete => exact execWalkEndComplete_memOk h
  case spawnChildCreate => exact execSpawnChildCreate_memOk h
  case copyStart => exact execCopyStart_memOk h
  case copyUnitLand => exact execCopyUnitLand_memOk h
  case matrixStepStart => exact execMatrixStepStart_memOk h
  case collComplete => exact execCollComplete_memOk h
  case acqComplete => exact execAcqComplete_memOk h
  case relComplete => exact relAdd_kept h
  case dbgHalt | dbgResume | dbgStep | dbgSplit | dbgSnapteam | dbgSnapcrew | dbgPoke => exact dbgWindow_memOk h
  case registerWrite => exact hostWrite_memOk h
  case tailWordChange => exact execTailWordChange_memOk h
  case peerWrite => exact execPeerWrite_memOk h
  case channelCopyDone => exact execChannelCopyDone_memOk h
  case accoutLastByteWritten => exact execAccoutLastByteWritten_memOk h
  case emptyDelayBundle hdr => exact execEmptyDelayBundle_memOk (hdr := hdr) h (hc rfl)
  case illegalOp => exact execIllegalOp_memOk h (hc rfl)
  all_goals nomatch hi

/-- Every instruction answers a state in form; one of a bundle wants a path that issues. -/
theorem exec_memOk {i : Instr} (h : s.Keeps .stores) (hc : isBundled i = true → (ctxOf s).isSome) : Answers (exec i s) := by
  by_cases event : slotBits i = 0
  · exact exec_event_memOk h hc event
  · have ctx : (ctxOf s).isSome := hc (Bool.or_eq_true_iff.2 (.inl (bne_iff_ne.2 event)))
    by_cases hv : (vOpcode i).isSome
    · exact exec_v_memOk h ctx hv
    · by_cases hm : (mOpcode i).isSome
      · exact exec_m_memOk h ctx hm
      · by_cases hx : (xOpcode i).isSome ∨ (lOpcode i).isSome
        · exact exec_x_memOk h ctx hx
        · refine exec_c_memOk h ctx (by_contra fun hn => event ?_)
          simp_all [slotBits]

/-- An instruction that no bundle holds answers a state in form. -/
theorem exec_unbundled_memOk {i : Instr} (h : s.Keeps .stores) (hi : isBundled i = false) : Answers (exec i s) :=
  exec_memOk h (fun hb => absurd hb (by simp [hi]))

/-! ### The events of the module are not instructions of a bundle -/

/-- No bundle holds the step. -/
def Unbundled (o : Option Instr) : Prop := ∀ i, o = some i → isBundled i = false

theorem unbundled_none : Unbundled none := fun _ e => nomatch e

theorem unbundled_some {i : Instr} (hi : isBundled i = false) : Unbundled (some i) := fun _ e => Option.some.inj e ▸ hi

theorem unbundled_ite {p : Prop} [Decidable p] {a b : Option Instr} (ha : Unbundled a) (hb : Unbundled b) :
    Unbundled (if p then a else b) := iteInduction (fun _ => ha) (fun _ => hb)

theorem unbundled_or {a b : Option Instr} (ha : Unbundled a) (hb : Unbundled b) : Unbundled (a.or b) := by
  cases a with
  | none => exact hb
  | some _ => exact ha

theorem unbundled_map {α : Type} {o : Option α} {f : α → Instr} (hf : ∀ a, isBundled (f a) = false) :
    Unbundled (o.map f) := by
  intro i e
  obtain ⟨a, _, rfl⟩ := Option.map_eq_some_iff.1 e
  exact hf a

theorem unbundled_findSome {α : Type} {l : List α} {f : α → Option Instr} (hf : ∀ a, Unbundled (f a)) :
    Unbundled (l.findSome? f) := by
  intro i e
  obtain ⟨a, _, ha⟩ := List.exists_of_findSome?_eq_some e
  exact hf a i ha

theorem teamEvent_unbundled (s : State) (e : Nat × Team) : Unbundled (teamEvent s e) := by
  unfold teamEvent
  refine unbundled_ite (unbundled_some rfl) (unbundled_ite (unbundled_some rfl) (unbundled_ite (unbundled_some rfl)
    (unbundled_ite (unbundled_some rfl) ?_)))
  split
  · exact unbundled_some rfl
  · exact unbundled_some rfl
  · exact unbundled_none

theorem coreEvent_unbundled (s : State) (core : Nat) : Unbundled (coreEvent s core) :=
  unbundled_ite (unbundled_some rfl) (unbundled_ite (unbundled_some rfl) unbundled_none)

theorem partEvent_unbundled (s : State) (p : Nat) : Unbundled (partEvent s p) := by
  unfold partEvent
  refine unbundled_ite (unbundled_some rfl) (unbundled_ite (unbundled_some rfl) (unbundled_ite (unbundled_some rfl)
    (unbundled_ite (unbundled_some rfl) ?_)))
  split
  · exact unbundled_ite (unbundled_some rfl) unbundled_none
  · exact unbundled_none

theorem dieEvent_unbundled (s : State) (d : Nat × Die) : Unbundled (dieEvent s d) := by
  unfold dieEvent
  split
  · exact unbundled_some rfl
  · exact unbundled_map (fun _ => rfl)

theorem internalEvent_unbundled (s : State) : Unbundled (internalEvent s) := by
  simp only [internalEvent, Option.orElse_eq_orElse, Option.orElse_eq_or]
  exact unbundled_or (unbundled_findSome (teamEvent_unbundled s)) (unbundled_or (unbundled_map (fun _ => rfl))
    (unbundled_or (unbundled_findSome (coreEvent_unbundled s)) (unbundled_or (unbundled_findSome (partEvent_unbundled s))
    (unbundled_or (unbundled_findSome (dieEvent_unbundled s)) (unbundled_or (unbundled_map (fun _ => rfl))
    (unbundled_or (unbundled_map (fun _ => rfl)) (unbundled_or (unbundled_map (fun _ => rfl))
    (unbundled_or (unbundled_map (fun _ => rfl)) (unbundled_map (fun _ => rfl))))))))))

/-! ### The step -/

theorem runList_memOk {l : List Instr} (h : s.Keeps .stores) : Answers (runList l s) := by
  induction l generalizing s with
  | nil => exact h
  | cons i l ih =>
    unfold runList
    split
    · exact ih h
    · next live =>
      have answer := exec_memOk (i := i) h (fun _ => Option.isSome_iff_ne_none.2 (by simpa using live))
      split
      · next e => exact ih (e ▸ answer : Answers (.next _))
      · next e => exact (e ▸ answer : Answers (.fault _))
      · next e => exact (e ▸ answer : Answers (.refused _))

theorem runSlots_memOk {b : Bundle} (h : s.Keeps .stores) : Answers (runSlots b s) := by
  unfold runSlots
  dsimp only
  refine answers_ite ?_ (answers_ite (runList_memOk h) (runList_memOk h))
  have answer := runList_memOk (l := b.c.toList) h
  split
  · next e => exact runList_memOk (reseen_memOk (e ▸ answer : Answers (.next _)))
  · next e => exact (e ▸ answer : Answers (.fault _))
  · next e => exact (e ▸ answer : Answers (.refused _))

theorem runBundle_memOk {b : Bundle} (h : s.Keeps .stores) : Answers (runBundle b s) := by
  have answer := runSlots_memOk (b := b) h
  unfold runBundle
  split
  · next e => exact answers_ite (runSlots_memOk (withIssue_kept h)) (e ▸ answer : Answers (.next _))
  · exact answer

theorem issueSlots_memOk {c : Ctx} {b : Bundle} (h : s.Keeps .stores) (hc : (ctxOf s).isSome) :
    Answers (issueSlots s c b) := by
  have answer := runBundle_memOk (b := b) (startBundle_memOk (c := c) (b := b) h)
  unfold issueSlots
  refine answers_ite (answers_ite (exec_memOk h (fun _ => hc)) (nullify_memOk h)) ?_
  split
  · next e => exact endBundle_memOk (e ▸ answer : Answers (.next _))
  · next e => exact (e ▸ answer : Answers (.fault _))
  · next e => exact (e ▸ answer : Answers (.refused _))

theorem issueBundle_memOk {t p : Nat} (h : s.Keeps .stores) : Answers (issueBundle s t p) := by
  have held : (tentative s t p).Keeps .stores := tentative_memOk h
  unfold issueBundle
  dsimp only
  split
  · exact h
  · next e _ => exact exec_memOk held (fun _ => by simp [e])
  · exact decodeRaise_memOk held
  · next e _ => exact issueSlots_memOk held (by simp [e])

theorem cycleEnd_memOk (h : s.Keeps .stores) : Answers (cycleEnd s) := by
  unfold cycleEnd
  split
  · exact exec_unbundled_memOk h rfl
  · exact exec_unbundled_memOk h rfl
  · exact tick_memOk h

theorem runSelf_memOk (h : s.Keeps .stores) : Answers (runSelf s) := by
  unfold runSelf
  split
  · next i e => exact exec_unbundled_memOk h (internalEvent_unbundled s i e)
  · split
    · next e => exact upkeep_memOk h e
    · split
      · exact issueBundle_memOk h
      · exact cycleEnd_memOk h

theorem step_memOk (h : s.Keeps .stores) : Answers (step s) := by
  cases due : takeAgenda s.now s.agenda with
  | none =>
    rw [step_self due]
    exact runSelf_memOk h
  | some r =>
    have next_ : State.Keeps .stores { s with agenda := r.2 } := h
    rw [step_agenda due]
    cases bundled : isBundled r.1 with
    | true => exact next_
    | false => exact exec_unbundled_memOk next_ bundled

/-- Settles O59: every instruction answers a state whose stores are canonical, for each update of memory or of a crew's
shared memory is a write, a zeroing or a removal, which keep the form. -/
theorem everyStepKeepsMemoryCanonical : Obligations.EveryStepKeepsMemoryCanonical := by
  unfold Obligations.EveryStepKeepsMemoryCanonical
  exact fun s h => answers_iff.1 (step_memOk h)

end Sys2Proof.Machine
end

section
/-! PROOFS. SCRUB_COMPLETE of a partition that is off, over cells that are not in order of address (R85; log 2). -/

namespace Sys2Proof.Machine

open Sys2Proof

/-- A partition that is off, of bay 0, with a scrub of its granule 0. The cells of memory are not in order of address: one
of the granule stands before a byte of space 0, and a read of that byte stops at it. Every step keeps memory in order
(O59), so no run from reset gets here; the statement ranges over every state. -/
def unorderedScrub : State :=
  { mem := [(spaceBase bareSpace, 1#8), (5, 2#8)], parts := [(0, { bays := 1#32, scrubBusy := true })] }

/-- Before the scrub the granule's cell hides the byte at address 5. -/
theorem read_unorderedScrub : Memory.read unorderedScrub.mem 5 = 0#8 := by decide

/-- The hidden byte is none of the granule's. -/
theorem inGranule_unorderedScrub :
    inGranule unorderedScrub 0 (unorderedScrub.part 0).scrubGran.toNat 5 = false := by decide

/-- Refutes O43: its clause on SCRUB_COMPLETE while EN is 0 does not ask for memory in order (`Memory.wf`), as its clause
for EN at 1 does. In `unorderedScrub` the scrub removes the granule's cell, and the byte at address 5 then reads 2 in
place of 0. -/
theorem not_partitionRegisters : ¬ Obligations.PartitionRegisters := by
  unfold Obligations.PartitionRegisters
  intro h
  obtain ⟨-, -, -, -, -, -, -, scrubbed, -⟩ := h unorderedScrub 0 0#64
  obtain ⟨t, scrub, bytes⟩ := scrubbed rfl rfl rfl
  have left : t.mem = [(5, 2#8)] := by
    cases scrub
    decide
  have byte := bytes 5
  rw [left, inGranule_unorderedScrub, read_unorderedScrub] at byte
  exact absurd byte (by decide)

end Sys2Proof.Machine
end

section
/-! PROOFS. The registers of a VF: enable, disable, pause, time, segment and ways (R82-R84, R87, R99, R100). -/

namespace Sys2Proof.Machine

open Sys2Proof

section Vfctl

variable {s : State} {n : Nat} {v : Word64}

/-! ### The three parts of a write of VFCTL (R82, R83, R99) -/

/-- A VF with the fields that every write of VFCTL takes. -/
def Func.policy (f : Func) (v : Word64) : Func :=
  { f with donateOut := v.getLsbD 16, donateIn := v.getLsbD 17, hidePause := v.getLsbD 18, scopeCap := v.getLsbD 19
           cfgErr := false, part := if f.en then f.part else BitVec.ofNat 5 (fld v.toNat 8 5) }

/-- PAUSE is asked for, or taken back. -/
def vfctlPause (s : State) (n : Nat) (v : Word64) (was : Bool) : State :=
  if v.getLsbD 1 && !was then pauseAsk s n else if !v.getLsbD 1 && was then unpause s n else s

/-- EN is asked for, or taken back. -/
def vfctlEn (s : State) (n : Nat) (v : Word64) : State :=
  let f := s.func n
  if v.getLsbD 0 && !f.en then
    if mayEnableVf s n f then s.setFunc n (enableVf { f with ways := soundWays s f.part.toNat f.ways })
    else s.setFunc n { f with cfgErr := true }
  else if !v.getLsbD 0 && f.en then
    if f.paused then disableVf s n else s.setFunc n { f with cfgErr := true }
  else s

theorem vfctlWrite_eq (s : State) (n : Nat) (v : Word64) : vfctlWrite s n v =
    vfctlEn (vfctlPause (s.setFunc n ((s.func n).policy v)) n v (s.func n).pause) n v := rfl

theorem vfctlPause_same {was : Bool} (same : v.getLsbD 1 = was) : vfctlPause s n v was = s := by
  unfold vfctlPause
  rw [same]
  cases was <;> rfl

theorem vfctlEn_on (off : (s.func n).en = false) (on : v.getLsbD 0 = true) : vfctlEn s n v =
    if mayEnableVf s n (s.func n) then s.setFunc n (enableVf { s.func n with ways := soundWays s (s.func n).part.toNat (s.func n).ways })
    else s.setFunc n { s.func n with cfgErr := true } :=
  if_pos (by rw [on, off]; rfl)

theorem vfctlEn_off (en : (s.func n).en = true) (off : v.getLsbD 0 = false) : vfctlEn s n v =
    if (s.func n).paused then disableVf s n else s.setFunc n { s.func n with cfgErr := true } :=
  (if_neg (by rw [off]; simp)).trans (if_pos (by rw [off, en]; rfl))

theorem vfctlEn_same (same : v.getLsbD 0 = (s.func n).en) : vfctlEn s n v = s :=
  (if_neg (by rw [same, Bool.and_not_self]; decide)).trans (if_neg (by rw [same, Bool.not_and_self]; decide))

/-! ### EN -/

/-- EN of a VF goes to 1 when what it asks for holds, else CFGERR is set (R83). -/
theorem vfEnable_takes (off : (s.func n).en = false) (on : v.getLsbD 0 = true) (same : v.getLsbD 1 = (s.func n).pause) :
    let f := (s.func n).policy v
    ∃ t, exec (.vfEnable n v) s = .next t ∧ SameBytes s t ∧
      if mayEnableVf (s.setFunc n f) n f then (t.func n).en = true ∧ (t.func n).hemline = 0#64 ∧
          (t.func n).highest = none ∧ (t.func n).nextTaskid = 0 ∧ (t.func n).spCommit = 0#64 ∧ (t.func n).ovrCnt = 0#16 ∧
          (t.func n).owed = 0
        else (t.func n).en = false ∧ (t.func n).cfgErr = true := by
  intro f
  have here : (s.setFunc n f).func n = f := func_setFunc s n f
  refine ⟨vfctlWrite s n v, rfl, ?_⟩
  rw [vfctlWrite_eq, vfctlPause_same same, vfctlEn_on (by rw [here]; exact off) on, here]
  split
  · rw [func_setFunc]
    exact ⟨fun _ => rfl, rfl, rfl, rfl, rfl, rfl, rfl, rfl⟩
  · rw [func_setFunc]
    exact ⟨fun _ => rfl, off, rfl⟩

/-- The end of a debug lease of a function without tasks only releases paths and clears the debug context. -/
theorem endDebug_of_no_tasks (h : tasksOf s n = []) : (endDebug s n).mem = s.mem ∧ (endDebug s n).tasks = s.tasks ∧
    (endDebug s n).parts = s.parts := by
  have saved (ts : List (Nat × Team)) :
      (tasksOf { s with teams := ts } n).filter (fun e => e.2.block != 0) = [] :=
    List.filter_eq_nil_iff.2 (fun e he => absurd (h ▸ he : e ∈ []) List.not_mem_nil)
  unfold endDebug
  dsimp only
  rw [saved]
  exact ⟨rfl, rfl, rfl⟩

theorem modPart_func (s : State) (p : Nat) (g : Part → Part) (n : Nat) : (s.modPart p g).func n = s.func n := rfl

theorem dropTasks_mem (s : State) (n : Nat) : (dropTasks s n).mem = s.mem :=
  foldl_keeps (f := fun s (e : Nat × Task) => dropTaskWork s e.1) State.mem (fun _ _ => rfl) (tasksOf s n) s

theorem dropTasks_parts (s : State) (n : Nat) : (dropTasks s n).parts = s.parts :=
  foldl_keeps (f := fun s (e : Nat × Task) => dropTaskWork s e.1) State.parts (fun _ _ => rfl) (tasksOf s n) s

theorem dropTasks_fn {e : Nat × Task} (h : e ∈ (dropTasks s n).tasks) : e.2.fn ≠ n := by
  simpa using (List.mem_filter.1 h).2

theorem tasksOf_dropTasks (s : State) (n : Nat) : tasksOf (dropTasks s n) n = [] :=
  List.filter_eq_nil_iff.2 (fun e he => by simp [dropTasks_fn he])

/-- Bit j of the mask of a run of granules. -/
theorem granuleMask_testBit (base count j : Nat) :
    ((List.range count).foldl (fun m i => m ||| 2 ^ (base + i)) 0).testBit j = (decide (base ≤ j) && decide (j < base + count)) := by
  induction count with
  | zero => simp
  | succ k ih =>
    rw [List.range_succ, List.foldl_append, List.foldl_cons, List.foldl_nil, Nat.testBit_or, ih, Nat.testBit_two_pow]
    by_cases h : base + k = j
    · subst h
      simp
    · simp only [h, decide_false, Bool.or_false]
      congr 1
      simp only [decide_eq_decide]
      omega

/-- A VF that goes off has no task left, and its granules are unclean; no byte of memory changes (R83). -/
theorem disableVf_spec (s : State) (n : Nat) :
    SameBytes s (disableVf s n) ∧ ((disableVf s n).func n).en = false ∧ (∀ e ∈ (disableVf s n).tasks, e.2.fn ≠ n) ∧
      ∀ j, j < 384 → ((disableVf s n).part (s.func n).part.toNat).clean.getLsbD j =
        ((s.part (s.func n).part.toNat).clean.getLsbD j && !(decide ((s.func n).segBase.toNat ≤ j) &&
          decide (j < (s.func n).segBase.toNat + (s.func n).segCount.toNat))) := by
  obtain ⟨mem, tasks, parts⟩ := endDebug_of_no_tasks (tasksOf_dropTasks s n)
  unfold disableVf
  refine ⟨sameBytes_of_mem (mem.trans (dropTasks_mem s n)), ?_, fun e he => dropTasks_fn (tasks ▸ he), fun j hj => ?_⟩
  · rw [modPart_func, func_modFunc]
  · rw [part_modPart, part_modFunc, State.part, parts, dropTasks_parts]
    simp only [BitVec.getLsbD_and, BitVec.getLsbD_not, BitVec.getLsbD_ofNat, hj, decide_true, Bool.true_and, granuleMask_testBit]
    rfl

/-- EN of a VF goes to 0 only while it is PAUSED, else CFGERR is set (R83). -/
theorem vfDisable_takes (en : (s.func n).en = true) (off : v.getLsbD 0 = false) (same : v.getLsbD 1 = (s.func n).pause) :
    let f := s.func n
    ∃ t, exec (.vfDisable n v) s = .next t ∧ SameBytes s t ∧
      (f.paused = false → (t.func n).en = true ∧ (t.func n).cfgErr = true) ∧
      (f.paused = true → (t.func n).en = false ∧ (∀ e ∈ t.tasks, e.2.fn ≠ n) ∧
        ∀ j, j < 384 → (t.part f.part.toNat).clean.getLsbD j = ((s.part f.part.toNat).clean.getLsbD j &&
          !(decide (f.segBase.toNat ≤ j) && decide (j < f.segBase.toNat + f.segCount.toNat)))) := by
  intro f
  have here : (s.setFunc n (f.policy v)).func n = f.policy v := func_setFunc s n _
  have part : (f.policy v).part = f.part := if_pos en
  refine ⟨vfctlWrite s n v, rfl, ?_⟩
  rw [vfctlWrite_eq, vfctlPause_same same, vfctlEn_off (by rw [here]; exact en) off, here]
  split
  · next paused =>
    obtain ⟨bytes, off, tasks, clean⟩ := disableVf_spec (s.setFunc n (f.policy v)) n
    rw [here, part] at clean
    refine ⟨bytes, fun running => absurd paused (by rw [show (f.policy v).paused = f.paused from rfl, running]; decide), fun _ => ⟨off, tasks, clean⟩⟩
  · next running =>
    rw [func_setFunc]
    exact ⟨fun _ => rfl, fun _ => ⟨en, rfl⟩, fun paused => absurd paused running⟩

/-! ### PAUSE -/

/-- A pause takes effect at once when the VF is not running and no edge is stopping its work (R99). -/
theorem pauseAsk_spec (s : State) (n : Nat) :
    let x := s.part (s.func n).part.toNat
    SameBytes s (pauseAsk s n) ∧ ((pauseAsk s n).func n).pause = true ∧
      (x.runVf = some n → ((pauseAsk s n).func n).paused = (s.func n).paused) ∧
      (x.runVf ≠ some n → x.edgeStep = .none ∨ x.edgeX ≠ some n →
        ((pauseAsk s n).func n).paused = true ∧ ((pauseAsk s n).func n).pausedAt = dtime s) := by
  intro x
  unfold pauseAsk
  dsimp only
  split
  · next waits =>
    refine ⟨fun _ => rfl, ?_, fun _ => ?_, fun idle free => ?_⟩
    · rw [func_modFunc]
    · rw [func_modFunc]
    · simp only [Bool.or_eq_true, Bool.and_eq_true, beq_iff_eq, bne_iff_ne] at waits
      rcases waits with runs | ⟨edge, own⟩
      · exact absurd runs idle
      · exact absurd own (free.resolve_left edge)
  · next now =>
    refine ⟨fun _ => rfl, ?_, fun runs => absurd (by simp [runs, x]) now, fun _ _ => ?_⟩
    · rw [pauseNow, func_modFunc, func_modFunc]
    · rw [pauseNow, func_modFunc]
      exact ⟨rfl, rfl⟩

/-- PAUSE going to 1 leaves EN. -/
theorem pauseAsk_en (s : State) (n : Nat) : ((pauseAsk s n).func n).en = (s.func n).en := by
  unfold pauseAsk
  dsimp only
  split
  · rw [func_modFunc]
  · rw [pauseNow, func_modFunc, func_modFunc]

/-- A time that an offset was set for reads as it stood. -/
theorem add_offset (g : Word64) (d : Nat) : (d + (g - BitVec.ofNat 64 d).toNat) % 2 ^ 64 = g.toNat := by
  bv_omega

/-- PAUSE of a VF goes to 1 (R99). -/
theorem vfPause_takes (en : (s.func n).en = true) (on : v.getLsbD 0 = true) (ask : v.getLsbD 1 = true)
    (was : (s.func n).pause = false) :
    let f := s.func n
    let x := s.part f.part.toNat
    ∃ t, exec (.vfPause n v) s = .next t ∧ SameBytes s t ∧ (t.func n).pause = true ∧
      (x.runVf = some n → (t.func n).paused = f.paused) ∧
      (x.runVf ≠ some n → (x.edgeStep = .none ∨ x.edgeX ≠ some n) → (t.func n).paused = true ∧ (t.func n).pausedAt = dtime s) := by
  intro f x
  have here : (s.setFunc n (f.policy v)).func n = f.policy v := func_setFunc s n _
  have part : (f.policy v).part = f.part := if_pos en
  obtain ⟨bytes, pause, waits, now⟩ := pauseAsk_spec (s.setFunc n (f.policy v)) n
  have asked : vfctlPause (s.setFunc n (f.policy v)) n v f.pause = pauseAsk (s.setFunc n (f.policy v)) n :=
    if_pos (by rw [ask, was]; rfl)
  have still : ((pauseAsk (s.setFunc n (f.policy v)) n).func n).en = true := by rw [pauseAsk_en, here]; exact en
  rw [here, part] at waits now
  refine ⟨vfctlWrite s n v, rfl, ?_⟩
  rw [vfctlWrite_eq, asked, vfctlEn_same (on.trans still.symm)]
  exact ⟨bytes, pause, waits, now⟩

/-- PAUSE going to 0 leaves EN, and GTIME goes on where it stood (R99, R100). -/
theorem unpause_spec (s : State) (n : Nat) :
    let f := s.func n
    SameBytes s (unpause s n) ∧ ((unpause s n).func n).en = f.en ∧ ((unpause s n).func n).pause = false ∧
      ((unpause s n).func n).paused = false ∧
      (f.paused = true → f.hidePause = true → gtime (unpause s n) n = f.gtime.toNat) ∧
      (f.paused = true → f.hidePause = false → ((unpause s n).func n).gtoff = f.gtime - BitVec.ofNat 64 f.pausedAt) := by
  intro f
  unfold unpause
  dsimp only
  split
  · next running =>
    have not : f.paused = false := by simpa using running
    rw [func_setFunc]
    exact ⟨fun _ => rfl, rfl, rfl, not, fun paused => absurd (paused.symm.trans not) (by decide),
      fun paused => absurd (paused.symm.trans not) (by decide)⟩
  · rw [func_setFunc]
    refine ⟨fun _ => rfl, rfl, rfl, rfl, fun _ hides => ?_, fun _ shows => ?_⟩
    · unfold gtime
      rw [func_setFunc]
      dsimp only
      rw [Bool.false_and, if_neg Bool.false_ne_true, if_pos hides]
      exact add_offset f.gtime (dtime s)
    · exact congrArg (fun b => f.gtime - BitVec.ofNat 64 (if b = true then dtime s else f.pausedAt)) shows

/-- PAUSE of a VF goes to 0 (R99, R100). -/
theorem vfUnpause_takes (en : (s.func n).en = true) (on : v.getLsbD 0 = true) (ask : v.getLsbD 1 = false)
    (was : (s.func n).pause = true) :
    let f := s.func n
    ∃ t, exec (.vfUnpause n v) s = .next t ∧ SameBytes s t ∧ (t.func n).pause = false ∧ (t.func n).paused = false ∧
      (f.paused = true → v.getLsbD 18 = true → gtime t n = f.gtime.toNat) ∧
      (f.paused = true → v.getLsbD 18 = false → (t.func n).gtoff = f.gtime - BitVec.ofNat 64 f.pausedAt) := by
  intro f
  have here : (s.setFunc n (f.policy v)).func n = f.policy v := func_setFunc s n _
  obtain ⟨bytes, still, pause, paused, hides, shows⟩ := unpause_spec (s.setFunc n (f.policy v)) n
  rw [here] at still hides shows
  have asked : vfctlPause (s.setFunc n (f.policy v)) n v f.pause = unpause (s.setFunc n (f.policy v)) n :=
    (if_neg (by rw [ask]; simp)).trans (if_pos (by rw [ask, was]; rfl))
  refine ⟨vfctlWrite s n v, rfl, ?_⟩
  rw [vfctlWrite_eq, asked, vfctlEn_same (on.trans (still.trans en).symm)]
  exact ⟨bytes, pause, paused, hides, shows⟩

end Vfctl

section Writes

variable {s : State} {n : Nat} {v : Word64}

/-! ### VFGTIME, VFSEG and VFWAYS -/

/-- VFGTIME is taken only while the VF is PAUSED, and never falls (R100). -/
theorem vfgtime_takes (s : State) (n : Nat) (v : Word64) :
    let f := s.func n
    ∃ t, exec (.vfgtimeWrite n v) s = .next t ∧
      t.func n = if f.paused = true then { f with gtime := if f.gtime.toNat ≤ v.toNat then v else f.gtime, cfgErr := false }
        else { f with cfgErr := true } :=
  ⟨gtimeWrite s n v, rfl, func_modFunc s n _⟩

/-- What a write of VFSEG asks for while EN is 1: the base stays, the count grows within the partition, and each added
granule is clean and bound to no other VF (R84). -/
def segMayGrow (s : State) (n : Nat) (v : Word64) : Prop :=
  let f := s.func n
  let base := fld v.toNat 0 9
  let count := fld v.toNat 16 9
  base = f.segBase.toNat ∧ f.segCount.toNat < count ∧ base + count ≤ granuleCount s f.part.toNat ∧
    ∀ g, base + f.segCount.toNat ≤ g → g < base + count →
      (s.part f.part.toNat).clean.getLsbD g = true ∧ granuleBound s f.part.toNat g n = false

/-- The granules that a growing count adds are those from the old end to the new one. -/
theorem all_added_iff {q : Nat → Bool} {base old count : Nat} (grows : old < count) :
    ((List.range (count - old)).map (fun i => base + old + i)).all q = true ↔
      ∀ g, base + old ≤ g → g < base + count → q g = true := by
  rw [List.all_map, List.all_eq_true]
  constructor
  · intro h g low high
    have := h (g - (base + old)) (List.mem_range.2 (by omega))
    rwa [Function.comp_apply, Nat.add_sub_cancel' low] at this
  · intro h i hi
    have := List.mem_range.1 hi
    exact h (base + old + i) (by omega) (by omega)

/-- The check of VFSEG decides whether the segment may grow. -/
theorem segMayGrow_iff (s : State) (n : Nat) (v : Word64) :
    let f := s.func n
    let base := fld v.toNat 0 9
    let count := fld v.toNat 16 9
    let old := f.segCount.toNat
    ((base == f.segBase.toNat && decide (old < count) && decide (base + count ≤ granuleCount s f.part.toNat)) &&
      ((List.range (count - old)).map (fun i => base + old + i)).all
        (fun g => (s.part f.part.toNat).clean.getLsbD g && !granuleBound s f.part.toNat g n)) = true ↔ segMayGrow s n v := by
  intro f base count old
  unfold segMayGrow
  simp only [Bool.and_eq_true, beq_iff_eq, decide_eq_true_eq, and_assoc]
  refine and_congr_right fun _ => and_congr_right fun grows => and_congr_right fun _ => ?_
  rw [all_added_iff grows]
  simp only [Bool.and_eq_true, Bool.not_eq_true']
  rfl

/-- A VF's segment grows by clean unbound granules, else CFGERR is set (R84). -/
theorem vfseg_takes (en : (s.func n).en = true) :
    let f := s.func n
    (segMayGrow s n v → ∃ t, exec (.vfsegGrow n v) s = .next t ∧
      t.func n = { f with segCount := BitVec.ofNat 9 (fld v.toNat 16 9), cfgErr := false }) ∧
    (¬ segMayGrow s n v → ¬ (fld v.toNat 0 9 = f.segBase.toNat ∧ fld v.toNat 16 9 = f.segCount.toNat) →
      ∃ t, exec (.vfsegGrow n v) s = .next t ∧ t.func n = { f with cfgErr := true }) := by
  intro f
  have on : ¬ (!f.en) = true := by rw [show f.en = true from en]; decide
  refine ⟨fun may => ⟨vfsegWrite s n v, rfl, ?_⟩, fun mayNot other => ⟨vfsegWrite s n v, rfl, ?_⟩⟩
  · have base : BitVec.ofNat 9 (fld v.toNat 0 9) = f.segBase := by
      rw [may.1, BitVec.ofNat_toNat, BitVec.setWidth_eq]
    unfold vfsegWrite
    dsimp only
    rw [if_neg on, if_pos ((segMayGrow_iff s n v).2 may), func_setFunc, base]
  · unfold vfsegWrite
    dsimp only
    rw [if_neg on, if_neg (fun c => mayNot ((segMayGrow_iff s n v).1 c)), if_neg (by simpa using other), func_setFunc]

/-- VFWAYS of an enabled VF only clears bits, else CFGERR is set (R87). -/
theorem vfways_takes (en : (s.func n).en = true) :
    let f := s.func n
    ((∀ j, j < 24 → v.getLsbD j = true → f.ways.getLsbD j = true) → ∃ t, exec (.vfwaysClear n v) s = .next t ∧
      t.func n = { f with ways := v.setWidth 24, cfgErr := false }) ∧
    (∀ j, j < 24 → v.getLsbD j = true → f.ways.getLsbD j = false → ∃ t, exec (.vfwaysClear n v) s = .next t ∧
      t.func n = { f with cfgErr := true }) := by
  intro f
  refine ⟨fun clears => ⟨vfwaysWrite s n v, rfl, ?_⟩, fun j small sets held => ⟨vfwaysWrite s n v, rfl, ?_⟩⟩
  · have none_ : (v.setWidth 24 &&& ~~~f.ways : BitVec 24) = 0#24 := by
      refine BitVec.eq_of_getLsbD_eq (fun j hj => ?_)
      rw [BitVec.getLsbD_and, BitVec.getLsbD_not, BitVec.getLsbD_setWidth, BitVec.getLsbD_zero]
      have := clears j hj
      cases hv : v.getLsbD j
      · simp
      · simp [this hv]
    unfold vfwaysWrite
    dsimp only
    rw [if_pos (by rw [show (s.func n).ways = f.ways from rfl, none_]; simp), func_setFunc]
  · have some_ : (v.setWidth 24 &&& ~~~f.ways : BitVec 24) ≠ 0#24 := fun zero => by
      have bit := congrArg (fun w => w.getLsbD j) zero
      rw [BitVec.getLsbD_and, BitVec.getLsbD_not, BitVec.getLsbD_setWidth, BitVec.getLsbD_zero, sets, held] at bit
      simp [small] at bit
    unfold vfwaysWrite
    dsimp only
    rw [if_neg (by rw [en, Bool.not_true, Bool.false_or, beq_iff_eq]; exact some_), func_setFunc]

end Writes

/-- Settles O44: each write of VFCTL is its policy fields, then PAUSE, then EN; the other registers by their checks. -/
theorem functionRegisters : Obligations.FunctionRegisters := by
  unfold Obligations.FunctionRegisters
  intro s n v
  exact ⟨vfEnable_takes, vfDisable_takes, vfPause_takes, vfUnpause_takes, vfgtime_takes s n v, vfseg_takes, vfways_takes⟩

end Sys2Proof.Machine
end

section
/-! PROOFS. The drain, the slot edge, the flush, the debit hold and donation (R90, R92, R94, R97). -/

namespace Sys2Proof.Machine

open Sys2Proof

variable {s : State} {p : Nat}

/-! ### The next slot (R90) -/

theorem advance_slotAt (x : Part) : x.advance.slotAt = x.nextEdge := by
  unfold Part.advance
  split <;> rfl

theorem advance_curSlot (x : Part) : x.advance.curSlot = x.nextSlot := by
  unfold Part.advance
  split <;> rfl

theorem advance_started (x : Part) : x.advance.started = true := by
  unfold Part.advance
  split <;> rfl

theorem advance_runVf (x : Part) : x.advance.runVf = x.runVf := by
  unfold Part.advance
  split <;> rfl

theorem advance_edgeStep (x : Part) : x.advance.edgeStep = x.edgeStep := by
  unfold Part.advance
  split <;> rfl

theorem nextSlot_eq (x : Part) :
    x.nextSlot = if x.started = true ∧ x.curSlot + 1 < x.live.length then x.curSlot + 1 else 0 := by
  unfold Part.nextSlot
  simp only [Bool.and_eq_true, decide_eq_true_eq]

/-- The frame counter goes on with the first slot of the next frame. -/
theorem advance_frames (x : Part) :
    x.advance.frames = if x.started = true ∧ x.live.length ≤ x.curSlot + 1 then x.frames + 1#32 else x.frames := by
  have counts : x.advance.frames = if x.nextSlot == 0 then (if x.started then x.frames + 1#32 else x.frames) else x.frames :=
    apply_ite Part.frames _ _ _
  rw [counts, nextSlot_eq]
  cases x.started
  · simp
  · by_cases more : x.curSlot + 1 < x.live.length
    · simp [more]
    · simp [more, Nat.not_lt.1 more]

/-! ### The stop of the work (R92) -/

/-- An edge under way only takes a new Y, and lasts 8 µs from now at least. -/
theorem stopWork_busy {first : EdgeStep} {a b : Option Nat} (busy : (s.part p).edgeStep ≠ .none) :
    stopWork s p first a b = s.setPart p { s.part p with
      edgeY := b, edgeLast := max (s.part p).edgeLast (s.now + 15200), flushTo := max (s.part p).flushTo (s.now + 15200) } :=
  if_pos (bne_iff_ne.2 busy)

/-- An edge that begins stops the work at once. -/
theorem stopWork_begins {first : EdgeStep} {a b : Option Nat} (idle : (s.part p).edgeStep = .none) :
    stopWork s p first a b = s.setPart p { s.part p with
      runVf := none, isOpen := false, edgeX := a, edgeY := b, edgeLast := s.now + 15200, toSave := [], charged := 0
      saveEnd := [], edgeStep := first, edgeAt := s.now + (if first == .stopping then 63 else 64) } :=
  if_neg (by rw [idle]; decide)

theorem edgeSides_fst (s : State) (p : Nat) : (edgeSides s p).1 = (s.part p).runVf := by
  unfold edgeSides
  dsimp only
  split <;> rfl

/-! ### The flush (R92, R95) -/

/-- A core without cached entries and read-only lines. -/
def Core.Flushed (c : Core) : Prop := c.ttb = [] ∧ c.ro = []

/-- A core that the flush empties stays so while it empties others. -/
theorem modCore_flushed {g : Core → Core} {c d : Nat} (empties : ∀ x, (g x).Flushed) (h : c = d ∨ (s.core c).Flushed) :
    ((s.modCore d g).core c).Flushed := by
  by_cases same : c = d
  · subst same
    rw [core_modCore]
    exact empties _
  · have other : (s.modCore d g).core c = s.core c := core_setCore_ne s d c _ same
    rw [other]
    exact h.resolve_left same

theorem foldl_flushed {g : Core → Core} {c : Nat} (empties : ∀ x, (g x).Flushed) (l : List Nat)
    (h : c ∈ l ∨ (s.core c).Flushed) : ((l.foldl (fun s d => s.modCore d g) s).core c).Flushed := by
  induction l generalizing s with
  | nil => exact h.resolve_left List.not_mem_nil
  | cons d l ih =>
    refine ih ?_
    rcases h with mem | flushed
    · rcases List.mem_cons.1 mem with head | tail
      · exact .inr (modCore_flushed empties (.inl head))
      · exact .inl tail
    · exact .inr (modCore_flushed empties (.inr flushed))

theorem flushCores_flushed {q : Nat × Nat} (h : q ∈ partCores s p) : ((flushCores s p).core q.2).Flushed :=
  foldl_flushed (fun _ => ⟨rfl, rfl⟩) _ (.inl (List.mem_map_of_mem h))

theorem foldl_modCore_mem (g : Core → Core) (l : List Nat) (s : State) :
    (l.foldl (fun s d => s.modCore d g) s).mem = s.mem :=
  foldl_keeps (f := fun (s : State) (d : Nat) => s.modCore d g) State.mem (fun _ _ => rfl) l s

theorem foldl_modCore_parts (g : Core → Core) (l : List Nat) (s : State) :
    (l.foldl (fun s d => s.modCore d g) s).parts = s.parts :=
  foldl_keeps (f := fun (s : State) (d : Nat) => s.modCore d g) State.parts (fun _ _ => rfl) l s

theorem flushCores_mem (s : State) (p : Nat) : (flushCores s p).mem = s.mem := foldl_modCore_mem _ _ _

theorem flushCores_parts (s : State) (p : Nat) : (flushCores s p).parts = s.parts := foldl_modCore_parts _ _ _

/-- Without an outgoing VF nothing is left to save. -/
theorem stopsLeft_none (s : State) : stopsLeft s none = [] := by
  unfold stopsLeft
  rw [List.filter_eq_nil_iff.2 (fun _ _ => by simp)]
  rfl

/-- The steps of R92 from c+64 on without an outgoing VF: the flush begins. -/
theorem edgeGo_flushes (due : (s.part p).edgeAt ≤ s.now) (step : (s.part p).edgeStep = .saving) (nobody : (s.part p).edgeX = none)
    (saves : (s.part p).toSave = []) (ends : (s.part p).saveEnd = []) : edgeGo s p = some (beginFlush s p) := by
  unfold edgeGo
  dsimp only
  rw [if_neg (Nat.not_lt.2 due), step, nobody, saves, ends, stopsLeft_none]
  rfl

/-- What the beginning of the flush leaves, without an outgoing VF. -/
theorem beginFlush_spec (nobody : (s.part p).edgeX = none) :
    SameBytes s (beginFlush s p) ∧ ((beginFlush s p).part p).edgeStep = .flushing ∧ ((beginFlush s p).part p).signals = [] ∧
      ((beginFlush s p).part p).flushTo = max (s.part p).edgeLast (s.now + 15136) ∧
      ∀ q ∈ partCores s p, ((beginFlush s p).core q.2).Flushed := by
  have bytes := flushCores_mem s p
  have parts := flushCores_parts s p
  have cores (q : Nat × Nat) (h : q ∈ partCores s p) : ((flushCores s p).core q.2).Flushed := flushCores_flushed h
  unfold beginFlush
  dsimp only
  rw [nobody]
  dsimp only
  generalize flushCores s p = u at bytes parts cores
  have same : (flushWays u none).part p = s.part p := congrArg (fun x : Tab Part => Tab.get x p {}) parts
  rw [part_modPart, same]
  exact ⟨sameBytes_of_mem bytes, rfl, rfl, rfl, cores⟩

/-! ### The end of the flush, and the opening (R92, R94) -/

theorem setPart_func (s : State) (p : Nat) (x : Part) (n : Nat) : (s.setPart p x).func n = s.func n := rfl

/-- A VF whose state block is not in memory becomes the running one and begins to pay its debit. -/
theorem endFlush_spec {y : Nat} (nobody : (s.part p).edgeX = none) (next : (s.part p).edgeY = some y) (may : mayRun s p y = true)
    (kept : (s.func y).spilled = []) :
    let hold := min (s.func y).owed (usLeft s p)
    (endFlush s p).part p = { s.part p with runVf := some y, edgeStep := .none, edgeX := none, edgeY := none
                                            openAt := s.now + us hold } ∧
      ((endFlush s p).func y).owed = (s.func y).owed - hold ∧ (endFlush s p).now = s.now := by
  intro hold
  have owes : ((s.part p).edgeY.filter (mayRun s p)) = some y := by
    rw [next]
    exact Option.filter_some_pos may
  have runs (g : Func → Func) (x : Part) (hg : (g (s.func y)).spilled = []) :
      readStateBlock ((s.modFunc y g).setPart p x) y = (s.modFunc y g).setPart p x := by
    have own : (((s.modFunc y g).setPart p x).func y).spilled = [] := (congrArg Func.spilled (func_modFunc s y g)).trans hg
    unfold readStateBlock
    dsimp only
    rw [own]
    rfl
  unfold endFlush runNext
  dsimp only
  rw [nobody]
  dsimp only
  rw [owes]
  dsimp only
  rw [runs _ _ kept, part_modPart, part_setPart, modPart_func, setPart_func, func_modFunc]
  exact ⟨rfl, rfl, rfl⟩

/-- The opening of the dispatcher leaves the partition open. -/
theorem openSlot_isOpen (s : State) (p fn : Nat) : ((openSlot s p fn).part p).isOpen = true := by
  have opened : (s.modPart p (fun x => { x with isOpen := true })).Keeps (.opens p) :=
    congrArg Part.isOpen (part_modPart s p _)
  have all : (openSlot s p fn).Keeps (.opens p) := by
    unfold openSlot
    refine updateHem_kept (retakeSlots_kept (foldl_kept (foldl_kept (foldl_kept opened ?_) ?_) ?_))
    · exact fun _ _ h => readTail_kept h
    · exact fun _ _ h => clearDirectory_kept h
    · exact fun _ _ h => ite_kept (restoreTask_kept h) h
  exact all

theorem openPart_of_due {y : Nat} (runs : (s.part p).runVf = some y) (due : openDue s p = true) :
    openPart s p = openSlot s p y := by
  unfold openPart
  rw [runs]
  exact if_pos due

theorem openPart_of_not_due (due : openDue s p = false) : openPart s p = s := by
  unfold openPart
  split
  · exact if_neg (by rw [due]; decide)
  · rfl

/-! ### The steps -/

theorem drainStart_waits (due : drainDue s p = false) : exec (.drainStart p) s = .next s :=
  if_neg (by rw [due]; decide)

theorem drainStart_takes (due : drainDue s p = true) :
    exec (.drainStart p) s = .next (s.setPart p { s.part p with draining := true }) := if_pos due

theorem slotEdge_waits (due : edgeDue s p = false) : exec (.slotEdge p) s = .next s :=
  if_pos (by rw [due]; rfl)

theorem slotEdge_takes (due : edgeDue s p = true) : exec (.slotEdge p) s =
    .next (if edgeSilent s p then s.modPart p Part.advance
      else stopWork (s.modPart p Part.advance) p .stopping (edgeSides s p).1 (edgeSides s p).2) :=
  if_neg (by rw [due]; decide)

theorem debitHoldEnd_waits (due : holdDue s p = false) : exec (.debitHoldEnd p) s = .next s :=
  if_pos (by rw [due]; rfl)

theorem debitHoldEnd_takes (en : (s.part p).en = true) (due : flushDone s p = true ∨ openDue s p = true) :
    exec (.debitHoldEnd p) s = .next (openPart (if flushDone s p then endFlush s p else s) p) := by
  have hold : holdDue s p = true := by
    unfold holdDue
    rw [en]
    simpa using due
  exact if_neg (by rw [hold]; decide)

/-- An edge that changes nothing enters the next slot. -/
theorem slotEdge_silent (due : edgeDue s p = true) (silent : edgeSilent s p = true) :
    let x := s.part p
    ∃ t, exec (.slotEdge p) s = .next t ∧ SameBytes s t ∧
      (t.part p).slotAt = (if x.started then x.slotAt + 1000 * (x.live.getD x.curSlot {}).len.toNat else x.frameAt) ∧
      (t.part p).curSlot = (if x.started ∧ x.curSlot + 1 < x.live.length then x.curSlot + 1 else 0) ∧
      (t.part p).frames = (if x.started ∧ x.live.length ≤ x.curSlot + 1 then x.frames + 1#32 else x.frames) ∧
      (t.part p).runVf = x.runVf ∧ (t.part p).started = true := by
  intro x
  refine ⟨s.modPart p Part.advance, (slotEdge_takes due).trans (congrArg _ (if_pos silent)), fun _ => rfl, ?_⟩
  rw [part_modPart]
  exact ⟨advance_slotAt x, (advance_curSlot x).trans (nextSlot_eq x), advance_frames x, advance_runVf x, advance_started x⟩

/-- An edge that changes the work stops it, and nobody runs for 8 µs. -/
theorem slotEdge_stops (due : edgeDue s p = true) (loud : edgeSilent s p = false) :
    let x := s.part p
    ∃ t, exec (.slotEdge p) s = .next t ∧
      (t.part p).edgeStep ≠ .none ∧ (t.part p).edgeY = (edgeSides s p).2 ∧ s.now + us 8 ≤ (t.part p).edgeLast ∧
      (x.edgeStep = .none → (t.part p).runVf = none ∧ (t.part p).isOpen = false ∧ (t.part p).edgeStep = .stopping ∧
        (t.part p).edgeX = x.runVf ∧ (t.part p).edgeAt = s.now + 63 ∧ SameBytes s t) ∧
      (x.edgeStep ≠ .none → (t.part p).edgeStep = x.edgeStep ∧ s.now + us 8 ≤ (t.part p).flushTo) := by
  intro x
  have part : (s.modPart p Part.advance).part p = x.advance := part_modPart s p _
  refine ⟨stopWork (s.modPart p Part.advance) p .stopping (edgeSides s p).1 (edgeSides s p).2,
    (slotEdge_takes due).trans (congrArg _ (if_neg (by rw [loud]; decide))), ?_⟩
  by_cases idle : x.edgeStep = .none
  · rw [stopWork_begins (by rw [part, advance_edgeStep]; exact idle), part_setPart, edgeSides_fst]
    exact ⟨EdgeStep.noConfusion, rfl, Nat.le_refl _, fun _ => ⟨rfl, rfl, rfl, rfl, rfl, fun _ => rfl⟩, fun busy => absurd idle busy⟩
  · have busy : ((s.modPart p Part.advance).part p).edgeStep ≠ .none := by rw [part, advance_edgeStep]; exact idle
    have step : ((s.modPart p Part.advance).part p).edgeStep = x.edgeStep := by rw [part, advance_edgeStep]
    rw [stopWork_busy busy, part_setPart]
    exact ⟨busy, rfl, Nat.le_max_right _ _, fun none_ => absurd none_ idle, fun _ => ⟨step, Nat.le_max_right _ _⟩⟩

/-- The end of the flush makes the coming VF run after its debit. -/
theorem debitHoldEnd_holds {y : Nat} (en : (s.part p).en = true) (flushed : flushDone s p = true) (nobody : (s.part p).edgeX = none)
    (next : (s.part p).edgeY = some y) (may : mayRun s p y = true) (kept : (s.func y).spilled = []) :
    let x := s.part p
    let hold := min (s.func y).owed (usLeft s p)
    0 < hold → ∃ t, exec (.debitHoldEnd p) s = .next t ∧
      t.part p = { x with runVf := some y, edgeStep := .none, edgeX := none, edgeY := none, openAt := s.now + us hold } ∧
      (t.func y).owed = (s.func y).owed - hold := by
  intro x hold owes
  obtain ⟨part, owed, now⟩ := endFlush_spec nobody next may kept
  have later : openDue (endFlush s p) p = false := by
    have notYet : ¬ s.now + us hold ≤ s.now := by
      unfold us
      omega
    unfold openDue
    dsimp only
    rw [part, now, decide_eq_false notYet, Bool.and_false]
  refine ⟨endFlush s p, ?_, part, owed⟩
  rw [debitHoldEnd_takes en (.inl flushed), if_pos flushed, openPart_of_not_due later]

/-- The end of the debit opens the dispatcher. -/
theorem debitHoldEnd_opens {y : Nat} (en : (s.part p).en = true) (runs : (s.part p).runVf = some y) (due : openDue s p = true) :
    ∃ t, exec (.debitHoldEnd p) s = .next t ∧ (t.part p).isOpen = true := by
  have idle : (s.part p).edgeStep = .none := by
    unfold openDue at due
    simp only [Bool.and_eq_true, beq_iff_eq] at due
    exact due.1.1.1
  have flushed : flushDone s p = false := by
    unfold flushDone
    rw [idle]
    rfl
  refine ⟨openSlot s p y, ?_, openSlot_isOpen s p y⟩
  rw [debitHoldEnd_takes en (.inr due), if_neg (by rw [flushed]; decide), openPart_of_due runs due]

theorem edgeStep_of_donationDue (due : donationDue s p = true) : (s.part p).edgeStep = .none := by
  unfold donationDue at due
  simp only [Bool.and_eq_true, beq_iff_eq] at due
  tauto

/-- An idle owner's slot goes to its donee. -/
theorem donationHandover_takes (due : donationDue s p = true) :
    let x := s.part p
    ∃ t, exec (.donationHandover p) s = .next t ∧ (t.part p).donated = true ∧
      (t.part p).edgeStep = .frozen ∧ (t.part p).runVf = none ∧ (t.part p).edgeY = some (x.live.getD x.curSlot {}).donee.toNat := by
  intro x
  refine ⟨handOver s p, congrArg _ (if_pos due), ?_⟩
  unfold handOver
  dsimp only
  rw [stopWork_begins (edgeStep_of_donationDue due), part_modPart, part_setPart]
  exact ⟨rfl, rfl, rfl, rfl⟩

/-- The flush empties the buffers and the signal table. -/
theorem edgeGo_saved (due : (s.part p).edgeAt ≤ s.now) (step : (s.part p).edgeStep = .saving) (nobody : (s.part p).edgeX = none)
    (saves : (s.part p).toSave = []) (ends : (s.part p).saveEnd = []) :
    ∃ t, edgeGo s p = some t ∧ SameBytes s t ∧ (t.part p).edgeStep = .flushing ∧ (t.part p).signals = [] ∧
      (s.part p).edgeLast ≤ (t.part p).flushTo ∧ s.now + 15136 ≤ (t.part p).flushTo ∧
      ∀ q ∈ partCores s p, (t.core q.2).ttb = [] ∧ (t.core q.2).ro = [] := by
  obtain ⟨bytes, flushing, signals, flushTo, cores⟩ := beginFlush_spec nobody
  refine ⟨beginFlush s p, edgeGo_flushes due step nobody saves ends, bytes, flushing, signals, ?_, ?_, cores⟩
  · exact flushTo ▸ Nat.le_max_left _ _
  · exact flushTo ▸ Nat.le_max_right _ _

/-- Settles O42: each step before its time leaves the state; at its time it is the entry into the next slot, the stop of the
work, the flush, the hold or the opening, or the hand-over. -/
theorem slotSteps : Obligations.SlotSteps := by
  unfold Obligations.SlotSteps
  intro s p x
  exact ⟨drainStart_waits, fun due => ⟨_, drainStart_takes due, rfl⟩, slotEdge_waits, slotEdge_silent, slotEdge_stops,
    fun early => if_pos early, edgeGo_saved,
    fun _ en flushed nobody next may kept => debitHoldEnd_holds en flushed nobody next may kept,
    fun _ en runs due => debitHoldEnd_opens en runs due, debitHoldEnd_waits,
    fun due => congrArg _ (if_neg (by rw [due]; decide)), donationHandover_takes⟩

end Sys2Proof.Machine
end

section
/-! PROOFS. ACQ_COMPLETE and the cycle of the result that it lands (R201, R224, R233). -/

namespace Sys2Proof.Machine

open Sys2Proof

/-- In cycle 1, a team of a task of the PF is on a core, and its ACQ with flag 0, in observe form, waits to land the word at
address 0 in S3. -/
def observingAcq : State :=
  { now := 1
    teams := [(1, { task := 1, crew := 1, residence := .active 0, flagCount := [(0, 1)] })]
    crews := [(1, { task := 1, teams := [1] })]
    tasks := [(1, { fn := pfFn, part := freePart })]
    ops := [(7, .acq 1 0 0 0 (some 3) none 0 0)] }

/-- Nothing holds the read of the ACQ's word back. -/
theorem wordHeld_observingAcq : wordHeld observingAcq 1 0 7 (flatOf observingAcq pfFn 0) false = false := by decide

/-- The PF tracks no read (R173). -/
theorem trackRead_observingAcq :
    trackRead observingAcq pfFn 0#64 (flatOf observingAcq pfFn 0) 8 = .ok observingAcq := rfl

/-- The one result in flight after the ACQ has completed is pending from the cycle of its completion on. -/
theorem pendingSince_observingAcq {t : State} (completes : exec (.acqComplete 7) observingAcq = .next t) :
    (t.team 1).pending.map PendRes.from_ = [1] := by
  cases completes
  decide

/-- Refutes O40: in its clause on ACQ_COMPLETE, the result in flight leaves out the cycle since which it is pending
(`PendRes.from_`), which is then 0, while the model gives that of the completion. In `observingAcq` this is cycle 1. -/
theorem not_memoryEvents : ¬ Obligations.MemoryEvents := by
  unfold Obligations.MemoryEvents
  intro h
  obtain ⟨-, -, -, -, -, acquires, -, -⟩ := h
  obtain ⟨-, observes⟩ := acquires observingAcq observingAcq 7 1 0 0 0 0 0 (some 3) none rfl rfl
    wordHeld_observingAcq trackRead_observingAcq
  obtain ⟨t, completes, -, -, -, lands⟩ := observes (fun _ named => absurd named (by simp))
  obtain ⟨g, pending, result⟩ := lands 3 rfl
  have since : g.from_ ∈ (t.team 1).pending.map PendRes.from_ := List.mem_map_of_mem pending
  rw [pendingSince_observingAcq completes, List.mem_singleton] at since
  have unstated : g.from_ = 0 := congrArg PendRes.from_ result
  exact absurd (since.symm.trans unstated) (by decide)

end Sys2Proof.Machine
end

section
/-! PROOFS. A migration whose crew is aborted while it is made ready to move (R157, R175, R177, R218). -/

namespace Sys2Proof.Machine

open Sys2Proof

/-- A migration that may start and finds a core moves its crew. -/
theorem migration_moves {s : State} {crew rel core : Nat} (due : migrationDue s crew = true) (early : tooLate s crew = false)
    (found : let cr := s.crew crew
      let k := s.task cr.task
      chooseCore s k.part { teams := (liveTeams s cr).length, rows := (liveTeams s cr).foldl (fun n t => n + (s.team t).rows) 0
                            shm := cr.shmBytes, acc := cr.accRows } (cr.core :: k.avoid) false = some (rel, core)) :
    exec (.migration crew) s = .next (migrateCrew s crew core) := by
  show execMigration crew s = _
  simp only [execMigration, due, early, found, Bool.not_true, Bool.false_eq_true, if_false]

/-- The crew that moves stands on the core on which it stands after its teams have been made ready. -/
theorem core_migrateCrew (s : State) (c core : Nat) :
    ((migrateCrew s c core).crew c).core = ((quiesceTeams s (liveTeams s (s.crew c))).crew c).core := by
  unfold migrateCrew
  dsimp only
  generalize quiesceTeams s (liveTeams s (s.crew c)) = quiet
  rw [State.modCrew, crew_setCrew]
  exact congrArg (fun x : Tab Crew => (Tab.get x c {}).core) (tookCrew_crews quiet (quiet.task (s.crew c).task).part core)

/-- Two tasks of VF 0 run in partition 0. A store of task 1, which is at the frontier, to bytes 0 to 3 is in flight; it has
been released at scope PART, so it counts as performed for the teams of task 2, whose speculative cohort has read these bytes.
Crew 6 of task 2 has reached its synchronous yield on core 1, to migrate. -/
def conflictingMove : State :=
  { nextId := 8
    tasks := [(1, { ts := 1#64 }), (2, { ts := 2#64, header := 0x400#64 })]
    crews := [(5, { task := 1, core := 1, teams := [3] }),
              (6, { task := 2, core := 1, teams := [4], migrate := true, syncing := true })]
    teams := [(3, { task := 1, crew := 5, residence := .active 0 }),
              (4, { task := 2, crew := 6, residence := .active 1, place := 1 })]
    cohorts := [{ ts := 1#64, lines := [0] }, { ts := 2#64, reads := [0], lines := [0] }]
    accesses := [(7, { team := 3, kind := .store, todo := [{ lane := 0, addr := some 0 }]
                       released := [{ scope := 4, by_ := { team := 3, crew := 5, core := 1 } }] })]
    parts := [(0, { en := true, bays := 1#32, lcores := [0, 1], specWays := 1#4, runVf := some 0, isOpen := true })]
    funcs := [(0, { en := true, hemline := 1#64 })] }

theorem migrationDue_conflictingMove : migrationDue conflictingMove 6 = true := by decide

/-- Core 0 has room for the crew. -/
theorem chooseCore_conflictingMove :
    chooseCore conflictingMove 0 { teams := 1, rows := 16, shm := 0, acc := 0 } [1] false = some (0, 0) := by decide

/-- Making the crew ready performs the store, and its conflict aborts task 2 (R172): the crew has left the machine (R177). -/
theorem crew_quiesce_conflictingMove : Tab.find (quiesceTeams conflictingMove [4]).crews 6 = none := by decide

/-- Refutes O52: its clause on MIGRATION says that the crew keeps its core until the transfer ends. In `conflictingMove` the
crew's task is aborted by the accesses that the migration performs first, and the entry that the move then writes for the
crew is a new one, whose core is 0 and not the crew's 1. -/
theorem not_crewEvents : ¬ Obligations.CrewEvents := by
  unfold Obligations.CrewEvents
  intro h
  obtain ⟨-, -, -, -, migrates, -, -⟩ := h
  obtain ⟨-, -, moves⟩ := migrates conflictingMove 6
  obtain ⟨t, m, completes, -, -, -, stays⟩ := moves 0 0 migrationDue_conflictingMove
    (fun drains => absurd drains.2 (by decide)) chooseCore_conflictingMove
  rw [migration_moves migrationDue_conflictingMove rfl chooseCore_conflictingMove] at completes
  have lost : ((quiesceTeams conflictingMove [4]).crew 6).core = 0 := by
    rw [State.crew, Tab.get, crew_quiesce_conflictingMove]
    rfl
  rw [← Host.Outcome.next.inj completes, core_migrateCrew] at stays
  exact absurd (stays.symm.trans lost) (by decide)

end Sys2Proof.Machine
end

section
/-! PROOFS. The nodes of the graph walker (R143-R146): the tasks that LAUNCH and SPAWNSET create, the side to which COND and
WHILE go, and what WAITTOK, SIGTOK and END leave. -/

namespace Sys2Proof.Machine

open Sys2Proof

variable {s t u : State} {p fn a kind : Nat} {w : Walk} {b : List Byte} {arg : Option Word64}

/-! ### The walk of a function -/

theorem func_setWalk (s : State) (fn : Nat) (w : Option Walk) : (setWalk s fn w).func fn = { s.func fn with walk := w } :=
  func_modFunc s fn _

theorem walk_setWalk (s : State) (fn : Nat) (w : Option Walk) : ((setWalk s fn w).func fn).walk = w :=
  congrArg Func.walk (func_setWalk s fn w)

/-- The walker stands at a node of the kind that it was asked for. -/
theorem nodeKind_of_walkAt (h : walkAt s p kind = some (fn, w, b)) : nodeKind b = kind := by
  unfold walkAt at h
  split at h
  · nomatch h
  · split at h
    · nomatch h
    · obtain ⟨may, found⟩ := Option.ite_none_right_eq_some.1 h
      simp only [Bool.and_eq_true, beq_iff_eq] at may
      cases found
      exact may.1.2

/-- The walker is at no node of any kind: none of the node instructions acts (R92, R143). -/
theorem nodes_idle (h : ∀ kind, walkAt s p kind = none) :
    exec (.launchNode p) s = .next s ∧ exec (.spawnsetNode p) s = .next s ∧ exec (.condNode p) s = .next s ∧
      exec (.whileNode p) s = .next s ∧ exec (.waittokNode p) s = .next s ∧ exec (.sigtokNode p) s = .next s ∧
      exec (.endNode p) s = .next s := by
  refine ⟨?launch, ?spawnset, ?cond, ?loop, ?waittok, ?sigtok, ?ends⟩
  case launch => show execLaunchNode p s = _; rw [execLaunchNode, h]
  case spawnset => show execSpawnsetNode p s = _; rw [execSpawnsetNode, h]
  case cond => show execCondNode p s = _; rw [execCondNode, h]
  case loop => show execWhileNode p s = _; rw [execWhileNode, h]
  case waittok => show execWaittokNode p s = _; rw [execWaittokNode, h]
  case sigtok => show execSigtokNode p s = _; rw [execSigtokNode, h]
  case ends => show execEndNode p s = _; rw [execEndNode, h]

/-! ### The task of a template (R146) -/

theorem updateHem_nextId (s : State) (fn : Nat) : (updateHem s fn).nextId = s.nextId := by
  rcases updateHem_cases s fn with h | ⟨v, h⟩
  · rw [h]
  · rw [h]
    rfl

theorem traceTask_nextId (s : State) (k : Task) (kind : TraceKind) (detail : Nat) :
    (traceTask s k kind detail).nextId = s.nextId := by
  unfold traceTask traceEvent
  dsimp only
  split
  · rfl
  · split
    · rfl
    · rfl

/-- A created task keeps where it comes from. -/
theorem createTask_origin {s : State} {o : Origin} {n : Nat} {x : SealedSlot} {r : LaunchRec} (slot : Nat) (ts : Word64)
    (h : handleSlot s o.fn r.codeh = some (n, x)) : ∃ k : Task,
      (createTask s o slot ts r).tasks = Tab.set s.tasks s.nextId k ∧ (createTask s o slot ts r).nextId = s.nextId + 1 ∧
      k.launchedByWalker = o.byWalker ∧ k.node = o.node ∧ k.predicted = o.predicted ∧ k.arg15 = o.arg15 := by
  unfold createTask
  rw [h]
  exact ⟨_, (updateHem_tasks _ _).trans (traceTask_tasks _ _ _ _), (updateHem_nextId _ _).trans (traceTask_nextId _ _ _ _),
    rfl, rfl, rfl, rfl⟩

/-- A creation takes the next key, or, without a valid handle, leaves the state: the tasks under lower keys stay. -/
theorem createTask_keeps {key slot : Nat} {o : Origin} {ts : Word64} {r : LaunchRec} (h : key < s.nextId) :
    key < (createTask s o slot ts r).nextId ∧ Tab.find (createTask s o slot ts r).tasks key = Tab.find s.tasks key := by
  cases handle : handleSlot s o.fn r.codeh with
  | none =>
    rw [createTask_invalid handle]
    exact ⟨h, rfl⟩
  | some e =>
    obtain ⟨k, tasks, nextId, -⟩ := createTask_origin slot ts handle
    rw [tasks, nextId]
    exact ⟨Nat.lt_succ_of_lt h, Tab.find_set_ne _ _ _ _ (Nat.ne_of_lt h)⟩

/-- A template's task takes the next key too. -/
theorem launchOne_keeps {key : Nat} (h : key < s.nextId) :
    key < (launchOne s fn w a arg).nextId ∧ Tab.find (launchOne s fn w a arg).tasks key = Tab.find s.tasks key := by
  unfold launchOne
  split
  · exact ⟨h, rfl⟩
  · obtain ⟨tasks, nextId, -⟩ := clampStamp_keeps s fn (templateRecord s fn w a).tstamp
    obtain ⟨later, found⟩ := createTask_keeps (nextId.symm ▸ h)
    exact ⟨later, found.trans (congrArg (Tab.find · key) tasks)⟩

/-- A task of a template has been created under the next key, by the walker at its position and under the predictions that
stand (R146-R148). -/
def LaunchedAs (s t : State) (fn : Nat) (w : Walk) (a : Nat) (arg : Option Word64) : Prop :=
  ∃ slot, slotFor s fn 3 = some slot ∧ Created s t s.nextId fn w.queue slot w.tsnext (templateRecord s fn w a) ∧
    (t.task s.nextId).launchedByWalker = true ∧ (t.task s.nextId).node = w.pos ∧
    (t.task s.nextId).predicted = w.predicts.map Predict.id ∧ (t.task s.nextId).arg15 = arg

/-- It is seen under its key alone. -/
theorem LaunchedAs.of_find (h : LaunchedAs s t fn w a arg)
    (same : Tab.find u.tasks s.nextId = Tab.find t.tasks s.nextId) : LaunchedAs s u fn w a arg := by
  have task : u.task s.nextId = t.task s.nextId := congrArg (fun x : Option Task => x.getD {}) same
  unfold LaunchedAs Created
  rw [task, same]
  exact h

/-- A template that passes its checks has a record that does (R60). -/
theorem recordCode_of_templateCode (h : templateCode s fn w a = none) :
    recordCode s fn (clampStamp s fn w.tsnext).2 (templateRecord s fn w a) = none := by
  unfold templateCode at h
  dsimp only at h
  split at h
  · nomatch h
  · split at h
    · nomatch h
    · assumption

theorem Tab.set_inj {α : Type} {t : Tab α} {n : Nat} {v v' : α} (h : Tab.set t n v = Tab.set t n v') : v = v' := by
  have found := congrArg (Tab.find · n) h
  simpa only [Tab.find_set_same, Option.some.injEq] using found

/-- Where a task of the walker comes from. -/
def walkOrigin (fn : Nat) (w : Walk) (arg : Option Word64) : Origin :=
  { fn := fn, queue := w.queue, walked := true, byWalker := true, node := w.pos, walkPrev := w.assigned
    predicted := w.predicts.map Predict.id, arg15 := arg }

theorem launchOne_eq {slot : Nat} (free : slotFor s fn 3 = some slot) : launchOne s fn w a arg =
    createTask (clampStamp s fn w.tsnext).1 (walkOrigin fn w arg) slot (clampStamp s fn w.tsnext).2 (templateRecord s fn w a) := by
  rw [launchOne, free]
  rfl

theorem launchOne_launches {slot : Nat} (free : slotFor s fn 3 = some slot) (passes : templateCode s fn w a = none) :
    LaunchedAs s (launchOne s fn w a arg) fn w a arg := by
  obtain ⟨n, x, handle⟩ := handleSlot_of_recordCode (recordCode_of_templateCode passes)
  obtain ⟨-, nextId, nextTaskid, -, handles⟩ := clampStamp_keeps s fn w.tsnext
  have valid := (handles _).trans handle
  rw [launchOne_eq free]
  obtain ⟨k, tasks, -, kfn, kqueue, kslot, klrec, kphase, krestart, kts, ktaskid⟩ :=
    createTask_leaves (o := walkOrigin fn w arg) slot (clampStamp s fn w.tsnext).2 valid
  obtain ⟨k', tasks', -, walker, node, predicted, arg15⟩ :=
    createTask_origin (o := walkOrigin fn w arg) slot (clampStamp s fn w.tsnext).2 valid
  rw [nextId] at tasks tasks'
  obtain rfl : k = k' := Tab.set_inj (tasks.symm.trans tasks')
  unfold LaunchedAs Created State.task
  rw [tasks, Tab.get_set_same, Tab.find_set_same]
  exact ⟨slot, free, ⟨rfl, kfn, kqueue, kslot, klrec, kphase, krestart, kts.trans (clampStamp_stamp s fn _),
    ktaskid.trans nextTaskid⟩, walker, node, predicted, arg15⟩

/-! ### LAUNCH and SPAWNSET (R146) -/

/-- Where the node may create tasks there is a slot for the walker (R178). -/
theorem slot_of_launchRoom (room : launchRoom s fn w b ≠ 0) : ∃ slot, slotFor s fn 3 = some slot := by
  have free : claimsBefore s fn 3 < (freeSlots s fn).length := by
    unfold launchRoom at room
    dsimp only at room
    split_ifs at room <;> omega
  exact ⟨_, List.getElem?_eq_getElem free⟩

theorem launchOne_of_room (room : launchRoom s fn w b ≠ 0) (passes : templateCode s fn w a = none) :
    LaunchedAs s (launchOne s fn w a arg) fn w a arg := by
  obtain ⟨slot, free⟩ := slot_of_launchRoom room
  exact launchOne_launches free passes

/-- Tasks of a template, with the numbers that SPAWNSET gives them. -/
def launchAll (s : State) (fn : Nat) (w : Walk) (a : Nat) (js : List Nat) : State :=
  js.foldl (fun s j => launchOne s fn w a (some (BitVec.ofNat 64 j))) s

/-- The task under a key stays while later ones are launched. -/
theorem launchAll_keeps {key : Nat} {js : List Nat} (h : key < s.nextId) :
    Tab.find (launchAll s fn w a js).tasks key = Tab.find s.tasks key := by
  induction js generalizing s with
  | nil => rfl
  | cons j js ih =>
    obtain ⟨later, found⟩ := launchOne_keeps (w := w) (a := a) (fn := fn) (arg := some (BitVec.ofNat 64 j)) h
    exact (ih later).trans found

theorem launchOne_nextId {slot : Nat} (free : slotFor s fn 3 = some slot) (passes : templateCode s fn w a = none) :
    s.nextId < (launchOne s fn w a arg).nextId := by
  obtain ⟨n, x, handle⟩ := handleSlot_of_recordCode (recordCode_of_templateCode passes)
  obtain ⟨-, nextId, -, -, handles⟩ := clampStamp_keeps s fn w.tsnext
  rw [launchOne_eq free]
  obtain ⟨k, -, created, -⟩ :=
    createTask_origin (o := walkOrigin fn w arg) slot (clampStamp s fn w.tsnext).2 ((handles _).trans handle)
  rw [created, nextId]
  exact Nat.lt_succ_self _

/-- The first of several tasks is the one under the next key. -/
theorem launchAll_launches {n first : Nat} (room : launchRoom s fn w b ≠ 0) (passes : templateCode s fn w a = none)
    (several : n ≠ 0) :
    LaunchedAs s (launchAll s fn w a ((List.range n).map (first + ·))) fn w a (some (BitVec.ofNat 64 first)) := by
  obtain ⟨m, rfl⟩ := Nat.exists_eq_succ_of_ne_zero several
  obtain ⟨slot, free⟩ := slot_of_launchRoom room
  rw [List.range_succ_eq_map, List.map_cons]
  exact (launchOne_launches free passes).of_find (launchAll_keeps (launchOne_nextId free passes))

/-- Without room LAUNCH and SPAWNSET wait. -/
theorem launchNode_waits (stands : walkAt s p 1 = some (fn, w, b)) (full : launchRoom s fn w b = 0) :
    exec (.launchNode p) s = .next s := by
  show execLaunchNode p s = _
  simp only [execLaunchNode, stands, full, beq_self_eq_true, if_true]

theorem launchNode_fails {code : Nat} (stands : walkAt s p 1 = some (fn, w, b)) (room : launchRoom s fn w b ≠ 0)
    (fails : templateCode s fn w (fieldAt b 8 8) = some code) : exec (.launchNode p) s = .next (failWalk s fn w code) := by
  show execLaunchNode p s = _
  simp only [execLaunchNode, stands, beq_iff_eq, room, if_false, fails]

theorem launchNode_launches (stands : walkAt s p 1 = some (fn, w, b)) (room : launchRoom s fn w b ≠ 0)
    (passes : templateCode s fn w (fieldAt b 8 8) = none) : exec (.launchNode p) s =
      .next (setWalk (launchOne s fn w (fieldAt b 8 8) none) fn
        (some { (w.launched s).goto (nodeNext b) with tsnext := w.tsnext + 1#64 })) := by
  show execLaunchNode p s = _
  simp only [execLaunchNode, stands, beq_iff_eq, room, if_false, passes]

theorem spawnsetNode_waits (stands : walkAt s p 6 = some (fn, w, b)) (full : launchRoom s fn w b = 0) :
    exec (.spawnsetNode p) s = .next s := by
  show execSpawnsetNode p s = _
  simp only [execSpawnsetNode, stands, full, beq_self_eq_true, if_true]

theorem spawnsetNode_fails {code : Nat} (stands : walkAt s p 6 = some (fn, w, b)) (room : launchRoom s fn w b ≠ 0)
    (fails : templateCode s fn w (fieldAt b 8 8) = some code) : exec (.spawnsetNode p) s = .next (failWalk s fn w code) := by
  show execSpawnsetNode p s = _
  simp only [execSpawnsetNode, stands, beq_iff_eq, room, if_false, fails]

theorem spawnsetNode_launches (stands : walkAt s p 6 = some (fn, w, b)) (room : launchRoom s fn w b ≠ 0)
    (passes : templateCode s fn w (fieldAt b 8 8) = none) : exec (.spawnsetNode p) s =
      .next (setWalk (launchAll s fn w (fieldAt b 8 8) ((List.range (launchRoom s fn w b)).map (w.spawned + ·))) fn
        (some (if w.spawned + launchRoom s fn w b = fieldAt b 16 4 then
            { (w.launched s).goto (nodeNext b) with tsnext := w.tsnext + 1#64 }
          else { w.launched s with spawned := w.spawned + launchRoom s fn w b }))) := by
  show execSpawnsetNode p s = _
  simp only [execSpawnsetNode, stands, beq_iff_eq, room, if_false, passes]
  rfl

/-! ### COND and WHILE (R146, R147) -/

/-- At the frontier a branch node goes to the side that its word names. -/
theorem branchNode_resolves {v : Nat} (frontier : w.tsnext.toNat ≤ (hem s fn).toNat)
    (word : nodeWord s fn (fieldAt b 8 8) = some v) : branchNode s fn w b =
      setWalk s fn (some { w.branch w.pos b (v != 0) with outcomes := Tab.set w.outcomes w.pos (b2n (v != 0)) }) := by
  simp only [branchNode, frontier, if_true, word]

theorem branchNode_waits (early : (hem s fn).toNat < w.tsnext.toNat) (no : nodePred b = 0 ∨ 4 ≤ w.predicts.length) :
    branchNode s fn w b = s := by
  have waits : (nodePred b == 0 || decide (4 ≤ w.predicts.length)) = true := by simpa using no
  rw [branchNode, if_neg (Nat.not_le.2 early), if_pos waits]

/-- The prediction that a branch node makes before the frontier. -/
def newPredict (s : State) (w : Walk) (b : List Byte) : Predict :=
  { id := s.nextId, node := w.pos, tsnext := w.tsnext, taken := predictedSide w b, counts := w.counts, assigned := w.assigned }

theorem branchNode_predicts (early : (hem s fn).toNat < w.tsnext.toNat) (may : nodePred b ≠ 0) (room : w.predicts.length < 4) :
    branchNode s fn w b = setWalk { s with nextId := s.nextId + 1 } fn
      (some { w.branch w.pos b (predictedSide w b) with predicts := w.predicts ++ [newPredict s w b] }) := by
  have predicts : ¬ (nodePred b == 0 || decide (4 ≤ w.predicts.length)) = true := by simpa using ⟨may, room⟩
  rw [branchNode, if_neg (Nat.not_le.2 early), if_neg predicts]
  rfl

theorem branch_counts (w : Walk) (b : List Byte) (taken : Bool) : Tab.get (w.branch w.pos b taken).counts w.pos 0 =
    Tab.get w.counts w.pos 0 + if nodeKind b = 3 ∧ taken = true then 1 else 0 := by
  unfold Walk.branch
  dsimp only
  by_cases counted : nodeKind b = 3 ∧ taken = true
  · rw [if_pos (by simpa using counted), if_pos counted, Tab.get_set_same]
  · rw [if_neg (by simpa using counted), if_neg counted]
    rfl

/-- What a branch node leaves of the walk at the frontier. -/
theorem branchNode_frontier {v : Nat} (frontier : w.tsnext.toNat ≤ (hem s fn).toNat)
    (word : nodeWord s fn (fieldAt b 8 8) = some v) : ∃ x, ((branchNode s fn w b).func fn).walk = some x ∧
      x.pos = (if v = 0 then nodeAlt b else nodeNext b) ∧ x.predicts = w.predicts ∧
      Tab.get x.outcomes w.pos 1 = (if v = 0 then 0 else 1) ∧
      Tab.get x.counts w.pos 0 = Tab.get w.counts w.pos 0 + (if nodeKind b = 3 ∧ v ≠ 0 then 1 else 0) := by
  rw [branchNode_resolves frontier word, walk_setWalk]
  refine ⟨_, rfl, ?side, rfl, ?outcome, ?count⟩
  case side => by_cases zero : v = 0 <;> simp [Walk.branch, Walk.goto, zero]
  case outcome => by_cases zero : v = 0 <;> simp [b2n, zero]
  case count => simpa only [bne_iff_ne] using branch_counts w b (v != 0)

/-- And before it, with a prediction. -/
theorem branchNode_early (early : (hem s fn).toNat < w.tsnext.toNat) (may : nodePred b ≠ 0) (room : w.predicts.length < 4) :
    ∃ x, ((branchNode s fn w b).func fn).walk = some x ∧
      x.pos = (if predictedSide w b = true then nodeNext b else nodeAlt b) ∧ x.predicts.length = w.predicts.length + 1 := by
  rw [branchNode_predicts early may room, walk_setWalk]
  exact ⟨_, rfl, rfl, List.length_append⟩

/-- COND, and WHILE below its MAXIT, act as a branch node. -/
theorem branch_acts {i : Instr} (which : (i = .condNode p ∧ kind = 2) ∨ (i = .whileNode p ∧ kind = 3 ∧
      (fieldAt b 16 4 = 0 ∨ Tab.get w.counts w.pos 0 < fieldAt b 16 4))) (stands : walkAt s p kind = some (fn, w, b)) :
    exec i s = .next (branchNode s fn w b) := by
  rcases which with ⟨rfl, rfl⟩ | ⟨rfl, rfl, below⟩
  · show execCondNode p s = _
    rw [execCondNode, stands]
  · have more : ¬ (fieldAt b 16 4 != 0 && decide (fieldAt b 16 4 ≤ Tab.get w.counts w.pos 0)) = true := by
      simp only [Bool.and_eq_true, bne_iff_ne, decide_eq_true_eq]
      omega
    show execWhileNode p s = _
    simp only [execWhileNode, stands, more, Bool.false_eq_true, if_false]

/-- A WHILE that has gone to NEXT as often as MAXIT says goes to ALT, and counts from 0 again. -/
theorem whileNode_capped (stands : walkAt s p 3 = some (fn, w, b)) (cap : fieldAt b 16 4 ≠ 0)
    (reached : fieldAt b 16 4 ≤ Tab.get w.counts w.pos 0) : exec (.whileNode p) s =
      .next (setWalk s fn (some { w.goto (nodeAlt b) with counts := Tab.set w.counts w.pos 0 })) := by
  show execWhileNode p s = _
  simp only [execWhileNode, stands, bne_iff_ne, cap, reached, decide_true, Bool.and_true, ne_eq, not_false_eq_true, if_true]

/-! ### WAITTOK, SIGTOK and END (R146) -/

theorem waittokNode_passes {v : Nat} (stands : walkAt s p 4 = some (fn, w, b)) (word : nodeWord s fn (fieldAt b 8 8) = some v)
    (sure : w.predicts = []) (reached : fieldAt b 16 8 ≤ v) :
    exec (.waittokNode p) s = .next (setWalk s fn (some (w.goto (nodeNext b)))) := by
  show execWaittokNode p s = _
  simp only [execWaittokNode, stands, word, sure, reached, List.isEmpty_nil, decide_true, Bool.and_self, if_true]

theorem waittokNode_waits {v : Nat} (stands : walkAt s p 4 = some (fn, w, b)) (word : nodeWord s fn (fieldAt b 8 8) = some v)
    (waits : w.predicts ≠ [] ∨ v < fieldAt b 16 8) : exec (.waittokNode p) s = .next s := by
  have no : ¬ (w.predicts.isEmpty && decide (fieldAt b 16 8 ≤ v)) = true := by
    simp only [Bool.and_eq_true, List.isEmpty_iff, decide_eq_true_eq, not_and, not_le]
    exact fun sure => waits.resolve_left (· sure)
  show execWaittokNode p s = _
  simp only [execWaittokNode, stands, word, no, Bool.false_eq_true, if_false]

theorem sigtokNode_adds (stands : walkAt s p 5 = some (fn, w, b)) : exec (.sigtokNode p) s =
    .next (setWalk s fn (some { w.goto (nodeNext b) with sigtoks := w.sigtoks ++
      [{ addr := fieldAt b 8 8, tsnext := w.tsnext, above := w.assigned, under := w.predicts.map Predict.id }] })) := by
  show execSigtokNode p s = _
  rw [execSigtokNode, stands]

theorem endNode_ends (stands : walkAt s p 0 = some (fn, w, b)) :
    exec (.endNode p) s = .next (setWalk s fn (some { w with ended := true })) := by
  show execEndNode p s = _
  rw [execEndNode, stands]

end Sys2Proof.Machine
end

section
/-! PROOFS. The graph walker's predictions, the adds of SIGTOK and the end of a walk (R146, R147). -/

namespace Sys2Proof.Machine

open Sys2Proof

variable {s : State} {p fn : Nat} {w : Walk}

/-! ### Predictions (R147) -/

section Resolve

variable (runner : running s p = some fn) (walks : (s.func fn).walk = some w)
include runner walks

theorem condResolve_idle (sure : w.predicts = []) : exec (.condResolve p) s = .next s := by
  show execCondResolve p s = _
  simp only [execCondResolve, runner, walks, sure, List.head?_nil]

variable {d : Predict} {rest : List Predict} (oldest : w.predicts = d :: rest)
include oldest

theorem condResolve_waits (early : (hem s fn).toNat < d.tsnext.toNat) : exec (.condResolve p) s = .next s := by
  show execCondResolve p s = _
  simp only [execCondResolve, runner, walks, oldest, List.head?_cons, early, if_true]

theorem condResolve_acts {v : Nat} (reached : d.tsnext.toNat ≤ (hem s fn).toNat)
    (word : nodeWord s fn (fieldAt (nodeBytes s fn w d.node) 8 8) = some v) : exec (.condResolve p) s =
      .next (if (v != 0) == d.taken then predictionHeld s fn w d else predictionWrong s fn w d) := by
  show execCondResolve p s = _
  simp only [execCondResolve, runner, walks, oldest, List.head?_cons, Nat.not_lt.2 reached, if_false, word]

end Resolve

/-- A prediction that held binds neither the walk nor a task any more, and the walk stays where it is. -/
theorem predictionHeld_leaves (s : State) (fn : Nat) (w : Walk) (d : Predict) :
    ∃ x, ((predictionHeld s fn w d).func fn).walk = some x ∧ (∀ y ∈ x.predicts, y ∈ w.predicts ∧ y.id ≠ d.id) ∧
      x.pos = w.pos ∧ ∀ e ∈ (predictionHeld s fn w d).tasks, e.2.fn = fn → d.id ∉ e.2.predicted := by
  unfold predictionHeld
  rw [walk_setWalk]
  refine ⟨_, rfl, fun y hy => ?predicts, rfl, fun e he own => ?tasks⟩
  case predicts => simpa only [List.mem_filter, bne_iff_ne] using hy
  case tasks =>
    obtain ⟨e, -, rfl⟩ := List.mem_map.1 he
    by_cases mine : e.2.fn = fn
    · simp [mine]
    · simp only [beq_iff_eq, mine, if_false] at own

/-- After a wrong prediction the walk goes on at the other side, with the TSNEXT of the node, and only older predictions
stand. -/
theorem predictionWrong_leaves (s : State) (fn : Nat) (w : Walk) (d : Predict) :
    ∃ x, ((predictionWrong s fn w d).func fn).walk = some x ∧ x.tsnext = d.tsnext ∧
      x.pos = (if d.taken = true then nodeAlt (nodeBytes s fn w d.node) else nodeNext (nodeBytes s fn w d.node)) ∧
      (∀ y ∈ x.predicts, y.id < d.id) ∧ Tab.get x.outcomes d.node 1 = (if d.taken = true then 0 else 1) := by
  unfold predictionWrong
  rw [walk_setWalk]
  refine ⟨_, rfl, rfl, ?side, fun y hy => ?predicts, ?outcome⟩
  case side => cases taken : d.taken <;> simp [Walk.branch, Walk.goto]
  case predicts => exact of_decide_eq_true (List.mem_filter.1 hy).2
  case outcome => cases taken : d.taken <;> simp [Walk.branch, Walk.goto, b2n]

/-! ### The adds of SIGTOK (R146) -/

/-- A 64-bit word of memory after it has been written. -/
theorem memWrite_word {flat v : Nat} (h : Memory.wf s.mem) :
    SameBytesBut s (memWrite s flat (leBytes 8 (v % 2 ^ 64))) flat 8 ∧
      leNat (Memory.bytes (memWrite s flat (leBytes 8 (v % 2 ^ 64))).mem flat 8) = v % 2 ^ 64 := by
  have bytes := Memory.bytes_write_same h flat (leBytes 8 (v % 2 ^ 64))
  rw [length_leBytes] at bytes
  refine ⟨?_, ?_⟩
  · simpa only [length_leBytes] using memWrite_sameBytesBut flat (leBytes 8 (v % 2 ^ 64)) h
  · show leNat (Memory.bytes (Memory.write s.mem flat _) flat 8) = _
    rw [bytes, leNat_leBytes]
    omega

section Add

variable (runner : running s p = some fn) (walks : (s.func fn).walk = some w)
include runner walks

theorem sigtokAdd_waits (nothing : w.sigtoks.find? (fun x => x.due (hem s fn)) = none) : exec (.sigtokAdd p) s = .next s := by
  show execSigtokAdd p s = _
  simp only [execSigtokAdd, runner, walks, nothing]

theorem sigtokAdd_adds {x : SigTok} {v : Nat} (due : w.sigtoks.find? (fun x => x.due (hem s fn)) = some x)
    (word : nodeWord s fn x.addr = some v) : exec (.sigtokAdd p) s =
      .next (setWalk (memWrite s (flatOf s fn x.addr) (leBytes 8 ((v + 1) % 2 ^ 64))) fn
        (some { w with sigtoks := w.sigtoks.erase x })) := by
  show execSigtokAdd p s = _
  simp only [execSigtokAdd, runner, walks, due, word]

end Add

/-! ### The end of a walk (R146) -/

/-- The state in which a walk has ended and its queue has counted it. -/
def walkEnded (s : State) (fn : Nat) (w : Walk) : State :=
  setQueue (setWalk s fn none) fn w.queue { (s.func fn).queue w.queue with qdone := ((s.func fn).queue w.queue).qdone + 1#64 }

theorem func_walkEnded (s : State) (fn : Nat) (w : Walk) : (walkEnded s fn w).func fn = { s.func fn with
    walk := none
    queues := Tab.set (s.func fn).queues w.queue
      { (s.func fn).queue w.queue with qdone := ((s.func fn).queue w.queue).qdone + 1#64 } } := by
  unfold walkEnded
  rw [func_setQueue, func_setWalk]

theorem queue_walkEnded (s : State) (fn : Nat) (w : Walk) : ((walkEnded s fn w).func fn).queue w.queue =
    { (s.func fn).queue w.queue with qdone := ((s.func fn).queue w.queue).qdone + 1#64 } := by
  unfold walkEnded
  rw [queue_setQueue]

/-- A token is found and reached as before. -/
theorem tokenFlat_walkEnded (s : State) (fn : Nat) (w : Walk) (v : Nat) : tokenFlat (walkEnded s fn w) fn v = tokenFlat s fn v := by
  unfold tokenFlat flatOf
  rw [func_walkEnded]

theorem tokenOk_walkEnded (s : State) (fn : Nat) (w : Walk) (v n : Nat) : tokenOk (walkEnded s fn w) fn v n = tokenOk s fn v n := by
  unfold tokenOk inSeg codeArea ctxArea hostOk
  rw [func_walkEnded]
  rfl

section End

variable (runner : running s p = some fn) (walks : (s.func fn).walk = some w)
include runner walks

theorem walkEndComplete_waits (no : ¬ (w.ended = true ∧ w.predicts = [] ∧ w.sigtoks = [] ∧ walkTasks s fn = [])) :
    exec (.walkEndComplete p) s = .next s := by
  have waits : (!w.ended || !w.predicts.isEmpty || !w.sigtoks.isEmpty || !(walkTasks s fn).isEmpty) = true := by
    by_contra h
    simp only [Bool.or_eq_true, Bool.not_eq_true', not_or, Bool.not_eq_false, List.isEmpty_iff] at h
    exact no ⟨h.1.1.1, h.1.1.2, h.1.2, h.2⟩
  show execWalkEndComplete p s = _
  simp only [execWalkEndComplete, runner, walks, waits, if_true]

variable (done : w.ended = true ∧ w.predicts = [] ∧ w.sigtoks = [] ∧ walkTasks s fn = [])
include done

/-- The queue counts the walk, and its SIGA token is signalled if there is one that can be reached (R63, R146). -/
theorem walkEndComplete_ends : exec (.walkEndComplete p) s =
    if w.lrec.siga == 0#64 then .next (walkEnded s fn w)
    else if !tokenOk s fn w.lrec.siga.toNat 8 then .next (stopQueue (walkEnded s fn w) fn w.queue 0x14)
    else .next (memWrite (walkEnded s fn w) (tokenFlat s fn w.lrec.siga.toNat)
      (leBytes 8 ((leNat (Memory.bytes s.mem (tokenFlat s fn w.lrec.siga.toNat) 8) + 1) % 2 ^ 64))) := by
  obtain ⟨ended, sure, added, committed⟩ := done
  have goes : ¬ (!w.ended || !w.predicts.isEmpty || !w.sigtoks.isEmpty || !(walkTasks s fn).isEmpty) = true := by
    simp [ended, sure, added, committed]
  show execWalkEndComplete p s = _
  rw [← tokenOk_walkEnded s fn w, ← tokenFlat_walkEnded s fn w]
  simp only [execWalkEndComplete, runner, walks, goes, Bool.false_eq_true, if_false]
  rfl

/-- The walk is over, its queue has counted it, and of memory only the token's word may have changed. -/
theorem walkEndComplete_leaves : let flat := tokenFlat s fn w.lrec.siga.toNat
    ∃ t, exec (.walkEndComplete p) s = .next t ∧ (t.func fn).walk = none ∧
      ((t.func fn).queue w.queue).qdone = ((s.func fn).queue w.queue).qdone + 1#64 ∧
      (w.lrec.siga = 0#64 → SameBytes s t) ∧
      (w.lrec.siga ≠ 0#64 → tokenOk s fn w.lrec.siga.toNat 8 = true → Memory.wf s.mem → SameBytesBut s t flat 8 ∧
        leNat (Memory.bytes t.mem flat 8) = (leNat (Memory.bytes s.mem flat 8) + 1) % 2 ^ 64) := by
  intro flat
  have walk : ((walkEnded s fn w).func fn).walk = none := congrArg Func.walk (func_walkEnded s fn w)
  have qdone := congrArg Queue.qdone (queue_walkEnded s fn w)
  rw [walkEndComplete_ends runner walks done]
  split
  next absent =>
    exact ⟨_, rfl, walk, qdone, fun _ => sameBytes_of_mem rfl, fun present => absurd (beq_iff_eq.1 absent) present⟩
  next present =>
    have token := fun absent : w.lrec.siga = 0#64 => present (beq_iff_eq.2 absent)
    split
    next unreached =>
      refine ⟨_, rfl, ?_, ?_, fun absent => (token absent).elim, fun _ reached => ?_⟩
      · rw [func_stopQueue]
        exact walk
      · rw [queue_stopQueue]
        exact qdone
      · rw [reached] at unreached
        nomatch unreached
    next =>
      exact ⟨_, rfl, walk, qdone, fun absent => (token absent).elim, fun _ _ wf => memWrite_word (s := walkEnded s fn w) wf⟩

end End

/-! ### The obligation -/

/-- Settles O54: each node by the equation of its instruction in the case at hand; the prediction, the add and the end of the
walk through the lemmas about them. -/
theorem walkerNodes : Obligations.WalkerNodes := by
  unfold Obligations.WalkerNodes
  refine ⟨fun s p => nodes_idle, fun s p fn w b => ⟨fun stands => ?launch, fun stands => ?spawnset,
      fun i kind which stands => ?branch,
      fun stands cap reached => ⟨_, _, whileNode_capped stands cap reached, walk_setWalk _ _ _, rfl, Tab.get_set_same _ _ _ _⟩,
      fun v stands word => ?waittok,
      fun stands => ⟨_, sigtokNode_adds stands, sameBytes_of_mem rfl, walk_setWalk _ _ _⟩,
      fun stands => ⟨_, endNode_ends stands, walk_setWalk _ _ _⟩⟩,
    fun s p fn w runner walks => ⟨condResolve_idle runner walks, fun d rest oldest => ?resolve, ?add, ?ends⟩⟩
  case launch =>
    exact ⟨launchNode_waits stands, fun code => launchNode_fails stands, fun room passes =>
      ⟨_, launchNode_launches stands room passes, walk_setWalk _ _ _, launchOne_of_room room passes⟩⟩
  case spawnset =>
    exact ⟨spawnsetNode_waits stands, fun code => spawnsetNode_fails stands, fun room passes =>
      ⟨_, spawnsetNode_launches stands room passes, walk_setWalk _ _ _, launchAll_launches room passes room⟩⟩
  case branch =>
    rw [branch_acts which stands, ← nodeKind_of_walkAt stands]
    exact ⟨fun v frontier word => have ⟨x, leaves⟩ := branchNode_frontier frontier word; ⟨_, x, rfl, leaves⟩,
      fun early no => congrArg _ (branchNode_waits early no),
      fun early may room => have ⟨x, leaves⟩ := branchNode_early early may room; ⟨_, x, rfl, leaves⟩⟩
  case waittok =>
    exact ⟨fun sure reached => ⟨_, waittokNode_passes stands word sure reached, walk_setWalk _ _ _⟩,
      waittokNode_waits stands word⟩
  case resolve =>
    refine ⟨condResolve_waits runner walks oldest, fun v reached word => ⟨fun held => ?held, fun wrong => ?wrong⟩⟩
    case held =>
      have same : ((v != 0) == d.taken) = true := beq_iff_eq.2 (Bool.eq_iff_iff.2 (bne_iff_ne.trans held))
      obtain ⟨x, leaves⟩ := predictionHeld_leaves s fn w d
      exact ⟨_, x, (condResolve_acts runner walks oldest reached word).trans (congrArg _ (if_pos same)), leaves⟩
    case wrong =>
      have differs : ¬ ((v != 0) == d.taken) = true := by
        rw [beq_iff_eq, Bool.eq_iff_iff, bne_iff_ne, wrong]
        cases d.taken <;> decide
      obtain ⟨x, leaves⟩ := predictionWrong_leaves s fn w d
      exact ⟨_, x, (condResolve_acts runner walks oldest reached word).trans (congrArg _ (if_neg differs)), leaves⟩
  case add =>
    refine ⟨sigtokAdd_waits runner walks, fun x v due word wf => ⟨_, sigtokAdd_adds runner walks due word, ?_⟩⟩
    obtain ⟨others, bytes⟩ := memWrite_word (s := s) (flat := flatOf s fn x.addr) (v := v + 1) wf
    exact ⟨others, bytes, walk_setWalk _ _ _⟩
  case ends => exact ⟨walkEndComplete_waits runner walks, walkEndComplete_leaves runner walks⟩

end Sys2Proof.Machine
end

section
/-! PROOFS. SPAWN, SIGNAL and WAITHEM (R169, R464-R466): the request that each leaves in flight, and the wait for HEMLINE. -/

namespace Sys2Proof.Machine

open Sys2Proof

/-! ### A control slot that acts -/

/-- A control slot whose guard holds and whose effect succeeds answers that effect. -/
theorem runControl_ok {s t : State} {c : Ctx} {f : Ctx → Except FaultInfo State} (h : ctxOf s = some c)
    (guard : c.controlGuard = true) (effect : f c = .ok t) : runControl s f = .next t :=
  (runControl_acts h guard).trans (runSlot_ok h effect)

/-! ### Operations that go out (R187, R233) -/

/-- An issue raises its flag's count by 1 and clears the flag (R233), in any state whose team has the flags that it leaves. -/
theorem flagUp_flagIssue {s u : State} {tm : Nat} (fl : Option Nat)
    (count : (u.team tm).flagCount = ((flagIssue s tm fl).team tm).flagCount)
    (set : (u.team tm).flagSet = ((flagIssue s tm fl).team tm).flagSet) : FlagUp s u tm fl := by
  rintro n rfl
  rw [flagIssue, team_modTeam] at count set
  rw [count, set]
  refine ⟨Tab.get_set_same _ _ _ _, ?_⟩
  have bit : (BitVec.ofNat 16 (2 ^ n)).getLsbD n = decide (n < 16) := by
    rw [BitVec.getLsbD_ofNat, Nat.testBit_two_pow]
    simp
  simp only [BitVec.getLsbD_and, BitVec.getLsbD_not, bit]
  cases decide (n < 16) <;> simp

theorem ops_issueOp (s : State) (t p : Nat) (op : PendOp) : Tab.find (issueOp s t p op).ops s.nextId = some op :=
  Tab.find_set_same _ _ _

theorem team_issueOp (s : State) (t p : Nat) (op : PendOp) : (issueOp s t p op).team t =
    (s.team t).modPath p (fun pa => { pa with mine := pathInFlight s t p ++ [s.nextId] }) := team_setTeam _ _ _

/-! ### The three operations -/

/-- SPAWN goes out with its sources as read. -/
theorem spawn_goesOut (k : BitVec 4) (a b : BitVec 7) : Controls (.spawn k a b) (fun s c t => SameBytes s t ∧
    FlagUp s t c.t (some k.toNat) ∧ ∃ id, Tab.find t.ops id = some (.spawn c.t c.p (BitVec.ofNat 64 (c.sreg a.toNat))
      (BitVec.ofNat 64 (c.sreg b.toNat)) k.toNat c.pc s.now none)) := by
  intro s c h guard
  refine ⟨_, runControl_ok h guard rfl, sameBytes_of_mem rfl, flagUp_flagIssue _ ?_ ?_, _, ops_issueOp _ _ _ _⟩
  · rw [team_issueOp]
    rfl
  · rw [team_issueOp]
    rfl

/-- A clamp of a scope changes its team's STATUS at most (R217). -/
theorem clampScope_eq (s : State) (t scope : Nat) :
    (clampScope s t scope).1 = s ∨ (clampScope s t scope).1 = s.modTeam t (fun tm => { tm with status := tm.status ||| 0x100#64 }) := by
  unfold clampScope
  dsimp only
  split
  · exact .inr rfl
  · exact .inl rfl

theorem clampScope_mem (s : State) (t scope : Nat) : (clampScope s t scope).1.mem = s.mem := by
  rcases clampScope_eq s t scope with same | status
  · rw [same]
  · rw [status]
    rfl

/-- The writes for which a SIGNAL waits are those of its path, whether or not its scope has been clamped. -/
theorem pathWrites_clampScope (s : State) (t p scope : Nat) : pathWrites (clampScope s t scope).1 t p = pathWrites s t p := by
  rcases clampScope_eq s t scope with same | status
  · rw [same]
  · have path : ((clampScope s t scope).1.team t).path p = (s.team t).path p := by
      rw [status, team_modTeam]
      rfl
    have accesses : (clampScope s t scope).1.accesses = s.accesses := by
      rw [status]
      rfl
    simp only [pathWrites, pathAccesses, path, accesses]

theorem mem_pathWrites {s : State} {t p i : Nat} :
    i ∈ pathWrites s t p ↔ i ∈ pathAccesses s t p ∧ ∃ x, Tab.find s.accesses i = some x ∧ x.kind.writes = true := by
  rw [pathWrites, List.mem_filter, and_congr_right_iff]
  intro _
  cases Tab.find s.accesses i <;> simp

/-- SIGNAL goes out with its sources as read, and holds its path. -/
theorem signal_goesOut (a b : BitVec 7) : Controls (.signal a b) (fun s c t => SameBytes s t ∧
    ∃ id, ((t.team c.t).path c.p).heldBy = some id ∧ ∃ waits, Tab.find t.ops id = some (.signal c.t c.p
      (BitVec.ofNat 64 (c.sreg a.toNat)) (BitVec.ofNat 64 (c.sreg b.toNat)) waits false) ∧
      ∀ i, i ∈ waits ↔ i ∈ pathAccesses s c.t c.p ∧ ∃ x, Tab.find s.accesses i = some x ∧ x.kind.writes = true) := by
  intro s c h guard
  refine ⟨_, runControl_ok h guard rfl, sameBytes_of_mem (clampScope_mem s c.t 5), (clampScope s c.t 5).1.nextId, ?held, _,
    ops_issueOp (clampScope s c.t 5).1.bump c.t c.p _, fun i => ?waits⟩
  case held =>
    rw [modPath_eq, team_setTeam, path_setPath]
  case waits =>
    rw [pathWrites_clampScope]
    exact mem_pathWrites

/-- WAITHEM passes once HEMLINE has reached its value, and waits before that (R169). -/
theorem waithem_waits (a : BitVec 7) : Controls (.waithem a) (fun s c t =>
    let h := (s.func (c.tk s).fn).hemline.toNat
    (c.sreg a.toNat ≤ h → t = s.bump) ∧ (h < c.sreg a.toNat → Waits c t 21)) := by
  intro s c h guard
  refine ⟨_, runControl_ok h guard rfl, fun reached => ?_, fun early => ?_⟩
  · have passes : decide (c.sreg a.toNat ≤ (hem s (c.tk s).fn).toNat) = true := decide_eq_true reached
    rw [if_pos passes]
  · have stays : ¬ decide (c.sreg a.toNat ≤ (hem s (c.tk s).fn).toNat) = true := by
      rw [decide_eq_true_eq]
      exact Nat.not_le.2 early
    rw [if_neg stays]
    have path : (((holdPath s c 21).bump.team c.t).path c.p) = { (s.team c.t).path c.p with pc := c.pc, stall := 21 } := by
      show ((State.setTeam s c.t _).team c.t).path c.p = _
      rw [team_setTeam]
      exact path_modPath _ _ _
    exact ⟨congrArg Path.pc path, congrArg Path.stall path⟩

/-- Settles O36: each of the three issues as its lemma says. -/
theorem taskOperations : Obligations.TaskOperations := by
  unfold Obligations.TaskOperations
  exact ⟨spawn_goesOut, signal_goesOut, waithem_waits⟩

end Sys2Proof.Machine
end

section
/-! PROOFS. Faults that stop their task or are deferred (R180, R244, R249, R252, R256): what a team and its task keep of a
fault, how the stop of a task ends, and where its saved block begins. -/

namespace Sys2Proof.Machine

open Sys2Proof

/-! ### The teams of a task that stops (R244) -/

theorem stopTeams_stopped {s : State} {k : Nat} : ∀ e ∈ (stopTeams s k).teams, e.2.task = k → e.2.stopped = true := by
  intro e entry mine
  obtain ⟨d, -, rfl⟩ := List.mem_map.1 entry
  by_cases h : (d.2.task == k) = true
  · simp only [h, if_true]
  · simp only [if_neg h] at mine
    exact absurd (beq_iff_eq.2 mine) h

/-- A team of a machine in which a task's teams stop. -/
def Team.stoppedIn (k : Nat) (tm : Team) : Team := if tm.task == k then { tm with stopped := true } else tm

/-- Of each team a stop changes `stopped` alone. -/
theorem team_stopTeams_eq (s : State) (k t : Nat) : ∃ b, (stopTeams s k).team t = { s.team t with stopped := b } := by
  have found : Tab.find (stopTeams s k).teams t = (Tab.find s.teams t).map (Team.stoppedIn k) :=
    Tab.find_map s.teams (Team.stoppedIn k) t
  unfold State.team Tab.get
  rw [found]
  cases Tab.find s.teams t with
  | none => exact ⟨_, rfl⟩
  | some tm =>
    by_cases h : (tm.task == k) = true
    · exact ⟨true, if_pos h⟩
    · exact ⟨tm.stopped, if_neg h⟩

/-! ### How a fault is taken -/

/-- A fault of a path as it is taken: one that a deferred fault's replay raises is marked so. -/
def FaultInfo.of (f : FaultInfo) (pa : Path) : FaultInfo := { f with deferred := f.deferred || pa.deferReplay }

section
variable {s : State} {t p pc : Nat} {f : FaultInfo} (lining : f.code ≠ .liningMismatch) (walk : f.code ≠ .walkSegment)
  (absent : f.code ≠ .tileNotPresent)

include lining in
/-- In speculation a fault that can be is deferred (R180). -/
theorem takeFault_defers (spec : isSpeculative s (s.task (s.team t).task) = true) (defers : deferrable f.code = true) :
    takeFault s t p pc f = deferFault s t p pc (f.of ((s.team t).path p)) := by
  simp [takeFault, FaultInfo.of, lining, spec, defers]

include lining walk absent in
/-- At the frontier a fault that is neither parked nor handled otherwise stops its task (R252). -/
theorem takeFault_stops (spec : isSpeculative s (s.task (s.team t).task) = false) : takeFault s t p pc f =
    stopTask s (s.team t).task (s.team t).wid0 p pc (f.of ((s.team t).path p)) := by
  simp [takeFault, FaultInfo.of, lining, walk, absent, spec]

end

/-! ### A fault that is deferred (R180) -/

theorem deferFault_stopped (s : State) (t p pc : Nat) (f : FaultInfo) :
    ∀ e ∈ (deferFault s t p pc f).teams, e.2.task = (s.team t).task → e.2.stopped = true := stopTeams_stopped

/-- A team that holds a fault keeps it. -/
theorem deferFault_keeps {s : State} {t : Nat} (p pc : Nat) (f : FaultInfo) (h : (s.team t).deferred ≠ none) :
    ((deferFault s t p pc f).team t).deferred = (s.team t).deferred := by
  have record : deferredTeam p pc f (s.team t) = s.team t := if_pos (Option.isSome_iff_ne_none.2 h)
  obtain ⟨b, team⟩ := team_stopTeams_eq (s.setTeam t (deferredTeam p pc f (s.team t))) (s.team t).task t
  show ((stopTeams (s.setTeam t (deferredTeam p pc f (s.team t))) (s.team t).task).team t).deferred = _
  rw [team, team_setTeam, record]

/-! ### The block of a task that is saved (R254-R256) -/

/-- A block is placed at or after the offset from which the search starts. -/
theorem le_placeBlock (blocks : List (Nat × Nat)) (n : Nat) : ∀ fuel off, off ≤ placeBlock blocks n off fuel
  | 0, off => Nat.le_refl off
  | fuel + 1, off => by
    rw [placeBlock]
    split
    · exact Nat.le_refl off
    next b met =>
      have meets := List.find?_some met
      simp only [apart, Bool.not_eq_true', Bool.or_eq_false_iff, decide_eq_false_iff_not] at meets
      have next := le_placeBlock blocks n fuel ((b.1 + b.2 + 127) / 128 * 128)
      omega

theorem length_faultRecord (taskid : Nat) (wid0 : Word64) (path pc : Nat) (f : FaultInfo) (lost : Bool) :
    (faultRecord taskid wid0 path pc f lost).length = 64 := by
  simp [faultRecord]

/-- A block begins with its record. -/
theorem take_taskBlock (s : State) (k : Nat) (record : List Byte) :
    (taskBlock s k record).take record.length = record := by
  simp [taskBlock, blockOf, pad128]

/-- A write leaves the bytes of a range that it does not meet. -/
theorem Memory.bytes_write_ne {m : Memory} (wf : Memory.wf m) {a b n : Nat} {bs : List Byte}
    (h : b + n ≤ a ∨ a + bs.length ≤ b) : Memory.bytes (Memory.write m a bs) b n = Memory.bytes m b n := by
  rw [Memory.bytes_eq, Memory.bytes_eq]
  refine List.map_congr_left fun i hi => Memory.read_write_ne wf ?_
  have := List.mem_range.1 hi
  omega

/-- An offset in the context-save area counts from the address of its first byte. -/
theorem ctxFlat_add (s : State) (fn off : Nat) : ctxFlat s fn off = ctxFlat s fn 0 + off := by
  unfold ctxFlat flatOf
  split
  · omega
  · omega

/-- A block that finds room is written after the directory, and its entry in it. -/
theorem placeSaved_writes {s u : State} {k : Nat} {bytes : List Byte} (placed : placeSaved s k bytes = some u) :
    firstBlock ≤ (u.task k).block ∧ (u.task k).fn = (s.task k).fn ∧ u.funcs = s.funcs ∧
      ∃ entry : List Byte, entry.length = 32 ∧ u.mem = Memory.write (Memory.write s.mem
        (ctxFlat s (s.task k).fn (u.task k).block) bytes) (ctxFlat s (s.task k).fn (32 * (s.task k).slot)) entry := by
  simp only [placeSaved, Option.ite_none_left_eq_some, Option.some.injEq] at placed
  obtain ⟨-, rfl⟩ := placed
  have start := le_placeBlock (blocksOf s (s.task k).fn k) bytes.length ((blocksOf s (s.task k).fn k).length + 1) firstBlock
  generalize placeBlock _ _ _ _ = off at start
  have task (x : Task) (a : Nat) : (writeDirectory (memWrite (s.setTask k x) a bytes) k).task k = x := task_setTask s k x
  rw [task]
  refine ⟨start, rfl, rfl, ?_⟩
  have now (x : Task) (a : Nat) : (memWrite (s.setTask k x) a bytes).task k = x := task_setTask s k x
  unfold writeDirectory
  dsimp only
  rw [now]
  exact ⟨_, by simp, rfl⟩

/-- While the trace is off, a task's event leaves no record (R281). -/
theorem traceTask_off {s : State} {x : Task} (off : Nat.testBit (s.func x.fn).trcCtl.toNat 0 = false) (kind : TraceKind)
    (detail : Nat) : traceTask s x kind detail = s := by
  simp [traceTask, traceEvent, bitAt, off]

/-- While the trace is off, a save writes its block and its entry in the directory alone. -/
theorem storeTask_writes {s v : State} {k : Nat} {record : List Byte} (stored : storeTask s k record = some v)
    (off : Nat.testBit (s.func (s.task k).fn).trcCtl.toNat 0 = false) :
    firstBlock ≤ (v.task k).block ∧ ∃ entry : List Byte, entry.length = 32 ∧ v.mem = Memory.write (Memory.write s.mem
      (ctxFlat s (s.task k).fn (v.task k).block) (taskBlock s k record)) (ctxFlat s (s.task k).fn (32 * (s.task k).slot)) entry := by
  obtain ⟨u, placed, rfl⟩ := Option.map_eq_some_iff.1 stored
  obtain ⟨start, fn, funcs, written⟩ := placeSaved_writes placed
  extract_lets saved
  have task : saved.task k = { u.task k with saved := true } := task_setTask _ _ _
  have silent : Nat.testBit ((vacateCrews saved (fun c => (saved.crew c).task == k)).func (saved.task k).fn).trcCtl.toNat 0 = false := by
    rw [task]
    show Nat.testBit (Tab.get u.funcs (u.task k).fn {}).trcCtl.toNat 0 = false
    rw [funcs, fn]
    exact off
  rw [traceTask_off silent, task_vacateCrews, task]
  exact ⟨start, written⟩

/-- A saved block begins with the record that it was given (R256). -/
theorem storeTask_record {s v : State} {k : Nat} {record : List Byte} (stored : storeTask s k record = some v)
    (off : Nat.testBit (s.func (s.task k).fn).trcCtl.toNat 0 = false) (wf : Memory.wf s.mem) (slot : (s.task k).slot < 64) :
    Memory.bytes v.mem (ctxFlat s (s.task k).fn (v.task k).block) record.length = record := by
  obtain ⟨start, entry, length, mem⟩ := storeTask_writes stored off
  have begins := take_taskBlock s k record
  have long : (taskBlock s k record).length = record.length + ((taskBlock s k record).length - record.length) := by
    have := congrArg List.length begins
    rw [List.length_take] at this
    omega
  have apart : ctxFlat s (s.task k).fn (32 * (s.task k).slot) + entry.length ≤ ctxFlat s (s.task k).fn (v.task k).block := by
    rw [ctxFlat_add s _ (32 * _), ctxFlat_add s _ (v.task k).block, length]
    have : firstBlock = 2048 := rfl
    omega
  rw [mem, Memory.bytes_write_ne (Memory.write_wf _ _ wf) (.inr apart), ← Memory.bytes_take _ _ _
    ((taskBlock s k record).length - record.length), ← long, Memory.bytes_write_same wf, begins]

/-! ### The end of a stop (R252, R258) -/

/-- A task that has been quiesced, marked as faulted. -/
def markFaulted (q : State) (k : Nat) : State := q.modTask k (fun y => { y with faulted := true, stopping := none })

/-- The record of the fault that stops it (R249). -/
def stopRecord (q : State) (k : Nat) (x : Stopping) : List Byte :=
  faultRecord (q.task k).taskid x.wid0 x.path x.pc x.info false

theorem stopQueue_teams (s : State) (fn q code : Nat) : (stopQueue s fn q code).teams = s.teams := by
  unfold stopQueue
  dsimp only
  split
  · rfl
  · rfl

theorem updateHem_teams (s : State) (fn : Nat) : (updateHem s fn).teams = s.teams := by
  rcases updateHem_cases s fn with h | ⟨v, h⟩
  · rw [h]
  · rw [h]
    rfl

theorem dropTaskWork_teams {s : State} {k : Nat} : ∀ e ∈ (dropTaskWork s k).teams, e.2.task ≠ k := by
  intro e entry mine
  obtain ⟨stands, left⟩ := List.mem_filter.1 entry
  have gone : e.1 ∈ (s.teams.filter (fun d => d.2.task == k)).map Prod.fst :=
    List.mem_map_of_mem (List.mem_filter.2 ⟨stands, beq_iff_eq.2 mine⟩)
  have stays : ((s.teams.filter (fun d => d.2.task == k)).map Prod.fst).contains e.1 = false := by
    rw [← Bool.not_eq_true']
    exact left
  exact absurd ((List.contains_iff_mem.2 gone).symm.trans stays) (by decide)

/-- A task that cannot be held is gone with its teams, and its queue stops (R258). -/
theorem loseTask_stops (s : State) (k : Nat) (wid0 : Word64) (p pc : Nat) : ∃ w : State,
    loseTask s k wid0 p pc = stopQueue w (s.task k).fn (s.task k).queue 0x11 ∧ (∀ e ∈ w.teams, e.2.task ≠ k) ∧
      Tab.find w.tasks k = none := by
  unfold loseTask
  extract_lets tk record written left erased
  refine ⟨_, rfl, ?_, ?_⟩
  · rw [updateHem_teams]
    exact dropTaskWork_teams
  · rw [updateHem_tasks]
    exact Tab.find_erase_same left.tasks k

/-- A task that stops is lost, or it is saved as faulted with its record, and its queue stops (R252, R258). -/
theorem finishStop_saves {P : State → Prop} {s : State} {k : Nat} {x : Stopping} {q : State} (quiet : quiesce s k = q)
    (lost : storeTask (markFaulted q k) k (stopRecord q k x) = none → P (loseTask (markFaulted q k) k x.wid0 x.path x.pc))
    (held : ∀ v, storeTask (markFaulted q k) k (stopRecord q k x) = some v → P (stopQueue
      ((dropTaskWork v k).modTask k (fun tk => { tk with phase := .finished, frec := stopRecord q k x }))
      (q.task k).fn (q.task k).queue 0x10)) : P (finishStop s k x) := by
  rw [finishStop_def]
  beta_reduce
  rw [quiet]
  extract_lets start marked tk record
  have task : tk = { q.task k with faulted := true, stopping := none } := task_setTask _ _ _
  have same : record = stopRecord q k x := by
    show faultRecord tk.taskid _ _ _ _ _ = _
    rw [task]
    rfl
  clear_value tk record
  subst task same
  split
  next gone => exact lost gone
  next v saved => exact held v saved

/-- How the stop of a quiesced task ends: its teams are gone and its queue stops. If the task is still there, it holds its
record, after its save. -/
def StopEnds (q : State) (k : Nat) (x : Stopping) (u : State) : Prop :=
  let stored := storeTask (markFaulted q k) k (stopRecord q k x)
  ∃ w : State, u = stopQueue w (q.task k).fn (q.task k).queue (if stored.isSome then 0x10 else 0x11) ∧
    (∀ e ∈ w.teams, e.2.task ≠ k) ∧
    ∀ y, Tab.find w.tasks k = some y → ∃ v, stored = some v ∧ y.block = (v.task k).block ∧ y.frec = stopRecord q k x ∧
      w.mem = v.mem

theorem finishStop_ends (s : State) (k : Nat) (x : Stopping) : StopEnds (quiesce s k) k x (finishStop s k x) := by
  generalize quiet : quiesce s k = q
  refine finishStop_saves quiet (fun lost => ?lost) (fun v held => ?held)
  case lost =>
    have task : (markFaulted q k).task k = { q.task k with faulted := true, stopping := none } := task_setTask _ _ _
    obtain ⟨w, gone, teams, left⟩ := loseTask_stops (markFaulted q k) k x.wid0 x.path x.pc
    rw [task] at gone
    exact ⟨w, by rw [gone, lost]; rfl, teams, fun y found => nomatch left.symm.trans found⟩
  case held =>
    refine ⟨(dropTaskWork v k).modTask k (fun tk => { tk with phase := .finished, frec := stopRecord q k x }), by rw [held]; rfl,
      dropTaskWork_teams, fun y found => ⟨v, held, ?_⟩⟩
    rw [State.modTask, setTask_tasks, Tab.find_set_same, Option.some.injEq] at found
    rw [← found]
    exact ⟨rfl, rfl, rfl⟩

/-- The queue of a task that has stopped has the code of its end (R56, R252, R258). -/
theorem StopEnds.queue {q u : State} {k : Nat} {x : Stopping} (h : StopEnds q k x u) :
    ((u.func (q.task k).fn).queue (q.task k).queue).en = false ∧
    ((u.func (q.task k).fn).queue (q.task k).queue).qerr.toNat % 2 ^ 32 =
      if (storeTask (markFaulted q k) k (stopRecord q k x)).isSome then 0x10 else 0x11 := by
  obtain ⟨w, rfl, -, -⟩ := h
  rw [queue_stopQueue]
  refine ⟨rfl, ?_⟩
  split
  · rw [stoppedQueue_qerr (by decide)]
    omega
  · rw [stoppedQueue_qerr (by decide)]
    omega

/-- No team of the task is left. -/
theorem StopEnds.teams {q u : State} {k : Nat} {x : Stopping} (h : StopEnds q k x u) : ∀ e ∈ u.teams, e.2.task ≠ k := by
  obtain ⟨w, rfl, teams, -⟩ := h
  rw [stopQueue_teams]
  exact teams

/-- A task that is held has its record, and its block begins with it (R252, R256). -/
theorem StopEnds.record {q u : State} {k : Nat} {x : Stopping} (h : StopEnds q k x u) (wf : Memory.wf q.mem)
    (slot : (q.task k).slot < 64) (off : Nat.testBit (q.func (q.task k).fn).trcCtl.toNat 0 = false) {y : Task}
    (found : Tab.find u.tasks k = some y) :
    y.frec = stopRecord q k x ∧ Memory.bytes u.mem (ctxFlat q (q.task k).fn y.block) 64 = stopRecord q k x := by
  obtain ⟨w, rfl, -, held⟩ := h
  rw [stopQueue_tasks] at found
  obtain ⟨v, stored, block, frec, mem⟩ := held y found
  refine ⟨frec, ?_⟩
  have task : (markFaulted q k).task k = { q.task k with faulted := true, stopping := none } := task_setTask _ _ _
  have begins := storeTask_record stored (by rw [task]; exact off) wf (by rw [task]; exact slot)
  have length : (stopRecord q k x).length = 64 := length_faultRecord _ _ _ _ _ _
  rw [length, task] at begins
  rw [stopQueue_mem, mem, block]
  exact begins

/-! ### The obligation -/

theorem fault_deferred {s : State} {t p pc : Nat} {f : FaultInfo} (lining : f.code ≠ .liningMismatch)
    (spec : isSpeculative s (s.task (s.team t).task) = true) (defers : deferrable f.code = true) :
    let k := (s.team t).task
    let u := takeFault s t p pc f
    (u.task k).suspended = true ∧ (∀ e ∈ u.teams, e.2.task = k → e.2.stopped = true) ∧ SameBytes s u ∧
      ((s.team t).deferred = none → (u.team t).deferred = some { f.of ((s.team t).path p) with deferred := true } ∧
        (u.team t).deferredAt = some (p, pc)) ∧
      ((s.team t).deferred ≠ none → (u.team t).deferred = (s.team t).deferred) := by
  intro k u
  have taken : u = deferFault s t p pc (f.of ((s.team t).path p)) := takeFault_defers lining spec defers
  rw [taken]
  refine ⟨deferFault_suspends _ _ _ _ _, deferFault_stopped _ _ _ _ _, sameBytes_of_mem rfl, fun first => ?_,
    deferFault_keeps p pc _⟩
  rw [deferFault_team p pc _ first]
  exact ⟨rfl, rfl⟩

theorem stop_waits {s : State} {k p pc : Nat} {wid0 : Word64} {f : FaultInfo} (first : (s.task k).stopping = none)
    (busy : quietable (stopTeams s k) (teamsOfTask (stopTeams s k) k) = false) :
    let u := stopTask s k wid0 p pc f
    (u.task k).stopping = some ⟨wid0, p, pc, f⟩ ∧ (u.task k).faulted = (s.task k).faulted ∧ SameBytes s u ∧
      ∀ e ∈ u.teams, e.2.task = k → e.2.stopped = true := by
  intro u
  have waits : u = _ := (stopTask_eq first).trans (if_neg (by rw [busy]; decide))
  rw [waits, State.modTask, task_setTask]
  exact ⟨rfl, rfl, sameBytes_of_mem rfl, stopTeams_stopped⟩

theorem stop_ends {s : State} {k p pc : Nat} {wid0 : Word64} {f : FaultInfo} (first : (s.task k).stopping = none)
    (quiet : quietable (stopTeams s k) (teamsOfTask (stopTeams s k) k) = true) :
    let u := stopTask s k wid0 p pc f
    TaskStopped u k ∧ StopEnds (quiesce (stopTeams s k) k) k ⟨wid0, p, pc, f⟩ u := by
  intro u
  have ends : u = finishStop (stopTeams s k) k ⟨wid0, p, pc, f⟩ := (stopTask_eq first).trans (if_pos quiet)
  rw [ends]
  exact ⟨finishStop_stopped _ _ _, finishStop_ends _ _ _⟩

/-- Settles O46: a fault in speculation by what its deferral leaves, one at the frontier by how the stop of its task ends. -/
theorem faultsStopOrDefer : Obligations.FaultsStopOrDefer := by
  unfold Obligations.FaultsStopOrDefer
  intro s t p pc f lining walk absent k g u
  refine ⟨fun spec defers => fault_deferred lining spec defers, fun spec first busy => ?waits, fun spec later => ?counts,
    fun spec first quiet => ?ends⟩
  all_goals have taken : u = stopTask s k (s.team t).wid0 p pc g := takeFault_stops lining walk absent spec
  case waits =>
    rw [taken]
    exact stop_waits first busy
  case counts =>
    exact taken.trans (if_pos (Option.isSome_iff_ne_none.2 later))
  case ends =>
    rw [taken]
    obtain ⟨stopped, ends⟩ := stop_ends (wid0 := (s.team t).wid0) (p := p) (pc := pc) (f := g) first quiet
    exact ⟨stopped, ends.teams, ends.queue.1, ends.queue.2, fun wf slot off y found => ends.record wf slot off found⟩

end Sys2Proof.Machine
end

section
/-! PROOFS. PARKED_TASK_SAVE of a task with a team in a crew of another task (R241, R253). -/

namespace Sys2Proof.Machine

open Sys2Proof

/-- What PARKED_TASK_SAVE notes in a task that the save has left. -/
def parkNoted (s : State) (k : Nat) : State :=
  if (Tab.find s.tasks k).isSome then s.modTask k (fun y => { y with parkSaved := true, stuckSince := none }) else s

theorem team_parkNoted (s : State) (k x : Nat) : (parkNoted s k).team x = s.team x := by
  unfold parkNoted
  split
  · rfl
  · rfl

theorem exec_parkedTaskSave {s : State} {k : Nat} (due : parkSaveDue s k = true) :
    exec (.parkedTaskSave k) s = .next (parkNoted (saveTask s k) k) := by
  show execParkedTaskSave k s = _
  simp only [execParkedTaskSave, due, if_true, parkNoted]

/-- The task 1 of the PF has been stuck for 20 µs: the only path of its team 3 is parked. This team lies in the crew 2, which
belongs to a task 2. The machine makes a crew's teams with the crew and for its task, so no run from reset gets here; the
statement ranges over every state. -/
def strandedTeam : State :=
  { now := us 20
    pfCtxb := BitVec.ofNat 64 (2 ^ 48)
    tasks := [(1, { fn := pfFn, part := freePart, stuckSince := some 0 })]
    crews := [(2, { task := 2, teams := [3] })]
    teams := [(3, { task := 1, crew := 2, residence := .active 0, paths := [(0, { parked := true })] })] }

theorem parkSaveDue_strandedTeam : parkSaveDue strandedTeam 1 = true := by decide

/-- The context-save area has room for the task's block. -/
theorem storeTask_strandedTeam : (storeTask (quiesce strandedTeam 1) 1 (leBytes 64 0)).isSome = true := by decide +kernel

theorem teamsOfTask_strandedTeam : teamsOfTask (quiesce strandedTeam 1) 1 = [3] := by decide

/-- The save takes the teams of the task's crews off their cores, so this one stays on its core. -/
theorem residence_strandedTeam : ((saveTask strandedTeam 1).team 3).residence = .active 0 := by decide +kernel

/-- Refutes O53: its clause on PARKED_TASK_SAVE says that every team of the saved task is saved, and does not ask that the
team's crew be the task's. In `strandedTeam` it is not, and the team still has its core after the save. -/
theorem not_cohortEvents : ¬ Obligations.CohortEvents := by
  unfold Obligations.CohortEvents
  intro h
  obtain ⟨-, -, -, -, saves, -, -⟩ := h
  obtain ⟨-, due⟩ := saves strandedTeam 1
  obtain ⟨held, -⟩ := due parkSaveDue_strandedTeam
  obtain ⟨u, stored⟩ := Option.isSome_iff_exists.1 storeTask_strandedTeam
  obtain ⟨t, completes, -, -, -, vacated⟩ := held u stored
  have saved : (t.team 3).residence = .saved := vacated 3 (by rw [teamsOfTask_strandedTeam]; exact List.mem_singleton_self 3)
  rw [exec_parkedTaskSave parkSaveDue_strandedTeam] at completes
  rw [← Host.Outcome.next.inj completes, team_parkNoted, residence_strandedTeam] at saved
  exact absurd saved (by decide)

end Sys2Proof.Machine
end

section
/-! PROOFS. ACQ, REL, FENCE and INVRO (R194-R201, R209): the check of a region, the request that ACQ and REL leave in flight,
and which of a path's accesses a FENCE waits for and which it releases. -/

namespace Sys2Proof.Machine

open Sys2Proof

/-! ### A table whose values change by their number -/

theorem Tab.find_mapIdx {α : Type} (t : Tab α) (f : Nat → α → α) (n : Nat) :
    Tab.find (t.map (fun e => (e.1, f e.1 e.2))) n = (Tab.find t n).map (f n) := by
  induction t with
  | nil => rfl
  | cons e t ih =>
    obtain ⟨k, v⟩ := e
    by_cases here : k = n
    · subst here
      simp [Tab.find]
    · simpa [Tab.find, here] using ih

/-! ### What a clamp of a scope leaves (R217) -/

/-- STATUS is all that a clamp writes, so what a path has in flight and what its flags count stay. -/
theorem clampScope_leaves (s : State) (t scope : Nat) : let u := (clampScope s t scope).1
    u.accesses = s.accesses ∧ u.nextId = s.nextId ∧ (u.team t).flagCount = (s.team t).flagCount ∧
      (u.team t).paths = (s.team t).paths := by
  rcases clampScope_eq s t scope with same | status
  · rw [same]
    exact ⟨rfl, rfl, rfl, rfl⟩
  · rw [status]
    refine ⟨rfl, rfl, ?_, ?_⟩ <;> rw [team_modTeam]

/-- The accesses that a FENCE orders are those of its path, whether or not its scope has been clamped. -/
theorem fencedBy_clampScope (s : State) (t p scope : Nat) : fencedBy (clampScope s t scope).1 t p = fencedBy s t p := by
  obtain ⟨accesses, -, -, paths⟩ := clampScope_leaves s t scope
  simp only [fencedBy, pathAccesses, Team.path, paths, accesses]

/-! ### ACQ and REL (R196, R197, R200, R201) -/

theorem flagIssue_mem (s : State) (t : Nat) (fl : Option Nat) : (flagIssue s t fl).mem = s.mem := by
  cases fl <;> rfl

/-- A request that goes out at a scope stands among the operations in flight, its flag's count risen, and no byte changes. -/
theorem scopedOp_goesOut (s : State) (t p scope : Nat) (fl : Option Nat) (op : PendOp) :
    let u := issueOp (flagIssue (clampScope s t scope).1 t fl) t p op
    SameBytes s u ∧ (∃ id, Tab.find u.ops id = some op) ∧
      ∀ k, fl = some k → Tab.get (u.team t).flagCount k 0 = Tab.get (s.team t).flagCount k 0 + 1 := by
  refine ⟨sameBytes_of_mem ((flagIssue_mem _ t fl).trans (clampScope_mem s t scope)), ⟨_, ops_issueOp _ t p op⟩,
    fun k named => ?count⟩
  have up : FlagUp (clampScope s t scope).1 (issueOp (flagIssue (clampScope s t scope).1 t fl) t p op) t fl := by
    refine flagUp_flagIssue fl ?_ ?_
    · rw [team_issueOp]
      rfl
    · rw [team_issueOp]
      rfl
  obtain ⟨risen, -⟩ := up k named
  obtain ⟨-, -, counts, -⟩ := clampScope_leaves s t scope
  rw [risen, counts]

section Region

variable {s : State} {c : Ctx} {f : MFields} (h : ctxOf s = some c) (acts : idle c.mPasses = false)
include h acts

theorem acq_goesOut {soba : Nat} (region : regionOf s c.tm.task f.tid.toNat = some soba)
    (sound : sobBad s (c.tk s) soba = none) :
    exec (.acq f) s = .next (issueOp (flagIssue (clampScope s c.t f.scope.toNat).1 c.t f.flagOf) c.t c.p
      (.acq c.t c.p f.tid.toNat soba (dsReg f)
        (if Nat.testBit f.off.toNat 0 then none else some (BitVec.ofNat 64 (c.countOf f c.mPasses))) f.flag.toNat
        (clampScope s c.t f.scope.toNat).2)) := by
  refine runSlot_ok h ?_
  simp [acts, region, sound, bitAt]

theorem rel_goesOut {soba : Nat} (region : regionOf s c.tm.task f.tid.toNat = some soba)
    (sound : sobBad s (c.tk s) soba = none) :
    exec (.rel f) s = .next (issueOp (flagIssue (clampScope s c.t f.scope.toNat).1 c.t f.flagOf) c.t c.p
      (.rel c.t c.p f.tid.toNat soba (dsReg f) f.flagOf (clampScope s c.t f.scope.toNat).2
        (boundWrites s c.t c.p soba))) := by
  refine runSlot_ok h ?_
  simp [acts, region, sound]

/-- A region that is invalid or not listed is a fault of both (R197). -/
theorem regionAbsent_raises (absent : regionOf s c.tm.task f.tid.toNat = none) :
    exec (.acq f) s = .next (raise s c .m (regionFault (c.tk s) f.tid.toNat)) ∧
      exec (.rel f) s = .next (raise s c .m (regionFault (c.tk s) f.tid.toNat)) := by
  constructor <;> refine runSlot_error h ?_ <;> simp [acts, absent]

/-- So is a SOB word that memory cannot give (R39). -/
theorem sobBad_raises {soba : Nat} {e : FaultInfo} (region : regionOf s c.tm.task f.tid.toNat = some soba)
    (bad : sobBad s (c.tk s) soba = some e) :
    exec (.acq f) s = .next (raise s c .m e) ∧ exec (.rel f) s = .next (raise s c .m e) := by
  constructor <;> refine runSlot_error h ?_ <;> simp [acts, region, bad]

end Region

/-! ### FENCE (R194, R195) -/

/-- The mark that a point of order of a team at a scope leaves on an access that it passes. -/
def fenceMark (s : State) (t scope : Nat) : Released :=
  { scope := scope, by_ := placeOf s t, sob := none, upto := s.nextId }

/-- Whether a point of order of a scope passes an access that is not yet performed. -/
def passes (s : State) (scope i : Nat) : Bool :=
  (Tab.find s.accesses i).any (fun a => mayLinger scope a) && Config.pick s.free scope i

/-- A fence waits for each access that it orders and does not pass. -/
theorem mem_fenceAt_waits {s : State} {t p scope i : Nat} : i ∈ (fenceAt s t p scope).2 ↔
    i ∈ fencedBy s t p ∧ (Tab.find s.accesses i).isSome = true ∧ passes s scope i = false := by
  show i ∈ (fencedBy s t p).filter (fun j => (Tab.find s.accesses j).isSome && !passes s scope j) ↔ _
  rw [List.mem_filter, Bool.and_eq_true, Bool.not_eq_true']

theorem find_releaseAt (s : State) (t scope i : Nat) (ids : List Nat) :
    Tab.find (releaseAt s t scope none ids).1.accesses i = (Tab.find s.accesses i).map (fun a =>
      if ids.contains i && passes s scope i then { a with released := fenceMark s t scope :: a.released } else a) :=
  Tab.find_mapIdx s.accesses
    (fun n a => if ids.contains n && passes s scope n then { a with released := fenceMark s t scope :: a.released } else a) i

/-- What a fence does to its crew's shared memory (R194) is apart from its accesses, which its point of order alone marks. -/
theorem fenceAt_accesses (s : State) (t p scope : Nat) :
    (fenceAt s t p scope).1.accesses = (releaseAt s t scope none (fencedBy s t p)).1.accesses := by
  unfold fenceAt
  dsimp only
  split <;> rfl

theorem fenceAt_mem (s : State) (t p scope : Nat) : (fenceAt s t p scope).1.mem = s.mem := by
  unfold fenceAt
  dsimp only
  split <;> rfl

theorem kind_of_mayLinger {scope : Nat} {a : Access} (lingers : mayLinger scope a = true) : a.kind = .store := by
  simp only [mayLinger, Bool.and_eq_true, beq_iff_eq] at lingers
  obtain ⟨⟨⟨⟨⟨-, store⟩, -⟩, -⟩, -⟩, -⟩ := lingers
  exact store

theorem isSome_of_mem_fencedBy {s : State} {t p i : Nat} (ordered : i ∈ fencedBy s t p) :
    (Tab.find s.accesses i).isSome = true := by
  obtain ⟨mine, -⟩ := List.mem_filter.1 ordered
  exact (List.mem_filter.1 mine).2

/-- A store that a fence passes stays in flight, released at the fence's scope. -/
theorem fenceAt_releases {s : State} {t p scope i : Nat} (ordered : i ∈ fencedBy s t p) (passed : passes s scope i = true) :
    ∃ x, Tab.find (fenceAt s t p scope).1.accesses i = some x ∧ x.kind = .store ∧ fenceMark s t scope ∈ x.released := by
  obtain ⟨a, found⟩ := Option.isSome_iff_exists.1 (isSome_of_mem_fencedBy ordered)
  have lingers : mayLinger scope a = true := by
    simp only [passes, found, Option.any_some, Bool.and_eq_true] at passed
    exact passed.1
  refine ⟨{ a with released := fenceMark s t scope :: a.released }, ?_, kind_of_mayLinger lingers, List.mem_cons_self⟩
  rw [fenceAt_accesses, find_releaseAt, found]
  simp [ordered, passed]

/-- Each access that a fence orders is waited for or released. -/
theorem fenceAt_cases {s : State} {t p scope i : Nat} (ordered : i ∈ fencedBy s t p) :
    i ∈ (fenceAt s t p scope).2 ∨
      ∃ x, Tab.find (fenceAt s t p scope).1.accesses i = some x ∧ x.kind = .store ∧ fenceMark s t scope ∈ x.released := by
  cases passed : passes s scope i with
  | false => exact .inl (mem_fenceAt_waits.2 ⟨ordered, isSome_of_mem_fencedBy ordered, passed⟩)
  | true => exact .inr (fenceAt_releases ordered passed)

/-- A path that waits at a FENCE for some accesses, with stall reason 16 while there are any (R195). -/
def Path.fencedOn (pa : Path) (waits : List Nat) : Path :=
  { pa with fence := waits, stall := if waits.isEmpty then pa.stall else 16 }

/-- The state that a FENCE leaves: its path waits for what is not released. -/
def fenced (s : State) (t p scope : Nat) : State :=
  let cl := clampScope s t scope
  let r := fenceAt cl.1 t p cl.2
  (r.1.modPath t p (fun pa => pa.fencedOn r.2)).bump

theorem exec_fence {s : State} {c : Ctx} (f : MFields) (h : ctxOf s = some c) (acts : idle c.mPasses = false) :
    exec (.fence f) s = .next (fenced s c.t c.p f.scope.toNat) := by
  refine runSlot_ok h ?_
  rw [acts]
  rfl

theorem fenced_mem (s : State) (t p scope : Nat) : (fenced s t p scope).mem = s.mem :=
  (fenceAt_mem _ t p _).trans (clampScope_mem s t scope)

theorem team_bump (s : State) (t : Nat) : s.bump.team t = s.team t := rfl

theorem fenced_fence (s : State) (t p scope : Nat) : (((fenced s t p scope).team t).path p).fence =
    (fenceAt (clampScope s t scope).1 t p (clampScope s t scope).2).2 := by
  rw [fenced, team_bump, State.modPath, team_modTeam, path_modPath]
  rfl

theorem fenced_holds (s : State) (t p scope : Nat) :
    (∀ i, i ∈ (((fenced s t p scope).team t).path p).fence → i ∈ fencedBy s t p) ∧
      ∀ i, i ∈ fencedBy s t p → i ∈ (((fenced s t p scope).team t).path p).fence ∨
        ∃ x r, Tab.find (fenced s t p scope).accesses i = some x ∧ x.kind = .store ∧ r ∈ x.released ∧ r.sob = none ∧
          r.upto = s.nextId ∧ r.scope = (clampScope s t scope).2 := by
  obtain ⟨-, numbered, -, -⟩ := clampScope_leaves s t scope
  rw [fenced_fence, ← fencedBy_clampScope s t p scope]
  refine ⟨fun i waits => (mem_fenceAt_waits.1 waits).1, fun i ordered => ?_⟩
  rcases fenceAt_cases (scope := (clampScope s t scope).2) ordered with waits | ⟨x, found, store, marked⟩
  · exact .inl waits
  · exact .inr ⟨x, _, found, store, marked, rfl, numbered, rfl⟩

/-! ### INVRO (R209) -/

theorem exec_invro {s : State} {c : Ctx} (f : MFields) (h : ctxOf s = some c) (acts : idle c.mPasses = false) :
    exec (.invro f) s = .next ((s.modCore (c.core s) (fun co => { co with ro := [] })).modTeam c.t
      (fun tm => { tm with invroAt := s.now })) := by
  refine runSlot_ok h ?_
  rw [acts]
  rfl

theorem invro_empties {s : State} {c : Ctx} (f : MFields) (h : ctxOf s = some c) (acts : idle c.mPasses = false) :
    ∃ t, exec (.invro f) s = .next t ∧ SameBytes s t ∧ (t.core (c.core s)).ro = [] ∧ (t.team c.t).invroAt = s.now := by
  refine ⟨_, exec_invro f h acts, sameBytes_of_mem rfl, ?_, ?_⟩
  · exact congrArg Core.ro (core_modCore s (c.core s) (fun co => { co with ro := [] }))
  · rw [team_modTeam]

/-! ### The obligation -/

/-- Settles O23: ACQ and REL by the outcome of their region's check, FENCE by the cases of each access that it orders. -/
theorem orderingInstructions : Obligations.OrderingInstructions := by
  unfold Obligations.OrderingInstructions
  intro f s c h acts
  refine ⟨fun soba region sound => ⟨?acq, ?rel⟩, regionAbsent_raises h acts, fun soba e => sobBad_raises h acts,
    ⟨_, exec_fence f h acts, sameBytes_of_mem (fenced_mem s c.t c.p f.scope.toNat), fenced_holds s c.t c.p f.scope.toNat⟩,
    invro_empties f h acts⟩
  case acq =>
    obtain ⟨bytes, ⟨id, stands⟩, count⟩ := scopedOp_goesOut s c.t c.p f.scope.toNat f.flagOf _
    exact ⟨_, id, _, acq_goesOut h acts region sound, bytes, stands, count⟩
  case rel =>
    obtain ⟨bytes, ⟨id, stands⟩, count⟩ := scopedOp_goesOut s c.t c.p f.scope.toNat f.flagOf _
    exact ⟨_, id, _, rel_goesOut h acts region sound, bytes, stands, count⟩

end Sys2Proof.Machine
end

section
/-! PROOFS. Lanes of a mask, control slots that fault, and TRAP, BKPT and LCMP (R261, R267, R467, R471). -/

namespace Sys2Proof.Machine

open Sys2Proof

/-! ### The lanes of a mask in their order -/

/-- The lanes of a mask stand in ascending order (R220). -/
theorem maskLanes_ascending (m : Mask) : (maskLanes m).Pairwise (· < ·) := List.pairwise_lt_range.filter _

/-- Of an ascending list, the element for which a test holds and for no smaller one is the one that a search finds. -/
theorem find?_eq_some_of_least {q : Nat → Bool} {l : Nat} {ls : List Nat} (ascending : ls.Pairwise (· < ·)) (mem : l ∈ ls)
    (holds : q l = true) (least : ∀ m ∈ ls, m < l → q m = false) : ls.find? q = some l := by
  induction ls with
  | nil => simp at mem
  | cons x xs ih =>
    obtain ⟨below, rest⟩ := List.pairwise_cons.1 ascending
    rcases List.mem_cons.1 mem with rfl | later
    · exact List.find?_cons_of_pos holds
    · rw [List.find?_cons_of_neg (by simp [least x (by simp) (below l later)])]
      exact ih rest later (fun m hm => least m (List.mem_cons_of_mem x hm))

/-! ### Slots of the control stream -/

/-- A control slot that acts and faults raises its fault. -/
theorem runControl_error {s : State} {c : Ctx} {f : Ctx → Except FaultInfo State} {e : FaultInfo} (h : ctxOf s = some c)
    (guard : c.controlGuard = true) (effect : f c = .error e) : runControl s f = .next (raise s c .c e) :=
  (runControl_acts h guard).trans (runSlot_error h effect)

/-- The entry of one team is all that a change of that team touches. -/
theorem onlyTeam_setTeam (s : State) (k : Nat) (tm : Team) : OnlyTeam s (s.setTeam k tm) k :=
  ⟨rfl, fun _ other => Tab.find_set_ne _ _ _ _ other⟩

theorem onlyTeam_modTeam (s : State) (k : Nat) (g : Team → Team) : OnlyTeam s (s.modTeam k g) k := onlyTeam_setTeam s k _

theorem onlyTeam_modPath (s : State) (k p : Nat) (g : Path → Path) : OnlyTeam s (s.modPath k p g) k := onlyTeam_modTeam s k _

/-! ### TRAP, BKPT and LCMP -/

/-- A path that will stop once its bundle is done keeps the stops that it already has before it. -/
theorem stopLater_stopAfter (s : State) (t p code idx : Nat) :
    (((stopLater s t p code idx).team t).path p).stopAfter = ((s.team t).path p).stopAfter ++ [(code, idx)] := by
  rw [stopLater, State.modPath, team_modTeam, path_modPath]

/-- Whether a register and its shadow differ in a lane (R471). -/
def shadowDiffers (c : Ctx) (v l : Nat) : Bool :=
  readV c.tm c.fr c.cyc v l != readV c.tm c.fr c.cyc (v + c.tm.lineBase) l

/-- LCMP of a register whose shadow the team has is the search for a lane that differs. -/
theorem exec_lcmp {s : State} {c : Ctx} (v : BitVec 11) (h : ctxOf s = some c) (guard : c.controlGuard = true)
    (lined : (c.tk s).lining = true) (within : v.toNat + c.tm.lineBase < c.tm.nregs) :
    exec (.lcmp v) s = match (maskLanes c.pa.active).find? (shadowDiffers c v.toNat) with
      | some l => .next (raise s c .c { code := .liningMismatch, lane := l })
      | none => .next s.bump := by
  show runControl s _ = _
  cases found : (maskLanes c.pa.active).find? (shadowDiffers c v.toNat) with
  | some l => exact runControl_error h guard (by simp only [lined]; unfold shadowDiffers at found; simp [within, found])
  | none => exact runControl_ok h guard (by simp only [lined]; unfold shadowDiffers at found; simp only [found]; simp [within])

/-- Settles O37: TRAP faults, BKPT marks its path, and LCMP goes by what the search over its lanes finds. -/
theorem trapsAndChecks : Obligations.TrapsAndChecks := by
  unfold Obligations.TrapsAndChecks
  refine ⟨fun n s c h guard => ⟨_, runControl_error h guard rfl, rfl⟩, fun s c h guard => ?bkpt, fun v s c h guard => ?lcmp⟩
  case bkpt =>
    dsimp only
    cases live : (s.func (c.tk s).fn).dbgCtl.getLsbD 1 && (c.tk s).debug &&
        ((c.tk s).fn == pfFn || (s.func (c.tk s).fn).dbgLease) with
    | false =>
      have off : ((s.func (c.tk s).fn).bpEn && debugEnabled s (c.tk s)) = false := (Bool.and_assoc ..).symm.trans live
      exact ⟨s, runControl_ok h guard (by simp only [off]; rfl), fun _ => rfl, by simp⟩
    | true =>
      have on : ((s.func (c.tk s).fn).bpEn && debugEnabled s (c.tk s)) = true := (Bool.and_assoc ..).symm.trans live
      exact ⟨stopLater s c.t c.p 0x0D 0, runControl_ok h guard (by simp only [on]; rfl), by simp,
        fun _ => ⟨onlyTeam_modPath s c.t c.p _, stopLater_stopAfter s c.t c.p 0x0D 0⟩⟩
  case lcmp =>
    dsimp only
    cases lined : (c.tk s).lining with
    | false => exact ⟨s, runControl_ok h guard (by simp [lined]), fun _ => rfl, by simp, by simp⟩
    | true =>
      rcases Nat.lt_or_ge (v.toNat + c.tm.lineBase) c.tm.nregs with within | beyond
      · have run := exec_lcmp v h guard lined within
        cases found : (maskLanes c.pa.active).find? (shadowDiffers c v.toNat) with
        | none =>
          rw [found] at run
          have same := List.find?_eq_none.1 found
          refine ⟨_, run, by simp, fun _ beyond => absurd beyond (Nat.not_le.2 within), fun _ _ => ⟨fun _ => rfl, ?_⟩⟩
          intro l mem differs
          exact absurd (bne_iff_ne.2 differs) (same l mem)
        | some k =>
          rw [found] at run
          refine ⟨_, run, by simp, fun _ beyond => absurd beyond (Nat.not_le.2 within), fun _ _ => ⟨?_, ?_⟩⟩
          · intro same
            have differs : shadowDiffers c v.toNat k = true := List.find?_some found
            exact absurd (bne_iff_ne.1 differs) (same k (List.mem_of_find?_eq_some found))
          · intro l mem differs least
            have first := find?_eq_some_of_least (maskLanes_ascending c.pa.active) mem
              (q := shadowDiffers c v.toNat) (bne_iff_ne.2 differs)
              (fun m hm below => by simpa [shadowDiffers] using least m hm below)
            rw [first] at found
            cases found
            rfl
      · exact ⟨_, runControl_error h guard (by simp [lined, beyond]), by simp, fun _ _ => rfl,
          fun _ within => absurd within (Nat.not_lt.2 beyond)⟩

end Sys2Proof.Machine
end

section
/-! PROOFS. The system registers (R248, R260, R304, R468, R469). -/

namespace Sys2Proof.Machine

open Sys2Proof

/-! ### RDSR -/

/-- A register over which values are or-ed has the bits of both. -/
theorem getLsbD_foldl_or {α : Type} (g : α → Word64) (rs : List α) (w : Word64) (j : Nat) :
    (rs.foldl (fun w e => w ||| g e) w).getLsbD j = true ↔ w.getLsbD j = true ∨ ∃ r ∈ rs, (g r).getLsbD j = true := by
  induction rs generalizing w with
  | nil => simp
  | cons r rs ih => simp [ih, or_assoc]

/-- STATUS as read has the bits of the register and the flags of the results that have landed (R304). -/
theorem statusAt_getLsbD (tm : Team) (cyc j : Nat) : (statusAt tm cyc).getLsbD j = true ↔ tm.status.getLsbD j = true ∨
    (j < 6 ∧ ∃ r ∈ tm.pending, r.flag = none ∧ r.due ≤ cyc ∧ r.flags.getLsbD j = true) := by
  rw [statusAt, getLsbD_foldl_or]
  refine or_congr_right ⟨?_, ?_⟩
  · rintro ⟨r, landed, bit⟩
    have narrow : r.flags.getLsbD j = true := by
      rw [BitVec.getLsbD_setWidth, Bool.and_eq_true] at bit
      exact bit.2
    rw [List.mem_filter, Bool.and_eq_true, decide_eq_true_eq, Option.isNone_iff_eq_none] at landed
    obtain ⟨mem, flagless, due⟩ := landed
    exact ⟨BitVec.lt_of_getLsbD narrow, r, mem, flagless, due, narrow⟩
  · rintro ⟨low, r, mem, flagless, due, bit⟩
    refine ⟨r, List.mem_filter.2 ⟨mem, by simp [flagless, due]⟩, ?_⟩
    rw [BitVec.getLsbD_setWidth, bit, Bool.and_true, decide_eq_true_eq]
    omega

theorem readSysReg_chan {n : Nat} (s : State) (c : Ctx) (range : 0x20 ≤ n ∧ n ≤ 0x2F) :
    readSysReg s c n = ((c.crew s).chan (n - 0x20)).cwp.toNat := by
  have other (m : Nat) (low : m < 0x20) : (n == m) = false := beq_eq_false_iff_ne.2 (by omega)
  simp only [readSysReg, other, Nat.reduceLT, Bool.false_eq_true, if_false, range, and_self, if_true]

theorem readSysReg_accw {n : Nat} (s : State) (c : Ctx) (range : 0x100 ≤ n ∧ n ≤ 0x10F) :
    readSysReg s c n = (Tab.get (c.crew s).accw (n - 0x100) 0#64).toNat := by
  have other (m : Nat) (low : m < 0x20) : (n == m) = false := beq_eq_false_iff_ne.2 (by omega)
  have noChan : ¬ (0x20 ≤ n ∧ n ≤ 0x2F) := by omega
  simp only [readSysReg, other, Nat.reduceLT, Bool.false_eq_true, if_false, noChan, range, and_self, if_true, accwWord]

theorem exec_rdsr {s : State} {c : Ctx} (d : BitVec 7) (n : BitVec 16) (h : ctxOf s = some c) (guard : c.controlGuard = true) :
    exec (.rdsr d n) s = .next (s.land c.t [sResult c d.toNat 2 (BitVec.ofNat 64 (readSysReg s c n.toNat))]) :=
  runControl_ok h guard rfl

/-- A scalar result goes into flight in its team. -/
theorem scalarIn_land (s : State) (c : Ctx) (d lat : Nat) (v : Word64) :
    ScalarIn (s.land c.t [sResult c d lat v]) c d lat v := by
  rw [ScalarIn, InFlight, State.land, team_modTeam]
  exact addResults_new (List.mem_singleton.2 rfl)

theorem onlyTeam_land (s : State) (k : Nat) (rs : List PendRes) : OnlyTeam s (s.land k rs) k := onlyTeam_modTeam s k _

/-! ### WRSR -/

/-- The bits of STATUS that a write of 1 clears (R248). -/
theorem statusW1c_getLsbD {j : Nat} (low : j < 64) : statusW1c.getLsbD j = (decide (j < 6) || j == 8 || j == 9) := by
  have all : ∀ k : Fin 64, statusW1c.getLsbD k = (decide ((k : Nat) < 6) || (k : Nat) == 8 || (k : Nat) == 9) := by decide
  exact all ⟨j, low⟩

theorem statusWrite_getLsbD (tm : Team) (cyc : Nat) (v : Word64) {j : Nat} (low : j < 64) :
    (statusWrite tm cyc v).getLsbD j = ((tm.status.getLsbD j && !(v.getLsbD j && (decide (j < 6) || j == 8 || j == 9))) ||
      (decide (j < 6) && decide (tm.raisedAt = cyc) && tm.raised.getLsbD j)) := by
  have kept : (if tm.raisedAt == cyc then tm.raised else 0#6).getLsbD j =
      (decide (j < 6) && decide (tm.raisedAt = cyc) && tm.raised.getLsbD j) := by
    by_cases now : tm.raisedAt = cyc
    · by_cases six : j < 6
      · simp [now, six]
      · simp [now, six, BitVec.getLsbD_of_ge _ j (Nat.le_of_not_lt six)]
    · simp [now]
  simp only [statusWrite, BitVec.getLsbD_or, BitVec.getLsbD_and, BitVec.getLsbD_not, BitVec.getLsbD_setWidth, low, decide_true,
    Bool.true_and, statusW1c_getLsbD low, kept]

section Write
variable {s u : State} {c : Ctx} {d : BitVec 7} {n : BitVec 16}

/-- WRSR bumps what the write of the register leaves. -/
theorem exec_wrsr (h : ctxOf s = some c) (guard : c.controlGuard = true)
    (write : writeSysReg s c n.toNat (BitVec.ofNat 64 (c.sreg d.toNat)) = .ok u) : exec (.wrsr d n) s = .next u.bump :=
  runControl_ok h guard (by simp only [write])

/-- WRSR raises the fault of the write. -/
theorem exec_wrsr_faults {e : FaultInfo} (h : ctxOf s = some c) (guard : c.controlGuard = true)
    (write : writeSysReg s c n.toNat (BitVec.ofNat 64 (c.sreg d.toNat)) = .error e) :
    exec (.wrsr d n) s = .next (raise s c .c e) :=
  runControl_error h guard (by simp only [write])

end Write

theorem writeSysReg_status (s : State) (c : Ctx) (v : Word64) : writeSysReg s c 0 v =
    .ok (s.modTeam c.t (fun tm => { tm with status := statusWrite tm c.cyc v })) := rfl

/-- The state after a write of the watchdog's limits: the team's word and the task's (R160). -/
def wdogSet (s : State) (c : Ctx) (v : Word64) : State :=
  (s.modTeam c.t (fun tm => { tm with wdogLimit := v.setWidth 16 })).modTask c.tm.task
    (fun k => { k with ovrlim := fld v.toNat 48 8 })

theorem writeSysReg_wdog (s : State) (c : Ctx) (v : Word64) : writeSysReg s c 1 v = .ok (wdogSet s c v) := rfl

theorem wdogSet_team (s : State) (c : Ctx) (v : Word64) : ((wdogSet s c v).team c.t).wdogLimit = v.setWidth 16 :=
  congrArg Team.wdogLimit (team_modTeam s c.t (fun tm => { tm with wdogLimit := v.setWidth 16 }))

theorem wdogSet_task (s : State) (c : Ctx) (v : Word64) :
    ((wdogSet s c v).task c.tm.task).ovrlim = v.toNat / 2 ^ 48 % 256 := by
  rw [wdogSet, State.modTask, task_setTask]
  rfl

theorem writeSysReg_line (s : State) (c : Ctx) (v : Word64) : writeSysReg s c 4 v =
    if v.toNat % 16 = 0 ∧ v.toNat ≤ 512 then .ok (s.modTeam c.t (fun tm => { tm with lineBase := v.toNat }))
    else .error (flt .illegalOperand) := by
  show (if (v.toNat % 16 != 0 || decide (512 < v.toNat)) = true then _ else _) = _
  by_cases good : v.toNat % 16 = 0 ∧ v.toNat ≤ 512
  · rw [if_neg (by simpa using good), if_pos good]
  · rw [if_pos (by simpa [or_iff_not_imp_left] using good), if_neg good]

/-- A window is what the registers between 0x100 and 0x10F are written by. -/
theorem writeSysReg_accw {n : Nat} (s : State) (c : Ctx) (v : Word64) (range : 0x100 ≤ n ∧ n ≤ 0x10F) :
    writeSysReg s c n v = writeAccw s c (n - 0x100) v := by
  have other (m : Nat) (low : m < 0x20) : (n == m) = false := beq_eq_false_iff_ne.2 (by omega)
  simp only [writeSysReg, other, Nat.reduceLT, Bool.false_eq_true, if_false, range, and_self, if_true]

/-- A register that is none of those that are written keeps its value. -/
theorem writeSysReg_readOnly {n : Nat} (s : State) (c : Ctx) (v : Word64) (status : n ≠ 0) (wdog : n ≠ 1) (line : n ≠ 4)
    (window : ¬ (0x100 ≤ n ∧ n ≤ 0x10F)) : writeSysReg s c n v = .ok s := by
  simp [writeSysReg, status, wdog, line, window]

/-- The state after the leader has set the window of team k: the crew's word, and the window of the team that is there. -/
def windowSet (s : State) (c : Ctx) (k base lim : Nat) : State :=
  let s1 := s.setCrew c.tm.crew { c.crew s with accw := Tab.set (c.crew s).accw k (BitVec.ofNat 64 (base + 2 ^ 16 * lim)) }
  match (c.crew s).teams.find? (fun x => (s1.team x).tix == k) with
  | some x => s1.modTeam x (fun tm => { tm with accBase := base, accLim := lim })
  | none => s1

theorem windowSet_word (s : State) (c : Ctx) (k base lim : Nat) :
    Tab.get ((windowSet s c k base lim).crew c.tm.crew).accw k 0#64 = BitVec.ofNat 64 (base + 2 ^ 16 * lim) := by
  have set : ((windowSet s c k base lim).crew c.tm.crew).accw =
      Tab.set (c.crew s).accw k (BitVec.ofNat 64 (base + 2 ^ 16 * lim)) := by
    unfold windowSet
    dsimp only
    split
    · exact congrArg Crew.accw (crew_setCrew s c.tm.crew _)
    · exact congrArg Crew.accw (crew_setCrew s c.tm.crew _)
  rw [set, Tab.get_set_same]

theorem windowSet_team {s : State} {c : Ctx} {k base lim x : Nat}
    (there : (c.crew s).teams.find? (fun y => (s.team y).tix == k) = some x) :
    ((windowSet s c k base lim).team x).accBase = base ∧ ((windowSet s c k base lim).team x).accLim = lim := by
  unfold windowSet
  dsimp only
  split
  next y found =>
    cases there.symm.trans found
    rw [team_modTeam]
    exact ⟨rfl, rfl⟩
  next missing => exact absurd (there.symm.trans missing) (by simp)

/-- What WRSR of a window does (R469), by its checks in their order. -/
theorem writeAccw_eq (s : State) (c : Ctx) (k : Nat) (v : Word64) : writeAccw s c k v =
    if c.tm.tix ≠ 0 then .error (flt .illegalOperand)
    else if (s.task (c.crew s).task).teamsPerCrew ≤ k then .ok s
    else if (c.crew s).accRows < v.toNat % 2 ^ 11 + v.toNat / 2 ^ 16 % 2 ^ 11 then .error (flt .illegalOperand)
    else .ok (windowSet s c k (v.toNat % 2 ^ 11) (v.toNat / 2 ^ 16 % 2 ^ 11)) := by
  have base : fld v.toNat 0 11 = v.toNat % 2 ^ 11 := by simp [fld]
  have lim : fld v.toNat 16 11 = v.toNat / 2 ^ 16 % 2 ^ 11 := rfl
  simp only [writeAccw, base, lim, teamCount, bne_iff_ne]
  split
  · rfl
  · split
    · rfl
    · split
      · rfl
      · rw [windowSet]
        generalize List.find? _ (c.crew s).teams = there
        cases there <;> rfl

/-! ### The obligation -/

/-- Settles O33: RDSR by the value of each register, WRSR by the outcome of its write. -/
theorem systemRegisters : Obligations.SystemRegisters := by
  unfold Obligations.SystemRegisters
  refine ⟨fun d n s c h guard => ?read, fun d n s c h guard => ?write⟩
  case read =>
    refine ⟨_, exec_rdsr d n h guard, onlyTeam_land s c.t _, _, scalarIn_land s c d.toNat 2 _, ?_⟩
    dsimp only
    split
    next reg =>
      intro j _
      rw [reg, show readSysReg s c 0 = (statusAt (s.team c.t) c.cyc).toNat from rfl, BitVec.ofNat_toNat, BitVec.setWidth_eq]
      exact statusAt_getLsbD (s.team c.t) c.cyc j
    next reg => rw [reg]; rfl
    next reg => rw [reg]; rfl
    next reg => rw [reg]; rfl
    next reg => rw [reg]; rfl
    next reg =>
      rw [reg, show readSysReg s c 5 = (s.func (c.tk s).fn).hemline.toNat from rfl, BitVec.ofNat_toNat, BitVec.setWidth_eq]
    next reg => rw [reg, show readSysReg s c 6 = (c.tk s).ts.toNat from rfl, BitVec.ofNat_toNat, BitVec.setWidth_eq]
    next reg => rw [reg]; rfl
    next reg =>
      rw [reg, show readSysReg s c 8 = (c.tk s).lrec.widw.toNat / 2 ^ 0 % 2 ^ 36 from rfl, BitVec.toNat_ofNat]
      omega
    next reg => rw [reg]; rfl
    next reg => rw [reg]; rfl
    next reg => rw [reg]; rfl
    next reg =>
      rw [reg, show readSysReg s c 12 = (if (c.tk s).fn == pfFn then 0 else (s.func (c.tk s).fn).part.toNat) from rfl]
      by_cases pf : (c.tk s).fn = pfFn
      · simp [pf]
      · simp [pf]
    next reg =>
      intro j low
      rw [reg, show readSysReg s c 13 = (~~~(s.func (c.tk s).fn).feat).toNat from rfl, BitVec.ofNat_toNat]
      simp [low]
    next reg => rw [reg]; rfl
    next reg => rw [reg]; rfl
    next reg => rw [reg]; rfl
    next =>
      refine ⟨fun range => ?_, fun range => ?_⟩
      · rw [readSysReg_chan s c range, BitVec.ofNat_toNat, BitVec.setWidth_eq]
      · rw [readSysReg_accw s c range, BitVec.ofNat_toNat, BitVec.setWidth_eq]
  case write =>
    dsimp only
    split
    next reg =>
      refine ⟨_, exec_wrsr h guard (reg ▸ writeSysReg_status s c _), fun j low => ?_⟩
      rw [team_bump, team_modTeam]
      exact statusWrite_getLsbD (s.team c.t) c.cyc _ low
    next reg =>
      have write := writeSysReg_wdog s c (BitVec.ofNat 64 (c.sreg d.toNat))
      rw [← reg] at write
      exact ⟨_, exec_wrsr h guard write, wdogSet_team s c _, wdogSet_task s c _⟩
    next reg =>
      have write := writeSysReg_line s c (BitVec.ofNat 64 (c.sreg d.toNat))
      rw [← reg] at write
      split
      next good =>
        refine ⟨_, exec_wrsr h guard (write.trans (if_pos good)), ?_⟩
        rw [team_bump, team_modTeam]
      next bad => exact ⟨_, exec_wrsr_faults h guard (write.trans (if_neg bad)), rfl⟩
    next status wdog line =>
      split
      next window =>
        have write := (writeSysReg_accw s c (BitVec.ofNat 64 (c.sreg d.toNat)) window).trans (writeAccw_eq ..)
        split
        next follower => exact ⟨_, exec_wrsr_faults h guard (write.trans (if_pos follower)), rfl⟩
        next leader =>
          rw [if_neg leader] at write
          split
          next beyond => exact ⟨_, exec_wrsr h guard (write.trans (if_pos beyond)), rfl⟩
          next within =>
            rw [if_neg within] at write
            split
            next tooLarge => exact ⟨_, exec_wrsr_faults h guard (write.trans (if_pos tooLarge)), rfl⟩
            next fits =>
              exact ⟨_, exec_wrsr h guard (write.trans (if_neg fits)), windowSet_word s c _ _ _,
                fun x there => windowSet_team there⟩
      next other =>
        exact ⟨_, exec_wrsr h guard (writeSysReg_readOnly s c _ status wdog line other), rfl⟩

end Sys2Proof.Machine
end

section
/-! PROOFS. Results land, and what a stopped team has in flight is frozen (R224, R231, R245, R246, R290, R304). -/

namespace Sys2Proof.Machine

open Sys2Proof

/-! ### Tables -/

theorem Tab.find_none_of_fresh {α : Type} {t : Tab α} {n : Nat} (fresh : n ∉ t.map Prod.fst) : Tab.find t n = none := by
  cases found : Tab.find t n with
  | none => rfl
  | some v => exact absurd (List.mem_map_of_mem (f := Prod.fst) (Tab.mem_of_find found)) fresh

/-- A key that a table lists once has its value in the table's writes. -/
theorem Tab.get_setAll_of_nodup {α β : Type} {l : Tab α} (distinct : (l.map Prod.fst).Nodup) (g : α → β) (t : Tab β) (k : Nat)
    (d : β) : Tab.get (Tab.setAll t (l.map (fun e => (e.1, g e.2)))) k d = (Tab.find l k).elim (Tab.get t k d) g := by
  induction l generalizing t with
  | nil => rfl
  | cons e l ih =>
    obtain ⟨n, w⟩ := e
    obtain ⟨fresh, rest⟩ := List.nodup_cons.1 distinct
    have step := ih rest (Tab.set t n (g w))
    simp only [Tab.setAll, List.map_cons, List.foldl_cons] at step ⊢
    rw [step]
    by_cases same : n = k
    · subst same
      simp [Tab.find, Tab.find_none_of_fresh fresh]
    · simp only [Tab.find, if_neg same, Tab.get_set_ne _ _ _ _ _ (Ne.symm same)]

/-! ### Landing leaves in flight what does not land -/

theorem landList_pending (tm : Team) (fr : Nat) (stay es : List PendRes) : (landList tm fr stay es).pending = stay := by
  induction es generalizing tm with
  | nil => rfl
  | cons e es ih => exact ih _

/-- What lands by a cycle is no longer in flight (R224). -/
theorem mem_landDue_pending {tm : Team} {fr cyc : Nat} {r : PendRes} :
    r ∈ (landDue tm fr cyc).pending ↔ r ∈ tm.pending ∧ ¬ (r.flag = none ∧ r.due ≤ cyc) := by
  rw [landDue, landList_pending, List.mem_filter, Bool.not_eq_true', Bool.and_eq_false_imp]
  simp only [Option.isNone_iff_eq_none, decide_eq_false_iff_not, not_and]

/-! ### The order of landing keeps every result -/

theorem insertDue_perm (e : PendRes) (l : List PendRes) : (insertDue e l).Perm (e :: l) := by
  induction l with
  | nil => rfl
  | cons g l ih =>
    rw [insertDue]
    split
    · rfl
    · exact (ih.cons g).trans (.swap e g l)

theorem sortDue_perm (l : List PendRes) : (sortDue l).Perm l := by
  suffices all : ∀ acc : List PendRes, (l.foldl (fun acc e => insertDue e acc) acc).Perm (acc ++ l) from all []
  induction l with
  | nil => simp
  | cons e l ih =>
    intro acc
    exact (ih (insertDue e acc)).trans (((insertDue_perm e acc).append_right l).trans List.perm_middle.symm)

/-- The rows of the frozen latch image do not depend on the order of the results. -/
theorem rowsOf_eq_sum (l : List PendRes) : rowsOf l = (l.map PendRes.rows).sum := by
  rw [rowsOf, List.sum_eq_foldl, List.foldl_map]

theorem rowsOf_perm {l m : List PendRes} (h : l.Perm m) : rowsOf l = rowsOf m := by
  rw [rowsOf_eq_sum, rowsOf_eq_sum, (h.map PendRes.rows).sum_eq]

/-! ### One result that lands alone -/

/-- One result that is due and alone in flight lands with all its values. -/
theorem landDue_single {tm : Team} {fr cyc : Nat} {r : PendRes} (alone : tm.pending = [r]) (flagless : r.flag = none)
    (due : r.due ≤ cyc) : landDue tm fr cyc = { landOne tm fr [] r with pending := [] } := by
  have lands : (r.flag.isNone && decide (r.due ≤ cyc)) = true := by simp [flagless, due]
  simp only [landDue, alone, List.filter_cons, lands, Bool.not_true, Bool.false_eq_true, if_true, if_false, List.filter_nil]
  rfl

theorem landVals_of_noClash {fr : Nat} {rest : List PendRes} {e : PendRes} (single : e.clash = false) :
    landVals fr rest e = e.vals := by simp [landVals, single]

theorem landLatch_leaves (tm : Team) (e : PendRes) (vals : List (Nat × Word64)) :
    (landLatch tm e vals).vregs = tm.vregs ∧ (landLatch tm e vals).tags = tm.tags ∧ (landLatch tm e vals).preds = tm.preds ∧
      (landLatch tm e vals).sregs = tm.sregs ∧ (landLatch tm e vals).status = tm.status := by
  unfold landLatch
  cases e.latch with
  | none => exact ⟨rfl, rfl, rfl, rfl, rfl⟩
  | some id => cases id <;> exact ⟨rfl, rfl, rfl, rfl, rfl⟩

theorem tagReg_leaves (tm : Team) (tag : Option Fmt) (r : Nat) :
    (tagReg tm tag r).vregs = tm.vregs ∧ (tagReg tm tag r).status = tm.status := by cases tag <;> exact ⟨rfl, rfl⟩

theorem landDest_status (tm : Team) (e : PendRes) (vals : List (Nat × Word64)) : (landDest tm e vals).status = tm.status := by
  unfold landDest
  split
  · exact (tagReg_leaves _ _ _).2
  · exact (tagReg_leaves _ _ _).2.trans (tagReg_leaves _ _ _).2
  all_goals rfl

/-- A result that lands alone leaves the registers as its destination takes them, and its flags in STATUS. -/
theorem landOne_leaves {tm : Team} {fr : Nat} {rest : List PendRes} {e : PendRes} (single : e.clash = false) :
    (landOne tm fr rest e).vregs = (landDest tm e e.vals).vregs ∧ (landOne tm fr rest e).tags = (landDest tm e e.vals).tags ∧
      (landOne tm fr rest e).preds = (landDest tm e e.vals).preds ∧ (landOne tm fr rest e).sregs = (landDest tm e e.vals).sregs ∧
      (landOne tm fr rest e).status = tm.status ||| e.flags.setWidth 64 := by
  obtain ⟨vregs, tags, preds, sregs, status⟩ := landLatch_leaves (landDest tm e e.vals) e e.vals
  simp only [landOne, landVals_of_noClash single]
  exact ⟨vregs, tags, preds, sregs, by rw [status, landDest_status]⟩

/-! ### What a destination takes -/

/-- The lanes of a register that is written take the values; its other lanes and the other registers stay. -/
theorem setLanes_lane {vals : Tab Word64} (distinct : (vals.map Prod.fst).Nodup) (tm : Team) (r l : Nat) (half : Word64 → Nat) :
    Tab.get (Tab.get (setLanes tm r (vals.map (fun v => (v.1, half v.2)))).vregs r []) l 0#32 =
      (Tab.find vals l).elim (Tab.get (Tab.get tm.vregs r []) l 0#32) (fun w => BitVec.ofNat 32 (half w)) := by
  rw [setLanes, Tab.get_set_same, List.map_map]
  exact Tab.get_setAll_of_nodup distinct (fun w => BitVec.ofNat 32 (half w)) _ l 0#32

theorem setLanes_other (tm : Team) (r : Nat) (vals : List (Nat × Nat)) {e : Nat} (other : e ≠ r) :
    Tab.find (setLanes tm r vals).vregs e = Tab.find tm.vregs e := Tab.find_set_ne _ _ _ _ other

theorem setLanes_otherRow (tm : Team) (r : Nat) (vals : List (Nat × Nat)) {e : Nat} (other : e ≠ r) :
    Tab.get (setLanes tm r vals).vregs e [] = Tab.get tm.vregs e [] := Tab.get_set_ne _ _ _ _ _ other

theorem ofNat_low (w : Word64) : BitVec.ofNat 32 (w.toNat % 2 ^ 32) = w.setWidth 32 := by
  apply BitVec.eq_of_toNat_eq; simp

theorem ofNat_high (w : Word64) : BitVec.ofNat 32 (w.toNat / 2 ^ 32) = (w >>> 32).setWidth 32 := by
  apply BitVec.eq_of_toNat_eq; simp [Nat.shiftRight_eq_div_pow]

/-- A lane of a predicate set or cleared (R226). -/
def setPredLane (m : Mask) (v : Nat × Word64) : Mask :=
  if v.2 != 0#64 then m ||| BitVec.ofNat 1024 (2 ^ v.1) else m &&& ~~~(BitVec.ofNat 1024 (2 ^ v.1))

theorem setPredLanes_cons (m : Mask) (v : Nat × Word64) (l : List (Nat × Word64)) :
    setPredLanes m (v :: l) = setPredLanes (setPredLane m v) l := rfl

theorem maskHas_eq (m : Mask) (l : Nat) : maskHas m l = m.getLsbD l := rfl

theorem getLsbD_ofNat_two_pow {n l : Nat} (hn : n < 1024) : (BitVec.ofNat 1024 (2 ^ n)).getLsbD l = decide (n = l) := by
  rw [BitVec.getLsbD_ofNat, Nat.testBit_two_pow]
  by_cases same : n = l
  · simp [same ▸ hn, same]
  · simp [same]

theorem maskHas_setPredLane {n l : Nat} (m : Mask) (w : Word64) (hn : n < 1024) (low : l < 1024) :
    maskHas (setPredLane m (n, w)) l = if n = l then w != 0#64 else maskHas m l := by
  rw [maskHas_eq, maskHas_eq, setPredLane]
  cases w != 0#64 with
  | true =>
    rw [if_pos rfl, BitVec.getLsbD_or, getLsbD_ofNat_two_pow hn]
    by_cases same : n = l <;> simp only [same, decide_true, decide_false, Bool.or_true, Bool.or_false, if_true, if_false]
  | false =>
    rw [if_neg Bool.false_ne_true, BitVec.getLsbD_and, BitVec.getLsbD_not, getLsbD_ofNat_two_pow hn]
    by_cases same : n = l <;> simp only [same, low, decide_true, decide_false, Bool.not_true, Bool.not_false, Bool.and_true,
      Bool.and_false, if_true, if_false]

/-- A predicate's lanes below 1024 that a result names take its values. -/
theorem maskHas_setPredLanes {vals : Tab Word64} (distinct : (vals.map Prod.fst).Nodup) (lanes : ∀ q ∈ vals, q.1 < 1024)
    (m : Mask) {l : Nat} (low : l < 1024) :
    maskHas (setPredLanes m vals) l = (Tab.find vals l).elim (maskHas m l) (fun w => w != 0#64) := by
  induction vals generalizing m with
  | nil => rfl
  | cons e vals ih =>
    obtain ⟨n, w⟩ := e
    obtain ⟨fresh, rest⟩ := List.nodup_cons.1 distinct
    rw [setPredLanes_cons, ih rest (fun q hq => lanes q (List.mem_cons_of_mem _ hq)),
      maskHas_setPredLane m w (lanes (n, w) (by simp)) low]
    by_cases same : n = l
    · subst same
      simp [Tab.find, Tab.find_none_of_fresh fresh]
    · simp only [Tab.find, if_neg same]

/-! ### The frozen latch image -/

/-- Nothing lands before the latch image is taken where all rows fit in it (R245). -/
theorem fliKeep_of_fits {l : List PendRes} (fits : rowsOf l ≤ 16) : fliKeep l = l := by
  cases l with
  | nil => rfl
  | cons e l => exact if_pos fits

/-- The latest result of a team whose image fits is due within the cycles that REMAIN can say (R246). -/
theorem lastDue_le {l : List PendRes} {now : Nat} (within : ∀ e ∈ l, e.due ≤ now + 63) :
    (l.getLast?.map PendRes.due).getD 0 - 63 ≤ now := by
  cases last : l.getLast? with
  | none => simp
  | some e => have := within e (List.mem_of_getLast? last); simp; omega

/-- A latch image that fits is what is in flight without a flag, with the cycles that remain (R245). -/
theorem takeFli_of_fits {tm : Team} {fr now : Nat} (free : tm.fliTaken = false) (fits : fliFits tm now = true) :
    (takeFli tm fr now).fli = (sortDue (fixedPending tm)).map (fun e => { e with due := max 1 (e.due - now) }) ∧
      (takeFli tm fr now).pending = [] ∧ (takeFli tm fr now).fliTaken = true := by
  obtain ⟨rows, within⟩ := Bool.and_eq_true_iff.1 fits
  have order := sortDue_perm (fixedPending tm)
  have keep : fliKeep (sortDue (fixedPending tm)) = sortDue (fixedPending tm) :=
    fliKeep_of_fits (rowsOf_perm order ▸ of_decide_eq_true rows)
  have far : ((sortDue (fixedPending tm)).getLast?.map PendRes.due).getD 0 - 63 ≤ now :=
    lastDue_le (fun e he => of_decide_eq_true (List.all_eq_true.1 within e (order.mem_iff.1 he)))
  simp only [takeFli, free, keep, far, Bool.false_eq_true, if_false, if_true, Nat.sub_self, Nat.max_self, List.take_zero,
    List.drop_zero, List.getLast?_nil, Option.map_none, Option.getD_none, Nat.max_eq_right, and_true]
  show (landList _ _ _ _).pending.map _ = _
  rw [landList_pending]

/-! ### The obligation -/

theorem exec_resultLanding {s : State} {k : Nat} (due : landingDue s k = true) :
    exec (.resultLanding k) s = .next (s.modTeam k (fun tm => landDue tm s.free s.now)).bump := if_pos due

theorem exec_fliCapture {s : State} {k : Nat} (due : fliDue s k = true) :
    exec (.fliCapture k) s = .next (s.modTeam k (fun tm => takeFli tm s.free s.now)).bump := if_pos due

theorem onlyTeam_bump {s t : State} {k : Nat} (h : OnlyTeam s t k) : OnlyTeam s t.bump k := by
  obtain ⟨rest, other⟩ := h
  refine ⟨?_, other⟩
  rw [rest]
  rfl

/-- A landing of which one result is all that is in flight is the landing of that result. -/
theorem landing_single {s : State} {k : Nat} {r : PendRes} (due : landingDue s k = true) (alone : (s.team k).pending = [r]) :
    (s.modTeam k (fun tm => landDue tm s.free s.now)).bump.team k =
      { landOne (s.team k) s.free [] r with pending := [] } := by
  simp only [landingDue, alone, List.any_cons, List.any_nil, Bool.or_false, Bool.and_eq_true, Option.isNone_iff_eq_none,
    decide_eq_true_eq] at due
  rw [team_bump, team_modTeam, landDue_single alone due.1 due.2]

/-- Settles O39: a landing by what its one result's destination takes, a capture by what the frozen image holds. -/
theorem resultsLand : Obligations.ResultsLand := by
  unfold Obligations.ResultsLand
  refine ⟨fun s k due => ⟨_, exec_resultLanding due, onlyTeam_bump (onlyTeam_modTeam s k _), fun r inFlight => ?_,
    fun r alone single distinct => ?single⟩, fun s k due => ?capture⟩
  · rw [team_bump, team_modTeam] at inFlight
    exact mem_landDue_pending.1 inFlight
  case single =>
    obtain ⟨vregs, tags, preds, sregs, status⟩ := landOne_leaves (tm := s.team k) (fr := s.free) (rest := []) single
    rw [landing_single due alone]
    refine ⟨status, ?_⟩
    dsimp only
    rw [vregs, tags, preds, sregs]
    cases dest : r.dest with
    | vreg d =>
      simp only [landDest, dest, (tagReg_leaves _ _ _).1]
      refine ⟨fun l => ?_, fun e other => setLanes_other _ _ _ other, fun f tag => ?_⟩
      · rw [lowHalves, setLanes_lane distinct (s.team k) d l (fun w => w.toNat % 2 ^ 32)]
        cases Tab.find r.vals l with
        | none => rfl
        | some w => exact ofNat_low w
      · rw [tag]
        exact Tab.get_set_same _ _ _ _
    | vpair d =>
      intro l w found
      simp only [landDest, dest, (tagReg_leaves _ _ _).1]
      constructor
      · rw [setLanes_otherRow _ _ _ (Nat.ne_of_lt (Nat.lt_add_one d)), (tagReg_leaves _ _ _).1, lowHalves,
          setLanes_lane distinct (s.team k) d l (fun w => w.toNat % 2 ^ 32), found]
        exact ofNat_low w
      · rw [highHalves, setLanes_lane distinct _ (d + 1) l (fun w => w.toNat / 2 ^ 32), found]
        exact ofNat_high w
    | sreg n =>
      intro w value
      simp only [landDest, dest, value, and_true]
      exact Tab.get_set_same _ _ _ _
    | pred p =>
      intro l low lanes
      simp only [landDest, dest, Tab.get_set_same]
      rw [maskHas_setPredLanes distinct lanes _ low]
      cases Tab.find r.vals l <;> rfl
    | latchOnly => simp only [landDest, dest, and_self]
    | nothing => simp only [landDest, dest, and_self]
  case capture =>
    refine ⟨_, exec_fliCapture due, onlyTeam_bump (onlyTeam_modTeam s k _), ?_⟩
    simp only [fliDue, Bool.and_eq_true, Bool.not_eq_true'] at due
    obtain ⟨⟨⟨-, free⟩, -⟩, fits⟩ := due
    obtain ⟨frozen, empty, taken⟩ := takeFli_of_fits (fr := s.free) free fits
    rw [team_bump, team_modTeam, frozen]
    refine ⟨empty, taken, fun e => ?_⟩
    simp only [List.mem_map, (sortDue_perm _).mem_iff, fixedPending, List.mem_filter, Option.isNone_iff_eq_none]
    constructor
    · rintro ⟨r, ⟨mem, flagless⟩, rfl⟩
      exact ⟨r, mem, flagless, rfl⟩
    · rintro ⟨r, mem, flagless, rfl⟩
      exact ⟨r, ⟨mem, flagless⟩, rfl⟩

end Sys2Proof.Machine
end

section
/-! PROOFS. What a slot sees of its team, and REGROUP (R242, R456). -/

namespace Sys2Proof.Machine

open Sys2Proof

/-! ### What a slot sees of its team and its path -/

/-- A slot sees its team as it stands but for what is in flight: of that, what was before its bundle. -/
theorem ctxOf_team {s : State} {c : Ctx} (h : ctxOf s = some c) : ∃ flying, c.tm = { s.team c.t with pending := flying } := by
  obtain ⟨i, tm, issue, team, path, t, -⟩ := ctxOf_some h
  have stands : s.team c.t = tm := t ▸ Tab.get_of_find _ team
  simp only [ctxOf, issue, team, path, Option.some.injEq] at h
  have seen : seenTeam tm i.seen = c.tm := congrArg Ctx.tm h
  rw [← seen, stands]
  cases i.seen with
  | none => exact ⟨tm.pending, rfl⟩
  | some n => exact ⟨tm.pending.take n, rfl⟩

/-- The issuing path is one of its team. -/
theorem ctxOf_findPath {s : State} {c : Ctx} (h : ctxOf s = some c) : Tab.find (s.team c.t).paths c.p = some c.pa := by
  obtain ⟨i, tm, -, team, path, t, p, -⟩ := ctxOf_some h
  have stands : s.team c.t = tm := t ▸ Tab.get_of_find _ team
  rw [stands, p]
  exact path

theorem ctxOf_path {s : State} {c : Ctx} (h : ctxOf s = some c) : (s.team c.t).path c.p = c.pa :=
  Tab.get_of_find _ (ctxOf_findPath h)

/-- The issuing team is one of the state's. -/
theorem ctxOf_findTeam {s : State} {c : Ctx} (h : ctxOf s = some c) : Tab.find s.teams c.t = some (s.team c.t) := by
  obtain ⟨i, tm, -, team, -, t, -⟩ := ctxOf_some h
  have stands : s.team c.t = tm := t ▸ Tab.get_of_find _ team
  rw [stands, t]
  exact team

/-! ### The ranges of REGROUP -/

/-- Range word i (R456). -/
def regroupRange (c : Ctx) (a i : Nat) : Nat := fld (c.sreg (a + i / 2)) (32 * (i % 2)) 32

theorem mem_regroupRanges {c : Ctx} {a w : Nat} : w ∈ regroupRanges c a ↔ ∃ i, i < 8 ∧ regroupRange c a i = w := by
  simp [regroupRanges, regroupRange]

/-- The registers that are listed are those of the ranges. -/
theorem mem_regroupRegs {rs : List Nat} {r : Nat} :
    r ∈ regroupRegs rs ↔ ∃ w ∈ rs, fld w 0 11 ≤ r ∧ r < fld w 0 11 + fld w 11 11 := by
  simp only [regroupRegs, List.mem_eraseDups, List.mem_flatMap, List.mem_map, List.mem_range]
  refine exists_congr fun w => and_congr_right fun _ => ⟨?_, ?_⟩
  · rintro ⟨i, low, rfl⟩
    omega
  · rintro ⟨from_, to_⟩
    exact ⟨r - fld w 0 11, by omega, by omega⟩

/-- A range word has a reserved bit set. -/
def RangeBad (c : Ctx) (a : Nat) : Prop := ∃ i, i < 8 ∧ fld (regroupRange c a i) 22 10 ≠ 0

/-- A range that is not empty reaches beyond the team's registers. -/
def RangePast (c : Ctx) (a : Nat) : Prop := ∃ i, i < 8 ∧ fld (regroupRange c a i) 11 11 ≠ 0 ∧
  c.tm.nregs < fld (regroupRange c a i) 0 11 + fld (regroupRange c a i) 11 11

theorem rangeBad_iff {c : Ctx} {a : Nat} : (regroupRanges c a).any (fun r => fld r 22 10 != 0) = true ↔ RangeBad c a := by
  simp [List.any_eq_true, mem_regroupRanges, RangeBad]

theorem rangePast_iff {c : Ctx} {a : Nat} : (regroupRanges c a).any
    (fun r => fld r 11 11 != 0 && decide (c.tm.nregs < fld r 0 11 + fld r 11 11)) = true ↔ RangePast c a := by
  simp [List.any_eq_true, mem_regroupRanges, RangePast]

/-! ### The state that REGROUP leaves -/

/-- The issuing path after a REGROUP of n lanes and some registers. -/
def regroupPath (c : Ctx) (n regs words : Nat) (pa : Path) : Path :=
  { pa with base := maskUpTo n, keep := [], stall := 1, readyAt := max pa.readyAt (c.cyc + 2 + regs * words) }

/-- The team after a REGROUP: its active lanes at the low places, which are its path's base mask. -/
def regroupedTeam (s : State) (c : Ctx) (a : Nat) : Team :=
  let regs := regroupRegs (regroupRanges c a)
  let tm := regroupTeam c (s.team c.t) regs
  tm.modPath c.p (regroupPath c (maskLanes c.pa.active).length regs.length tm.words)

/-- The accesses follow their lanes, the team is regrouped, and the count of its lanes goes to Sd. -/
def regrouped (s : State) (c : Ctx) (d a : Nat) : State :=
  let lanes := maskLanes c.pa.active
  let s1 := { s with accesses := s.accesses.map (fun (e : Nat × Access) => (e.1, regroupAccess c.t lanes e.2)) }
  ((s1.setTeam c.t (regroupedTeam s c a)).land c.t [sResult c d 2 (BitVec.ofNat 64 lanes.length)]).bump

section Exec
variable {s : State} {c : Ctx} {d a : BitVec 7} (h : ctxOf s = some c) (guard : c.controlGuard = true)

include h in
/-- The registers and the paths that a slot sees are its team's. -/
theorem ctxOf_nregs : (s.team c.t).nregs = c.tm.nregs ∧ (s.team c.t).paths = c.tm.paths := by
  obtain ⟨flying, seen⟩ := ctxOf_team h
  simp [seen]

include h guard

theorem exec_regroup_bad (bad : RangeBad c a.toNat) : exec (.regroup d a) s = .next (raise s c .c (flt .illegalOperand)) :=
  runControl_error h guard (if_pos (rangeBad_iff.2 bad))

theorem exec_regroup_past (sound : ¬ RangeBad c a.toNat) (past : RangePast c a.toNat) :
    exec (.regroup d a) s = .next (raise s c .c (flt .regBounds)) := by
  refine runControl_error h guard ((if_neg (mt rangeBad_iff.1 sound)).trans ?_)
  rw [(ctxOf_nregs h).1]
  exact if_pos (rangePast_iff.2 past)

/-- REGROUP of a sound list, in a team of one path without a mask stack and in any other. -/
theorem exec_regroup_sound (sound : ¬ RangeBad c a.toNat) (within : ¬ RangePast c a.toNat) :
    exec (.regroup d a) s = if c.tm.paths.length = 1 ∧ c.pa.stack = [] then .next (regrouped s c d.toNat a.toNat)
      else .next (raise s c .c (flt .illegalOperand)) := by
  obtain ⟨nregs, paths⟩ := ctxOf_nregs h
  have noBad := mt rangeBad_iff.1 sound
  have noPast := mt rangePast_iff.1 within
  by_cases single : c.tm.paths.length = 1 ∧ c.pa.stack = []
  · rw [if_pos single]
    refine runControl_ok h guard ((if_neg noBad).trans ?_)
    rw [nregs, paths]
    exact (if_neg noPast).trans (if_neg (by simp [single.1, single.2]))
  · rw [if_neg single]
    refine runControl_error h guard ((if_neg noBad).trans ?_)
    rw [nregs, paths]
    refine (if_neg noPast).trans (if_pos ?_)
    simp only [Bool.or_eq_true, bne_iff_ne, Bool.not_eq_true', List.isEmpty_eq_false_iff]
    exact not_and_or.1 single

end Exec

/-- Results that go into flight leave the team's registers, WIDs and paths. -/
theorem addResults_leaves (es : List PendRes) (tm : Team) : (addResults tm es).paths = tm.paths ∧
    (addResults tm es).wids = tm.wids ∧ (addResults tm es).vregs = tm.vregs := by
  rw [addResults_eq]
  exact ⟨rfl, rfl, rfl⟩

/-- The count in flight is all that is new in the regrouped team. -/
theorem regrouped_team (s : State) (c : Ctx) (d a : Nat) :
    ((regrouped s c d a).team c.t).paths = (regroupedTeam s c a).paths ∧
      ((regrouped s c d a).team c.t).wids = (regroupedTeam s c a).wids ∧
      ((regrouped s c d a).team c.t).vregs = (regroupedTeam s c a).vregs := by
  rw [regrouped, team_bump, State.land, team_modTeam, team_setTeam]
  exact addResults_leaves _ _

theorem regrouped_scalarIn (s : State) (c : Ctx) (d a : Nat) :
    ScalarIn (regrouped s c d a) c d 2 (BitVec.ofNat 64 (maskLanes c.pa.active).length) := scalarIn_land _ c d 2 _

theorem regrouped_mem (s : State) (c : Ctx) (d a : Nat) : (regrouped s c d a).mem = s.mem := rfl

theorem regroupedTeam_base (s : State) (c : Ctx) (a : Nat) :
    ((regroupedTeam s c a).path c.p).base = maskUpTo (maskLanes c.pa.active).length := by
  rw [regroupedTeam, path_modPath, regroupPath]

/-- Place j takes what is read in lane j of the active lanes. -/
theorem get_setAll_compact {α : Type} (from_ : List Nat) (read : Nat → α) (tab : Tab α) (dflt : α) {j : Nat}
    (low : j < from_.length) : Tab.get (Tab.setAll tab (compact from_ read)) j dflt = read (from_.getD j 0) := by
  have there : (j, read (from_.getD j 0)) ∈ compact from_ read := List.mem_map.2 ⟨j, List.mem_range.2 low, rfl⟩
  refine Tab.get_setAll_of_mem there (fun w hw => ?_) tab dflt
  obtain ⟨i, -, e⟩ := List.mem_map.1 hw
  obtain ⟨rfl, rfl⟩ := Prod.mk.inj e
  rfl

/-- A table of the numbers below n has a row for each of them. -/
theorem Tab.get_range_map {α : Type} (row : Nat → α) (d : α) {r n : Nat} (low : r < n) :
    Tab.get ((List.range n).map (fun r => (r, row r))) r d = row r := by
  suffices all : ∀ l : List Nat, r ∈ l → Tab.find (l.map (fun r => (r, row r))) r = some (row r) from
    Tab.get_of_find d (all _ (List.mem_range.2 low))
  intro l
  induction l with
  | nil => simp
  | cons m l ih =>
    intro mem
    by_cases same : m = r
    · simp [Tab.find, same]
    · rcases List.mem_cons.1 mem with rfl | later
      · exact absurd rfl same
      · simp only [List.map_cons, Tab.find, if_neg same, ih later]

/-- The low lanes have the WIDs of the active lanes. -/
theorem regroupedTeam_wid (s : State) (c : Ctx) (a : Nat) {j : Nat} (low : j < (maskLanes c.pa.active).length) :
    Tab.get (regroupedTeam s c a).wids j 0#64 = Tab.get (s.team c.t).wids ((maskLanes c.pa.active).getD j 0) 0#64 := by
  have wids : (regroupedTeam s c a).wids = Tab.setAll (s.team c.t).wids
      (compact (maskLanes c.pa.active) (fun l => Tab.get (s.team c.t).wids l 0#64)) := by
    rw [regroupedTeam, Team.modPath, Team.setPath, regroupTeam]
  rw [wids, get_setAll_compact _ _ _ _ low]

/-- A listed register of the team has, in its low lanes, what the active lanes read of it. -/
theorem regroupedTeam_lane {s : State} {c : Ctx} {a r j : Nat} (listed : r ∈ regroupRegs (regroupRanges c a))
    (within : r < (s.team c.t).nregs) (low : j < (maskLanes c.pa.active).length) :
    Tab.get (Tab.get (regroupedTeam s c a).vregs r []) j 0#32 =
      BitVec.ofNat 32 (readV c.tm c.fr c.cyc r ((maskLanes c.pa.active).getD j 0)) := by
  rw [regroupedTeam, Team.modPath, Team.setPath, regroupTeam, Tab.get_range_map _ [] within,
    if_pos (List.contains_iff_mem.2 listed)]
  exact get_setAll_compact _ _ _ _ low

/-- Settles O31: the faults by their checks, and the regrouped team by its path, its WIDs and its registers. -/
theorem regroup : Obligations.Regroup := by
  unfold Obligations.Regroup
  intro d a s c h guard
  change ∃ t, _ ∧ ((RangeBad c a.toNat → _) ∧ (¬ RangeBad c a.toNat → RangePast c a.toNat → _) ∧
    (¬ RangeBad c a.toNat → ¬ RangePast c a.toNat → _ → _) ∧ (¬ RangeBad c a.toNat → ¬ RangePast c a.toNat → _ → _ → _))
  by_cases bad : RangeBad c a.toNat
  · exact ⟨_, exec_regroup_bad h guard bad, fun _ => rfl, fun sound => absurd bad sound, fun sound => absurd bad sound,
      fun sound => absurd bad sound⟩
  by_cases past : RangePast c a.toNat
  · exact ⟨_, exec_regroup_past h guard bad past, fun b => absurd b bad, fun _ _ => rfl, fun _ within => absurd past within,
      fun _ within => absurd past within⟩
  have run := exec_regroup_sound (d := d) h guard bad past
  by_cases single : c.tm.paths.length = 1 ∧ c.pa.stack = []
  · rw [if_pos single] at run
    obtain ⟨paths, wids, vregs⟩ := regrouped_team s c d.toNat a.toNat
    obtain ⟨flyingSeen, seen⟩ := ctxOf_team h
    refine ⟨_, run, fun b => absurd b bad, fun _ p => absurd p past, fun _ _ other => absurd single (not_and_or.2 other),
      fun _ _ _ _ => ⟨sameBytes_of_mem (regrouped_mem s c _ _), ?_, regrouped_scalarIn s c _ _, fun j low =>
        ⟨?_, fun i r hi from_ to_ => ?_⟩⟩⟩
    · rw [Team.path, paths]
      exact regroupedTeam_base s c a.toNat
    · rw [wids, regroupedTeam_wid s c a.toNat low, seen]
    · have start : fld (regroupRange c a.toNat i) 0 11 ≤ r := from_
      have last : r < fld (regroupRange c a.toNat i) 0 11 + fld (regroupRange c a.toNat i) 11 11 := to_
      have listed := mem_regroupRegs.2 ⟨_, mem_regroupRanges.2 ⟨i, hi, rfl⟩, start, last⟩
      have fits : r < (s.team c.t).nregs := by
        rw [(ctxOf_nregs h).1]
        by_contra beyond
        exact past ⟨i, hi, by omega, by omega⟩
      rw [vregs]
      exact regroupedTeam_lane listed fits low
  · rw [if_neg single] at run
    exact ⟨_, run, fun b => absurd b bad, fun _ p => absurd p past, fun _ _ _ => rfl,
      fun _ _ one empty => absurd ⟨one, empty⟩ single⟩

end Sys2Proof.Machine
end

section
/-! PROOFS. Mask-stack instructions, SPLIT, JOIN and EXIT (R235-R242, R452-R455). -/

namespace Sys2Proof.Machine

open Sys2Proof

/-! ### Masks by their lanes -/

theorem mem_maskLanes {m : Mask} {l : Nat} : l ∈ maskLanes m ↔ l < 1024 ∧ maskHas m l = true := by
  simp [maskLanes, bitsBelow, maskHas]

/-- Bits set one after another in a number. -/
theorem testBit_foldl_lanes (ls : List Nat) (a l : Nat) :
    (ls.foldl (fun a l => a ||| 2 ^ l) a).testBit l = (a.testBit l || decide (l ∈ ls)) := by
  induction ls generalizing a with
  | nil => simp
  | cons n ls ih =>
    rw [List.foldl_cons, ih, Nat.testBit_or, Nat.testBit_two_pow, Bool.or_assoc]
    congr 1
    rw [Bool.eq_iff_iff, Bool.or_eq_true, decide_eq_true_eq, decide_eq_true_eq, decide_eq_true_eq, List.mem_cons,
      eq_comm (a := n)]

/-- The mask of some lanes has each of them below 1024. -/
theorem maskHas_maskOf (ls : List Nat) {l : Nat} (low : l < 1024) : maskHas (maskOf ls) l = decide (l ∈ ls) := by
  rw [maskHas_eq, maskOf, BitVec.getLsbD_ofNat, testBit_foldl_lanes]
  simp [low]

/-- The lanes of a mask that pass a test. -/
theorem maskHas_filter (m : Mask) (q : Nat → Bool) {l : Nat} (low : l < 1024) :
    maskHas (maskOf ((maskLanes m).filter q)) l = (maskHas m l && q l) := by
  rw [maskHas_maskOf _ low, Bool.eq_iff_iff, decide_eq_true_eq, List.mem_filter, mem_maskLanes, Bool.and_eq_true]
  simp [low]

/-- A mask is empty when it has no lane. -/
theorem mask_eq_zero_iff {m : Mask} : m = 0#1024 ↔ ∀ l, l < 1024 → maskHas m l = false := by
  constructor
  · rintro rfl l _
    rw [maskHas_eq, BitVec.getLsbD_zero]
  · intro none
    refine BitVec.eq_of_getLsbD_eq fun l low => ?_
    rw [← maskHas_eq, none l low, BitVec.getLsbD_zero]

/-- The lanes of the path in which a predicate holds (R446). -/
theorem maskHas_predLanes (c : Ctx) (k : Nat) {l : Nat} (low : l < 1024) :
    maskHas (c.predLanes k false) l = (maskHas c.pa.active l && readP c.tm c.fr c.cyc k l) := by
  rw [Ctx.predLanes, maskHas_filter _ _ low, Bool.bne_false]

theorem predLanes_eq_zero_iff {c : Ctx} {k : Nat} :
    c.predLanes k false = 0#1024 ↔ ∀ l ∈ maskLanes c.pa.active, readP c.tm c.fr c.cyc k l = false := by
  rw [mask_eq_zero_iff]
  constructor
  · intro none l mem
    obtain ⟨low, active⟩ := mem_maskLanes.1 mem
    simpa [maskHas_predLanes c k low, active] using none l low
  · intro none l low
    rw [maskHas_predLanes c k low]
    cases active : maskHas c.pa.active l with
    | false => rfl
    | true => simpa using none l (mem_maskLanes.2 ⟨low, active⟩)

/-! ### The next bundle -/

theorem bundleAt_lt (pc : Nat) (off : Int) : bundleAt pc off < 2 ^ 64 := by
  unfold bundleAt
  omega

theorem goesTo_of_pc {c : Ctx} {t : State} {off : Int} (pc : ((t.team c.t).path c.p).pc = bundleAt c.pc off) :
    GoesTo c t off := by
  unfold GoesTo
  dsimp only
  rw [pc]
  refine ⟨bundleAt_lt c.pc off, ?_⟩
  unfold bundleAt
  omega

/-! ### The mask stack (R235, R452) -/

/-- The issuing path after a change of it alone. -/
theorem ctxPath_modPath {s : State} {c : Ctx} (h : ctxOf s = some c) (g : Path → Path) :
    ((s.modPath c.t c.p g).team c.t).path c.p = g c.pa := by
  rw [State.modPath, team_modTeam, path_modPath, ctxOf_path h]

/-- A mask-stack instruction that needs an entry changes its path, or raises MSTACK_UNF at none. -/
theorem stackRun_leaves {s : State} {c : Ctx} (g : Ctx → Path → Path) (h : ctxOf s = some c) (guard : c.controlGuard = true) :
    ∃ t, stackRun s g = .next t ∧ (c.pa.stack = [] → t = raise s c .c (flt .mstackUnf)) ∧
      (c.pa.stack ≠ [] → SameBytes s t ∧ (t.team c.t).path c.p = g c c.pa) := by
  by_cases empty : c.pa.stack = []
  · exact ⟨_, runControl_error h guard (if_pos (List.isEmpty_iff.2 empty)), fun _ => rfl, fun some => absurd empty some⟩
  · exact ⟨_, runControl_ok h guard (if_neg (mt List.isEmpty_iff.1 empty)), fun none => absurd none empty,
      fun _ => ⟨sameBytes_of_mem rfl, ctxPath_modPath h (g c)⟩⟩

theorem maskHas_maskWith (c : Ctx) (m : Mask) (k : Nat) (neg : Bool) {l : Nat} (low : l < 1024) :
    maskHas (c.maskWith m k neg) l = (maskHas m l && xor (readP c.tm c.fr c.cyc k l) neg) := by
  rw [Ctx.maskWith, maskHas_filter _ _ low]

/-! ### Paths of a team by their numbers -/

/-- A number that is free is not one of a path. -/
theorem freePath_ne {tm : Team} {p q : Nat} {pa : Path} (found : Tab.find tm.paths p = some pa) (free : tm.freePath = some q) :
    q ≠ p := by
  rintro rfl
  have none := List.find?_some free
  rw [found] at none
  exact absurd none (by simp)

/-- A trace record leaves every team as it is. -/
theorem traceEvent_teams (s : State) (fn : Nat) (k : TraceKind) (detail : Nat) (a : TraceAt) :
    (traceEvent s fn k detail a).teams = s.teams := by
  unfold traceEvent
  dsimp only
  split
  · rfl
  · split <;> rfl

theorem tracePath_team (s : State) (t p : Nat) (kind : TraceKind) (detail n : Nat) :
    (tracePath s t p kind detail).team n = s.team n :=
  congrArg (fun teams : Tab Team => Tab.get teams n {}) (traceEvent_teams s _ kind detail _)

theorem traces_team {α : Type} (es : List α) (s : State) (t p n : Nat) (kind : TraceKind) (detail : Nat) :
    (es.foldl (fun s _ => tracePath s t p kind detail) s).team n = s.team n :=
  List.foldlRecOn (motive := fun u => u.team n = s.team n) es _ rfl
    (fun u same _ _ => (tracePath_team u t p kind detail n).trans same)

theorem Tab.mem_keys_of_find {α : Type} {t : Tab α} {n : Nat} {v : α} (found : Tab.find t n = some v) : n ∈ t.map Prod.fst :=
  List.mem_map_of_mem (f := Prod.fst) (Tab.mem_of_find found)

theorem goto_path {s : State} {c : Ctx} (h : ctxOf s = some c) (pc : Nat) :
    ((goto_ s c pc).team c.t).path c.p = { c.pa with pc := pc } := ctxPath_modPath h _

theorem holdPath_path {s : State} {c : Ctx} (h : ctxOf s = some c) (reason : Nat) :
    ((holdPath s c reason).team c.t).path c.p = { c.pa with pc := c.pc, stall := reason } := ctxPath_modPath h _

/-! ### SPLIT (R237, R453) -/

/-- The new path of a SPLIT. -/
def splitChild (c : Ctx) (m : Mask) (off : Int) : Path :=
  { kind := .split, parent := c.p, base := m, pc := bundleAt c.pc off, readyAt := c.pa.readyAt, mine := c.pa.mine }

/-- The path that a SPLIT leaves behind the lanes that go. -/
def splitRest (c : Ctx) (m : Mask) : Path := { c.pa with pc := bundleAt c.pc 1 }.without m

/-- The state after a SPLIT of some lanes to path q. -/
def splitTo (s : State) (c : Ctx) (m : Mask) (off : Int) (q : Nat) : State :=
  (tracePath (s.setTeam c.t (((s.team c.t).setPath c.p (splitRest c m)).setPath q (splitChild c m off))) c.t q .pathCreated 1).bump

theorem splitTo_team (s : State) (c : Ctx) (m : Mask) (off : Int) (q : Nat) :
    (splitTo s c m off q).team c.t = ((s.team c.t).setPath c.p (splitRest c m)).setPath q (splitChild c m off) := by
  rw [splitTo, team_bump, tracePath_team, team_setTeam]

theorem splitTo_rest (s : State) (c : Ctx) (m : Mask) (off : Int) {q : Nat} (other : q ≠ c.p) :
    ((splitTo s c m off q).team c.t).path c.p = splitRest c m := by
  rw [splitTo_team, path_setPath_ne _ _ _ _ other.symm, path_setPath]

theorem splitTo_child (s : State) (c : Ctx) (m : Mask) (off : Int) (q : Nat) :
    ((splitTo s c m off q).team c.t).path q = splitChild c m off := by rw [splitTo_team, path_setPath]

section Split
variable {s : State} {c : Ctx} (k : BitVec 4) (off : BitVec 20) (h : ctxOf s = some c) (guard : c.controlGuard = true)
include h guard

/-- SPLIT of no lane goes on. -/
theorem exec_split_none (none : c.predLanes k.toNat false = 0#1024) : exec (.split k off) s = .next (goto_ s c (bundleAt c.pc 1)).bump :=
  runControl_ok h guard (if_pos (by simp [none]))

theorem exec_split_full (some_ : c.predLanes k.toNat false ≠ 0#1024) (full : c.tm.freePath = none) :
    exec (.split k off) s = .next (raise s c .c (flt .pathFull)) := by
  have full' : (s.team c.t).freePath = none := by rw [Team.freePath, (ctxOf_nregs h).2]; exact full
  refine runControl_error h guard ((if_neg (by simpa using some_)).trans ?_)
  rw [full']

theorem exec_split_free {q : Nat} (some_ : c.predLanes k.toNat false ≠ 0#1024) (free : c.tm.freePath = some q) :
    exec (.split k off) s = .next (splitTo s c (c.predLanes k.toNat false) off.toInt q) := by
  have free' : (s.team c.t).freePath = some q := by rw [Team.freePath, (ctxOf_nregs h).2]; exact free
  refine runControl_ok h guard ((if_neg (by simpa using some_)).trans ?_)
  rw [free', ctxOf_path h]
  rfl

end Split

/-! ### JOIN (R237, R454) -/

theorem joinKids_eq_of_ctxOf {s : State} {c : Ctx} (h : ctxOf s = some c) : joinKids (s.team c.t) c.p = joinKids c.tm c.p := by
  rw [joinKids, joinKids, otherPaths, otherPaths, (ctxOf_nregs h).2]

/-- The lanes of a JOIN's children. -/
def kidLanes (kids : List (Nat × Path)) : Mask := kids.foldl (fun (m : Mask) e => m ||| e.2.base) 0#1024

/-- The path that a JOIN of some children leaves. -/
def joined (c : Ctx) (kids : List (Nat × Path)) : Path :=
  let child := c.pa.kind == .split || c.pa.kind == .detached
  { c.pa.give (kidLanes kids) with
    pc := bundleAt c.pc 1, arrived := child, stall := if child then 11 else c.pa.stall
    mine := kids.foldl (fun (l : List Nat) e => l ++ e.2.mine) c.pa.mine }

/-- The state after a JOIN of some children. -/
def joinedState (s : State) (c : Ctx) (kids : List (Nat × Path)) : State :=
  kids.foldl (fun s _ => tracePath s c.t c.p .pathMerged 0)
    (s.setTeam c.t ({ s.team c.t with paths := takeOver (s.team c.t).paths kids c.p }.setPath c.p (joined c kids)))

theorem joinedState_team (s : State) (c : Ctx) (kids : List (Nat × Path)) : (joinedState s c kids).team c.t =
    { s.team c.t with paths := takeOver (s.team c.t).paths kids c.p }.setPath c.p (joined c kids) := by
  rw [joinedState, traces_team, team_setTeam]

/-- The paths that are taken over are gone. -/
theorem takeOver_gone {paths : Tab Path} {gone : List (Nat × Path)} {p : Nat} {e : Nat × Path} (mem : e ∈ gone) :
    Tab.find (takeOver paths gone p) e.1 = none := by
  refine Tab.find_none_of_fresh fun listed => ?_
  simp only [takeOver, List.map_map, List.mem_map, List.mem_filter] at listed
  obtain ⟨x, ⟨-, kept⟩, same⟩ := listed
  have taken : gone.any (fun k => k.1 == x.1) = true := List.any_eq_true.2 ⟨e, mem, by simpa using same.symm⟩
  simp [taken] at kept

theorem mem_joinKids_ne {tm : Team} {p : Nat} {e : Nat × Path} (mem : e ∈ joinKids tm p) : e.1 ≠ p := by
  have other := (List.mem_filter.1 (List.mem_filter.1 mem).1).2
  simpa using other

section Join
variable {s : State} {c : Ctx} (h : ctxOf s = some c) (guard : c.controlGuard = true)
include h guard

theorem exec_join : exec .join s = .next (if joinReady c.tm c.p then joinedState s c (joinKids c.tm c.p) else holdPath s c 11) := by
  have ready : joinReady (s.team c.t) c.p = joinReady c.tm c.p := by rw [joinReady, joinReady, joinKids_eq_of_ctxOf h]
  refine runControl_ok h guard ?_
  dsimp only
  rw [ready, joinKids_eq_of_ctxOf h, ctxOf_path h]
  cases joinReady c.tm c.p <;> rfl

end Join

/-! ### EXIT (R137, R455) -/

/-- A team whose last path has ended. -/
def TeamGone (k : Nat) (s : State) : Prop := (s.team k).paths = [] ∧ (s.team k).retired = true

section Gone
variable {s : State} {k : Nat}

/-- A change of a team leaves it gone that gives it no path. -/
theorem teamGone_setTeam {n : Nat} {x : Team} (gone : TeamGone k s)
    (same : n = k → x.paths = [] ∧ x.retired = true) : TeamGone k (s.setTeam n x) := by
  unfold TeamGone
  by_cases this : n = k
  · subst this
    rw [team_setTeam]
    exact same rfl
  · rw [team_setTeam_ne _ _ _ _ (Ne.symm this)]
    exact gone

theorem teamGone_modCore {n : Nat} {g : Core → Core} (gone : TeamGone k s) : TeamGone k (s.modCore n g) := gone

theorem teamGone_completeBar (c b : Nat) (gone : TeamGone k s) : TeamGone k (completeBar s c b) := by
  unfold completeBar
  dsimp only
  split
  · exact gone
  · refine List.foldlRecOn (motive := TeamGone k) _ _ gone (fun u goneU tix _ => ?_)
    split
    · refine teamGone_setTeam goneU ?_
      rintro rfl
      exact ⟨List.map_eq_nil_iff.2 goneU.1, goneU.2⟩
    · exact goneU

theorem teamGone_completeBars (c : Nat) (gone : TeamGone k s) : TeamGone k (completeBars s c) :=
  List.foldlRecOn (motive := TeamGone k) _ _ gone (fun _ goneU b _ => teamGone_completeBar c b goneU)

theorem teamGone_fillContexts (core n : Nat) (gone : TeamGone k s) : TeamGone k (fillContexts s core n) := by
  induction n generalizing s with
  | zero => exact gone
  | succ n ih =>
    unfold fillContexts
    split
    · exact gone
    · dsimp only
      split
      · refine ih (teamGone_setTeam gone ?_)
        rintro rfl
        exact gone
      · exact gone

end Gone

/-- A team of no path that is retired is gone. -/
theorem teamGone_retireTeam {s : State} {k : Nat} (empty : (s.team k).paths = []) : TeamGone k (retireTeam s k) := by
  have marked : TeamGone k (s.setTeam k { s.team k with retired := true, residence := .standby }) := by
    unfold TeamGone
    rw [team_setTeam]
    exact ⟨empty, rfl⟩
  unfold retireTeam
  refine teamGone_fillContexts _ _ (teamGone_modCore (teamGone_completeBars (s.team k).crew ?_))
  split
  · exact marked
  · exact marked

/-- The team without the path that exits, whose children have another parent. -/
def exitedTeam (s : State) (c : Ctx) : Team :=
  { adopt (s.team c.t) c.p with paths := Tab.erase (adopt (s.team c.t) c.p).paths c.p }

theorem exec_exit {s : State} {c : Ctx} (h : ctxOf s = some c) (guard : c.controlGuard = true)
    (sound : ∀ b, s.issue = some b → b.faults = []) : exec .exit s =
      .next (if (exitedTeam s c).paths.isEmpty then retireTeam (s.setTeam c.t (exitedTeam s c)) c.t
        else s.setTeam c.t (exitedTeam s c)) := by
  obtain ⟨i, -, issue, -⟩ := ctxOf_some h
  refine runControl_ok h guard ?_
  dsimp only
  rw [issue]
  simp only [sound i issue, List.isEmpty_nil, Bool.not_true, Bool.false_eq_true, if_false]
  rfl

theorem exitedTeam_gone (s : State) (c : Ctx) : Tab.find (exitedTeam s c).paths c.p = none := Tab.find_erase_same _ _

/-- The paths that stay are the team's others. -/
theorem mem_exitedTeam {s : State} {c : Ctx} {j : Nat} :
    j ∈ (exitedTeam s c).paths.map Prod.fst ↔ j ≠ c.p ∧ j ∈ (s.team c.t).paths.map Prod.fst := by
  simp only [exitedTeam, adopt, Tab.erase, List.mem_map, List.mem_filter, bne_iff_ne]
  constructor
  · rintro ⟨-, ⟨⟨x, mem, rfl⟩, other⟩, rfl⟩
    exact ⟨other, x, mem, rfl⟩
  · rintro ⟨other, x, mem, rfl⟩
    exact ⟨_, ⟨⟨x, mem, rfl⟩, other⟩, rfl⟩

theorem Tab.find_isSome_of_key {α : Type} {t : Tab α} {n : Nat} (listed : n ∈ t.map Prod.fst) : (Tab.find t n).isSome = true := by
  induction t with
  | nil => simp at listed
  | cons e t ih =>
    obtain ⟨m, v⟩ := e
    by_cases same : m = n
    · simp [Tab.find, same]
    · rw [Tab.find, if_neg same]
      exact ih ((List.mem_cons.1 listed).resolve_left (Ne.symm same))

/-- No path stays where the team had only the one. -/
theorem exitedTeam_empty_iff {s : State} {c : Ctx} (h : ctxOf s = some c) :
    (exitedTeam s c).paths = [] ↔ ∀ j, j ≠ c.p → Tab.find c.tm.paths j = none := by
  rw [← (ctxOf_nregs h).2]
  constructor
  · intro empty j other
    cases found : Tab.find (s.team c.t).paths j with
    | none => rfl
    | some x =>
      have stays := mem_exitedTeam.2 ⟨other, Tab.mem_keys_of_find found⟩
      rw [empty] at stays
      exact absurd stays (by simp)
  · intro alone
    refine List.eq_nil_iff_forall_not_mem.2 fun e mem => ?_
    obtain ⟨other, listed⟩ := mem_exitedTeam.1 (List.mem_map_of_mem (f := Prod.fst) mem)
    exact absurd (Tab.find_isSome_of_key listed) (by simp [alone e.1 other])

/-- A number that a table lists keeps its length when it is set. -/
theorem Tab.length_set_of_find {α : Type} {t : Tab α} {n : Nat} (listed : (Tab.find t n).isSome = true) (v : α) :
    (Tab.set t n v).length = t.length := by
  induction t with
  | nil => simp [Tab.find] at listed
  | cons e t ih =>
    obtain ⟨m, w⟩ := e
    by_cases same : m = n
    · simp [Tab.set, same]
    · rw [Tab.find, if_neg same] at listed
      rw [Tab.set, if_neg same, List.length_cons, List.length_cons, ih listed]

/-! ### The obligation -/

/-- Settles O30: the mask stack by the change of its path, SPLIT, JOIN and EXIT by the team that each leaves. -/
theorem masksAndPaths : Obligations.MasksAndPaths := by
  unfold Obligations.MasksAndPaths
  refine ⟨⟨fun p neg s c h guard => ?pushm, fun s c h guard => stackRun_leaves _ h guard,
    fun s c h guard => stackRun_leaves _ h guard, fun p neg s c h guard => ?setm⟩,
    fun k off s c h guard => ?split, fun s c h guard => ?join, fun s c h guard => ?exit⟩
  case pushm =>
    by_cases full : 64 ≤ c.pa.stack.length
    · exact ⟨_, runControl_error h guard (if_pos full), fun _ => rfl, fun room => absurd full (Nat.not_le.2 room)⟩
    · exact ⟨_, runControl_ok h guard (if_neg full), fun many => absurd many full, fun _ => ⟨_,
        fun l low => maskHas_maskWith c c.pa.active p.toNat neg low, sameBytes_of_mem rfl, ctxPath_modPath h _⟩⟩
  case setm =>
    obtain ⟨t, run, empty, post⟩ := stackRun_leaves (fun c pa => pa.setTop (c.maskWith pa.parentMask p.toNat neg)) h guard
    exact ⟨t, run, empty, fun some_ => ⟨_, fun l low => maskHas_maskWith c c.pa.parentMask p.toNat neg low, post some_⟩⟩
  case split =>
    dsimp only
    by_cases noLane : c.predLanes k.toNat false = 0#1024
    · refine ⟨_, exec_split_none k off h guard noLane, fun _ => ?_, ?_⟩
      · have path := goto_path h (bundleAt c.pc 1)
        rw [← team_bump] at path
        exact ⟨sameBytes_of_mem rfl, goesTo_of_pc (congrArg Path.pc path), by rw [path], by rw [path]⟩
      · rintro ⟨l, mem, holds⟩
        exact absurd (holds.symm.trans (predLanes_eq_zero_iff.1 noLane l mem)) (by simp)
    · cases free : c.tm.freePath with
      | none =>
        exact ⟨_, exec_split_full k off h guard noLane free, fun none => absurd (predLanes_eq_zero_iff.2 none) noLane,
          fun _ => ⟨fun _ => rfl, by simp⟩⟩
      | some q =>
        refine ⟨_, exec_split_free k off h guard noLane free, fun none => absurd (predLanes_eq_zero_iff.2 none) noLane,
          fun _ => ⟨by simp, ?_⟩⟩
        rintro q' ⟨⟩
        have found : Tab.find c.tm.paths c.p = some c.pa := (ctxOf_nregs h).2 ▸ ctxOf_findPath h
        have rest := splitTo_rest s c (c.predLanes k.toNat false) off.toInt (freePath_ne found free)
        rw [splitTo_child]
        refine ⟨goesTo_of_pc (congrArg Path.pc rest), _, fun l low => maskHas_predLanes c k.toNat low,
          congrArg Path.base rest, congrArg Path.stack rest, rfl, rfl, rfl, rfl, rfl⟩
  case join =>
    dsimp only
    refine ⟨_, exec_join h guard, ?_, fun arrived => ?_⟩
    · rintro ⟨e, mem, late⟩
      have waits : joinReady c.tm c.p = false := by
        refine List.all_eq_false.2 ⟨e, mem, ?_⟩
        rcases late with notHere | held
        · simp [notHere]
        · simp [held]
      rw [waits]
      have path := holdPath_path h 11
      exact ⟨congrArg Path.pc path, congrArg Path.stall path⟩
    · have ready : joinReady c.tm c.p = true := List.all_eq_true.2 fun e mem => by simp [arrived e mem]
      rw [if_pos ready]
      have team := joinedState_team s c (joinKids c.tm c.p)
      have path : ((joinedState s c (joinKids c.tm c.p)).team c.t).path c.p = joined c (joinKids c.tm c.p) := by
        rw [team, path_setPath]
      refine ⟨goesTo_of_pc (congrArg Path.pc path), congrArg Path.base path, congrArg Path.stack path,
        congrArg Path.arrived path, fun e mem => ?_⟩
      rw [team]
      exact (Tab.find_set_ne _ _ _ _ (mem_joinKids_ne mem)).trans (takeOver_gone mem)
  case exit =>
    by_cases sound : ∀ b, s.issue = some b → b.faults = []
    · refine ⟨_, exec_exit h guard sound, fun _ => ?_⟩
      by_cases empty : (exitedTeam s c).paths = []
      · obtain ⟨noPath, retired⟩ := teamGone_retireTeam (s := s.setTeam c.t (exitedTeam s c)) (k := c.t)
          (by rw [team_setTeam]; exact empty)
        rw [if_pos (List.isEmpty_iff.2 empty)]
        refine ⟨by rw [noPath]; rfl, fun _ => retired, ?_⟩
        rintro ⟨j, other, stays⟩
        exact absurd stays (by simp [(exitedTeam_empty_iff h).1 empty j other])
      · rw [if_neg (mt List.isEmpty_iff.1 empty), team_setTeam]
        exact ⟨exitedTeam_gone s c, fun alone => absurd ((exitedTeam_empty_iff h).2 alone) empty, fun _ =>
          ⟨Tab.length_set_of_find (by rw [ctxOf_findTeam h]; rfl) _, sameBytes_of_mem rfl⟩⟩
    · obtain ⟨t, run⟩ := runSlot_goes h .c _
      exact ⟨t, (runControl_acts h guard).trans run, fun none => absurd none sound⟩

end Sys2Proof.Machine
end

section
/-! PROOFS. What a vector instruction leaves alone (R224-R226, R233, R303). -/

namespace Sys2Proof.Machine

open Sys2Proof

/-! ### The state after a vector instruction as a change of its team -/

/-- What the destination of a new result of a vector instruction may be: D, a register of VSETI's window, or the predicate
of its AUX. -/
def VecDest (c : Ctx) (i : Instr) : Dest → Prop
  | .vreg d => d = c.vregD (vFieldsOf i).d.toNat ∨
      ((vFieldsOf i).d.toNat ≤ d ∧ d ≤ (vFieldsOf i).d.toNat + (vFieldsOf i).aux.toNat ∧ (∃ f, i = .vseti f))
  | .vpair d => d = c.vregD (vFieldsOf i).d.toNat
  | .sreg n => opd (vFieldsOf i).d.toNat = .s n
  | .pred k => k ≠ 0 ∧ (k = fld (vFieldsOf i).aux.toNat 0 4 ∨ k = fld (vFieldsOf i).aux.toNat 4 4 ∨ (∃ f, i = .plogic f))
  | .latchOnly => (vFieldsOf i).lat = true
  | .nothing => True

/-- A stream port that no source of the instruction reads. -/
def PortUnread (c : Ctx) (i : Instr) (k : Nat) : Prop :=
  ∀ sp, vSpec c.width i = some sp → ∀ q ∈ vSources (vFieldsOf i) sp, opd q.2.1 ≠ .g k

/-- The team of a vector instruction with new results in flight and its ports moved on. -/
def vecTeam (s : State) (c : Ctx) (rs : List PendRes) (ports : Tab Port) : State :=
  (s.setTeam c.t { addResults (s.team c.t) rs with ports := ports }).bump

/-- The state is one that a vector instruction leaves: new results, and ports that its sources read. -/
def VecLeaves (s : State) (c : Ctx) (i : Instr) (t : State) : Prop :=
  ∃ rs ports, t = vecTeam s c rs ports ∧ (∀ r ∈ rs, VecDest c i r.dest) ∧
    ∀ k, PortUnread c i k → Tab.find ports k = Tab.find (s.team c.t).ports k

theorem SameResult.dest {g r : PendRes} (same : SameResult g r) : g.dest = r.dest := by
  unfold SameResult at same
  exact congrArg (fun e => e.dest) same

/-- The frame of a vector instruction. -/
theorem vecLeaves_frame {s t : State} {c : Ctx} {i : Instr} (leaves : VecLeaves s c i t) :
    OnlyTeam s t c.t ∧ SameBytes s t ∧
      t.team c.t = { s.team c.t with pending := (t.team c.t).pending, ports := (t.team c.t).ports } ∧
      (∀ k, PortUnread c i k → Tab.find (t.team c.t).ports k = Tab.find (s.team c.t).ports k) ∧
      ∀ r ∈ (t.team c.t).pending, InFlight s c.t r ∨ VecDest c i r.dest := by
  obtain ⟨rs, ports, rfl, dests, unread⟩ := leaves
  have team : (vecTeam s c rs ports).team c.t = { addResults (s.team c.t) rs with ports := ports } := team_setTeam _ _ _
  refine ⟨onlyTeam_bump (onlyTeam_setTeam s c.t _), sameBytes_of_mem rfl, ?_, ?_, fun r new => ?_⟩
  · rw [team, addResults_eq]
  · rw [team]
    exact unread
  · rw [team] at new
    rcases addResults_mem new with ⟨e, mem, same⟩ | old
    · exact .inr (same.dest ▸ dests e mem)
    · obtain ⟨g, mem, same⟩ := old
      exact .inl ⟨g, mem, same.symm⟩

/-! ### The ports that a slot reads -/

theorem Tab.set_set {α : Type} (t : Tab α) (n : Nat) (v w : α) : Tab.set (Tab.set t n v) n w = Tab.set t n w := by
  induction t with
  | nil => simp [Tab.set]
  | cons e t ih =>
    obtain ⟨m, u⟩ := e
    by_cases same : m = n
    · simp [Tab.set, same]
    · simp only [Tab.set, if_neg same, ih]

theorem setTeam_setTeam (s : State) (n : Nat) (x y : Team) : (s.setTeam n x).setTeam n y = s.setTeam n y := by
  simp [State.setTeam, Tab.set_set]

/-- A port after the team's words have been read. -/
def popPort (words : Nat) (ports : Tab Port) (k : Nat) : Tab Port :=
  let p := Tab.get ports k {}
  Tab.set ports k { p with pos := (p.pos + words) % p.total }

/-- A port that is not read stays. -/
theorem find_popPorts {words k : Nat} {ks : List Nat} (unread : k ∉ ks) (ports : Tab Port) :
    Tab.find (ks.foldl (popPort words) ports) k = Tab.find ports k :=
  List.foldlRecOn (motive := fun p => Tab.find p k = Tab.find ports k) ks _ rfl
    (fun p same j mem => (Tab.find_set_ne p j k _ (fun e => unread (e ▸ mem))).trans same)

/-- The ports among some operands. -/
def portsOf (codes : List Nat) : List Nat := codes.filterMap (fun code => match opd code with | .g k => some k | _ => none)

theorem mem_portsOf {codes : List Nat} {k : Nat} (mem : k ∈ portsOf codes) : ∃ code ∈ codes, opd code = .g k := by
  obtain ⟨code, listed, port⟩ := List.mem_filterMap.1 mem
  refine ⟨code, listed, ?_⟩
  split at port
  next j e => rw [e, Option.some.inj port]
  next => cases port

/-- Results go into flight and the sources' ports go on. -/
theorem vecLeaves_popPorts {s : State} {c : Ctx} {i : Instr} {sp : VSpec} {rs : List PendRes} (spec : vSpec c.width i = some sp)
    (dests : ∀ r ∈ rs, VecDest c i r.dest) :
    VecLeaves s c i (popPorts (s.land c.t rs) c.t ((vSources (vFieldsOf i) sp).map (fun q => q.2.1))).bump := by
  refine ⟨rs, (portsOf ((vSources (vFieldsOf i) sp).map (fun q => q.2.1))).foldl (popPort (s.team c.t).words) (s.team c.t).ports,
    ?_, dests, fun k unread => find_popPorts (fun mem => ?_) _⟩
  · rw [vecTeam, popPorts, State.land, State.modTeam, State.modTeam, team_setTeam, setTeam_setTeam, addResults_eq]
    rfl
  · obtain ⟨code, listed, port⟩ := mem_portsOf mem
    obtain ⟨q, source, rfl⟩ := List.mem_map.1 listed
    exact unread sp spec q source port

/-- Results go into flight and no port is read. -/
theorem vecLeaves_land {s : State} {c : Ctx} {i : Instr} {rs : List PendRes} (dests : ∀ r ∈ rs, VecDest c i r.dest) :
    VecLeaves s c i (s.land c.t rs).bump := by
  refine ⟨rs, (s.team c.t).ports, ?_, dests, fun _ _ => rfl⟩
  rw [State.land, State.modTeam, vecTeam, addResults_eq]

/-! ### The destinations of results -/

/-- A result for D names D: a V register, a pair or an S register, or the latch alone. -/
theorem vResult_dest {c : Ctx} {p : Pass} {i : Instr} {pair lowest : Bool} {tag : Option Fmt} {latency : Nat}
    {vals : List (Nat × Word64)} {flags : Flags} {slot : Slot} {latch : Option LatchId} {r : PendRes}
    (mem : r ∈ vResult c p (vFieldsOf i).d.toNat pair (vFieldsOf i).lat lowest tag latency vals flags slot latch) :
    VecDest c i r.dest := by
  have noneDest {b : Bool} {x : PendRes} (none_ : x.dest = .nothing) (mem : r ∈ if b then [] else [x]) : VecDest c i r.dest := by
    cases b
    · cases List.mem_singleton.1 mem
      rw [none_]
      trivial
    · cases mem
  unfold vResult at mem
  dsimp only at mem
  split at mem
  · exact noneDest rfl mem
  · split at mem
    next lat =>
      cases List.mem_singleton.1 mem
      exact lat
    · split at mem
      · cases List.mem_singleton.1 mem
        cases pair
        · exact .inl rfl
        · exact (rfl : c.vregD _ = _)
      · cases List.mem_singleton.1 mem
        cases pair
        · exact .inl rfl
        · exact (rfl : c.vregD _ = _)
      next n named =>
        split at mem
        · cases List.mem_singleton.1 mem
          exact named
        · exact noneDest rfl mem
      · exact noneDest rfl mem

/-- The predicate that an instruction names is none, or in its AUX. -/
def PredNamed (i : Instr) (pd : Nat) : Prop := pd = 0 ∨ pd = fld (vFieldsOf i).aux.toNat 0 4 ∨
  pd = fld (vFieldsOf i).aux.toNat 4 4 ∨ (∃ f, i = .plogic f)

theorem pResult_dest {c : Ctx} {p : Pass} {i : Instr} {pd latency : Nat} {vals : List (Nat × Bool)} {slot : Slot} {r : PendRes}
    (named : PredNamed i pd) (mem : r ∈ pResult p pd latency vals slot) : VecDest c i r.dest := by
  unfold pResult at mem
  split at mem
  · cases mem
  next some_ =>
    cases List.mem_singleton.1 mem
    simp only [Bool.or_eq_true, beq_iff_eq, not_or] at some_
    exact ⟨some_.1, named.resolve_left some_.1⟩

theorem vecResults_dest {c : Ctx} {cr : Crew} {i : Instr} {sp : VSpec} {tag : Fmt} {pd : Nat} {op : LaneIn → LaneOut}
    {all : List Nat} {lowest : Bool} {p : Pass} {r : PendRes} (named : PredNamed i pd)
    (mem : r ∈ vecResults c cr i sp tag pd op all lowest p) : VecDest c i r.dest := by
  unfold vecResults at mem
  rcases List.mem_append.1 mem with value | pred
  · split at value
    · exact vResult_dest value
    · cases value
  · exact pResult_dest named pred

theorem vecNext_leaves {s : State} {c : Ctx} {i : Instr} {sp : VSpec} {tag : Fmt} {pd : Nat} {across : Bool}
    {op : LaneIn → LaneOut} (spec : vSpec c.width i = some sp) (named : PredNamed i pd) :
    VecLeaves s c i (vecNext s c i sp tag pd across op) := by
  refine vecLeaves_popPorts spec fun r mem => ?_
  obtain ⟨p, -, mem⟩ := List.mem_flatMap.1 mem
  exact vecResults_dest named mem

theorem setiResults_dest {c : Ctx} {cr : Crew} {f : VFields} {sp : VSpec} {p : Pass} {r : PendRes}
    (mem : r ∈ setiResults c cr f sp p) : VecDest c (.vseti f) r.dest := by
  unfold setiResults at mem
  obtain ⟨n, inside, result⟩ := List.mem_filterMap.1 mem
  dsimp only at result
  split at result
  · cases result
  · cases result
    have low := List.mem_range.1 inside
    exact .inr ⟨Nat.le_add_right f.d.toNat n, Nat.add_le_add_left (Nat.lt_succ_iff.1 low) _, f, rfl⟩

/-! ### The slots -/

/-- What a vector slot does: nothing where it acts in no lane; else, where it is ready and raises no fault, new results. -/
def VecSlot (s : State) (c : Ctx) (i : Instr) : Prop :=
  (idle c.vPasses = true → exec i s = .next s) ∧
    ∀ t, vecReady s i = true → exec i s = .next t → (∀ g, t ≠ raise s c .v g) → VecLeaves s c i t

section Slots
variable {s : State} {c : Ctx} {i : Instr} (h : ctxOf s = some c)
include h

theorem vecSlot_of_run {tagOf : Ctx → Crew → VSpec → Fmt} {pd : Nat} {across : Bool} {op : LaneIn → LaneOut}
    (named : PredNamed i pd) (run : exec i s = vecRun s i tagOf pd across op) : VecSlot s c i := by
  refine ⟨fun still => run.trans (runSlot_ok h ?_), fun t ready answer _ => ?_⟩
  · cases vSpec c.width i with
    | none => rfl
    | some sp => exact if_pos still
  · obtain ⟨sp, spec, -, next⟩ := vecRun_ready h ready tagOf pd across op
    cases answer.symm.trans (run.trans next)
    exact vecNext_leaves spec named

/-- A slot that is ready acts in some lane, and its form is one of its row. -/
theorem vecReady_acts (ready : vecReady s i = true) : idle c.vPasses = false ∧ ∃ sp, vSpec c.width i = some sp := by
  unfold vecReady at ready
  rw [h] at ready
  dsimp only at ready
  split at ready
  · cases ready
  next sp spec =>
    simp only [Bool.and_eq_true, Bool.not_eq_true'] at ready
    exact ⟨ready.1.2, sp, spec⟩

theorem vecSlot_of_window {next : Ctx → VSpec → State} (run : exec i s = windowRun s i next)
    (leaves : ∀ sp, vSpec c.width i = some sp → VecLeaves s c i (next c sp)) : VecSlot s c i := by
  refine ⟨fun still => run.trans (runSlot_ok h ?_), fun t ready answer noFault => ?_⟩
  · cases vSpec c.width i with
    | none => rfl
    | some sp => exact if_pos still
  · obtain ⟨acts, sp, spec⟩ := vecReady_acts h ready
    rcases runSlot_cases h (run.symm.trans answer) with effect | ⟨g, -, raised⟩
    · simp only [spec, acts, Bool.false_eq_true, if_false] at effect
      split at effect
      · cases effect
      · cases effect
      · cases effect
        exact leaves sp spec
    · exact absurd raised (noFault g)

theorem vecSlot_plogic (f : VFields) : VecSlot s c (.plogic f) := by
  refine ⟨fun still => runSlot_ok h (if_pos still), fun t ready answer noFault => ?_⟩
  obtain ⟨acts, -⟩ := vecReady_acts h ready
  rcases runSlot_cases h answer with effect | ⟨g, -, raised⟩
  · simp only [acts, Bool.false_eq_true, if_false] at effect
    split at effect
    · cases effect
    · cases effect
      refine vecLeaves_land fun r mem => ?_
      obtain ⟨p, -, mem⟩ := List.mem_flatMap.1 mem
      exact pResult_dest (.inr (.inr (.inr ⟨f, rfl⟩))) mem
  · exact absurd raised (noFault g)

theorem vecSlot_vmovp (f : VFields) : VecSlot s c (.vmovp f) := by
  cases toPred : bitAt f.aux.toNat 4 with
  | true => exact vecSlot_of_run h (.inr (.inl rfl)) (if_pos toPred)
  | false => exact vecSlot_of_run h (.inl rfl) (if_neg (by rw [toPred]; exact Bool.false_ne_true))

theorem vecSlot_vseti (f : VFields) : VecSlot s c (.vseti f) := by
  have run : exec (.vseti f) s = execVseti f s := rfl
  unfold execVseti at run
  refine vecSlot_of_window h run fun sp spec => vecLeaves_popPorts spec fun r mem => ?_
  obtain ⟨p, -, mem⟩ := List.mem_flatMap.1 mem
  exact setiResults_dest mem

theorem vecSlot_vgeti (f : VFields) : VecSlot s c (.vgeti f) := by
  have run : exec (.vgeti f) s = execVgeti f s := rfl
  unfold execVgeti at run
  exact vecSlot_of_window h run fun sp spec => vecNext_leaves spec (.inl rfl)

/-- Every instruction of the vector slot. -/
theorem vecSlot (vector : (vOpcode i).isSome = true) : VecSlot s c i := by
  cases i
  case vadd | vsub | vmul | vmulh | vmad | vmin | vmax | vabsd | vdot4 | vand | vor | vxor | vandn |
      vnot | vshl | vshr | vsar | vrot | vbfx | vbfi | vpopc | vclz | vbrev | vlop3 | vsel | vfclass | vmov |
      vfadd | vfsub | vfmul | vfma | vfmin | vfmax | vfdot2 | vfdot4 | vrcp | vrsq | vsqrt | vexp2 | vlog2 |
      vsinp | vcosp | vtanh | vcvt | vpack | vunpk | vquant | vdeq | vscale | vshuf | vperm | vbcast | vred | vscan |
      vvote => exact vecSlot_of_run h (.inl rfl) rfl
  case vcmp | vfcmp | psetl => exact vecSlot_of_run h (.inr (.inl rfl)) rfl
  case vaddc | vsubb => exact vecSlot_of_run h (.inr (.inr (.inl rfl))) rfl
  case vgeti f => exact vecSlot_vgeti h f
  case vseti f => exact vecSlot_vseti h f
  case plogic f => exact vecSlot_plogic h f
  case vmovp f => exact vecSlot_vmovp h f
  all_goals nomatch vector

end Slots

/-- Settles O16: what a slot of the vector stream leaves is new results and ports that it read. -/
theorem vectorFrame : Obligations.VectorFrame := by
  unfold Obligations.VectorFrame
  intro i s c vector h
  obtain ⟨still, leaves⟩ := vecSlot h vector
  refine ⟨still, fun t ready answer noFault => ?_⟩
  obtain ⟨only, bytes, team, ports, flight⟩ := vecLeaves_frame (leaves t ready answer noFault)
  refine ⟨only, bytes, team, ports, fun r mem => (flight r mem).imp_right fun named => ?_⟩
  cases dest : r.dest <;> rw [dest] at named <;> exact named

end Sys2Proof.Machine
end

section
/-! PROOFS. MMA, MMAS, ACCZ and ACCOUT at issue (R243, R427, R428, R431, R434, R435). -/

namespace Sys2Proof.Machine

open Sys2Proof

/-! ### The descriptors that a command reads (R106) -/

theorem OnlyDescs.refl (s : State) (k : Nat) : OnlyDescs s s k := ⟨rfl, fun _ => rfl, fun _ _ => rfl⟩

theorem OnlyDescs.trans {s t u : State} {k : Nat} (first : OnlyDescs s t k) (then_ : OnlyDescs t u k) : OnlyDescs s u k := by
  obtain ⟨state, descs, other⟩ := first
  obtain ⟨state', descs', other'⟩ := then_
  refine ⟨?_, fun j => (descs' j).trans (descs j), fun j ne => (other' j ne).trans (other j ne)⟩
  rw [state', state]

/-- A descriptor that is read is kept in its task. -/
theorem keepDesc_onlyDescs (s : State) (k i : Nat) : OnlyDescs s (keepDesc s k i) k := by
  unfold keepDesc
  split
  · exact .refl s k
  · split
    next b _ =>
      refine ⟨rfl, fun j => ?_, fun j ne => Tab.get_set_ne _ _ _ _ _ ne⟩
      by_cases own : j = k
      · subst own
        rw [State.modTask, task_setTask]
      · rw [State.modTask, State.task, State.setTask, Tab.get_set_ne _ _ _ _ _ own]
        rfl
    · exact .refl s k

/-- The state in which a matrix command has read its descriptors. -/
def descsRead (s : State) (c : Ctx) (q : MxCmd) : State := q.tensors.foldl (fun s t => keepDesc s c.tm.task t) s

theorem descsRead_onlyDescs (s : State) (c : Ctx) (q : MxCmd) : OnlyDescs s (descsRead s c q) c.tm.task :=
  List.foldlRecOn (motive := fun u => OnlyDescs s u c.tm.task) q.tensors _ (.refl s _)
    (fun u same t _ => same.trans (keepDesc_onlyDescs u c.tm.task t))

/-! ### A command that issues -/

theorem fenceAt_leaves (s : State) (t p scope : Nat) :
    (fenceAt s t p scope).1.teams = s.teams ∧ (fenceAt s t p scope).1.cores = s.cores := by
  unfold fenceAt
  dsimp only
  split <;> exact ⟨rfl, rfl⟩

/-- The point of order of a command before it issues: its scope clamped, its earlier accesses released where it asks (R206). -/
def commandPoint (s : State) (c : Ctx) (f : XFields) (orders : Bool) : State :=
  let cl := clampScope s c.t f.scope.toNat
  if f.acq || orders then (fenceAt cl.1 c.t c.p cl.2).1 else cl.1

theorem issueCommand_eq (s : State) (c : Ctx) (f : XFields) (orders : Bool) :
    issueCommand s c f orders = flagIssue (commandPoint s c f orders) c.t f.flagOf := rfl

/-- Of the state, a point of order touches accesses, crews and STATUS. -/
theorem commandPoint_leaves (s : State) (c : Ctx) (f : XFields) (orders : Bool) :
    (commandPoint s c f orders).mem = s.mem ∧ (commandPoint s c f orders).cores = s.cores ∧
      ((commandPoint s c f orders).teams = s.teams ∨
        (commandPoint s c f orders).teams = (s.modTeam c.t (fun tm => { tm with status := tm.status ||| 0x100#64 })).teams) := by
  have clamp : (clampScope s c.t f.scope.toNat).1.mem = s.mem ∧ (clampScope s c.t f.scope.toNat).1.cores = s.cores ∧
      ((clampScope s c.t f.scope.toNat).1.teams = s.teams ∨ (clampScope s c.t f.scope.toNat).1.teams =
        (s.modTeam c.t (fun tm => { tm with status := tm.status ||| 0x100#64 })).teams) := by
    rcases clampScope_eq s c.t f.scope.toNat with same | status
    · rw [same]
      exact ⟨rfl, rfl, .inl rfl⟩
    · rw [status]
      exact ⟨rfl, rfl, .inr rfl⟩
  unfold commandPoint
  dsimp only
  split
  · obtain ⟨teams, cores⟩ := fenceAt_leaves (clampScope s c.t f.scope.toNat).1 c.t c.p (clampScope s c.t f.scope.toNat).2
    rw [teams, cores, fenceAt_mem]
    exact clamp
  · exact clamp

/-- So flags and owned rows of the team stay. -/
theorem commandPoint_team (s : State) (c : Ctx) (f : XFields) (orders : Bool) :
    ((commandPoint s c f orders).team c.t).flagCount = (s.team c.t).flagCount ∧
      ((commandPoint s c f orders).team c.t).flagSet = (s.team c.t).flagSet ∧
      ((commandPoint s c f orders).team c.t).owned = (s.team c.t).owned := by
  obtain ⟨-, -, same | status⟩ := commandPoint_leaves s c f orders
  · simp only [State.team, same, and_self]
  · have team : (commandPoint s c f orders).team c.t =
        (s.modTeam c.t (fun tm => { tm with status := tm.status ||| 0x100#64 })).team c.t :=
      congrArg (fun teams : Tab Team => Tab.get teams c.t {}) status
    rw [team, team_modTeam]
    exact ⟨rfl, rfl, rfl⟩

/-! ### The queue of a matrix engine (R427, R428) -/

/-- The state in which a matrix command has issued and its rows are owned. -/
def mxOwned (s : State) (c : Ctx) (f : XFields) (q : MxCmd) : State := ownRows (issueCommand s c f) c.t (ownedRows c f q.m)

theorem flagIssue_leaves (s : State) (t : Nat) (fl : Option Nat) :
    (flagIssue s t fl).cores = s.cores ∧ ((flagIssue s t fl).team t).owned = (s.team t).owned := by
  cases fl with
  | none => exact ⟨rfl, rfl⟩
  | some k => exact ⟨rfl, by rw [flagIssue, team_modTeam]⟩

theorem mxEnqueue_team (s : State) (c : Ctx) (f : XFields) (q : MxCmd) :
    (mxEnqueue s c f q).team c.t = (mxOwned s c f q).team c.t := rfl

theorem mxEnqueue_mem (s : State) (c : Ctx) (f : XFields) (q : MxCmd) : (mxEnqueue s c f q).mem = s.mem :=
  (flagIssue_mem _ _ _).trans (commandPoint_leaves s c f false).1

theorem mxEnqueue_flagUp (s : State) (c : Ctx) (f : XFields) (q : MxCmd) : FlagUp s (mxEnqueue s c f q) c.t f.flagOf := by
  obtain ⟨count, -⟩ := commandPoint_team s c f false
  have kept : ((mxEnqueue s c f q).team c.t).flagCount = ((issueCommand s c f).team c.t).flagCount ∧
      ((mxEnqueue s c f q).team c.t).flagSet = ((issueCommand s c f).team c.t).flagSet := by
    rw [mxEnqueue_team, mxOwned, ownRows, team_modTeam]
    exact ⟨rfl, rfl⟩
  have up : FlagUp (commandPoint s c f false) (mxEnqueue s c f q) c.t f.flagOf := flagUp_flagIssue f.flagOf kept.1 kept.2
  intro k named
  rw [← count]
  exact up k named

theorem mxEnqueue_owned (s : State) (c : Ctx) (f : XFields) (q : MxCmd) :
    ((mxEnqueue s c f q).team c.t).owned = (s.team c.t).owned ++ ownedRows c f q.m := by
  obtain ⟨-, -, rows⟩ := commandPoint_team s c f false
  rw [mxEnqueue_team, mxOwned, ownRows, team_modTeam, issueCommand_eq, (flagIssue_leaves _ _ _).2, rows]

theorem mxOwned_core (s : State) (c : Ctx) (f : XFields) (q : MxCmd) (n : Nat) : (mxOwned s c f q).core n = s.core n := by
  have cores : (mxOwned s c f q).cores = s.cores :=
    (flagIssue_leaves (commandPoint s c f false) c.t f.flagOf).1.trans (commandPoint_leaves s c f false).2.1
  rw [State.core, State.core, cores]

/-- The command stands last in the queue of its core's engine, with its number, its rows and their old values. -/
theorem mxEnqueue_queue (s : State) (c : Ctx) (f : XFields) (q : MxCmd) :
    ((mxEnqueue s c f q).core (c.core s)).matrix = (s.core (c.core s)).matrix ++
      [{ q with id := (mxOwned s c f q).nextId, rows := ownedRows c f q.m, accOld := lateElems s c (ownedRows c f q.m) }] := by
  have queue := congrArg Core.matrix (core_modCore (mxOwned s c f q).newId.2 (c.core s) (fun co => { co with matrix :=
    co.matrix ++ [{ q with id := (mxOwned s c f q).nextId, rows := ownedRows c f q.m,
                           accOld := lateElems s c (ownedRows c f q.m) }] }))
  have kept : (mxOwned s c f q).newId.2.core (c.core s) = s.core (c.core s) := mxOwned_core s c f q _
  rw [kept] at queue
  exact queue

/-- What it means that a matrix command has entered its queue (R427). -/
def MxQueued (s t : State) (c : Ctx) (f : XFields) (q : MxCmd) : Prop :=
  SameBytes s t ∧ FlagUp s t c.t f.flagOf ∧ (t.team c.t).owned = (s.team c.t).owned ++ ownedRows c f q.m ∧
    ∃ r : MxCmd, (t.core (c.core s)).matrix = (s.core (c.core s)).matrix ++ [r] ∧
      { r with id := 0, rows := [], accOld := [] } = q ∧ r.rows = ownedRows c f q.m

theorem mxQueued_mxEnqueue {s : State} {c : Ctx} {f : XFields} {q : MxCmd} (fresh : { q with id := 0, rows := [], accOld := [] } = q) :
    MxQueued s (mxEnqueue s c f q) c f q :=
  ⟨sameBytes_of_mem (mxEnqueue_mem s c f q), mxEnqueue_flagUp s c f q, mxEnqueue_owned s c f q, _, mxEnqueue_queue s c f q, fresh, rfl⟩

/-- Leave that is asked for, and descriptors that are read before, change none of this. -/
theorem MxQueued.of_descs {s u t v : State} {c : Ctx} {f : XFields} {q : MxCmd} (descs : OnlyDescs s u c.tm.task)
    (queued : MxQueued u t c f q) (asked : ∃ ds, v = { t with dies := ds }) : MxQueued s v c f q := by
  obtain ⟨ds, rfl⟩ := asked
  obtain ⟨only, -⟩ := descs
  rw [only] at queued
  exact queued

/-! ### The slots -/

section Slots
variable {s : State} {c : Ctx} {p : Pass} {f : XFields} (h : ctxOf s = some c) (first : firstPass c.xPasses = some p)
include h first

theorem runCommand_ok {t : State} {g : Ctx → Pass → Except FaultInfo State} (effect : g c p = .ok t) :
    runCommand s g = .next t := runSlot_ok h (by rw [first]; exact effect)

theorem runCommand_error {e : FaultInfo} {g : Ctx → Pass → Except FaultInfo State} (effect : g c p = .error e) :
    runCommand s g = .next (raise s c .x e) := runSlot_error h (by rw [first]; exact effect)

theorem runCommandKeep_ok {t : State} {g : Ctx → Pass → State × Option FaultInfo} (effect : g c p = (t, none)) :
    runCommandKeep s g = .next t := by
  unfold runCommandKeep runSlotBoth
  simp only [h, first, effect]

theorem runCommandKeep_error {t : State} {e : FaultInfo} {g : Ctx → Pass → State × Option FaultInfo}
    (effect : g c p = (t, some e)) : runCommandKeep s g = .next (raise (if s.issue.any Issue.alone then s else t) c .x e) := by
  unfold runCommandKeep runSlotBoth
  simp only [h, first, effect]

/-- MMA and MMAS that fail a check. -/
theorem mmaRun_faults {kind : Nat} {e : FaultInfo} (bad : mxFault s c (mxCommand s c p f kind 4) true = some e) :
    ∃ u, OnlyDescs s u c.tm.task ∧ mmaRun s f kind = .next (raise u c .x e) := by
  refine ⟨_, ?_, runCommandKeep_error h first (t := if e.code == .sashViolation then s
    else descsRead s c (mxCommand s c p f kind 4)) (by simp only [bad]; rfl)⟩
  split
  · exact .refl s _
  · split
    · exact .refl s _
    · exact descsRead_onlyDescs s c _

/-- MMA and MMAS that pass their checks. -/
theorem mmaRun_queues {kind : Nat} (sound : mxFault s c (mxCommand s c p f kind 4) true = none) :
    let q := mxCommand s c p f kind 4
    ∃ t, mmaRun s f kind = .next t ∧ MxQueued s t c f q ∧
      mxCost q.fmtA.width ≤ (t.die (dieOf (c.core s))).asked (mxEngine (c.core s)) := by
  intro q
  refine ⟨askLeave (mxEnqueue (descsRead s c q) c f q) (c.core s) (mxEngine (c.core s)) (mxCost q.fmtA.width) none false,
    runCommandKeep_ok h first ?_, ?_, askLeave_asked _ _ _ _ _ _⟩
  · dsimp only
    rw [sound]
    rfl
  · exact .of_descs (descsRead_onlyDescs s c _) (mxQueued_mxEnqueue rfl) (askLeave_eq _ _ _ _ _ _)

end Slots

/-- Settles O26: each command by the outcome of its checks. -/
theorem matrixCommands : Obligations.MatrixCommands := by
  unfold Obligations.MatrixCommands
  refine ⟨fun f s c p h first => ⟨fun e bad => mmaRun_faults h first bad, fun sound => mmaRun_queues h first sound⟩,
    fun f s c p h first => ⟨fun e bad => mmaRun_faults h first bad, fun sound => mmaRun_queues h first sound⟩,
    fun f s c p h first => ⟨fun other => ?sash, fun holder beyond => ?window, fun holder within => ?accz⟩,
    fun f s c p h first => ⟨fun e bad => runCommand_error h first (by simp only [bad]), fun sound =>
      ⟨_, runCommand_ok h first (by simp only [sound]), mxQueued_mxEnqueue rfl⟩⟩⟩
  case sash => exact runCommand_error h first (by simp [checks, other])
  case window => exact runCommand_error h first (by simp [checks, holder, beyond])
  case accz =>
    exact ⟨_, runCommand_ok h first (by simp only [checks, holder, bne_self_eq_false, Nat.not_lt.2 within, decide_false,
      Bool.false_eq_true, if_false]), mxQueued_mxEnqueue rfl⟩

end Sys2Proof.Machine
end

section
/-! PROOFS. One value of an access is performed (R170-R173, R181, R191, R233, R386, R392, R397). -/

namespace Sys2Proof.Machine

open Sys2Proof

/-! ### Tracking that buffers nothing (R171-R173, R181) -/

/-- A state in which an access of a task has been tracked, when the task's bytes go to memory and it has no version. -/
structure TrackedPlainly (s s1 : State) (k : Task) : Prop where
  only : ∃ cs fs ps, s1 = { s with cohorts := cs, funcs := fs, past := ps }
  direct : buffered s1 k.fn k.ts = false
  unwritten : (cohortAt s1 k.fn k.ts).bytes = []

section Tracked
variable {s s1 : State} {k : Task}

theorem TrackedPlainly.leaves (h : TrackedPlainly s s1 k) : s1.mem = s.mem ∧ s1.eccBad = s.eccBad ∧ s1.teams = s.teams ∧
    s1.tasks = s.tasks ∧ s1.accesses = s.accesses ∧ s1.now = s.now := by
  obtain ⟨cs, fs, ps, rfl⟩ := h.only
  exact ⟨rfl, rfl, rfl, rfl, rfl, rfl⟩

/-- A task of the PF speculates nowhere (R485). -/
theorem buffered_pf (s : State) (ts : Word64) : buffered s pfFn ts = false := by simp [buffered, specWaysOf]

theorem writeCells_nil (s : State) : writeCells s [] = { s with past := notePast s none [] } := by
  have none_ : ∃ i, i < 32 := ⟨0, by decide⟩
  simp [writeCells, healWords, none_]

theorem cohortAt_setCohort (s : State) (c : Cohort) : cohortAt (setCohort s c) c.fn c.ts = c := by
  simp [cohortAt, setCohort, isCohort]

/-- A cohort that has written nothing enters write-through mode without a byte of memory changed. -/
theorem enterWriteThrough_plain (fresh : cohortAt s pfFn k.ts = { fn := pfFn, ts := k.ts }) (pf : k.fn = pfFn) :
    TrackedPlainly s (enterWriteThrough s k.fn k.ts) k := by
  have entered : enterWriteThrough s pfFn k.ts = (setCohort { s with past := notePast s none [] }
      { fn := pfFn, ts := k.ts, writeThrough := true }).modFunc pfFn (fun f => { f with spWthru := f.spWthru + 1#64 }) := by
    unfold enterWriteThrough
    rw [fresh, if_neg Bool.false_ne_true, writeCells_nil]
  rw [pf, entered]
  refine ⟨⟨_, _, _, rfl⟩, by rw [pf]; exact buffered_pf _ _, ?_⟩
  rw [pf]
  exact congrArg Cohort.bytes (cohortAt_setCohort { s with past := notePast s none [] } { fn := pfFn, ts := k.ts, writeThrough := true })

/-- The PF's accesses are not tracked but for the mode of its first write. -/
theorem trackUnit_pf (fresh : cohortAt s pfFn k.ts = { fn := pfFn, ts := k.ts }) (pf : k.fn = pfFn) (acc : Access) (a n : Nat) :
    ∃ s1, trackUnit s k acc a n = .ok s1 ∧ TrackedPlainly s s1 k := by
  have still : TrackedPlainly s s k := ⟨⟨_, _, _, rfl⟩, by rw [pf]; exact buffered_pf s k.ts, by rw [pf, fresh]⟩
  have read : trackRead s k.fn k.ts a n = .ok s := by simp [trackRead, specWaysOf, pf]
  have write : trackWrite s k.fn k.ts a n = .ok (enterWriteThrough s k.fn k.ts) := by simp [trackWrite, pf]
  unfold trackUnit
  split
  · exact ⟨s, rfl, still⟩
  · rw [read]
    cases acc.kind.reads <;> cases acc.kind.writes <;> dsimp only [Bool.false_eq_true, if_true, if_false]
    · exact ⟨s, rfl, still⟩
    · exact ⟨_, write, enterWriteThrough_plain fresh pf⟩
    · exact ⟨s, rfl, still⟩
    · exact ⟨_, write, enterWriteThrough_plain fresh pf⟩

/-- A task without a version of its own reads memory (R170). -/
theorem cohortBytes_of_unwritten {fn : Nat} {ts : Word64} (unwritten : (cohortAt s fn ts).bytes = []) (flat n : Nat) :
    cohortBytes s fn ts flat n = Memory.bytes s.mem flat n := by
  rw [Memory.bytes_eq, cohortBytes, unwritten]
  rfl

/-- And it meets the errors of memory (R39). -/
theorem readBad_of_unwritten {fn : Nat} {ts : Word64} (ecc : s1.eccBad = s.eccBad) (unwritten : (cohortAt s fn ts).bytes = [])
    (unwritten1 : (cohortAt s1 fn ts).bytes = []) (flat n : Nat) : readBad s1 fn ts flat n = readBad s fn ts flat n := by
  simp only [readBad, eccHit, ecc, unwritten, unwritten1]

theorem unitBad_tracked (h : TrackedPlainly s s1 k) (unwritten : (cohortAt s k.fn k.ts).bytes = []) (kind : AccessKind) (a n : Nat) :
    unitBad s1 k kind a n = unitBad s k kind a n := by
  rw [unitBad, unitBad, readBad_of_unwritten h.leaves.2.1 unwritten h.unwritten]

theorem cohortWrite_direct {fn : Nat} {ts : Word64} (direct : buffered s fn ts = false) (flat : Nat) (bs : List Byte) :
    cohortWrite s fn ts flat bs = memWrite s flat bs := by
  rw [cohortWrite, if_neg (by simp [direct])]

end Tracked

/-! ### The last value of an access (R233, R386) -/

/-- A value as one unit, at the place of the unit that it was performed for. -/
def SamePlace (v u : MUnit) : Prop := v.lane = u.lane ∧ v.idx = u.idx ∧ v.elem = u.elem ∧ v.bits = u.bits

theorem together_of_samePlace {acc : Access} {u v : MUnit} (same : SamePlace v u) : together acc v u = true := by
  obtain ⟨lane, idx, elem, bits⟩ := same
  simp [together, lane, idx, elem, bits]

theorem valueAt_last {acc : Access} {u : MUnit} (last : acc.todo = [u]) : valueAt acc 0 = [u] := by
  have own : together acc u u = true := together_of_samePlace ⟨rfl, rfl, rfl, rfl⟩
  simp [valueAt, last, own]

/-- The result of an access's last value. -/
def lastResult (acc : Access) (v : MUnit) (lowest : Bool) : Option PendRes :=
  let whole := if acc.bytewise then byPlace (acc.got.filter (fun x => x.lane == v.lane && x.idx == v.idx) ++ [v]) else [v]
  match acc.dest with
  | some (_, true) => if lowest then valueResult acc whole else none
  | _ => valueResult acc whole

/-- The state with a result in flight. -/
def withResult (s : State) (team : Nat) : Option PendRes → State
  | some r => s.modTeam team (fun tm => { tm with pending := tm.pending ++ [r] })
  | none => s

/-- The last value of an access completes it. -/
theorem finishValue_last {s : State} {id : Nat} {acc : Access} {u v : MUnit} {lowest : Bool} (last : acc.todo = [u])
    (same : SamePlace v u) (time : acc.earliest ≤ s.now) : ∃ acc', acc'.team = acc.team ∧ acc'.flag = acc.flag ∧
      finishValue s id acc [v] lowest = completeAccess (withResult s acc.team (lastResult acc v lowest)) id acc' := by
  refine ⟨{ acc with todo := [], got := acc.got ++ [v], fullSince := none }, rfl, rfl, ?_⟩
  have rest : acc.todo.filter (fun x => !together acc v x) = [] := by simp [last, together_of_samePlace same]
  unfold finishValue
  simp only [List.headD_cons, rest, List.any_nil, Bool.false_eq_true, if_false, List.isEmpty_nil, Bool.true_and]
  change (if decide (acc.earliest ≤ (withResult s acc.team (lastResult acc v lowest)).now) = true then _ else _) = _
  have now : (withResult s acc.team (lastResult acc v lowest)).now = s.now := by
    cases lastResult acc v lowest <;> rfl
  rw [now, if_pos (decide_eq_true time)]
  rfl

theorem completeAccess_leaves (s : State) (id : Nat) (acc : Access) :
    (completeAccess s id acc).mem = s.mem ∧ (completeAccess s id acc).accesses = Tab.erase s.accesses id := by
  obtain ⟨ts, e⟩ := flagDone_eq { s with accesses := Tab.erase s.accesses id } acc.team acc.flag
  rw [completeAccess, e]
  exact ⟨rfl, rfl⟩

theorem find_completeAccess (s : State) (id : Nat) (acc : Access) : Tab.find (completeAccess s id acc).accesses id = none := by
  rw [(completeAccess_leaves s id acc).2]
  exact Tab.find_erase_same _ _

/-- The end of an operation leaves what is in flight. -/
theorem flagDone_pending (s : State) (t : Nat) (fl : Option Nat) (n : Nat) : ((flagDone s t fl).team n).pending = (s.team n).pending := by
  cases fl with
  | none => rfl
  | some k =>
    by_cases own : n = t
    · subst own
      rw [flagDone, team_modTeam]
    · rw [flagDone, State.modTeam, team_setTeam_ne _ _ _ _ own]

theorem completeAccess_pending (s : State) (id : Nat) (acc : Access) (n : Nat) :
    ((completeAccess s id acc).team n).pending = (s.team n).pending := flagDone_pending _ _ _ n

/-! ### GLOBAL_ACCESS_COMPLETE of one value -/

section Complete
variable {s : State} {id : Nat} {acc : Access} {u : MUnit} (found : Tab.find s.accesses id = some acc)
  (core : onCore s acc.team = true) (plain : acc.kind ≠ .versioned) (rdy : ready s acc = true) (last : acc.todo = [u])
  (free : blocked s id acc [u] = false)

include found rdy last free in
/-- The one value that is left is performed. -/
theorem performValue_done {s' : State} {ps : List MUnit} (done : performOne s acc [u] = .done s' ps) :
    performValue s id 0 = finishValue s' id acc ps (u.lane == accessLowest acc) := by
  unfold performValue
  simp only [found, valueAt_last last, rdy, free, done, List.isEmpty_cons, Bool.not_true, Bool.or_self, Bool.false_eq_true,
    if_false, List.headD_cons]

include found rdy last free in
/-- It meets an uncorrectable error. -/
theorem performValue_bad {b : Nat} (bad : performOne s acc [u] = .bad b) :
    performValue s id 0 = { s with accesses := Tab.set s.accesses id { acc with bad := some b } } := by
  unfold performValue
  simp only [found, valueAt_last last, rdy, free, bad, List.isEmpty_cons, Bool.not_true, Bool.or_self, Bool.false_eq_true, if_false]

include found core plain in
theorem exec_globalAccessComplete : exec (.globalAccessComplete id [0] []) s =
    .next (settleFault (accessBad (settleAccess (performValue s id 0) id false) id) id).bump := by
  show (match Tab.find s.accesses id with | some a => _ | none => _) = _
  simp only [found, core, if_true, noteErrors_nil]
  unfold performChosen
  simp only [found, beq_eq_false_iff_ne.2 plain, Bool.false_eq_true, if_false, List.foldl_cons, List.foldl_nil]

/-- Nothing is left to settle of an access that is gone. -/
theorem settled_of_gone {t : State} (gone : Tab.find t.accesses id = none) :
    settleFault (accessBad (settleAccess t id false) id) id = t := by
  have settled : settleAccess t id false = t := by simp only [settleAccess, gone]
  have sound : accessBad t id = t := by simp only [accessBad, gone]
  rw [settled, sound]
  simp only [settleFault, gone]

include found core plain rdy last free in
/-- A value that is performed completes its access, with its result in flight. -/
theorem globalAccess_completes {s' : State} {v : MUnit} (done : performOne s acc [u] = .done s' [v]) (same : SamePlace v u)
    (time : acc.earliest ≤ s'.now) : ∃ t, exec (.globalAccessComplete id [0] []) s = .next t ∧ Tab.find t.accesses id = none ∧
      t.mem = s'.mem ∧ ∀ n, (t.team n).pending =
        ((withResult s' acc.team (lastResult acc v (u.lane == accessLowest acc))).team n).pending := by
  obtain ⟨acc', team, flag, finish⟩ := finishValue_last (id := id) (lowest := u.lane == accessLowest acc) last same time
  have value := (performValue_done found rdy last free done).trans finish
  refine ⟨_, exec_globalAccessComplete found core plain, ?_⟩
  rw [value, settled_of_gone (find_completeAccess _ _ _)]
  refine ⟨find_completeAccess _ _ _, ?_, fun n => completeAccess_pending _ _ _ n⟩
  refine (completeAccess_leaves _ _ _).1.trans ?_
  cases lastResult acc v (u.lane == accessLowest acc) <;> rfl

end Complete

end Sys2Proof.Machine
end

section
/-! PROOFS. What one unit of a load, a store or an atomic leaves (R191, R233, R386, R392, R396, R397). -/

namespace Sys2Proof.Machine

open Sys2Proof

/-! ### Values and their bytes -/

/-- A value of one element of 32 bits is that element combined. -/
theorem combineValue_word (op : Nat) {f : Fmt} (word : f ∈ [.int32, .uint32, .fp32]) (old v v2 : Nat) :
    combineValue op f old v v2 = combineElem op f 32 (old % 2 ^ 32) (v % 2 ^ 32) (v2 % 2 ^ 32) % 2 ^ 32 := by
  simp only [List.mem_cons, List.not_mem_nil, or_false] at word
  have shape : f.width = 32 ∧ f.elems = 1 := by rcases word with rfl | rfl | rfl <;> exact ⟨rfl, rfl⟩
  simp [combineValue, shape.1, shape.2, packElems, fld]

/-- The bytes of a number are those of its rest. -/
theorem leBytes_mod (n v : Nat) : leBytes n (v % 256 ^ n) = leBytes n v := by
  induction n generalizing v with
  | zero => rfl
  | succ n ih =>
    have low : BitVec.ofNat 8 (v % 256 ^ (n + 1)) = BitVec.ofNat 8 v := by
      apply BitVec.eq_of_toNat_eq
      rw [BitVec.toNat_ofNat, BitVec.toNat_ofNat, pow_succ', Nat.mod_mul_right_mod]
    have high : v % 256 ^ (n + 1) / 256 = v / 256 % 256 ^ n := by rw [pow_succ', Nat.mod_mul_right_div_self]
    rw [leBytes, leBytes, low, high, ih]

theorem leNat_lt (bs : List Byte) : leNat bs < 256 ^ bs.length := by
  induction bs with
  | nil => exact Nat.one_pos
  | cons b bs ih =>
    have low := b.isLt
    rw [leNat, List.length_cons, pow_succ']
    omega

/-- The bits of a value that is one unit at its place 0. -/
theorem gather_first {u : MUnit} {g : MUnit → Word64} (first : u.elem = 0) : gather [u] g = (g u).toNat := by
  simp [gather, first]

/-- The elements of a value that is one element. -/
theorem packElems_one (w e : Nat) : packElems w [e] = e % 2 ^ w := by simp [packElems]

/-- Of a number's low bits, 64 are kept first or last. -/
theorem ofNat_mod_two_pow (n b : Nat) : BitVec.ofNat 64 ((BitVec.ofNat 64 n).toNat % 2 ^ b) = BitVec.ofNat 64 (n % 2 ^ b) := by
  apply BitVec.eq_of_toNat_eq
  simp only [BitVec.toNat_ofNat]
  rcases Nat.le_total b 64 with low | high
  · rw [Nat.mod_mod_of_dvd n (pow_dvd_pow 2 low)]
  · rw [Nat.mod_mod_of_dvd _ (pow_dvd_pow 2 high), Nat.mod_mod_of_dvd _ (pow_dvd_pow 2 high), Nat.mod_mod]

/-! ### One unit -/

section Unit
variable {s s1 : State} {acc : Access} {u : MUnit} {a : Nat} (addr : u.addr = some a)
  (tracked : trackUnit s (s.task (s.team acc.team).task) acc a u.bytes = .ok s1)
  (plain : TrackedPlainly s s1 (s.task (s.team acc.team).task))
  (unwritten : (cohortAt s (s.task (s.team acc.team).task).fn (s.task (s.team acc.team).task).ts).bytes = [])

/-- A unit with the value that memory has for it. -/
def loaded (s : State) (u : MUnit) (a : Nat) : MUnit := { u with val := BitVec.ofNat 64 (elemOf u (Memory.bytes s.mem a u.bytes)) }

include plain in
/-- What the task reads after the tracking is memory. -/
theorem cohortBytes_tracked (n : Nat) : cohortBytes s1 (s.task (s.team acc.team).task).fn (s.task (s.team acc.team).task).ts a n =
    Memory.bytes s.mem a n := by
  rw [cohortBytes_of_unwritten plain.unwritten, plain.leaves.1]

include addr tracked plain unwritten

theorem performUnit_load (kind : acc.kind = .load)
    (clean : unitBad s (s.task (s.team acc.team).task) acc.kind a u.bytes = none) :
    performUnit s acc u = .done s1 [loaded s u a] := by
  rw [← unitBad_tracked plain unwritten] at clean
  have plainRead : (acc.kind == .readOnly) = false := by rw [kind]; rfl
  unfold performUnit
  simp only [addr, tracked, clean, plainRead, Bool.false_eq_true, if_false, cohortBytes_tracked plain, loaded]
  rw [kind]

theorem performUnit_bad {b : Nat} (bad : unitBad s (s.task (s.team acc.team).task) acc.kind a u.bytes = some b) :
    performUnit s acc u = .bad b := by
  rw [← unitBad_tracked plain unwritten] at bad
  unfold performUnit
  simp only [addr, tracked, bad]

omit unwritten in
theorem performUnit_store (kind : acc.kind = .store) (whole : 8 ≤ u.bits) :
    performUnit s acc u = .done (memWrite s1 a (leBytes u.bytes u.val.toNat)) [u] := by
  have clean : unitBad s1 (s.task (s.team acc.team).task) acc.kind a u.bytes = none := by rw [kind]; rfl
  have bytes (bs : List Byte) : storeBytes s1 acc u a bs = leBytes u.bytes u.val.toNat := by
    rw [storeBytes, withElem, if_neg (Nat.not_lt.2 whole)]
  unfold performUnit
  simp only [addr, tracked, clean, bytes, cohortWrite_direct plain.direct]
  rw [kind]

omit unwritten in
/-- An atomic on 32 bits reads and writes its word as one. -/
theorem performRmw_word {op : Nat} (clean : unitBad s (s.task (s.team acc.team).task) acc.kind a u.bytes = none)
    (first : u.elem = 0) (bits : u.bits = 32) (word : acc.fmt ∈ [.int32, .uint32, .fp32]) :
    performRmw s acc op false [u] = .done (memWrite s1 a (leBytes 4 (combineElem op acc.fmt 32
      (leNat (Memory.bytes s.mem a u.bytes)) (u.val.toNat % 2 ^ 32) (u.val2.toNat % 2 ^ 32)))) [loaded s u a] := by
  have bytes : u.bytes = 4 := by simp [MUnit.bytes, bits]
  have old : (loaded s u a).val.toNat = leNat (Memory.bytes s.mem a u.bytes) := by
    have small := leNat_lt (Memory.bytes s.mem a u.bytes)
    have length : (Memory.bytes s.mem a u.bytes).length = 4 := by rw [Memory.bytes_eq, List.length_map, List.length_range, bytes]
    rw [length] at small
    rw [loaded, elemOf, if_neg (by omega), BitVec.toNat_ofNat, Nat.mod_eq_of_lt (by omega)]
  have whole : wholeElem acc.fmt [u] u = true := by
    simp only [List.mem_cons, List.not_mem_nil, or_false] at word
    have width : acc.fmt.width = 32 := by rcases word with e | e | e <;> rw [e] <;> rfl
    simp [wholeElem, width, bits, first]
  have track : trackAll s (s.task (s.team acc.team).task) acc [u] = .ok s1 := by
    unfold trackAll
    simp only [addr, tracked]
    rfl
  have small : leNat (Memory.bytes s.mem a u.bytes) % 2 ^ 32 = leNat (Memory.bytes s.mem a u.bytes) := by
    have less := leNat_lt (Memory.bytes s.mem a u.bytes)
    rw [Memory.bytes_eq, List.length_map, List.length_range, bytes] at less
    rw [bytes, Memory.bytes_eq]
    exact Nat.mod_eq_of_lt less
  have new : combineValue op acc.fmt (gather [loaded s u a] MUnit.val) (gather [u] MUnit.val) (gather [u] MUnit.val2) =
      combineElem op acc.fmt 32 (leNat (Memory.bytes s.mem a u.bytes)) (u.val.toNat % 2 ^ 32) (u.val2.toNat % 2 ^ 32) % 2 ^ 32 := by
    rw [combineValue_word op word, gather_first first, gather_first first, gather_first (u := loaded s u a) first, old, small]
  have there : u.addr.isNone = false := by rw [addr]; rfl
  have place : u.addr.getD 0 = a := by rw [addr]; rfl
  unfold performRmw
  simp only [List.any_cons, List.any_nil, there, Bool.or_self, Bool.false_eq_true, if_false, List.findSome?_cons, place, clean,
    List.findSome?_nil, track, cohortBytes_tracked plain, List.map_cons, List.map_nil, List.foldl_cons, List.foldl_nil, whole,
    Bool.not_true, cohortWrite_direct plain.direct]
  change Perf.done (memWrite s1 a (withElem u _ (fld (combineValue op acc.fmt (gather [loaded s u a] MUnit.val)
    (gather [u] MUnit.val) (gather [u] MUnit.val2)) (u.bits * u.elem) u.bits))) [loaded s u a] = _
  rw [new, withElem, if_neg (by omega), first, bits, bytes, fld, Nat.mul_zero, pow_zero, Nat.div_one, Nat.mod_mod]
  exact congrArg (fun bs => Perf.done (memWrite s1 a bs) [loaded s u a]) (leBytes_mod 4 _)

end Unit

/-! ### The one value that is left -/

section Value
variable {s s' : State} {acc : Access} {u v : MUnit}

theorem performOne_units (kind : acc.kind = .load ∨ acc.kind = .store) (us : List MUnit) : performOne s acc us = performUnits s acc us := by
  unfold performOne
  rcases kind with e | e <;> rw [e]

theorem performUnits_done (done : performUnit s acc u = .done s' [v]) : performUnits s acc [u] = .done s' [v] := by
  unfold performUnits
  simp only [done, performUnits, List.append_nil]

theorem performUnits_bad {b : Nat} (bad : performUnit s acc u = .bad b) : performUnits s acc [u] = .bad b := by
  unfold performUnits
  simp only [bad]

/-- A load's last value lands in its lane of its register when the flag is observed (R233). -/
theorem lastResult_load {r : Nat} {lowest : Bool} (dest : acc.dest = some (r, false)) (single : acc.fmt ≠ .int64)
    (lane : v.lane < 1024) (alone : ∀ x ∈ acc.got, ¬ (x.lane = v.lane ∧ x.idx = v.idx)) : ∃ e, lastResult acc v lowest = some e ∧
      e.dest = .vreg (r + v.idx) ∧ e.flag = acc.flag ∧ e.vals = [(v.lane, BitVec.ofNat 64 (v.val.toNat % 2 ^ v.bits))] := by
  have none_ : acc.got.filter (fun x => x.lane == v.lane && x.idx == v.idx) = [] :=
    List.filter_eq_nil_iff.2 fun x mem => by simpa using alone x mem
  have whole : (if acc.bytewise then byPlace (acc.got.filter (fun x => x.lane == v.lane && x.idx == v.idx) ++ [v]) else [v]) = [v] := by
    rw [none_]
    split <;> rfl
  have noPair : (acc.fmt == .int64) = false := beq_eq_false_iff_ne.2 single
  refine ⟨{ due := 0, dest := .vreg (r + v.idx), word := v.lane / 32, vals := [(v.lane, BitVec.ofNat 64 (v.val.toNat % 2 ^ v.bits))],
            tag := some acc.fmt, flag := acc.flag, slot := .m }, ?_, rfl, rfl, rfl⟩
  unfold lastResult
  simp only [whole, dest]
  unfold valueResult
  simp only [dest, noPair, Nat.not_le.2 lane, decide_false, Bool.and_false, Bool.false_eq_true, if_false, List.map_cons,
    List.map_nil, packElems_one]

theorem withResult_pending (s : State) (t : Nat) (e : PendRes) : e ∈ ((withResult s t (some e)).team t).pending := by
  rw [withResult, team_modTeam]
  exact List.mem_append_right _ (List.mem_singleton.2 rfl)

end Value

end Sys2Proof.Machine
end

section
/-! PROOFS. An access that is gone does not come back when its team's task stops or its fault is deferred (R177, R180, R218,
R252). -/

namespace Sys2Proof.Machine

open Sys2Proof

/-- No access of this number is in flight. -/
def AccessGone (id : Nat) (s : State) : Prop := id ∉ s.accesses.map Prod.fst

section Gone
variable {id : Nat} {s t : State}

/-! ### What a single update needs -/

theorem accessGone_iff : AccessGone id s ↔ Tab.find s.accesses id = none := by
  refine ⟨Tab.find_none_of_fresh, fun none_ listed => ?_⟩
  have found := Tab.find_isSome_of_key listed
  rw [none_] at found
  exact absurd found (by simp)

theorem accessGone_of_eq (gone : AccessGone id s) (same : t.accesses = s.accesses) : AccessGone id t := by
  unfold AccessGone
  rw [same]
  exact gone

/-- A change of the accesses one by one that keeps their numbers. -/
theorem accessGone_of_map {g : Nat × Access → Nat × Access} (gone : AccessGone id s) (accesses : t.accesses = s.accesses.map g)
    (number : ∀ e, (g e).1 = e.1) : AccessGone id t := by
  have keys : t.accesses.map Prod.fst = s.accesses.map Prod.fst := by
    rw [accesses, List.map_map]
    exact List.map_congr_left fun e _ => number e
  unfold AccessGone
  rw [keys]
  exact gone

theorem accessGone_of_filter {p : Nat × Access → Bool} (gone : AccessGone id s) (accesses : t.accesses = s.accesses.filter p) :
    AccessGone id t := by
  unfold AccessGone
  rw [accesses]
  exact fun listed => gone (List.map_subset _ (List.filter_subset_self _) listed)

/-- An access that is in flight has another number. -/
theorem AccessGone.ne {n : Nat} {a : Access} (gone : AccessGone id s) (found : Tab.find s.accesses n = some a) : n ≠ id := by
  rintro rfl
  exact gone (Tab.mem_keys_of_find found)

theorem accessGone_set {n : Nat} {a : Access} (gone : AccessGone id s) (other : n ≠ id) :
    AccessGone id { s with accesses := Tab.set s.accesses n a } := by
  rintro listed
  obtain ⟨e, mem, rfl⟩ := List.mem_map.1 listed
  rcases Tab.mem_set mem with rfl | old
  · exact other rfl
  · exact gone (List.mem_map_of_mem old)

theorem accessGone_ite {p : Prop} [Decidable p] (hs : AccessGone id s) (ht : AccessGone id t) :
    AccessGone id (if p then s else t) := iteInduction (fun _ => hs) (fun _ => ht)

theorem accessGone_foldl {α : Type} {f : State → α → State} {l : List α} (gone : AccessGone id s)
    (step : ∀ u x, AccessGone id u → AccessGone id (f u x)) : AccessGone id (l.foldl f s) :=
  List.foldlRecOn l f gone (fun u goneU x _ => step u x goneU)

theorem accessGone_flagDone {tm : Nat} {fl : Option Nat} (gone : AccessGone id s) : AccessGone id (flagDone s tm fl) := by
  obtain ⟨ts, same⟩ := flagDone_eq s tm fl
  rw [same]
  exact gone

theorem accessGone_traceEvent {fn : Nat} {k : TraceKind} {detail : Nat} {a : TraceAt} (gone : AccessGone id s) :
    AccessGone id (traceEvent s fn k detail a) := by
  unfold traceEvent
  exact accessGone_ite gone (accessGone_ite gone gone)

theorem accessGone_updateHem {fn : Nat} (gone : AccessGone id s) : AccessGone id (updateHem s fn) := by
  unfold updateHem
  exact accessGone_ite gone gone

theorem accessGone_stopQueue {fn q code : Nat} (gone : AccessGone id s) : AccessGone id (stopQueue s fn q code) := by
  unfold stopQueue
  exact accessGone_ite gone gone

/-! ### Cohorts and tracking (R171-R177) -/

theorem accessGone_dropTaskWork {k : Nat} (gone : AccessGone id s) : AccessGone id (dropTaskWork s k) :=
  accessGone_of_filter gone rfl

theorem accessGone_abortTasks {fn : Nat} {cause : AbortCause} {ks wrong noSpec : List Nat} (gone : AccessGone id s) :
    AccessGone id (abortTasks s fn cause ks wrong noSpec) := by
  have start {g : Func → Func} : AccessGone id (s.modFunc fn g) := gone
  refine accessGone_updateHem (accessGone_foldl start fun u e goneU => ?_)
  have dropped {p : Bool} {d : Nat} : AccessGone id
      (dropCohort (dropTaskWork (if p then u else traceTask u e.2 .abort d) e.1) e.2.fn e.2.ts) :=
    accessGone_dropTaskWork (accessGone_ite goneU (accessGone_traceEvent goneU))
  exact accessGone_ite dropped dropped

theorem accessGone_enterWriteThrough {fn : Nat} {ts : Word64} (gone : AccessGone id s) : AccessGone id (enterWriteThrough s fn ts) := by
  unfold enterWriteThrough
  exact accessGone_ite gone gone

theorem accessGone_cohortWrite {fn : Nat} {ts : Word64} {flat : Nat} {bs : List Byte} (gone : AccessGone id s) :
    AccessGone id (cohortWrite s fn ts flat bs) := by
  unfold cohortWrite
  exact accessGone_ite gone gone

/-- Tracking that answers a state in which the access is gone. -/
def Track.Gone (id : Nat) : Track → Prop
  | .ok s => AccessGone id s
  | _ => True

theorem track_gone_ite {p : Prop} [Decidable p] {x y : Track} (hx : x.Gone id) (hy : y.Gone id) :
    (if p then x else y).Gone id := iteInduction (fun _ => hx) (fun _ => hy)

theorem enterLine_gone {fn : Nat} {ts : Word64} {line : Nat} (gone : AccessGone id s) : (enterLine s fn ts line).Gone id := by
  unfold enterLine
  refine track_gone_ite gone (track_gone_ite gone (track_gone_ite ?_ trivial))
  split
  next y _ => exact accessGone_abortTasks (ks := cohortTasks s fn y.ts) (cause := .capacity) gone
  next => exact track_gone_ite trivial (accessGone_enterWriteThrough gone)

theorem enterLines_gone {fn : Nat} {ts : Word64} {ls : List Nat} (gone : AccessGone id s) : (enterLines s fn ts ls).Gone id := by
  induction ls generalizing s with
  | nil => exact gone
  | cons l ls ih =>
    have line := enterLine_gone (fn := fn) (ts := ts) (line := l) gone
    unfold enterLines
    split
    next u e => exact ih (e ▸ line : Track.Gone id (.ok u))
    next => exact line

theorem trackRead_gone {fn : Nat} {ts : Word64} {flat n : Nat} (gone : AccessGone id s) : (trackRead s fn ts flat n).Gone id := by
  have lines := enterLines_gone (fn := fn) (ts := ts) (ls := unitsOf 128 flat n) gone
  unfold trackRead
  refine track_gone_ite gone (track_gone_ite trivial ?_)
  split
  next u e => exact (e ▸ lines : Track.Gone id (.ok u))
  next => exact lines

theorem trackWrite_gone {fn : Nat} {ts : Word64} {flat n : Nat} (gone : AccessGone id s) : (trackWrite s fn ts flat n).Gone id := by
  have lines := enterLines_gone (fn := fn) (ts := ts) (ls := unitsOf 128 flat n) gone
  unfold trackWrite
  refine track_gone_ite (accessGone_enterWriteThrough gone)
    (track_gone_ite (track_gone_ite trivial (accessGone_enterWriteThrough gone)) ?_)
  dsimp only
  split
  next u e =>
    have goneU : AccessGone id u := (e ▸ lines : Track.Gone id (.ok u))
    exact accessGone_ite goneU (accessGone_abortTasks goneU)
  next => exact lines

theorem trackUnit_gone {k : Task} {acc : Access} {a n : Nat} (gone : AccessGone id s) : (trackUnit s k acc a n).Gone id := by
  have read : (if acc.kind.reads then trackRead s k.fn k.ts a n else .ok s).Gone id := track_gone_ite (trackRead_gone gone) gone
  unfold trackUnit
  refine track_gone_ite gone ?_
  dsimp only
  split
  next u e =>
    have goneU : AccessGone id u := (e ▸ read : Track.Gone id (.ok u))
    exact track_gone_ite (trackWrite_gone goneU) goneU
  next => exact read

theorem trackAll_gone {k : Task} {acc : Access} {us : List MUnit} (gone : AccessGone id s) : (trackAll s k acc us).Gone id := by
  induction us generalizing s with
  | nil => exact gone
  | cons u us ih =>
    unfold trackAll
    split
    next => exact ih gone
    next a _ =>
      have unit := trackUnit_gone (k := k) (acc := acc) (a := a) (n := u.bytes) gone
      split
      next v e => exact ih (e ▸ unit : Track.Gone id (.ok v))
      next => exact unit

theorem trackWords_gone {k : Task} {as : List Nat} (gone : AccessGone id s) : (trackWords s k as).Gone id := by
  induction as generalizing s with
  | nil => exact gone
  | cons a as ih =>
    have word := trackRead_gone (fn := k.fn) (ts := k.ts) (flat := a) (n := 8) gone
    unfold trackWords
    split
    next u e => exact ih (e ▸ word : Track.Gone id (.ok u))
    next => exact word

/-! ### Performing (R188-R191, R233) -/

/-- A performance that answers a state in which the access is gone. -/
def Perf.Gone (id : Nat) : Perf → Prop
  | .done s _ => AccessGone id s
  | _ => True

theorem performUnit_gone {acc : Access} {u : MUnit} (gone : AccessGone id s) : (performUnit s acc u).Gone id := by
  unfold performUnit
  dsimp only
  split
  · exact gone
  next a _ =>
    have unit := trackUnit_gone (k := s.task (s.team acc.team).task) (acc := acc) (a := a) (n := u.bytes) gone
    split
    · trivial
    · trivial
    next v e =>
      have goneV : AccessGone id v := (e ▸ unit : Track.Gone id (.ok v))
      split
      · trivial
      · split
        · exact accessGone_ite goneV goneV
        · exact accessGone_cohortWrite goneV
        · exact goneV

theorem performUnits_gone {acc : Access} {us : List MUnit} (gone : AccessGone id s) : (performUnits s acc us).Gone id := by
  induction us generalizing s with
  | nil => exact gone
  | cons u us ih =>
    have unit := performUnit_gone (acc := acc) (u := u) gone
    unfold performUnits
    split
    next v vs e =>
      have rest := ih (e ▸ unit : Perf.Gone id (.done v vs))
      split
      next w ws e' => exact (e' ▸ rest : Perf.Gone id (.done w ws))
      next => exact rest
    next => exact unit

theorem performRmw_gone {acc : Access} {op : Nat} {shared : Bool} {us : List MUnit} (gone : AccessGone id s) :
    (performRmw s acc op shared us).Gone id := by
  have all : (if shared then Track.ok s else trackAll s (s.task (s.team acc.team).task) acc us).Gone id :=
    track_gone_ite gone (trackAll_gone gone)
  unfold performRmw
  dsimp only
  split
  · exact gone
  · split
    · trivial
    · trivial
    · trivial
    next u _ e =>
      have goneU : AccessGone id u := (e ▸ all : Track.Gone id (.ok u))
      exact accessGone_foldl goneU fun v _ goneV => accessGone_ite goneV (accessGone_ite goneV (accessGone_cohortWrite goneV))

theorem performOne_gone {acc : Access} {us : List MUnit} (gone : AccessGone id s) : (performOne s acc us).Gone id := by
  unfold performOne
  split
  · exact performRmw_gone gone
  · exact performRmw_gone gone
  · exact performRmw_gone gone
  · exact performUnits_gone gone

theorem accessGone_completeAccess {n : Nat} {acc : Access} (gone : AccessGone id s) : AccessGone id (completeAccess s n acc) :=
  accessGone_flagDone (s := { s with accesses := Tab.erase s.accesses n }) (accessGone_of_filter gone rfl)

theorem accessGone_finishValue {n : Nat} {acc : Access} {us : List MUnit} {lowest : Bool} (gone : AccessGone id s)
    (other : n ≠ id) : AccessGone id (finishValue s n acc us lowest) := by
  unfold finishValue
  dsimp only
  split
  next r _ =>
    have landed {g : Team → Team} : AccessGone id (s.modTeam acc.team g) := gone
    exact accessGone_ite (accessGone_completeAccess landed) (accessGone_set landed other)
  next => exact accessGone_ite (accessGone_completeAccess gone) (accessGone_set gone other)

theorem accessGone_performValue {n i : Nat} (gone : AccessGone id s) : AccessGone id (performValue s n i) := by
  unfold performValue
  split
  · exact gone
  next acc found =>
    dsimp only
    refine accessGone_ite gone ?_
    have one := performOne_gone (acc := acc) (us := valueAt acc i) gone
    split
    next u ps e => exact accessGone_finishValue (e ▸ one : Perf.Gone id (.done u ps)) (gone.ne found)
    next => exact gone
    next => exact accessGone_set gone (gone.ne found)
    next => exact accessGone_ite gone (accessGone_set gone (gone.ne found))

theorem accessGone_performAll {n k : Nat} (gone : AccessGone id s) : AccessGone id (performAll s n k) := by
  induction k generalizing s with
  | zero => exact gone
  | succ k ih => exact ih (accessGone_performValue gone)

theorem accessGone_performVersioned {n : Nat} {acc : Access} (gone : AccessGone id s) (other : n ≠ id) :
    AccessGone id (performVersioned s n acc) := by
  have words := trackWords_gone (k := s.task (s.team acc.team).task) (as := acc.versions) gone
  unfold performVersioned
  split
  · exact gone
  · exact accessGone_ite gone (accessGone_set gone other)
  next u e =>
    have goneU : AccessGone id u := (e ▸ words : Track.Gone id (.ok u))
    have all : AccessGone id (performAll u n (acc.todo.length + 1)) := accessGone_performAll goneU
    refine accessGone_ite (accessGone_set goneU other) ?_
    dsimp only
    split
    · exact all
    · exact accessGone_ite all (accessGone_set gone other)

theorem accessGone_settleAccess {n : Nat} {anyTime : Bool} (gone : AccessGone id s) : AccessGone id (settleAccess s n anyTime) := by
  unfold settleAccess
  split
  · exact gone
  · exact accessGone_ite (accessGone_completeAccess gone) gone

theorem accessGone_performIds {ids : List Nat} (gone : AccessGone id s) : AccessGone id (performIds s ids) := by
  refine accessGone_foldl gone fun u n goneU => ?_
  split
  · exact goneU
  next acc found =>
    exact accessGone_ite (accessGone_ite (accessGone_performVersioned goneU (goneU.ne found)) goneU) (accessGone_performAll goneU)

theorem accessGone_performTeams {teams : List Nat} (gone : AccessGone id s) : AccessGone id (performTeams s teams) :=
  accessGone_foldl gone fun _ _ goneU => accessGone_settleAccess (accessGone_performIds goneU)

/-! ### What is finished before a task is saved (R218, R245) -/

/-- An access that may start is one in flight. -/
theorem accessGone_accessStart {n : Nat} {a : Access} (gone : AccessGone id s) (other : n ≠ id) :
    AccessGone id (accessStart s n a) := by
  unfold accessStart
  exact accessGone_ite gone (accessGone_set (accessGone_enterWriteThrough gone) other)

theorem accessGone_endWalk {n : Nat} {w : TileWalk} (gone : AccessGone id s) : AccessGone id (endWalk s n w) := by
  have placed : AccessGone id (placeAccesses s n w (some (gNat s (s.task w.task).fn w.entry 8))) := by
    refine accessGone_of_map gone rfl fun e => ?_
    split
    · rfl
    · split <;> rfl
  unfold endWalk fillTtb
  exact accessGone_ite (accessGone_of_eq placed rfl) (accessGone_of_eq placed rfl)

theorem accessGone_finishWalks {teams : List Nat} (gone : AccessGone id s) : AccessGone id (finishWalks s teams) := by
  refine accessGone_foldl gone fun u n goneU => ?_
  split
  · exact accessGone_ite goneU (accessGone_endWalk goneU)
  · exact goneU

theorem accessGone_performAccesses {teams : List Nat} (gone : AccessGone id s) : AccessGone id (performAccesses s teams) := by
  have start : AccessGone id ((s.accesses.filter (fun a => teams.contains a.2.team)).foldl (fun s a => accessStart s a.1 a.2) s) := by
    refine List.foldlRecOn (motive := AccessGone id) _ _ gone fun u goneU e mem => accessGone_accessStart goneU ?_
    rintro rfl
    exact gone (List.mem_map_of_mem (List.mem_filter.1 mem).1)
  exact accessGone_performTeams (accessGone_performIds (accessGone_finishWalks start))

theorem accessGone_finishRadvs {teams : List Nat} {n : Nat} (gone : AccessGone id s) : AccessGone id (finishRadvs s teams n) := by
  induction n generalizing s with
  | zero => exact gone
  | succ n ih =>
    unfold finishRadvs
    split
    next i tm h a q w _ =>
      have made : AccessGone id (radvMake s (i, .radv tm h a q w)) := gone
      exact accessGone_ite (ih made) gone
    next => exact gone

theorem accessGone_releaseAt {tm scope : Nat} {sob : Option (Nat × Nat)} {ids : List Nat} (gone : AccessGone id s) :
    AccessGone id (releaseAt s tm scope sob ids).1 := accessGone_of_map gone rfl fun _ => rfl

theorem accessGone_landSeq {tm : Nat} {dest : Option Nat} {v : Nat} {flag : Option Nat} (gone : AccessGone id s) :
    AccessGone id (landSeq s tm dest v flag) := by
  unfold landSeq
  split <;> exact gone

theorem accessGone_noteFull {n line : Nat} (gone : AccessGone id s) : AccessGone id (noteFull s n line) := by
  unfold noteFull
  exact accessGone_ite gone (accessGone_of_eq gone rfl)

theorem accessGone_relAdd {op : Nat} (gone : AccessGone id s) : AccessGone id (relAdd s op) := by
  unfold relAdd
  split
  next tm p _ soba dest flag scope waits _ =>
    refine accessGone_ite gone ?_
    dsimp only
    generalize hk : s.task (s.team tm).task = k
    generalize hn : (leNat (cohortBytes s k.fn k.ts (flatOf s k.fn soba) 8) + 1) % 2 ^ 64 = n
    generalize hr : (releaseAt s tm scope (some (soba, n)) (unperformed s soba waits)).1 = r
    have goneR : AccessGone id r := hr ▸ accessGone_releaseAt gone
    have both : (match trackRead r k.fn k.ts (flatOf s k.fn soba) 8 with
        | .ok s' => trackWrite s' k.fn k.ts (flatOf s k.fn soba) 8
        | x => x).Gone id := by
      have read := trackRead_gone (fn := k.fn) (ts := k.ts) (flat := flatOf s k.fn soba) (n := 8) goneR
      split
      next u e => exact trackWrite_gone (e ▸ read : Track.Gone id (.ok u))
      next => exact read
    split
    next u e =>
      have goneU : AccessGone id u := (e ▸ both : Track.Gone id (.ok u))
      have written := accessGone_cohortWrite (fn := k.fn) (ts := k.ts) (flat := flatOf s k.fn soba) (bs := leBytes 8 n) goneU
      exact accessGone_flagDone (accessGone_landSeq (accessGone_of_eq written rfl))
    next => exact goneR
    next l _ => exact accessGone_noteFull goneR
  next => exact gone

theorem accessGone_finishRels {teams : List Nat} (gone : AccessGone id s) : AccessGone id (finishRels s teams) :=
  accessGone_foldl gone fun _ _ goneU => accessGone_relAdd goneU

theorem accessGone_setCrew {c : Nat} {cr : Crew} (gone : AccessGone id s) : AccessGone id (s.setCrew c cr) :=
  accessGone_of_eq gone rfl

theorem accessGone_modTask {k : Nat} {g : Task → Task} (gone : AccessGone id s) : AccessGone id (s.modTask k g) :=
  accessGone_of_eq gone rfl

theorem accessGone_memWrite {flat : Nat} {bs : List Byte} (gone : AccessGone id s) : AccessGone id (memWrite s flat bs) :=
  accessGone_of_eq gone rfl

theorem accessGone_mxConsume {c : MxCmd} (gone : AccessGone id s) : AccessGone id (mxConsume s c) := by
  unfold mxConsume
  exact accessGone_ite gone (accessGone_setCrew gone)

theorem accessGone_mxRowsWrite {c : MxCmd} (gone : AccessGone id s) : AccessGone id (mxRowsWrite s c).1 := by
  have freed {cr : Crew} : AccessGone id (freeRows (s.setCrew c.crew cr) c) :=
    accessGone_of_eq (accessGone_setCrew (c := c.crew) (cr := cr) gone) rfl
  rw [mxRowsWrite_eq]
  exact accessGone_ite (accessGone_flagDone freed) freed

theorem accessGone_accoutFinish {c : MxCmd} (gone : AccessGone id s) : AccessGone id (accoutFinish s c) := by
  unfold accoutFinish
  exact accessGone_flagDone (accessGone_setCrew gone)

theorem accessGone_mxFinish {c : MxCmd} (gone : AccessGone id s) : AccessGone id (mxFinish s c) := by
  have consumed := accessGone_mxConsume (c := c) gone
  unfold mxFinish
  cases c.rowsDone with
  | true => exact accessGone_ite (accessGone_accoutFinish consumed) consumed
  | false => exact accessGone_ite (accessGone_accoutFinish (accessGone_mxRowsWrite consumed)) (accessGone_mxRowsWrite consumed)

theorem accessGone_mxFinishTeams {teams : List Nat} (gone : AccessGone id s) : AccessGone id (mxFinishTeams s teams) := by
  refine accessGone_foldl gone fun u e goneU => ?_
  have finished := accessGone_foldl (l := e.2.matrix.filter (fun c => teams.contains c.team && c.start.isSome)) goneU
    fun v c goneV => accessGone_mxFinish (c := c) goneV
  exact finished

theorem accessGone_stopTeams {k : Nat} (gone : AccessGone id s) : AccessGone id (stopTeams s k) := accessGone_of_eq gone rfl

theorem accessGone_quiesceTeams {teams : List Nat} (gone : AccessGone id s) : AccessGone id (quiesceTeams s teams) := by
  have body := Eq.refl quiesceTeams
  conv at body => rhs; delta quiesceTeams
  rw [body]
  beta_reduce
  extract_lets -underBinder u v w
  have finished : AccessGone id w :=
    accessGone_mxFinishTeams (accessGone_finishRels (accessGone_finishRadvs (accessGone_performAccesses gone)))
  clear_value w
  exact accessGone_of_eq finished rfl

theorem accessGone_quiesce {k : Nat} (gone : AccessGone id s) : AccessGone id (quiesce s k) := by
  unfold quiesce
  exact accessGone_quiesceTeams (accessGone_stopTeams gone)

/-! ### A task that stops (R252, R258) -/

theorem accessGone_placeSaved {k : Nat} {bytes : List Byte} (gone : AccessGone id s) (placed : placeSaved s k bytes = some t) :
    AccessGone id t := by
  unfold placeSaved at placed
  dsimp only at placed
  split at placed
  · nomatch placed
  · exact Option.some.inj placed ▸ accessGone_memWrite (accessGone_memWrite (accessGone_of_eq gone rfl))

theorem accessGone_storeTask {k : Nat} {record : List Byte} (gone : AccessGone id s) (stored : storeTask s k record = some t) :
    AccessGone id t := by
  obtain ⟨u, placed, rfl⟩ := Option.map_eq_some_iff.1 stored
  have marked := accessGone_modTask (k := k) (g := fun tk => { tk with saved := true }) (accessGone_placeSaved gone placed)
  exact accessGone_traceEvent (accessGone_of_eq marked rfl)

theorem accessGone_loseTask {k : Nat} {wid0 : Word64} {p pc : Nat} (gone : AccessGone id s) :
    AccessGone id (loseTask s k wid0 p pc) := by
  unfold loseTask
  have written {c : Prop} [Decidable c] {flat : Nat} {bs : List Byte} : AccessGone id (if c then s else memWrite s flat bs) :=
    accessGone_ite gone (accessGone_memWrite gone)
  exact accessGone_stopQueue (accessGone_updateHem (accessGone_of_eq (accessGone_dropTaskWork (k := k) written) rfl))

theorem accessGone_finishStop {k : Nat} {x : Stopping} (gone : AccessGone id s) : AccessGone id (finishStop s k x) := by
  have faulted := accessGone_modTask (k := k) (g := fun tk => { tk with faulted := true, stopping := none })
    (accessGone_quiesce (k := k) gone)
  have body := Eq.refl finishStop
  conv at body => rhs; delta finishStop
  rw [body]
  beta_reduce
  extract_lets -underBinder q u tk record
  generalize stored : storeTask u k record = o
  cases o with
  | none => exact accessGone_loseTask faulted
  | some v => exact accessGone_stopQueue (accessGone_modTask (accessGone_dropTaskWork (accessGone_storeTask faulted stored)))

theorem accessGone_stopTask {k : Nat} {wid0 : Word64} {p pc : Nat} {f : FaultInfo} (gone : AccessGone id s) :
    AccessGone id (stopTask s k wid0 p pc f) := by
  have stopped := accessGone_stopTeams (k := k) gone
  unfold stopTask
  exact accessGone_ite gone (accessGone_ite (accessGone_finishStop stopped) (accessGone_modTask stopped))

theorem accessGone_deferFault {tm p pc : Nat} {f : FaultInfo} (gone : AccessGone id s) : AccessGone id (deferFault s tm p pc f) :=
  accessGone_modTask (accessGone_stopTeams (accessGone_of_eq gone rfl))

/-- A MEM_UNCORRECTABLE that is taken stops its task or is deferred. -/
theorem accessGone_takeFault {tm p pc : Nat} {f : FaultInfo} (gone : AccessGone id s) (code : f.code = .memUncorrectable) :
    AccessGone id (takeFault s tm p pc f) := by
  have lining : ¬ (f.code == .liningMismatch) = true := by rw [code]; decide
  have walk : ¬ (f.code == .walkSegment && f.slot == .m) = true := by rw [code]; exact Bool.false_ne_true
  have page : ¬ (f.code == .tileNotPresent && f.slot == .m) = true := by rw [code]; exact Bool.false_ne_true
  unfold takeFault
  dsimp only
  rw [if_neg lining, if_neg walk, if_neg page]
  exact accessGone_ite (accessGone_deferFault gone) (accessGone_stopTask gone)

end Gone

end Sys2Proof.Machine
end

section
/-! PROOFS. A value of an access in flight is performed (R39, R233, R386, R392, R397). -/

namespace Sys2Proof.Machine

open Sys2Proof

section Performed
variable {s : State} {id : Nat} {acc : Access} {u : MUnit} {a : Nat}

/-- The task of an access. -/
def taskOf (s : State) (acc : Access) : Task := s.task (s.team acc.team).task

/-- An access of which one value is left, which may be performed for a task whose bytes go to memory. -/
structure LastValue (s : State) (id : Nat) (acc : Access) (u : MUnit) (a : Nat) : Prop where
  found : Tab.find s.accesses id = some acc
  core : onCore s acc.team = true
  rdy : ready s acc = true
  wf : Memory.wf s.mem
  tracked : ∃ s1, trackUnit s (taskOf s acc) acc a u.bytes = .ok s1 ∧ TrackedPlainly s s1 (taskOf s acc)
  unwritten : (cohortAt s (taskOf s acc).fn (taskOf s acc).ts).bytes = []
  last : acc.todo = [u]
  addr : u.addr = some a
  free : blocked s id acc [u] = false
  time : acc.earliest ≤ s.now

/-- A load lands in flight what memory has at its address. -/
theorem LastValue.loads (h : LastValue s id acc u a) (kind : acc.kind = .load)
    (clean : unitBad s (taskOf s acc) acc.kind a u.bytes = none) :
    ∃ t, exec (.globalAccessComplete id [0] []) s = .next t ∧ SameBytes s t ∧ Tab.find t.accesses id = none ∧
      ∀ r, acc.dest = some (r, false) → acc.fmt ≠ .int64 → u.lane < 1024 →
        (∀ v ∈ acc.got, ¬ (v.lane = u.lane ∧ v.idx = u.idx)) →
        ∃ e ∈ (t.team acc.team).pending, e.dest = .vreg (r + u.idx) ∧ e.flag = acc.flag ∧
          e.vals = [(u.lane, BitVec.ofNat 64 (elemOf u (Memory.bytes s.mem a u.bytes) % 2 ^ u.bits))] := by
  obtain ⟨s1, tracked, plain⟩ := h.tracked
  obtain ⟨mem, -, -, -, -, now⟩ := plain.leaves
  have done : performOne s acc [u] = .done s1 [loaded s u a] :=
    (performOne_units (.inl kind) [u]).trans (performUnits_done (performUnit_load h.addr tracked plain h.unwritten kind clean))
  obtain ⟨t, step, gone, same, pending⟩ := globalAccess_completes h.found h.core (by rw [kind]; exact AccessKind.noConfusion) h.rdy
    h.last h.free done ⟨rfl, rfl, rfl, rfl⟩ (now.symm ▸ h.time)
  refine ⟨t, step, fun x => by rw [same, mem], gone, fun r dest single lane alone => ?_⟩
  obtain ⟨e, result, where_, flag, vals⟩ :=
    lastResult_load (v := loaded s u a) (lowest := u.lane == accessLowest acc) dest single lane alone
  refine ⟨e, ?_, where_, flag, vals.trans (congrArg (fun n => [(u.lane, n)]) (ofNat_mod_two_pow _ _))⟩
  rw [pending, result]
  exact withResult_pending s1 acc.team e

/-- A value that some bytes are written for leaves them in memory, and no other byte changed. -/
theorem LastValue.writes (h : LastValue s id acc u a) (plainKind : acc.kind ≠ .versioned) {s1 : State} {v : MUnit} {bs : List Byte}
    (plain : TrackedPlainly s s1 (taskOf s acc)) (same : SamePlace v u)
    (done : performOne s acc [u] = .done (memWrite s1 a bs) [v]) :
    ∃ t, exec (.globalAccessComplete id [0] []) s = .next t ∧ Tab.find t.accesses id = none ∧ SameBytesBut s t a bs.length ∧
      ∀ j, j < bs.length → Memory.read t.mem (a + j) = bs.getD j 0#8 := by
  obtain ⟨mem, -, -, -, -, now⟩ := plain.leaves
  have wf1 : Memory.wf s1.mem := mem.symm ▸ h.wf
  obtain ⟨t, step, gone, written, -⟩ := globalAccess_completes h.found h.core plainKind h.rdy h.last h.free done same
    (show acc.earliest ≤ s1.now from now.symm ▸ h.time)
  refine ⟨t, step, gone, fun x apart => ?_, fun j within => ?_⟩
  · rw [written, memWrite_sameBytesBut a bs wf1 x apart, mem]
  · rw [written]
    exact memWrite_read a bs wf1 j within

theorem LastValue.stores (h : LastValue s id acc u a) (kind : acc.kind = .store) (whole : 8 ≤ u.bits) :
    ∃ t, exec (.globalAccessComplete id [0] []) s = .next t ∧ Tab.find t.accesses id = none ∧ SameBytesBut s t a u.bytes ∧
      ∀ j, j < u.bytes → Memory.read t.mem (a + j) = (leBytes u.bytes u.val.toNat).getD j 0#8 := by
  obtain ⟨s1, tracked, plain⟩ := h.tracked
  have done := (performOne_units (.inr kind) [u]).trans (performUnits_done (performUnit_store h.addr tracked plain kind whole))
  have written := h.writes (by rw [kind]; exact AccessKind.noConfusion) plain ⟨rfl, rfl, rfl, rfl⟩ done
  rwa [length_leBytes] at written

theorem LastValue.combines (h : LastValue s id acc u a) {op : Nat} (kind : acc.kind = .atomic op)
    (clean : unitBad s (taskOf s acc) acc.kind a u.bytes = none) (first : u.elem = 0) (bits : u.bits = 32)
    (word : acc.fmt ∈ [.int32, .uint32, .fp32]) :
    let new := leBytes 4 (combineElem op acc.fmt 32 (leNat (Memory.bytes s.mem a u.bytes)) (u.val.toNat % 2 ^ 32)
      (u.val2.toNat % 2 ^ 32))
    ∃ t, exec (.globalAccessComplete id [0] []) s = .next t ∧ Tab.find t.accesses id = none ∧ SameBytesBut s t a 4 ∧
      ∀ j, j < 4 → Memory.read t.mem (a + j) = new.getD j 0#8 := by
  intro new
  obtain ⟨s1, tracked, plain⟩ := h.tracked
  have one : performOne s acc [u] = performRmw s acc op false [u] := by
    unfold performOne
    rw [kind]
  have done := one.trans (performRmw_word h.addr tracked plain clean first bits word)
  have written := h.writes (by rw [kind]; exact AccessKind.noConfusion) plain (v := loaded s u a) ⟨rfl, rfl, rfl, rfl⟩ done
  rwa [length_leBytes] at written

/-- The fault of a read of one unit that has met an uncorrectable error (R39). -/
def uncorrectable (s : State) (acc : Access) (u : MUnit) (a bad : Nat) : FaultInfo :=
  { code := .memUncorrectable, slot := .m, addr := guestOf s (taskOf s acc).fn bad, tensor := acc.tensor, lanes := maskOf [u.lane]
    lane := if a ≤ bad ∧ bad < a + u.bytes then u.lane else 0 }

theorem accessBad_one {bad : Nat} (found : Tab.find s.accesses id = some acc) (error : acc.bad = some bad) (last : acc.todo = [u])
    (addr : u.addr = some a) (reads : acc.kind.writes = false) :
    accessBad s id = takeFault (completeAccess s id acc) acc.team acc.path acc.pc (uncorrectable s acc u a bad) := by
  have lane : (([u].find? (fun v => v.addr.any (fun x => decide (x ≤ bad) && decide (bad < x + v.bytes)))).map MUnit.lane).getD 0 =
      if a ≤ bad ∧ bad < a + u.bytes then u.lane else 0 := by
    by_cases within : a ≤ bad ∧ bad < a + u.bytes
    · simp [addr, within]
    · have out : (decide (a ≤ bad) && decide (bad < a + u.bytes)) = false := by simpa using within
      simp [addr, within, out]
  unfold accessBad
  simp only [found, error, last, lane, reads]
  rfl

/-- An access that is left with an error is not settled otherwise, and it is gone once the fault is taken. -/
theorem settled_of_bad {bad : Nat} (found : Tab.find s.accesses id = some acc) (error : acc.bad = some bad) (last : acc.todo = [u])
    (addr : u.addr = some a) (reads : acc.kind.writes = false) :
    settleFault (accessBad (settleAccess s id false) id) id =
      takeFault (completeAccess s id acc) acc.team acc.path acc.pc (uncorrectable s acc u a bad) := by
  have unsettled : settleAccess s id false = s := by
    unfold settleAccess
    simp only [found, last, List.isEmpty_cons, Bool.false_and, Bool.false_eq_true, if_false]
  have gone := accessGone_iff.1 (accessGone_takeFault (tm := acc.team) (p := acc.path) (pc := acc.pc)
    (f := uncorrectable s acc u a bad) (accessGone_iff.2 (find_completeAccess s id acc)) rfl)
  rw [unsettled, accessBad_one found error last addr reads]
  simp only [settleFault, gone]

/-- A read that meets an uncorrectable error ends its access, and its team takes the fault. -/
theorem LastValue.stops (h : LastValue s id acc u a) (kind : acc.kind = .load) {bad : Nat}
    (error : unitBad s (taskOf s acc) acc.kind a u.bytes = some bad) :
    exec (.globalAccessComplete id [0] []) s = .next (takeFault
      (completeAccess { s with accesses := Tab.set s.accesses id { acc with bad := some bad } } id { acc with bad := some bad })
      acc.team acc.path acc.pc (uncorrectable s acc u a bad)).bump := by
  obtain ⟨s1, tracked, plain⟩ := h.tracked
  have unit := performUnits_bad (performUnit_bad h.addr tracked plain h.unwritten error)
  have value := performValue_bad h.found h.rdy h.last h.free ((performOne_units (.inl kind) [u]).trans unit)
  rw [exec_globalAccessComplete h.found h.core (by rw [kind]; exact AccessKind.noConfusion), value,
    settled_of_bad (acc := { acc with bad := some bad }) (Tab.find_set_same _ _ _) rfl h.last h.addr (by rw [kind]; rfl)]
  rfl

end Performed

/-- Settles O19: the tracking of one value buffers nothing (`trackUnit_pf` for the PF), so that it is performed on memory itself, and
the access is gone (`globalAccess_completes`); one that meets an error is gone before the fault is taken. -/
theorem accessesArePerformed : Obligations.AccessesArePerformed := by
  unfold Obligations.AccessesArePerformed
  intro s id acc u a found core rdy wf direct last addr free time
  have tracked : (∃ s1, trackUnit s (taskOf s acc) acc a u.bytes = .ok s1 ∧ TrackedPlainly s s1 (taskOf s acc)) ∧
      (cohortAt s (taskOf s acc).fn (taskOf s acc).ts).bytes = [] := by
    rcases direct with ⟨pf, fresh⟩ | ⟨unwritten, cs, fs, track, direct, unwritten1⟩
    · exact ⟨trackUnit_pf fresh pf acc a u.bytes, (congrArg (fun f => (cohortAt s f (taskOf s acc).ts).bytes) pf).trans
        (congrArg Cohort.bytes fresh)⟩
    · exact ⟨⟨_, track, ⟨cs, fs, s.past, rfl⟩, direct, unwritten1⟩, unwritten⟩
  have h : LastValue s id acc u a := ⟨found, core, rdy, wf, tracked.1, tracked.2, last, addr, free, time⟩
  exact ⟨h.loads, h.stores, fun _ kind clean => h.combines kind clean, fun _ kind => h.stops kind⟩

end Sys2Proof.Machine
end

section
/-! PROOFS. What the issue of a slot leaves: every register of every team until a result lands, and memory (R217, R224-R226,
R233). -/

namespace Sys2Proof.Machine

open Sys2Proof

/-! ### A slot that has raised no fault -/

section Raise
variable {s t : State} {c : Ctx} {slot : Slot}

theorem not_noFaultYet_raise (s : State) (c : Ctx) (slot : Slot) (e : FaultInfo) : ¬ NoFaultYet (raise s c slot e) := by
  unfold NoFaultYet raise
  dsimp only
  split
  next i _ =>
    split
    · simp
    · simp
  next none_ => simp [none_]

theorem runSlot_noFault {f : Ctx → Except FaultInfo State} (h : ctxOf s = some c) (step : runSlot s slot f = .next t)
    (free : NoFaultYet t) : f c = .ok t := by
  rcases runSlot_cases h step with ok | ⟨e, -, rfl⟩
  · exact ok
  · exact absurd free (not_noFaultYet_raise s c slot e)

theorem runSlotBoth_noFault {f : Ctx → State × Option FaultInfo} (h : ctxOf s = some c) (step : runSlotBoth s slot f = .next t)
    (free : NoFaultYet t) : f c = (t, none) := by
  unfold runSlotBoth at step
  rw [h] at step
  dsimp only at step
  split at step
  next u e =>
    cases step
    exact e
  next => exact absurd (Host.Outcome.next.inj step ▸ free) (not_noFaultYet_raise _ c slot _)

theorem runControl_noFault {f : Ctx → Except FaultInfo State} (h : ctxOf s = some c) (step : runControl s f = .next t)
    (free : NoFaultYet t) : t = s ∨ f c = .ok t := by
  have ok := runSlot_noFault h step free
  split at ok
  · exact .inr ok
  · exact .inl (Except.ok.inj ok).symm

end Raise

/-! ### Teams -/

/-- The values that lanes and the team read keep. -/
def SameValues (a b : Team) : Prop := b.vregs = a.vregs ∧ b.tags = a.tags ∧ b.preds = a.preds ∧ b.sregs = a.sregs

/-- A path's masks and bundle keep. -/
def SameMasks (x y : Path) : Prop := y.base = x.base ∧ y.stack = x.stack ∧ y.pc = x.pc

/-- Every register of a team keeps its value but for SCOPE_CLAMPED. -/
def TeamKept (a b : Team) : Prop :=
  SameValues a b ∧ b.bv = a.bv ∧ b.bm = a.bm ∧ b.bx = a.bx ∧ (b.status = a.status ∨ b.status = a.status ||| 0x100#64) ∧
    b.accBase = a.accBase ∧ b.accLim = a.accLim ∧ b.lineBase = a.lineBase ∧ b.wids = a.wids ∧ b.wdogLimit = a.wdogLimit ∧
    ∀ p, SameMasks (a.path p) (b.path p)

theorem regsKept_iff (s t : State) : RegsKept s t ↔ ∀ k, TeamKept (s.team k) (t.team k) := forall_and.symm

theorem SameValues.trans {a b d : Team} (first : SameValues a b) (then_ : SameValues b d) : SameValues a d := by
  obtain ⟨v, t, p, s⟩ := first
  obtain ⟨v', t', p', s'⟩ := then_
  exact ⟨v'.trans v, t'.trans t, p'.trans p, s'.trans s⟩

theorem teamKept_refl (a : Team) : TeamKept a a :=
  ⟨⟨rfl, rfl, rfl, rfl⟩, rfl, rfl, rfl, .inl rfl, rfl, rfl, rfl, rfl, rfl, fun _ => ⟨rfl, rfl, rfl⟩⟩

theorem TeamKept.trans {a b d : Team} (first : TeamKept a b) (then_ : TeamKept b d) : TeamKept a d := by
  obtain ⟨values, bv, bm, bx, status, base, lim, line, wids, wdog, paths⟩ := first
  obtain ⟨values', bv', bm', bx', status', base', lim', line', wids', wdog', paths'⟩ := then_
  refine ⟨values.trans values', bv'.trans bv, bm'.trans bm, bx'.trans bx, ?_, base'.trans base, lim'.trans lim, line'.trans line,
    wids'.trans wids, wdog'.trans wdog, fun p => ?_⟩
  · rcases status with same | clamped <;> rcases status' with same' | clamped'
    · exact .inl (same'.trans same)
    · exact .inr (clamped'.trans (by rw [same]))
    · exact .inr (same'.trans clamped)
    · exact .inr (by rw [clamped', clamped, BitVec.or_assoc, BitVec.or_self])
  · obtain ⟨base, stack, pc⟩ := paths p
    obtain ⟨base', stack', pc'⟩ := paths' p
    exact ⟨base'.trans base, stack'.trans stack, pc'.trans pc⟩

/-- What is in flight, flags, rows, ports and the moment of an INVRO are no registers. -/
theorem teamKept_of_eq {a b : Team} (same : b = { a with pending := b.pending, flagCount := b.flagCount, flagSet := b.flagSet,
                                                         owned := b.owned, ports := b.ports, invroAt := b.invroAt }) :
    TeamKept a b := by
  rw [same]
  exact teamKept_refl a

theorem teamKept_modPath {p : Nat} {g : Path → Path} (keeps : ∀ pa, SameMasks pa (g pa)) (tm : Team) :
    TeamKept tm (tm.modPath p g) := by
  refine ⟨⟨rfl, rfl, rfl, rfl⟩, rfl, rfl, rfl, .inl rfl, rfl, rfl, rfl, rfl, rfl, fun q => ?_⟩
  by_cases own : q = p
  · subst own
    rw [path_modPath]
    exact keeps _
  · rw [Team.modPath, path_setPath_ne _ _ _ _ own]
    exact ⟨rfl, rfl, rfl⟩

theorem teamKept_clamped (tm : Team) : TeamKept tm { tm with status := tm.status ||| 0x100#64 } :=
  ⟨⟨rfl, rfl, rfl, rfl⟩, rfl, rfl, rfl, .inr rfl, rfl, rfl, rfl, rfl, rfl, fun _ => ⟨rfl, rfl, rfl⟩⟩

/-! ### States -/

/-- Something has been issued: registers and memory keep. -/
structure Issued (s t : State) : Prop where
  team : ∀ k, TeamKept (s.team k) (t.team k)
  mem : t.mem = s.mem

section Issues
variable {s u v : State}

theorem Issued.regsKept (h : Issued s u) : RegsKept s u := (regsKept_iff s u).2 h.team

theorem Issued.sameBytes (h : Issued s u) : SameBytes s u := sameBytes_of_mem h.mem

theorem issued_refl (s : State) : Issued s s := ⟨fun _ => teamKept_refl _, rfl⟩

theorem issued_of_eq (h : Issued s u) (teams : v.teams = u.teams) (mem : v.mem = u.mem) : Issued s v := by
  refine ⟨fun k => ?_, mem.trans h.mem⟩
  have same : v.team k = u.team k := congrArg (fun l : Tab Team => Tab.get l k {}) teams
  rw [same]
  exact h.team k

theorem issued_ite {p : Prop} [Decidable p] (hu : Issued s u) (hv : Issued s v) : Issued s (if p then u else v) :=
  iteInduction (fun _ => hu) (fun _ => hv)

theorem issued_foldl {α : Type} {f : State → α → State} {l : List α} (h : Issued s u)
    (step : ∀ w x, Issued s w → Issued s (f w x)) : Issued s (l.foldl f u) :=
  List.foldlRecOn l f h (fun w hw x _ => step w x hw)

theorem issued_modTeam {n : Nat} {g : Team → Team} (h : Issued s u) (keeps : ∀ tm, TeamKept tm (g tm)) :
    Issued s (u.modTeam n g) := by
  refine ⟨fun k => ?_, h.mem⟩
  by_cases own : k = n
  · subst own
    rw [team_modTeam]
    exact (h.team k).trans (keeps _)
  · rw [State.modTeam, team_setTeam_ne _ _ _ _ own]
    exact h.team k

theorem issued_modPath {n p : Nat} {g : Path → Path} (h : Issued s u) (keeps : ∀ pa, SameMasks pa (g pa)) :
    Issued s (u.modPath n p g) := issued_modTeam h (teamKept_modPath keeps)

theorem issued_land {n : Nat} {rs : List PendRes} (h : Issued s u) : Issued s (u.land n rs) :=
  issued_modTeam h fun tm => teamKept_of_eq (by rw [addResults_eq])

theorem issued_bump (h : Issued s u) : Issued s u.bump := issued_of_eq h rfl rfl

theorem issued_modCrew {n : Nat} {g : Crew → Crew} (h : Issued s u) : Issued s (u.modCrew n g) := issued_of_eq h rfl rfl

theorem issued_flagIssue {n : Nat} {fl : Option Nat} (h : Issued s u) : Issued s (flagIssue u n fl) := by
  cases fl with
  | none => exact h
  | some k =>
    unfold flagIssue
    exact issued_modTeam h fun _ => teamKept_of_eq rfl

theorem issued_flagDone {n : Nat} {fl : Option Nat} (h : Issued s u) : Issued s (flagDone u n fl) := by
  cases fl with
  | none => exact h
  | some k =>
    unfold flagDone
    exact issued_modTeam h fun _ => teamKept_of_eq rfl

theorem issued_slip {c : Ctx} {n : Nat} (h : Issued s u) : Issued s (slip u c n) := by
  unfold slip
  exact issued_ite h (issued_modPath h fun _ => ⟨rfl, rfl, rfl⟩)

theorem issued_clampScope {n scope : Nat} (h : Issued s u) : Issued s (clampScope u n scope).1 := by
  rcases clampScope_eq u n scope with same | status
  · rw [same]
    exact h
  · rw [status]
    exact issued_modTeam h teamKept_clamped

theorem issued_fenceAt {n p scope : Nat} (h : Issued s u) : Issued s (fenceAt u n p scope).1 :=
  issued_of_eq h (fenceAt_leaves u n p scope).1 (fenceAt_mem u n p scope)

theorem issued_keepDesc {k i : Nat} (h : Issued s u) : Issued s (keepDesc u k i) := by
  unfold keepDesc
  split
  · exact h
  · split
    · exact issued_of_eq h rfl rfl
    · exact h

theorem issued_issueOp {n p : Nat} {op : PendOp} (h : Issued s u) : Issued s (issueOp u n p op) :=
  issued_modPath (issued_of_eq h rfl rfl) fun _ => ⟨rfl, rfl, rfl⟩

theorem issued_startWalks {k n p tid : Nat} {entries : List Nat} (h : Issued s u) :
    Issued s (startWalks u k n p tid entries).1 := by
  unfold startWalks
  refine List.foldlRecOn (motive := fun (x : State × List Nat) => Issued s x.1) entries _ h (fun x hx e _ => ?_)
  dsimp only
  split
  · exact hx
  · exact issued_of_eq hx rfl rfl

theorem issued_touchTtb {core fn : Nat} {entries : List Nat} (h : Issued s u) : Issued s (touchTtb u core fn entries) := by
  unfold touchTtb
  exact issued_ite h (issued_of_eq h rfl rfl)

theorem issued_stopLater {n p code i : Nat} (h : Issued s u) : Issued s (stopLater u n p code i) :=
  issued_modPath h fun _ => ⟨rfl, rfl, rfl⟩

theorem issued_issueAccess {acc : Access} (h : Issued s u) : Issued s (issueAccess u acc) := by
  have up := issued_flagIssue (n := acc.team) (fl := acc.flag) h
  unfold issueAccess
  exact issued_ite (issued_flagDone up) (issued_modPath (issued_of_eq up rfl rfl) fun _ => ⟨rfl, rfl, rfl⟩)

theorem issued_askLeave {core e cost : Nat} {op : Option Nat} {b : Bool} (h : Issued s u) :
    Issued s (askLeave u core e cost op b) := by
  unfold askLeave
  exact issued_ite h (issued_of_eq h rfl rfl)

end Issues

end Sys2Proof.Machine
end

section
/-! PROOFS. Memory slots, commands and lining duplicates at issue: they change no register, and no byte of memory (R225, R226, R233). -/

namespace Sys2Proof.Machine

open Sys2Proof

/-! ### What the effect of a slot gives -/

/-- The state of an effect that raises no fault has a property. -/
def Gives (P : State → Prop) : Except FaultInfo State → Prop
  | .ok u => P u
  | .error _ => True

theorem gives_ite {P : State → Prop} {p : Prop} [Decidable p] {x y : Except FaultInfo State} (hx : Gives P x) (hy : Gives P y) :
    Gives P (if p then x else y) := iteInduction (fun _ => hx) (fun _ => hy)

section Effects
variable {s t : State} {c : Ctx} {slot : Slot} {P : State → Prop} (h : ctxOf s = some c)

include h in
theorem runSlot_gives {f : Ctx → Except FaultInfo State} (step : runSlot s slot f = .next t) (free : NoFaultYet t)
    (effect : Gives P (f c)) : P t := by
  rw [runSlot_noFault h step free] at effect
  exact effect

include h in
theorem runSlotBoth_gives {f : Ctx → State × Option FaultInfo} (step : runSlotBoth s slot f = .next t)
    (free : NoFaultYet t) (effect : (f c).2 = none → P (f c).1) : P t := by
  rw [runSlotBoth_noFault h step free] at effect
  exact effect rfl

include h in
theorem runCommand_gives {f : Ctx → Pass → Except FaultInfo State} (step : runCommand s f = .next t) (free : NoFaultYet t)
    (idle_ : P s) (effect : ∀ p, Gives P (f c p)) : P t := by
  refine runSlot_gives h step free ?_
  split
  · exact idle_
  · exact effect _

include h in
theorem runCommandKeep_gives {f : Ctx → Pass → State × Option FaultInfo} (step : runCommandKeep s f = .next t)
    (free : NoFaultYet t) (idle_ : P s) (effect : ∀ p, (f c p).2 = none → P (f c p).1) : P t := by
  refine runSlotBoth_gives h step free ?_
  split
  · exact fun _ => idle_
  · exact effect _

end Effects

section Slots
variable {s t : State} {c : Ctx} (h : ctxOf s = some c)

/-! ### Slots that act in no lane (R225, R226) -/

theorem firstPass_of_idle {ps : List Pass} (none_ : idle ps = true) : firstPass ps = none := by
  unfold idle at none_
  unfold firstPass
  rw [List.find?_eq_none]
  intro p mem
  simpa using List.all_eq_true.1 none_ p mem

include h in
theorem runSlotBoth_ok {slot : Slot} {f : Ctx → State × Option FaultInfo} (effect : f c = (t, none)) :
    runSlotBoth s slot f = .next t := by
  unfold runSlotBoth
  rw [h]
  dsimp only
  rw [effect]

include h in
theorem tensorRun_idle (f : MFields) (op : TensorOp) (none_ : idle c.mPasses = true) : tensorRun s f op = .next s :=
  runSlotBoth_ok h (if_pos none_)

include h in
theorem exec_m_idle {i : Instr} (memory : (mOpcode i).isSome = true) (none_ : idle c.mPasses = true) : exec i s = .next s := by
  have nowhere : firstPass c.mPasses = none := firstPass_of_idle none_
  cases i
  case tld | tst | tred | rold | aadd | afadd | amin | amax | aand | aor | axor | axchg | acas => exact tensorRun_idle h _ _ none_
  case sld | sst | saadd | safadd | samin | samax | saand | saor | saxor | saxchg | sacas | accld | accst | radv | gskip | acq | rel |
      fence | invro => exact runSlot_ok h (if_pos none_)
  case rstat | gcfg =>
    refine runSlot_ok h ?_
    dsimp only
    rw [nowhere]
  all_goals nomatch memory

include h in
theorem exec_x_idle {i : Instr} (command : (xOpcode i).isSome = true) (none_ : idle c.xPasses = true) : exec i s = .next s := by
  have nowhere : firstPass c.xPasses = none := firstPass_of_idle none_
  cases i
  case copy | copyg | copys | fill | mma | mmas =>
    refine runSlotBoth_ok h ?_
    rw [nowhere]
  case accz | accout | coll | lvreq =>
    refine runSlot_ok h ?_
    rw [nowhere]
  all_goals nomatch command

/-! ### Tensor accesses (R388-R398) -/

theorem issued_pmCount {u : State} {fn event n : Nat} (issued : Issued s u) : Issued s (pmCount u fn event n) := by
  unfold pmCount
  exact issued_ite issued (issued_of_eq issued rfl rfl)

theorem issued_stopWatch {u : State} {hit : Option Nat} (issued : Issued s u) : Issued s (stopWatch u c hit) := by
  cases hit with
  | none => exact issued
  | some n => exact issued_stopLater issued

theorem issued_tensorAccess {u : State} {d : Desc} {f : MFields} {op : TensorOp} {bads : List LaneBad}
    {good : List (Pass × LaneCheck)} (issued : Issued s u) : Issued s (tensorAccess u c d f op bads good) := by
  have clamped {w : State} (issued : Issued s w) : Issued s (if op.clamps then clampScope w c.t f.scope.toNat else (w, 0)).1 := by
    split
    · exact issued_clampScope issued
    · exact issued
  have fenced {x : State × Nat} (issued : Issued s x.1) : Issued s (match op.kind with
      | .atomic _ | .combine _ => fenceAt x.1 c.t c.p x.2
      | _ => (x.1, [])).1 := by
    split
    · exact issued_fenceAt issued
    · exact issued_fenceAt issued
    · exact issued
  unfold tensorAccess
  exact issued_stopWatch (issued_bump (issued_issueAccess (issued_keepDesc (fenced (clamped (issued_startWalks
    (issued_touchTtb issued)))))))

include h in
theorem tensorRun_issued {f : MFields} {op : TensorOp} (step : tensorRun s f op = .next t) (free : NoFaultYet t) : Issued s t := by
  refine runSlotBoth_gives h step free (P := Issued s) ?_
  have met {n : Nat} : Issued s (pmCount s (c.tk s).fn 0x16 n) := issued_pmCount (issued_refl s)
  split
  · exact fun _ => issued_refl s
  · split
    · exact fun faulted => nomatch faulted
    · split
      · exact fun _ => issued_refl s
      · dsimp only
        split
        · exact fun _ => issued_tensorAccess met
        · split
          · exact fun _ => issued_tensorAccess met
          · split
            · exact fun faulted => nomatch faulted
            · exact fun faulted => nomatch faulted

/-! ### Shared memory and windows (R399-R403) -/

include h in
theorem execSld_issued {f : MFields} (step : execSld f s = .next t) (free : NoFaultYet t) :
    Issued s t ∨ Issued (atomicsFirst s c f) t := by
  refine runSlot_gives h step free (P := fun t => Issued s t ∨ Issued (atomicsFirst s c f) t) (gives_ite (.inl (issued_refl s)) ?_)
  dsimp only
  split
  · trivial
  · exact .inr (issued_bump (issued_slip (issued_land (issued_modCrew (issued_refl _)))))

include h in
theorem execSst_issued {f : MFields} (step : execSst f s = .next t) (free : NoFaultYet t) :
    Issued s t ∨ Issued (atomicsFirst s c f) t := by
  refine runSlot_gives h step free (P := fun t => Issued s t ∨ Issued (atomicsFirst s c f) t) (gives_ite (.inl (issued_refl s)) ?_)
  split
  · trivial
  · exact .inr (issued_bump (issued_slip (issued_modCrew (issued_refl _))))

include h in
theorem sharedAtomicRun_issued {f : MFields} {op : Nat} {two : Bool} (step : sharedAtomicRun s f op two = .next t)
    (free : NoFaultYet t) : Issued s t := by
  refine runSlot_gives h step free (P := Issued s) (gives_ite (issued_refl s) ?_)
  split
  · trivial
  · exact issued_bump (issued_slip (issued_issueAccess (issued_fenceAt (issued_refl s))))

include h in
theorem execAccld_issued {f : MFields} (step : execAccld f s = .next t) (free : NoFaultYet t) : Issued s t := by
  refine runSlot_gives h step free (P := Issued s) (gives_ite (issued_refl s) ?_)
  dsimp only
  split
  · trivial
  · exact issued_bump (issued_land (issued_refl s))

include h in
theorem execAccst_issued {f : MFields} (step : execAccst f s = .next t) (free : NoFaultYet t) : Issued s t := by
  refine runSlot_gives h step free (P := Issued s) (gives_ite (issued_refl s) ?_)
  split
  · trivial
  · exact issued_bump (issued_modCrew (issued_refl s))

/-! ### Rings and ports (R405-R408) -/

include h in
theorem execRadv_issued {f : MFields} (step : execRadv f s = .next t) (free : NoFaultYet t) :
    Issued s t ∨ Issued (settleAtomics s c.t none) t := by
  have settled : Issued (settleAtomics s c.t none) (settleAtomics s c.t none) := issued_refl _
  refine runSlot_gives h step free (P := fun t => Issued s t ∨ Issued (settleAtomics s c.t none) t)
    (gives_ite (.inl (issued_refl s)) (gives_ite trivial (gives_ite trivial (gives_ite (.inl (issued_refl s)) (gives_ite ?_ ?_)))))
  · exact .inr (issued_modCrew settled)
  · exact .inr (issued_of_eq settled rfl rfl)

include h in
theorem execRstat_issued {f : MFields} (step : execRstat f s = .next t) (free : NoFaultYet t) : Issued s t := by
  refine runSlot_gives h step free (P := Issued s) ?_
  dsimp only
  split
  · exact gives_ite trivial (issued_land (issued_refl s))
  · exact issued_refl s

include h in
theorem execGcfg_issued {f : MFields} (step : execGcfg f s = .next t) (free : NoFaultYet t) : Issued s t := by
  refine runSlot_gives h step free (P := Issued s) ?_
  split
  · exact gives_ite trivial (issued_bump (issued_modTeam (issued_of_eq (issued_refl s) rfl rfl) fun _ => teamKept_of_eq rfl))
  · exact issued_refl s

include h in
theorem execGskip_issued {f : MFields} (step : execGskip f s = .next t) (free : NoFaultYet t) : Issued s t :=
  runSlot_gives h step free (P := Issued s) (gives_ite (issued_refl s) (issued_modTeam (issued_refl s) fun _ => teamKept_of_eq rfl))

/-! ### Order (R194-R201, R209) -/

include h in
theorem execAcq_issued {f : MFields} (step : execAcq f s = .next t) (free : NoFaultYet t) : Issued s t := by
  refine runSlot_gives h step free (P := Issued s) (gives_ite (issued_refl s) ?_)
  dsimp only
  split
  · trivial
  · trivial
  · exact issued_issueOp (issued_flagIssue (issued_clampScope (issued_refl s)))

include h in
theorem execRel_issued {f : MFields} (step : execRel f s = .next t) (free : NoFaultYet t) : Issued s t := by
  refine runSlot_gives h step free (P := Issued s) (gives_ite (issued_refl s) ?_)
  dsimp only
  split
  · trivial
  · trivial
  · exact issued_issueOp (issued_flagIssue (issued_clampScope (issued_refl s)))

include h in
theorem execFence_issued {f : MFields} (step : execFence f s = .next t) (free : NoFaultYet t) : Issued s t :=
  runSlot_gives h step free (P := Issued s) (gives_ite (issued_refl s)
    (issued_bump (issued_modPath (issued_fenceAt (issued_clampScope (issued_refl s))) fun _ => ⟨rfl, rfl, rfl⟩)))

include h in
theorem execInvro_issued {f : MFields} (step : execInvro f s = .next t) (free : NoFaultYet t) : Issued s t :=
  runSlot_gives h step free (P := Issued s) (gives_ite (issued_refl s)
    (issued_modTeam (issued_of_eq (issued_refl s) rfl rfl) fun _ => teamKept_of_eq rfl))

/-! ### Commands (R411, R428, R438, R444) -/

theorem issued_issueCommand {u : State} {f : XFields} {orders : Bool} (issued : Issued s u) :
    Issued s (issueCommand u c f orders) := by
  have clamped := issued_clampScope (n := c.t) (scope := f.scope.toNat) issued
  unfold issueCommand
  exact issued_flagIssue (issued_ite (issued_fenceAt clamped) clamped)

theorem issued_ownRows {u : State} {n : Nat} {rows : List Nat} (issued : Issued s u) : Issued s (ownRows u n rows) :=
  issued_modTeam issued fun _ => teamKept_of_eq rfl

theorem issued_keepDescs {u : State} {k : Nat} {ts : List Nat} (issued : Issued s u) :
    Issued s (ts.foldl (fun s t => keepDesc s k t) u) := issued_foldl issued fun _ _ hw => issued_keepDesc hw

theorem issued_mxEnqueue {u : State} {f : XFields} {q : MxCmd} (issued : Issued s u) : Issued s (mxEnqueue u c f q) :=
  issued_bump (issued_of_eq (issued_ownRows (n := c.t) (rows := ownedRows c f q.m)
    (issued_issueCommand (c := c) (f := f) (orders := false) issued)) rfl rfl)

include h in
theorem copyRun_issued {f : XFields} {kind : Nat} (step : copyRun s f kind = .next t) (free : NoFaultYet t) : Issued s t := by
  refine runCommandKeep_gives h step free (P := Issued s) (issued_refl s) (fun p => ?_)
  dsimp only
  split
  · exact fun faulted => nomatch faulted
  · exact fun _ => issued_bump (issued_of_eq (issued_ownRows (issued_issueCommand (issued_keepDescs (issued_refl s)))) rfl rfl)

include h in
theorem mmaRun_issued {f : XFields} {kind : Nat} (step : mmaRun s f kind = .next t) (free : NoFaultYet t) : Issued s t := by
  refine runCommandKeep_gives h step free (P := Issued s) (issued_refl s) (fun p => ?_)
  dsimp only
  split
  · exact fun faulted => nomatch faulted
  · exact fun _ => issued_askLeave (issued_mxEnqueue (issued_keepDescs (issued_refl s)))

include h in
theorem execAccz_issued {f : XFields} (step : execAccz f s = .next t) (free : NoFaultYet t) : Issued s t := by
  refine runCommand_gives h step free (P := Issued s) (issued_refl s) (fun p => ?_)
  dsimp only
  split
  · trivial
  · exact issued_mxEnqueue (issued_refl s)

include h in
theorem execAccout_issued {f : XFields} (step : execAccout f s = .next t) (free : NoFaultYet t) : Issued s t := by
  refine runCommand_gives h step free (P := Issued s) (issued_refl s) (fun p => ?_)
  dsimp only
  split
  · trivial
  · exact issued_mxEnqueue (issued_refl s)

include h in
theorem execColl_issued {f : XFields} (step : execColl f s = .next t) (free : NoFaultYet t) : Issued s t :=
  runCommand_gives h step free (P := Issued s) (issued_refl s) (fun _ => gives_ite trivial (issued_askLeave (issued_of_eq
    (issued_issueCommand (c := c) (f := f) (orders := false) (issued_refl s)) rfl rfl)))

include h in
theorem execLvreq_issued {f : XFields} (step : execLvreq f s = .next t) (free : NoFaultYet t) : Issued s t := by
  have up := issued_flagIssue (n := c.t) (fl := f.flagOf) (issued_refl s)
  exact runCommand_gives h step free (P := Issued s) (issued_refl s) (fun _ => gives_ite (issued_flagDone (issued_of_eq up rfl rfl))
    (issued_of_eq up rfl rfl))

/-! ### Lining duplicates (R441-R443) -/

include h in
theorem liningRun_issued {f : LFields} {useC : Bool} {latency : Nat} {op : Nat → Nat → Nat → Nat}
    (step : liningRun s f useC latency op = .next t) (free : NoFaultYet t) : Issued s t :=
  runSlot_gives h step free (P := Issued s) (gives_ite (issued_refl s) (gives_ite trivial (issued_bump (issued_land (issued_refl s)))))

/-! ### Every instruction of these slots -/

/-- What an instruction that follows shared atomics in flight finds: they are performed (R188, R204). -/
def followed (s : State) (c : Ctx) : Instr → State
  | .sld f | .sst f => atomicsFirst s c f
  | .radv _ => settleAtomics s c.t none
  | _ => s

include h in
theorem exec_m_issued {i : Instr} (memory : (mOpcode i).isSome = true) (step : exec i s = .next t) (free : NoFaultYet t) :
    Issued s t ∨ Issued (followed s c i) t := by
  cases i
  case tld | tst | tred | rold | aadd | afadd | amin | amax | aand | aor | axor | axchg | acas =>
    exact .inl (tensorRun_issued h step free)
  case sld => exact execSld_issued h step free
  case sst => exact execSst_issued h step free
  case saadd | safadd | samin | samax | saand | saor | saxor | saxchg | sacas => exact .inl (sharedAtomicRun_issued h step free)
  case accld => exact .inl (execAccld_issued h step free)
  case accst => exact .inl (execAccst_issued h step free)
  case radv => exact execRadv_issued h step free
  case rstat => exact .inl (execRstat_issued h step free)
  case gcfg => exact .inl (execGcfg_issued h step free)
  case gskip => exact .inl (execGskip_issued h step free)
  case acq => exact .inl (execAcq_issued h step free)
  case rel => exact .inl (execRel_issued h step free)
  case fence => exact .inl (execFence_issued h step free)
  case invro f => exact .inl (execInvro_issued (f := f) h step free)
  all_goals nomatch memory

include h in
theorem exec_x_issued {i : Instr} (command : (xOpcode i).isSome = true ∨ (lOpcode i).isSome = true) (step : exec i s = .next t)
    (free : NoFaultYet t) : Issued s t := by
  cases i
  case copy | copyg | copys | fill => exact copyRun_issued h step free
  case mma | mmas => exact mmaRun_issued h step free
  case accz => exact execAccz_issued h step free
  case accout => exact execAccout_issued h step free
  case coll => exact execColl_issued h step free
  case lvreq => exact execLvreq_issued h step free
  case lfma f => exact liningRun_issued h (show execLfma f s = .next t from step) free
  case ladd f => exact liningRun_issued h (show execLadd f s = .next t from step) free
  case lmul f => exact liningRun_issued h (show execLmul f s = .next t from step) free
  case liadd f => exact liningRun_issued h (show execLiadd f s = .next t from step) free
  case limul f => exact liningRun_issued h (show execLimul f s = .next t from step) free
  case llogic f => exact liningRun_issued h (show execLlogic f s = .next t from step) free
  all_goals nomatch command

end Slots

end Sys2Proof.Machine
end

section
/-! PROOFS. Control slots at issue: they change no V register, tag, predicate or S register (R226, R445). -/

namespace Sys2Proof.Machine

open Sys2Proof

section Values
variable {s u v : State}

/-! ### What keeps values -/

theorem valuesKept_refl (s : State) : ValuesKept s s := fun _ => ⟨rfl, rfl, rfl, rfl⟩

theorem Issued.valuesKept (h : Issued s u) : ValuesKept s u := fun k => (h.team k).1

theorem valuesKept_of_eq (h : ValuesKept s u) (teams : v.teams = u.teams) : ValuesKept s v := by
  intro k
  have same : v.team k = u.team k := congrArg (fun l : Tab Team => Tab.get l k {}) teams
  rw [same]
  exact h k

theorem valuesKept_ite {p : Prop} [Decidable p] (hu : ValuesKept s u) (hv : ValuesKept s v) : ValuesKept s (if p then u else v) :=
  iteInduction (fun _ => hu) (fun _ => hv)

theorem valuesKept_foldl {α : Type} {f : State → α → State} {l : List α} (h : ValuesKept s u)
    (step : ∀ w x, ValuesKept s w → ValuesKept s (f w x)) : ValuesKept s (l.foldl f u) :=
  List.foldlRecOn l f h (fun w hw x _ => step w x hw)

theorem valuesKept_setTeam {n : Nat} {x : Team} (h : ValuesKept s u) (keeps : SameValues (u.team n) x) :
    ValuesKept s (u.setTeam n x) := by
  intro k
  by_cases own : k = n
  · subst own
    rw [team_setTeam]
    exact SameValues.trans (h k) keeps
  · rw [team_setTeam_ne _ _ _ _ own]
    exact h k

theorem sameValues_setPath (tm : Team) (p : Nat) (x : Path) : SameValues tm (tm.setPath p x) := ⟨rfl, rfl, rfl, rfl⟩

theorem valuesKept_modTeam {n : Nat} {g : Team → Team} (h : ValuesKept s u) (keeps : ∀ tm, SameValues tm (g tm)) :
    ValuesKept s (u.modTeam n g) := valuesKept_setTeam h (keeps _)

/-- What a path does is no value. -/
theorem valuesKept_modPath {n p : Nat} {g : Path → Path} (h : ValuesKept s u) : ValuesKept s (u.modPath n p g) :=
  valuesKept_modTeam h fun _ => ⟨rfl, rfl, rfl, rfl⟩

theorem valuesKept_land {n : Nat} {rs : List PendRes} (h : ValuesKept s u) : ValuesKept s (u.land n rs) :=
  valuesKept_modTeam h fun tm => by
    rw [addResults_eq]
    exact ⟨rfl, rfl, rfl, rfl⟩

theorem valuesKept_bump (h : ValuesKept s u) : ValuesKept s u.bump := valuesKept_of_eq h rfl

theorem valuesKept_modCrew {n : Nat} {g : Crew → Crew} (h : ValuesKept s u) : ValuesKept s (u.modCrew n g) := valuesKept_of_eq h rfl

theorem valuesKept_setCrew {n : Nat} {x : Crew} (h : ValuesKept s u) : ValuesKept s (u.setCrew n x) := valuesKept_of_eq h rfl

theorem valuesKept_modTask {n : Nat} {g : Task → Task} (h : ValuesKept s u) : ValuesKept s (u.modTask n g) := valuesKept_of_eq h rfl

theorem valuesKept_memWrite {flat : Nat} {bs : List Byte} (h : ValuesKept s u) : ValuesKept s (memWrite u flat bs) :=
  valuesKept_of_eq h rfl

theorem valuesKept_pages {ps : List PageReq} (h : ValuesKept s u) : ValuesKept s { u with pages := ps } := valuesKept_of_eq h rfl

theorem valuesKept_traces {α : Type} {es : List α} {t p : Nat} {kind : TraceKind} {detail : Nat} (h : ValuesKept s u) :
    ValuesKept s (es.foldl (fun s _ => tracePath s t p kind detail) u) := by
  intro k
  rw [traces_team]
  exact h k

theorem valuesKept_tracePath {t p : Nat} {kind : TraceKind} {detail : Nat} (h : ValuesKept s u) :
    ValuesKept s (tracePath u t p kind detail) := valuesKept_of_eq h (traceEvent_teams u _ kind detail _)

theorem valuesKept_holdPath {c : Ctx} {reason : Nat} (h : ValuesKept s u) : ValuesKept s (holdPath u c reason) :=
  valuesKept_modPath h

theorem valuesKept_branchRun {c : Ctx} {off : BitVec 20} {taken : Bool} (h : ValuesKept s u) :
    ValuesKept s (branchRun u c off taken) := valuesKept_modPath h

theorem valuesKept_flagIssue {n : Nat} {fl : Option Nat} (h : ValuesKept s u) : ValuesKept s (flagIssue u n fl) := by
  cases fl with
  | none => exact h
  | some k => exact valuesKept_modTeam h fun _ => ⟨rfl, rfl, rfl, rfl⟩

theorem valuesKept_issueOp {n p : Nat} {op : PendOp} (h : ValuesKept s u) : ValuesKept s (issueOp u n p op) :=
  valuesKept_modPath (valuesKept_of_eq h rfl)

/-! ### Barriers (R462) -/

theorem valuesKept_completeBar {n b : Nat} (h : ValuesKept s u) : ValuesKept s (completeBar u n b) := by
  unfold completeBar
  refine valuesKept_ite h (valuesKept_foldl (valuesKept_of_eq h rfl) fun w tix hw => ?_)
  split
  · exact valuesKept_modTeam hw fun _ => ⟨rfl, rfl, rfl, rfl⟩
  · exact hw

theorem valuesKept_syncYield {c : Ctx} {b : Nat} (h : ValuesKept s u) : ValuesKept s (syncYield u c b) := by
  unfold syncYield
  exact valuesKept_ite (valuesKept_of_eq h rfl) h

theorem valuesKept_passBar {c : Ctx} (h : ValuesKept s u) : ValuesKept s (passBar u c) :=
  valuesKept_modCrew (valuesKept_modPath h)

theorem barArrive_gives (s : State) (c : Ctx) (b count : Nat) : Gives (ValuesKept s) (barArrive s c b count) := by
  unfold barArrive
  refine gives_ite (valuesKept_setTeam (valuesKept_refl s) ⟨rfl, rfl, rfl, rfl⟩) (gives_ite trivial ?_)
  have merged {n : Nat} {g : Path → Path} {es : List (Nat × Path)} {x : Crew} :
      ValuesKept s ((es.foldl (fun s _ => tracePath s c.t n .pathMerged 0)
        (s.setTeam c.t (mergeAll ((s.team c.t).modPath c.p g) n))).setCrew c.tm.crew x) :=
    valuesKept_setCrew (valuesKept_traces (valuesKept_setTeam (valuesKept_refl s) ⟨rfl, rfl, rfl, rfl⟩))
  exact valuesKept_ite (valuesKept_completeBar (valuesKept_syncYield merged)) merged

/-! ### The debugger's forms (R271-R273, R472) -/

theorem valuesKept_syncSaved {k : Nat} (h : ValuesKept s u) : ValuesKept s (syncSaved u k) := by
  unfold syncSaved
  exact valuesKept_ite h (valuesKept_modTask (valuesKept_foldl h fun _ _ hw => valuesKept_memWrite hw))

theorem valuesKept_modPaths {n : Nat} {ps : List Nat} {g : Path → Path} (h : ValuesKept s u) :
    ValuesKept s (modPaths u n ps g) := valuesKept_foldl h fun _ _ hw => valuesKept_modPath hw

theorem dbgResume_valuesKept (s : State) (d : DbgTarget) : ValuesKept s (dbgResume s d).1 := by
  unfold dbgResume
  dsimp only
  split
  · exact valuesKept_refl s
  · exact valuesKept_modPaths (valuesKept_refl s)

theorem dbgStep_valuesKept (s : State) (d : DbgTarget) : ValuesKept s (dbgStep s d).1 := by
  unfold dbgStep
  dsimp only
  split
  · exact valuesKept_refl s
  · exact valuesKept_modPath (valuesKept_modPaths (valuesKept_refl s))

theorem dbgSplit_valuesKept (s : State) (d : DbgTarget) (lane : Nat) : ValuesKept s (dbgSplit s d lane).1 := by
  unfold dbgSplit
  dsimp only
  split
  · exact valuesKept_refl s
  · split
    · exact valuesKept_refl s
    · split
      · exact valuesKept_refl s
      · exact valuesKept_tracePath (valuesKept_pages (valuesKept_setTeam (valuesKept_refl s) ⟨rfl, rfl, rfl, rfl⟩))

/-- The commands of the privileged forms: RESUME, STEP and DBGSPLIT. -/
theorem dbgCommand_valuesKept {code : Nat} (form : code = 2 ∨ code = 3 ∨ code = 4) (s : State) (fn sel crew arg arg2 : Nat) :
    ValuesKept s (dbgCommand s code fn sel crew arg arg2).1 := by
  unfold dbgCommand
  split
  · exact valuesKept_refl s
  · split
    · exact valuesKept_refl s
    · rcases form with rfl | rfl | rfl
      · exact valuesKept_syncSaved (dbgResume_valuesKept s _)
      · exact valuesKept_syncSaved (dbgStep_valuesKept s _)
      · exact valuesKept_syncSaved (dbgSplit_valuesKept s _ _)

theorem valuesKept_holdFor {c : Ctx} {dest : Option Nat} {n : Nat} (h : ValuesKept s u) : ValuesKept s (holdFor u c dest n) := by
  have held {g : Path → Path} : ValuesKept s (u.modPath c.t c.p g) := valuesKept_modPath h
  unfold holdFor
  dsimp only
  split
  · exact valuesKept_bump (valuesKept_land held)
  · exact valuesKept_bump held

/-! ### System registers (R469) -/

theorem writeAccw_gives (s : State) (c : Ctx) (t : Nat) (w : Word64) : Gives (ValuesKept s) (writeAccw s c t w) := by
  have window {cr : Crew} : ValuesKept s (s.setCrew c.tm.crew cr) := valuesKept_of_eq (valuesKept_refl s) rfl
  unfold writeAccw
  refine gives_ite trivial (gives_ite (valuesKept_refl s) (gives_ite trivial ?_))
  dsimp only
  split
  · exact valuesKept_modTeam window fun _ => ⟨rfl, rfl, rfl, rfl⟩
  · exact window

theorem writeSysReg_gives (s : State) (c : Ctx) (n : Nat) (w : Word64) : Gives (ValuesKept s) (writeSysReg s c n w) := by
  have own {g : Team → Team} (keeps : ∀ tm, SameValues tm (g tm)) : ValuesKept s (s.modTeam c.t g) :=
    valuesKept_modTeam (valuesKept_refl s) keeps
  unfold writeSysReg
  refine gives_ite (own fun _ => ⟨rfl, rfl, rfl, rfl⟩) (gives_ite ?_
    (gives_ite (gives_ite trivial (own fun _ => ⟨rfl, rfl, rfl, rfl⟩)) (gives_ite (writeAccw_gives s c _ w) (valuesKept_refl s))))
  exact valuesKept_modTask (own fun _ => ⟨rfl, rfl, rfl, rfl⟩)

end Values

/-! ### Every control instruction -/

section Control
variable {s t : State} {c : Ctx} (h : ctxOf s = some c)

include h in
theorem runControl_keeps {f : Ctx → Except FaultInfo State} (step : runControl s f = .next t) (free : NoFaultYet t)
    (effect : Gives (ValuesKept s) (f c)) : ValuesKept s t := by
  rcases runControl_noFault h step free with rfl | ok
  · exact valuesKept_refl t
  · rw [ok] at effect
    exact effect

include h in
theorem stackRun_keeps {g : Ctx → Path → Path} (step : stackRun s g = .next t) (free : NoFaultYet t) : ValuesKept s t :=
  runControl_keeps h step free (gives_ite trivial (valuesKept_modPath (valuesKept_refl s)))

include h in
theorem scalarRun_keeps {d : BitVec 7} {latency : Nat} {op : Ctx → Word64} (step : scalarRun s d latency op = .next t)
    (free : NoFaultYet t) : ValuesKept s t := runControl_keeps h step free (valuesKept_bump (valuesKept_land (valuesKept_refl s)))

include h in
theorem dbgForm_keeps {code : Nat} (form : code = 2 ∨ code = 3 ∨ code = 4) {d a b : BitVec 7} (step : dbgForm s code d a b = .next t)
    (free : NoFaultYet t) : ValuesKept s t :=
  runControl_keeps h step free (valuesKept_modPath (valuesKept_holdFor (dbgCommand_valuesKept form s _ _ _ _ _)))

/-- A branch of either kind changes its path's next bundle alone. -/
theorem indirect_gives (s : State) (c : Ctx) (target : Nat) : Gives (ValuesKept s) (indirect s c target) := by
  unfold indirect
  exact gives_ite trivial (valuesKept_bump (valuesKept_modPath (valuesKept_refl s)))

include h in
theorem execCall_keeps {k : BitVec 4} {off : BitVec 20} (step : execCall k off s = .next t) (free : NoFaultYet t) : ValuesKept s t :=
  runControl_keeps h step free (valuesKept_branchRun (valuesKept_land (valuesKept_refl s)))

include h in
theorem execLoop_keeps {k : BitVec 4} {off : BitVec 20} (step : execLoop k off s = .next t) (free : NoFaultYet t) : ValuesKept s t :=
  runControl_keeps h step free
    (valuesKept_bump (valuesKept_branchRun (valuesKept_ite (valuesKept_refl s) (valuesKept_land (valuesKept_refl s)))))

include h in
theorem execPushm_keeps {p : BitVec 4} {neg : Bool} (step : execPushm p neg s = .next t) (free : NoFaultYet t) : ValuesKept s t :=
  runControl_keeps h step free (gives_ite trivial (valuesKept_bump (valuesKept_modPath (valuesKept_refl s))))

include h in
theorem execSplit_keeps {k : BitVec 4} {off : BitVec 20} (step : execSplit k off s = .next t) (free : NoFaultYet t) :
    ValuesKept s t := by
  have moved {p q : Nat} {x y : Path} : SameValues (s.team c.t) (((s.team c.t).setPath p x).setPath q y) :=
    (sameValues_setPath _ p x).trans (sameValues_setPath _ q y)
  refine runControl_keeps h step free ?_
  generalize c.predLanes k.toNat false = m
  refine gives_ite ?_ ?_
  · exact valuesKept_bump (valuesKept_setTeam (valuesKept_refl s) (sameValues_setPath _ _ _))
  · dsimp only
    split
    · trivial
    · exact valuesKept_bump (valuesKept_tracePath (valuesKept_setTeam (valuesKept_refl s) moved))

include h in
theorem execJoin_keeps (step : execJoin s = .next t) (free : NoFaultYet t) : ValuesKept s t :=
  runControl_keeps h step free (gives_ite (valuesKept_holdPath (valuesKept_refl s))
    (valuesKept_traces (valuesKept_setTeam (valuesKept_refl s) ⟨rfl, rfl, rfl, rfl⟩)))

include h in
theorem execWrsr_keeps {d : BitVec 7} {imm : BitVec 16} (step : execWrsr d imm s = .next t) (free : NoFaultYet t) :
    ValuesKept s t := by
  have written := writeSysReg_gives s c imm.toNat (BitVec.ofNat 64 (c.sreg d.toNat))
  refine runControl_keeps h step free ?_
  split
  next u e =>
    rw [e] at written
    exact valuesKept_bump written
  next => trivial

include h in
theorem execWaitc_keeps {n : BitVec 4} {k : BitVec 7} (step : execWaitc n k s = .next t) (free : NoFaultYet t) : ValuesKept s t :=
  runControl_keeps h step free (valuesKept_bump (valuesKept_ite (valuesKept_modPath (valuesKept_refl s))
    (valuesKept_holdPath (valuesKept_modPath (valuesKept_refl s)))))

include h in
theorem execBar_keeps {b : BitVec 4} {count : BitVec 5} (step : execBar b count s = .next t) (free : NoFaultYet t) :
    ValuesKept s t := by
  have arrived := barArrive_gives s c b.toNat count.toNat
  refine runControl_keeps h step free (gives_ite (valuesKept_passBar (valuesKept_refl s)) ?_)
  split
  next => trivial
  next u e =>
    rw [e] at arrived
    exact valuesKept_ite (valuesKept_passBar arrived) arrived

include h in
theorem execSashp_keeps {n : BitVec 4} {named : Bool} (step : execSashp n named s = .next t) (free : NoFaultYet t) :
    ValuesKept s t :=
  runControl_keeps h step free (gives_ite trivial (gives_ite trivial (valuesKept_modCrew (valuesKept_refl s))))

include h in
theorem execSpawn_keeps {k : BitVec 4} {a b : BitVec 7} (step : execSpawn k a b s = .next t) (free : NoFaultYet t) : ValuesKept s t :=
  runControl_keeps h step free (valuesKept_issueOp (valuesKept_bump (valuesKept_flagIssue (valuesKept_refl s))))

include h in
theorem execSignal_keeps {a b : BitVec 7} (step : execSignal a b s = .next t) (free : NoFaultYet t) : ValuesKept s t :=
  runControl_keeps h step free
    (valuesKept_modPath (valuesKept_issueOp (valuesKept_bump (issued_clampScope (issued_refl s)).valuesKept)))

include h in
theorem execLcmp_keeps {r : BitVec 11} (step : execLcmp r s = .next t) (free : NoFaultYet t) : ValuesKept s t := by
  refine runControl_keeps h step free (gives_ite (valuesKept_refl s) (gives_ite trivial ?_))
  split
  · trivial
  · exact valuesKept_bump (valuesKept_refl s)

include h in
theorem exec_c_idle {i : Instr} (control : isControl i = true) (guard : c.controlGuard = false) : exec i s = .next s := by
  cases i
  case br | brp | brs | brf | brm | call | ret | jmpi | loop | pushm | invm | popm | setm | split | join | regroup | rdsr | wrsr |
      waitf | clrf | bar | sasht | sashp | waitc | spawn | exit | trap | bkpt | rdsys | wrsys | lcmp | waithem | signal |
      dbgsplit | step | dbgres => exact runControl_idle h guard
  case sadd | ssub | smul | sand | sor | sxor | sshl | sshr | ssar | ssel | smulh | smin | smax | scmp | smov | sdivu | saddi |
      sandi | sori | sshli | sshri | sli | slih | slix | sliy => exact runControl_idle h guard
  all_goals nomatch control

/-- What is claimed of a control instruction: BRF and WAITF observe flags, REGROUP moves values, EXIT may end its team, and WRSYS
writes the device; the others keep every value. -/
def ControlKeeps (s t : State) : Instr → Prop
  | .brf _ _ | .waitf _ _ | .regroup _ _ | .exit | .wrsys _ _ => True
  | _ => ValuesKept s t

include h in
theorem exec_c_keeps {i : Instr} (control : isControl i = true) (step : exec i s = .next t) (free : NoFaultYet t) :
    ControlKeeps s t i := by
  have same := valuesKept_refl s
  cases i
  case br | brm => exact runControl_keeps h step free (valuesKept_branchRun same)
  case brp | brs => exact runControl_keeps h step free (valuesKept_bump (valuesKept_branchRun same))
  case call => exact execCall_keeps h step free
  case ret | jmpi => exact runControl_keeps h step free (indirect_gives s c _)
  case loop => exact execLoop_keeps h step free
  case pushm => exact execPushm_keeps h step free
  case invm | popm | setm => exact stackRun_keeps h step free
  case split => exact execSplit_keeps h step free
  case join => exact execJoin_keeps h step free
  case sadd | ssub | smul | sand | sor | sxor | sshl | sshr | ssar | ssel | smulh | smin | smax | scmp | smov | sdivu | saddi |
      sandi | sori | sshli | sshri | sli | slih | slix | sliy => exact scalarRun_keeps h step free
  case rdsr => exact runControl_keeps h step free (valuesKept_land same)
  case wrsr => exact execWrsr_keeps h step free
  case clrf => exact runControl_keeps h step free (valuesKept_modTeam same fun _ => ⟨rfl, rfl, rfl, rfl⟩)
  case bar => exact execBar_keeps h step free
  case sasht => exact runControl_keeps h step free (valuesKept_ite same (valuesKept_holdPath same))
  case sashp => exact execSashp_keeps h step free
  case waitc => exact execWaitc_keeps h step free
  case spawn => exact execSpawn_keeps h step free
  case trap => exact runControl_keeps h step free trivial
  case bkpt => exact runControl_keeps h step free (gives_ite (valuesKept_modPath same) same)
  case rdsys => exact runControl_keeps h step free (gives_ite trivial (valuesKept_holdFor same))
  case lcmp r => exact execLcmp_keeps (r := r) h step free
  case waithem => exact runControl_keeps h step free (valuesKept_bump (valuesKept_ite same (valuesKept_holdPath same)))
  case signal => exact execSignal_keeps h step free
  case dbgsplit => exact dbgForm_keeps h (.inr (.inr rfl)) step free
  case step => exact dbgForm_keeps h (.inr (.inl rfl)) step free
  case dbgres => exact dbgForm_keeps h (.inl rfl) step free
  case brf | waitf | regroup | exit | wrsys => trivial
  all_goals nomatch control

end Control

/-- Settles O24: a memory or X slot by its instruction's effect (`Issued`), a control slot by its guard and its effect on values. -/
theorem slotFrames : Obligations.SlotFrames := by
  unfold Obligations.SlotFrames
  refine ⟨fun i s c h => ⟨exec_m_idle h, exec_x_idle h, fun t slot step _ free => ?_⟩,
    fun i s c control h => ⟨exec_c_idle h control, fun t step _ free => exec_c_keeps h control step free⟩⟩
  have issued : Issued s t ∨ Issued (followed s c i) t := by
    rcases slot with memory | command
    · exact exec_m_issued h memory step free
    · exact .inl (exec_x_issued h command step free)
  rcases issued with kept | kept
  · exact ⟨.inl kept.regsKept, fun _ => .inl kept.sameBytes⟩
  · exact ⟨.inr kept.regsKept, fun _ => .inr kept.sameBytes⟩

end Sys2Proof.Machine
end
